-- ==== Sys2Proof/Word.lean ====
section
/-!
DEFINITION. The machine's words: the bytes, register words and register pairs of the K7 and the names for them that
every other file uses (12 R315, 06 R154). Multi-byte values are little-endian (12 R315, 07 R194).
-/
namespace Sys2Proof

/-- A byte of memory (12 R315). -/
abbrev Byte := BitVec 8

/-- A register word, an instruction word or a literal (12 R315, 06 R154). -/
abbrev Word := BitVec 32

/-- The value of a register pair, low word in the even register (06 R154, Table 6.1). -/
abbrev Word64 := BitVec 64

/-- A 256-bit record image or hash (07 R194, 12 R332). -/
abbrev Word256 := BitVec 256

/-- A 512-bit shape register (10 R285). -/
abbrev Word512 := BitVec 512

/-- The pair of a low and a high word. -/
def pair (lo hi : Word) : Word64 := hi ++ lo

/-- The low word of a pair. -/
def loWord (x : Word64) : Word := x.extractLsb' 0 32

/-- The high word of a pair. -/
def hiWord (x : Word64) : Word := x.extractLsb' 32 32

/-- Bits [hi:lo] of a number, as a number (00 R2). -/
def bitsOf (x : Nat) (hi lo : Nat) : Nat := (x >>> lo) % 2 ^ (hi + 1 - lo)

/-- Rounds a quotient up. -/
def ceilDiv (a b : Nat) : Nat := (a + b - 1) / b

end Sys2Proof
end

