-- ==== Sys2Proof/Config.lean ====
section
/-!
DEFINITION. What the spec fixes for every K7 and what it leaves open. The numbers stand here once; the free values are
opaque constants with no body, applied to a counter of the state or to the operands they depend on, so that nothing can
evaluate them (log entries 2, 3, 4, 10, 11, 12, 13).
-/
namespace Sys2Proof.Config

/-! ### Numbers of the package (01 R9, R14, R18; 05 R138; 06 R158) -/

/-- Cores of a die: 16 quads of 4 (01 R9). -/
def coresPerDie : Nat := 64
/-- Cores of a package (01 R9). -/
def cores : Nat := 512
/-- Rails of a core (01 R9). -/
def rails : Nat := 64
/-- Seats of a core: four on each rail (05 R138). -/
def seats : Nat := 256
/-- HBM channels, and L2 slices, of a package (01 R9). -/
def channels : Nat := 512
/-- Bytes of an HBM channel (01 R432). -/
def channelBytes : Nat := 2 ^ 31
/-- Bytes of device-physical memory (01 R432). -/
def physBytes : Nat := 2 ^ 40
/-- Bytes of a 2 MiB region (01 R432, 03 R75). -/
def regionBytes : Nat := 2 ^ 21
/-- Bytes of the smallest page (07 R210). -/
def pageBytes : Nat := 2 ^ 16
/-- Cycles of a frame (00 R3). -/
def frameCycles : Nat := 1000
/-- Context lines of a Mantle bank (06 R158). -/
def bankLines : Nat := 704
/-- Lines of a Mantle bank that may be locked (06 R159). -/
def bankLocks : Nat := 576
/-- The generation of the K7 (12 R327). -/
def generation : Nat := 1
/-- The feature mask of the K7 (12 R327). -/
def features : Nat := 0

/-! ### Free values -/

/-- FREE VALUE (06 R168, 00 R6): what a read of a register that an outstanding long-latency operation will write
returns; the counter, the register and the lane tell the draws apart. -/
opaque unpredictable : Nat → Nat → Nat → Word

/-- FREE VALUE (06 R168): of two outstanding writes to one register, whether the one that completes second is kept. -/
opaque keepLater : Nat → Nat → Bool

/-- FREE VALUE (01 R433): the cycles of a wait or a run that the frames passed so far do not count. -/
opaque freeCycles : Nat → Nat

/-- FREE VALUE (01 R433): what a counter of cycles spent waiting shows, by draw and by the frames in which a wait was found. -/
opaque freeCharge : Nat → Nat → Nat

/-- FREE VALUE (14 R394): the last-place choice of an approximate function, by function, type and operand bits; the
result is kept within the bound of Table 14.7 whatever this gives. -/
opaque approxPick : Nat → Nat → Word64 → Nat

/-- FREE VALUE (08 R238): whether a fetch takes a copy the instruction cache may still hold. -/
opaque fetchHits : Nat → Bool

/-- FREE VALUE (03 R72): the set of an L2 slice that a line address falls in; the spec gives no indexing. -/
opaque l2Set : Nat → Nat

/-- FREE VALUE (04 R113): the one-way transit N between a core and a home slice, reported by Garnet. -/
opaque transit : Nat → Nat → Nat

/-- FREE VALUE (04 R110): whether a network hop that the spec gives no route for cannot take an admission, and its
binary resource code. -/
opaque hopRefuses : Nat → Nat → Option Nat

/-- FREE VALUE (04 R100): the handle of the n-th installation; the device makes it non-zero and unique. -/
opaque handleOf : Nat → Word

/-- FREE VALUE (03 R82): an SPDM answer's contents or a signature; the spec names the standard and gives no bytes. -/
opaque spdmBytes : Nat → Nat → Word256

/-- FREE VALUE (03 R86): the contents of dump bytes whose inner layout the spec does not give (Table 3.21). -/
opaque dumpOpen : Nat → Nat → Byte

/-- FREE VALUE (03 R55, R89): what a host access reads where the spec gives no byte: a poisoned line, or memory of another key. -/
opaque hostByte : Nat → Nat → Byte

/-- FREE VALUE (03 Table 3.19): the offset that an event gives for a line that lies in no region of its function's pool list. -/
opaque unlistedOffset : Nat → Nat

/-- FREE VALUE (03 R87): the event record of a further fatal error, by draw and field; the spec gives it no code. -/
opaque fatalEvent : Nat → Nat → Nat

/-- FREE VALUE (07 R217): what an engine reads at a byte of a record's flat range that lies outside the workgroup's
scratchpad; the spec bounds only the lanes of an instruction there (R198). -/
opaque spadOutside : Nat → Nat → Byte

/-- FREE VALUE (07 R211): the entry a full translation cache drops; no access can show it. -/
opaque tlbDrops : Nat → Nat

/-- FREE VALUE (07 R208): whether a far line lies in a way that a change of FAR gives up; the spec places no line in a way. -/
opaque farLeaves : Nat → Bool

/-- FREE VALUE (06 R176, R181): the address of a partition's default handler; the spec gives none. -/
opaque defaultEntry : Nat → Word64

/-- FREE VALUE (03 R91): which of a pool's free pages the device takes. -/
opaque poolPick : Nat → Nat

end Sys2Proof.Config
end

