-- ==== Sys2Proof/Syntax.lean ====
section
/-!
DEFINITION. The abstract syntax: one constructor for each row of the opcode table. The 173 instructions carry the
three raw bytes of their word (12 R315), because an out-of-range field is no decoding error: it traps when the word
issues, in the order of R319, by rules that depend on the group's state (R316 to R319). The other 121 rows are steps of
the machine's other agents (95); they have no word, and each
carries what the step needs from outside the machine. A step whose subject is only a number of something the machine
holds (an operation, a core, a group) takes it from the turn that moves it (State's `turn`), so those constructors
stand last and carry nothing.
-/
namespace Sys2Proof

/-- A supply, or a set of supplies that come up together, in power-up order (01 R11). -/
inductive Supply where
  | vaux | vbase | vhbm | vcore | vopt
deriving DecidableEq, Repr

/-- What bring-up finds (01 R16, R17): the step that fails, if one does, the measured hashes, the channels that fail
training, the sub-arrays (core, i, j) that fail the die self-test, and the package's coordinates and the packages of the pod
that the ports discover (step 8, 02 R20). -/
structure BringUpReport where
  failedStep   : Option Nat
  holbiongHash : Word256
  firmwareHash : Word256
  untrained    : List Nat
  failing      : List (Nat × Nat × Nat)
  row          : Nat
  column       : Nat
  peers        : List Nat
deriving DecidableEq, Repr

/-- A control frame of a plane (02 R25): the sender's frame number, its ROTCFG, its pause mask by source position, the
acknowledged lines by their sender's numbers, and the failed import checks by request number (07 R214). -/
structure ControlFrame where
  frame   : Nat
  rotcfg  : Word
  pause   : BitVec 64
  acks    : List Nat
  refused : List Nat
  aligned : Bool
deriving DecidableEq, Repr

/-- The operation of an atomic at its home (09 Table 9.4). -/
inductive AtomOp where
  | add | minS | minU | maxS | maxU | and | or | xor | xchg | cas | fadd
deriving DecidableEq, Repr

/-- What a flit asks of its target (02 R23, R40; 07 R213): a line of a fabric-send transfer, a remote store's bytes, a
read of a line, or an atomic with its rounding (09 R254). -/
inductive FlitKind where
  | sendLine
  | store
  | load
  | atomic (op : AtomOp) (size rnd : Nat) (operand compare : Word64)
deriving DecidableEq, Repr

/-- A flit (02 R23, R25): the sender's package id, the fabric address, the class, the request's key, the byte mask and
the line's bytes, and the sender's number for it. -/
structure Flit where
  source   : Nat
  addr     : Word64
  reserved : Bool
  kind     : FlitKind
  key      : Word
  mask     : BitVec 128
  data     : List Byte
  number   : Nat
deriving DecidableEq, Repr

/-- What a peer package answers to a remote request (07 R209, R213, R214): the bytes, or a failed import check. -/
inductive RemoteAnswer where
  | none
  | bytes (data : List Byte)
  | refused
deriving DecidableEq, Repr

/-- Where a launch packet comes from (03 R60, 05 R136): a host queue of a function, or its device launch queue. -/
inductive PacketSource where
  | host (vf queue : Nat)
  | device (vf : Nat)
deriving DecidableEq, Repr

/-- What reaches a barrier object (09 R241): the arrival of an operation, landed bytes waiting to be counted, or an
arrival of a peer package at a pod object. -/
inductive CountSource where
  | arrival (op : Nat)
  | landed (number : Nat)
  | peer (unit index arrivals : Nat)
deriving DecidableEq, Repr

/-- What a collective step takes from the other packages (02 R50): their folded chunks in column or row order, with
whether each passes its checksum and whether its checksum could be checked (R52, R53). -/
structure PeerChunk where
  parts     : List (List Byte)
  checkOk   : Bool
  unchecked : Bool
deriving DecidableEq, Repr

/-- One constructor for each row of the opcode table. -/
inductive Instr where
  /-- NOP (R357): No operation. -/
  | nop (n : BitVec 24)
  /-- BRK (R357): Breakpoint: traps BRK. -/
  | brk (n : BitVec 24)
  /-- EXIT (R359): Waits for all flags, releases at pkg scope and retires the group, or kills it in a handler. -/
  | exit (d a b : Byte)
  /-- SWTRAP (R358): Software trap carrying a 24-bit code. -/
  | swtrap (d a b : Byte)
  /-- TRET (R362): Returns from the handler with retry or skip. -/
  | tret (d a b : Byte)
  /-- CTXRD (R369): Privileged read of a word, line or seat entry of a group's context. -/
  | ctxrd (d a b : Byte)
  /-- CTXWR (R370): Privileged write of a word or line of a group's context. -/
  | ctxwr (d a b : Byte)
  /-- CTXCTL (R371): Suspends, resumes or kills a group of the workgroup. -/
  | ctxctl (d a b : Byte)
  /-- SETMODE (R363): Writes its literal to MODE. -/
  | setmode (d a b : Byte)
  /-- MODESET (R363): Writes one field of MODE. -/
  | modeset (d a b : Byte)
  /-- SYSV (R364): Reads a system value. -/
  | sysv (d a b : Byte)
  /-- RDFPS (R365): Reads FPSTAT or the group flags. -/
  | rdfps (d a b : Byte)
  /-- WRFPS (R365): Writes or clears FPSTAT, the group flags or DEADSRC. -/
  | wrfps (d a b : Byte)
  /-- RDCNT (R366): Reads a 64-bit counter named by its literal. -/
  | rdcnt (d a b : Byte)
  /-- PGMAP (R374): Maps a page from the tenant's pool. -/
  | pgmap (d a b : Byte)
  /-- PGUNMAP (R375): Unmaps a page and returns it to its pool. -/
  | pgunmap (d a b : Byte)
  /-- BRA (R353): Unconditional branch to a literal target. -/
  | bra (d a b : Byte)
  /-- BRU (R353): Branch on a zero or non-zero condition. -/
  | bru (d a b : Byte)
  /-- IFNZ (R356): Saves EXEC and narrows it to the lanes with a non-zero condition. -/
  | ifnz (d a b : Byte)
  /-- ELSE (R356): Sets EXEC to the saved mask less the current EXEC. -/
  | elseOp (d a b : Byte)
  /-- ENDIF (R356): Restores EXEC from the saved mask. -/
  | endif (d a b : Byte)
  /-- BRNONE (R353): Branches when no live lane is in EXEC. -/
  | brnone (d a b : Byte)
  /-- CALL (R354): Writes the link and branches. -/
  | call (d a b : Byte)
  /-- RET (R354): Branches to TextBase plus a register offset. -/
  | ret (d a b : Byte)
  /-- LOOP (R353): Decrements a count and branches while it is non-zero. -/
  | loop (d a b : Byte)
  /-- FWAIT (R360): Stalls until the named flags clear. -/
  | fwait (d a b : Byte)
  /-- YIELD (R361): Lets another seated group's clause start first. -/
  | yield (d a b : Byte)
  /-- BRX (R354): Indirect branch to TextBase plus a register offset. -/
  | brx (d a b : Byte)
  /-- IADD (R350): Integer add. -/
  | iadd (d a b : Byte)
  /-- ISUB (R350): Integer subtract. -/
  | isub (d a b : Byte)
  /-- IMUL (R350): Integer multiply. -/
  | imul (d a b : Byte)
  /-- IMULH (R349): High half of an integer product. -/
  | imulh (d a b : Byte)
  /-- IMIN (R349): Integer minimum. -/
  | imin (d a b : Byte)
  /-- IMAX (R349): Integer maximum. -/
  | imax (d a b : Byte)
  /-- IABS (R377): Integer absolute value. -/
  | iabs (d a b : Byte)
  /-- INEG (R377): Integer negation. -/
  | ineg (d a b : Byte)
  /-- IAND (R349): Bitwise and. -/
  | iand (d a b : Byte)
  /-- IOR (R349): Bitwise or. -/
  | ior (d a b : Byte)
  /-- IXOR (R349): Bitwise xor. -/
  | ixor (d a b : Byte)
  /-- INOT (R349): Bitwise not. -/
  | inot (d a b : Byte)
  /-- SHR (R377): Logical shift right. -/
  | shr (d a b : Byte)
  /-- SHL (R377): Shift left. -/
  | shl (d a b : Byte)
  /-- SAR (R377): Arithmetic shift right. -/
  | sar (d a b : Byte)
  /-- ROTL (R377): Rotate left. -/
  | rotl (d a b : Byte)
  /-- BFX (R378): Bit-field extract. -/
  | bfx (d a b : Byte)
  /-- BFI (R378): Bit-field insert. -/
  | bfi (d a b : Byte)
  /-- POPC (R349): Population count. -/
  | popc (d a b : Byte)
  /-- CLZ (R349): Count leading zeros. -/
  | clz (d a b : Byte)
  /-- BREV (R349): Bit reverse. -/
  | brev (d a b : Byte)
  /-- IMAD (R350): Integer multiply-add. -/
  | imad (d a b : Byte)
  /-- IDIV (R379): Integer divide. -/
  | idiv (d a b : Byte)
  /-- IREM (R379): Integer remainder. -/
  | irem (d a b : Byte)
  /-- ICMPEQ (R380): Integer compare equal. -/
  | icmpeq (d a b : Byte)
  /-- ICMPNE (R380): Integer compare not equal. -/
  | icmpne (d a b : Byte)
  /-- ICMPLT (R380): Integer compare less than. -/
  | icmplt (d a b : Byte)
  /-- ICMPLE (R380): Integer compare less or equal. -/
  | icmple (d a b : Byte)
  /-- ICMPGT (R380): Integer compare greater than. -/
  | icmpgt (d a b : Byte)
  /-- ICMPGE (R380): Integer compare greater or equal. -/
  | icmpge (d a b : Byte)
  /-- SEL (R380): Selects a or b by the old value of d. -/
  | sel (d a b : Byte)
  /-- MOV (R381): Copies a register, or pushes to or pops from a queue. -/
  | mov (d a b : Byte)
  /-- MOVL (R381): Moves a literal into a register. -/
  | movl (d a b : Byte)
  /-- MOVI (R381): Moves a 16-bit immediate into a register. -/
  | movi (d a b : Byte)
  /-- MOVIH (R381): Sets the high half of a register from an immediate. -/
  | movih (d a b : Byte)
  /-- IADDL (R381): Adds a literal. -/
  | iaddl (d a b : Byte)
  /-- IMULL (R381): Multiplies by a literal. -/
  | imull (d a b : Byte)
  /-- IANDL (R381): Ands with a literal. -/
  | iandl (d a b : Byte)
  /-- IORL (R381): Ors with a literal. -/
  | iorl (d a b : Byte)
  /-- IXORL (R381): Xors with a literal. -/
  | ixorl (d a b : Byte)
  /-- MOV64 (R381): Copies a register pair. -/
  | mov64 (d a b : Byte)
  /-- MOVL64 (R381): Moves two literals into a register pair. -/
  | movl64 (d a b : Byte)
  /-- GETEXEC (R356): Reads EXEC. -/
  | getexec (d a b : Byte)
  /-- SETEXEC (R356): Writes EXEC, masked by EXIST. -/
  | setexec (d a b : Byte)
  /-- FADD (R386): Floating add. -/
  | fadd (d a b : Byte)
  /-- FSUB (R386): Floating subtract. -/
  | fsub (d a b : Byte)
  /-- FMUL (R386): Floating multiply. -/
  | fmul (d a b : Byte)
  /-- FMA (R387): Fused multiply-add x × y + z. -/
  | fma (d a b : Byte)
  /-- FMS (R387): Fused x × y − z. -/
  | fms (d a b : Byte)
  /-- FNMA (R387): Fused −(x × y) − z. -/
  | fnma (d a b : Byte)
  /-- FNMS (R387): Fused −(x × y) + z. -/
  | fnms (d a b : Byte)
  /-- FMAL (R387): Fused x × y + literal. -/
  | fmal (d a b : Byte)
  /-- FDIV (R388): Floating divide. -/
  | fdiv (d a b : Byte)
  /-- FSQRT (R388): Floating square root. -/
  | fsqrt (d a b : Byte)
  /-- FMAX (R389): NaN-propagating maximum. -/
  | fmax (d a b : Byte)
  /-- FMIN (R389): NaN-propagating minimum. -/
  | fmin (d a b : Byte)
  /-- FMAXN (R389): maximumNumber. -/
  | fmaxn (d a b : Byte)
  /-- FMINN (R389): minimumNumber. -/
  | fminn (d a b : Byte)
  /-- FABS (R390): Clears the sign bit. -/
  | fabs (d a b : Byte)
  /-- FNEG (R390): Inverts the sign bit. -/
  | fneg (d a b : Byte)
  /-- FEXP2 (R394): Approximate 2^x. -/
  | fexp2 (d a b : Byte)
  /-- FLOG2 (R394): Approximate log2 x. -/
  | flog2 (d a b : Byte)
  /-- FRSQ (R394): Approximate reciprocal square root. -/
  | frsq (d a b : Byte)
  /-- FCPYS (R390): Copies the sign of b onto a. -/
  | fcpys (d a b : Byte)
  /-- FCEQ (R391): Float compare equal. -/
  | fceq (d a b : Byte)
  /-- FCNE (R391): Float compare not equal or unordered. -/
  | fcne (d a b : Byte)
  /-- FCLT (R391): Float compare less than. -/
  | fclt (d a b : Byte)
  /-- FCLE (R391): Float compare less or equal. -/
  | fcle (d a b : Byte)
  /-- REDUCE (R400): Reduces a over the active lanes. -/
  | reduce (d a b : Byte)
  /-- SCAN (R400): Inclusive or exclusive scan over the active lanes. -/
  | scan (d a b : Byte)
  /-- SHFL (R401): Shuffle by a per-lane index. -/
  | shfl (d a b : Byte)
  /-- SHFLUP (R401): Shuffle up by δ. -/
  | shflup (d a b : Byte)
  /-- SHFLDN (R401): Shuffle down by δ. -/
  | shfldn (d a b : Byte)
  /-- SHFLX (R401): Shuffle by lane xor. -/
  | shflx (d a b : Byte)
  /-- VOTE (R402): All, any, uniform or ballot vote. -/
  | vote (d a b : Byte)
  /-- MATCH (R403): Masks of lanes with equal operands. -/
  | matchOp (d a b : Byte)
  /-- FENCE (R418): Acquire, release or acquire-release fence at a scope. -/
  | fence (d a b : Byte)
  /-- IFENCE (R419): Releases at die scope, waits for the group's transfers and invalidates the instruction cache. -/
  | ifence (d a b : Byte)
  /-- CVT (R395): Converts between MODE.TYPE and a named format. -/
  | cvt (d a b : Byte)
  /-- FCPACK (R397): Packs 16 lanes into a Facet block. -/
  | fcpack (d a b : Byte)
  /-- FCUNPK (R398): Unpacks a Facet block into 16 lanes. -/
  | fcunpk (d a b : Byte)
  /-- FCLASS (R391): Classifies a float. -/
  | fclass (d a b : Byte)
  /-- FRINT (R392): Rounds to an integral value. -/
  | frint (d a b : Byte)
  /-- FSCALE (R393): Computes x × 2^n. -/
  | fscale (d a b : Byte)
  /-- FLOGB (R393): Exponent of x. -/
  | flogb (d a b : Byte)
  /-- FCUN (R391): Float compare unordered. -/
  | fcun (d a b : Byte)
  /-- FRCP (R394): Approximate reciprocal. -/
  | frcp (d a b : Byte)
  /-- LD32 (R411): Loads a 4-byte word through a record. -/
  | ld32 (d a b : Byte)
  /-- LDA32 (R412): Loads a word and acquires at the record's scope. -/
  | lda32 (d a b : Byte)
  /-- LD8 (R411): Loads a byte, zero-extended. -/
  | ld8 (d a b : Byte)
  /-- LD8S (R411): Loads a byte, sign-extended. -/
  | ld8s (d a b : Byte)
  /-- LD16 (R411): Loads 2 bytes, zero-extended. -/
  | ld16 (d a b : Byte)
  /-- LD16S (R411): Loads 2 bytes, sign-extended. -/
  | ld16s (d a b : Byte)
  /-- LD64 (R411): Loads 8 bytes into a pair. -/
  | ld64 (d a b : Byte)
  /-- LD128 (R411): Loads 16 bytes into a quad. -/
  | ld128 (d a b : Byte)
  /-- ST32 (R413): Stores a word into the pending-store buffer. -/
  | st32 (d a b : Byte)
  /-- STL32 (R414): Stores a word with a release at the record's scope. -/
  | stl32 (d a b : Byte)
  /-- ST8 (R413): Stores a byte. -/
  | st8 (d a b : Byte)
  /-- ST16 (R413): Stores 2 bytes. -/
  | st16 (d a b : Byte)
  /-- ST64 (R413): Stores a pair. -/
  | st64 (d a b : Byte)
  /-- ST128 (R413): Stores a quad. -/
  | st128 (d a b : Byte)
  /-- RECWR (R415): Writes an allowance record image into a slot. -/
  | recwr (d a b : Byte)
  /-- RECRD (R415): Reads a record slot into eight registers. -/
  | recrd (d a b : Byte)
  /-- ARRIVE (R420): Releases and arrives at a barrier object. -/
  | arrive (d a b : Byte)
  /-- WAITP (R420): Waits for a barrier phase and acquires. -/
  | waitp (d a b : Byte)
  /-- BARINIT (R420): Sets a barrier object's expected counts. -/
  | barinit (d a b : Byte)
  /-- BARTEST (R420): Tests whether a phase has completed and acquires if so. -/
  | bartest (d a b : Byte)
  /-- ARRIVEX (R420): Arrives and requests m more bytes for the phase. -/
  | arrivex (d a b : Byte)
  /-- AOR32 (R416): Atomic or with return. -/
  | aor32 (d a b : Byte)
  /-- AXOR32 (R416): Atomic xor with return. -/
  | axor32 (d a b : Byte)
  /-- TKT (R421): Takes tickets from a Beryl dispenser. -/
  | tkt (d a b : Byte)
  /-- TWAIT (R421): Waits until SERVING reaches a ticket and acquires at die scope. -/
  | twait (d a b : Byte)
  /-- TSERVE (R421): Releases at die scope and increments SERVING. -/
  | tserve (d a b : Byte)
  /-- QSTAT (R422): Reads the depth and count of a queue. -/
  | qstat (d a b : Byte)
  /-- LEASE (R428): Requests channels to a destination. -/
  | lease (d a b : Byte)
  /-- UNLEASE (R428): Requests draining of channels to a destination. -/
  | unlease (d a b : Byte)
  /-- LEASEQ (R430): Queries the pool's channel counts. -/
  | leaseq (d a b : Byte)
  /-- SLOTSET (R431): Writes one slot-table entry of the pool. -/
  | slotset (d a b : Byte)
  /-- CAS32 (R416): 32-bit compare-and-swap. -/
  | cas32 (d a b : Byte)
  /-- CAS64 (R416): 64-bit compare-and-swap. -/
  | cas64 (d a b : Byte)
  /-- XCHG32 (R416): Atomic exchange. -/
  | xchg32 (d a b : Byte)
  /-- AADD32 (R416): Atomic 32-bit add with return. -/
  | aadd32 (d a b : Byte)
  /-- AADD64 (R416): Atomic 64-bit add with return. -/
  | aadd64 (d a b : Byte)
  /-- AMIN32 (R416): Atomic minimum with return. -/
  | amin32 (d a b : Byte)
  /-- AMAX32 (R416): Atomic maximum with return. -/
  | amax32 (d a b : Byte)
  /-- AAND32 (R416): Atomic and with return. -/
  | aand32 (d a b : Byte)
  /-- RADD32 (R416): 32-bit add reduction without return. -/
  | radd32 (d a b : Byte)
  /-- RADD64 (R416): 64-bit add reduction without return. -/
  | radd64 (d a b : Byte)
  /-- RMIN32 (R416): Minimum reduction without return. -/
  | rmin32 (d a b : Byte)
  /-- RMAX32 (R416): Maximum reduction without return. -/
  | rmax32 (d a b : Byte)
  /-- RAND32 (R416): And reduction without return. -/
  | rand32 (d a b : Byte)
  /-- ROR32 (R416): Or reduction without return. -/
  | ror32 (d a b : Byte)
  /-- RXOR32 (R416): Xor reduction without return. -/
  | rxor32 (d a b : Byte)
  /-- MMA (R423): Matrix multiply-accumulate into a tile. -/
  | mma (d a b : Byte)
  /-- ACCLD (R424): Loads tile rows from a record. -/
  | accld (d a b : Byte)
  /-- ACCST (R424): Stores tile rows through a record, optionally releasing the tile. -/
  | accst (d a b : Byte)
  /-- ACCZ (R424): Zeroes or releases a tile. -/
  | accz (d a b : Byte)
  /-- OBCLAIM (R425): Claims an operand-buffer range. -/
  | obclaim (d a b : Byte)
  /-- OBREL (R425): Frees an operand-buffer record. -/
  | obrel (d a b : Byte)
  /-- PERTURB (R426): Sets the core's pending perturbation. -/
  | perturb (d a b : Byte)
  /-- SETSHAPE (R427): Writes a shape request and runs Grant. -/
  | setshape (d a b : Byte)
  /-- LDSHAPE (R427): Loads a shape register image and regrants it. -/
  | ldshape (d a b : Byte)
  /-- STSHAPE (R427): Stores a shape register. -/
  | stshape (d a b : Byte)
  /-- SHFIELD (R427): Writes one field of a shape register. -/
  | shfield (d a b : Byte)
  /-- GETSHAPE (R427): Reads one field of a shape register. -/
  | getshape (d a b : Byte)
  /-- POWER_SUPPLY_RAMP (R11): A supply reaches 95 % of its nominal value, and the next supply in the order VAUX, VBASE, VHBM with VHBMQ, VCORE0–7, VOPT starts. -/
  | powerSupplyRamp (supply : Supply)
  /-- SUPPLY_WINDOW_MISSED (R11): A supply fails to reach 95 % within 2 ms of starting; RSTN_PWR stays asserted and Holbiong logs the supply name. -/
  | supplyWindowMissed (supply : Supply)
  /-- BRING_UP (R16): After power-on reset, the nine bring-up steps run in order; a failing step stops the sequence and Holbiong reports its number. -/
  | bringUp (report : BringUpReport)
  /-- THERMAL_GATE (R13): A junction of a compute die reaches 95 °C; Holbiong gates issue on every core of the die and raises host event 0x10. -/
  | thermalGate (die celsius : Nat)
  /-- THERMAL_GATE_RELEASE (R13): Every junction of a gated die has fallen below 90 °C; Holbiong releases the gate and raises host event 0x11. -/
  | thermalGateRelease (die celsius : Nat)
  /-- THERMAL_SHUTDOWN (R13): A junction reaches 105 °C; Holbiong raises event 0x12, gates every die, writes the thermal shutdown record to flash and removes power within 10 ms. -/
  | thermalShutdown (die celsius : Nat)
  /-- CONTROL_FRAME_RECEIVE (R25): A package takes a control frame from another position of a plane. -/
  | controlFrameReceive (port source : Nat) (frame : ControlFrame)
  /-- ROTCFG_WRITE (R32): A write to ROTCFG is checked; an invalid value is ignored and raises fabric event 5, and a valid one is held for the next rotation boundary. -/
  | rotcfgWrite (value : Word)
  /-- FLIT_RECEIVE (R40): A flit lands at its target, where it is checked, written to its home slices and counted on its barrier object. -/
  | flitReceive (port : Nat) (flit : Flit)
  /-- RELAY_FORWARD (R24): An intermediate package's fabric interface relays a flit from the row plane onto a relay laser of its column plane. -/
  | relayForward (port : Nat) (flit : Flit)
  /-- FABRIC_EVENT_DELIVER (R43): The oldest word of an installation's event buffer moves to q11 of the chosen seated group when that q11 has room. -/
  | fabricEventDeliver (handle : Word)
  /-- CXL_MEM_ACCESS (R55): Physical function 0 accesses key-0 device memory through the HDM decoder range. -/
  | cxlMemAccess (write : Bool) (addr : Nat) (bytes : List Byte)
  /-- VF_ENABLE (R58): A VFCTL write sets EN and enables the virtual function, or is ignored with host event 0x31. -/
  | vfEnable (vf : Nat) (value : Word)
  /-- VF_DISABLE (R58): A VFCTL write takes EN from 1 to 0, which destroys the key, discards queued launches and removes the tenant's installations. -/
  | vfDisable (vf : Nat) (value : Word)
  /-- VF_BANKS_SET (R68): A non-zero BANKS write makes a queued tenant resident. -/
  | vfBanksSet (vf : Nat) (value : Word)
  /-- VF_BANKS_CLEAR (R68): BANKS := 0 on a gated tenant starts swap-out and unseats its groups; on a resident tenant the write is ignored with event 0x31. -/
  | vfBanksClear (vf : Nat) (value : Word)
  /-- VF_GATE_SET (R69): GATE := 1 stops issue on every rail of the tenant in the next cycle. -/
  | vfGateSet (vf : Nat) (value : Word)
  /-- VF_GATE_CLEAR (R68): GATE := 0 returns a gated tenant to resident. -/
  | vfGateClear (vf : Nat) (value : Word)
  /-- LQ_ENABLE (R59): Setting LQCFG.EN sets LQHEAD to the tail index read at that moment and starts holding the tail line. -/
  | lqEnable (vf queue : Nat) (value : Word)
  /-- LQ_ERR_CLEAR (R61): Clearing ERR resumes a stopped launch queue from LQHEAD. -/
  | lqErrClear (vf queue : Nat) (value : Word)
  /-- TAIL_SNOOP (R60): A host write snoops the tail line away from the launch unit. -/
  | tailSnoop (addr : Nat) (bytes : List Byte)
  /-- TAIL_REFETCH (R60): Within 500 ns of a snoop, the launch unit reads the tail line again and takes word 0 as the new tail. -/
  | tailRefetch (vf queue : Nat)
  /-- LAUNCH_PACKET_START (R65): The launch unit takes a ready packet, checks it and starts the launch, or writes status 4 for a rejected packet. -/
  | launchPacketStart (source : PacketSource) (linkOk : Bool)
  /-- PARTCFG_WRITE (R66): A PARTCFG write sets a partition's validity, ASHARE and dies, or is ignored with host event 0x32; a change of DIES acts as a partition reset. -/
  | partcfgWrite (partition : Nat) (value : Word)
  /-- PARTITION_RESET (R93): A PARTCMD write with RESET = 1 gates the partition's tenants, removes its installations and frees its leases, barriers and dispensers. -/
  | partitionReset (value : Word)
  /-- FIREWALL_DROP (R67): A flit meets a closed die-to-die crossing; it is dropped, FWDROP counts it and host event 0x33 is raised. -/
  | firewallDrop (source target : Nat)
  /-- REGBIND_BIND (R90): A REGBIND write with GO = 1 binds a 2 MiB region to a key id, marks it unscrubbed and queues it, or is refused with a status. -/
  | regbindBind (value : Word64)
  /-- POISON_DETECT (R78): An uncorrectable error in a line at its home marks it poisoned in L2 and HBM and sends the event records of R79 or R80. -/
  | poisonDetect (addr : Nat)
  /-- LINEFILL (R92): An LFCMD write with GO = 1 writes LFDATA to a poisoned share-key line and clears its poison, or is refused with a status. -/
  | linefill (value : Word)
  /-- POOL_LIST_READ (R91): A POOLCOUNT write makes the device read a function's pool list, skipping bad entries with host event 0x3C. -/
  | poolListRead (vf : Nat) (value : Word)
  /-- BAR2_ACCESS (R89): A host access through a BAR2 aperture reaches the function's device memory under its key, or reads 0 beyond the length. -/
  | bar2Access (vf : Nat) (write : Bool) (offset : Nat) (bytes : List Byte)
  /-- DUMP_WINDOW_READ (R96): A read through aperture 3 with DUMPMAP.EN returns dump lines of the reader's own key and generation, and zeros otherwise. -/
  | dumpWindowRead (vf offset : Nat)
  /-- FATAL_ERROR_DUMP (R86): After a fatal error, firmware writes the dump, writing VALID last, or only adds an event when a valid dump exists. -/
  | fatalErrorDump (cause : Word) (die : Nat)
  /-- DUMP_CLEAR (R87): Writing 1 to DUMPCLR.CLR clears VALID and disables every DUMPMAP. -/
  | dumpClear (value : Word)
  /-- REGISTER_WRITE (R88): A write to a BAR0 register with no behaviour of its own stores the value, or is ignored when it sets an MBZ bit or hits an unlisted offset. -/
  | registerWrite (function offset : Nat) (data : List Byte)
  /-- SPDM_GET_VERSION (R82): The device answers an SPDM GET_VERSION request. -/
  | spdmGetVersion (function : Nat)
  /-- SPDM_GET_CAPABILITIES (R82): The device answers an SPDM GET_CAPABILITIES request. -/
  | spdmGetCapabilities (function : Nat)
  /-- SPDM_NEGOTIATE_ALGORITHMS (R82): The device negotiates XMSS-SHAKE256, SHAKE256 and secp384r1. -/
  | spdmNegotiateAlgorithms (function : Nat)
  /-- SPDM_GET_DIGESTS (R82): The device answers an SPDM GET_DIGESTS request. -/
  | spdmGetDigests (function : Nat)
  /-- SPDM_GET_CERTIFICATE (R82): The device answers an SPDM GET_CERTIFICATE request. -/
  | spdmGetCertificate (function : Nat)
  /-- SPDM_CHALLENGE (R82): The device signs a challenge response with its XMSS identity key. -/
  | spdmChallenge (function : Nat)
  /-- SPDM_GET_MEASUREMENTS (R84): The device returns the measurement blocks of Table 3.8 for the requesting function. -/
  | spdmGetMeasurements (function : Nat)
  /-- SPDM_KEY_EXCHANGE (R82): The device performs an SPDM KEY_EXCHANGE with DHE secp384r1. -/
  | spdmKeyExchange (function : Nat)
  /-- SPDM_FINISH (R82): The device completes an SPDM session handshake on FINISH. -/
  | spdmFinish (function : Nat)
  /-- SPDM_KEY_UPDATE (R82): The device updates the session keys on KEY_UPDATE. -/
  | spdmKeyUpdate (function : Nat)
  /-- SPDM_END_SESSION (R82): The device ends an SPDM session. -/
  | spdmEndSession (function : Nat)
  /-- SPDM_UNSUPPORTED_REQUEST (R82): Any other SPDM request is answered with ERROR, code UnsupportedRequest. -/
  | spdmUnsupportedRequest (function code : Nat)
  /-- IDE_KEY_PROGRAM (R55): IDE keys are programmed through CXL_IDE_KM inside an SPDM secured session. -/
  | ideKeyProgram (function : Nat)
  /-- INSTALL (R110): An INSTCMD write with OP = 1 makes Garnet take the image through Admit, commit or refuse it, write the report and set DONE. -/
  | install (function : Nat) (value : Word)
  /-- REMOVE (R101): An INSTCMD write with OP = 2 requests removal of the handle's installation. -/
  | remove (function : Nat) (value : Word)
  /-- REMOVE_TAKE_EFFECT (R101): Once every launch of the handle has retired, Garnet frees its slots at the next frame boundary and unpins its pages. -/
  | removeTakeEffect (handle : Word)
  /-- RESERVATION_REPLACEMENT (R120): A held resource becomes unusable, and at the next frame boundary Garnet reassigns the slots of every affected instance. -/
  | reservationReplacement (resource : Nat)
  /-- FAR_LINE_FILL (R209): A remote load misses its far line and fetches the whole line over the fabric into the far ways. -/
  | farLineFill (op line : Nat) (answer : RemoteAnswer)
  /-- L2FAR_WRITE (R208): A write to L2FAR sets the far ways per slice, to apply at the next frame boundary. -/
  | l2farWrite (partition : Nat) (value : Word)
  /-- L2FAR_TAKE_EFFECT (R208): At the frame boundary, the far lines in changing ways are written back and invalidated, and FAR applies. -/
  | l2farTakeEffect (partition : Nat)
  /-- ATOMIC_PERFORM (R234): An atomic request performs at its home and returns or acknowledges. -/
  | atomicPerform (op request : Nat) (answer : RemoteAnswer)
  /-- BARRIER_COUNT (R241): Once every home holds an arrival's entries, or bytes land, an event is counted on the object and TryComplete runs. -/
  | barrierCount (source : CountSource)
  /-- COLLECTIVE_START (R260): Spinel starts collective n once the n-th commands of all participants have arrived. -/
  | collectiveStart (handle : Word) (scope number : Nat)
  /-- COLLECTIVE_STEP (R50): A reduction or broadcast step sends a chunk on a collective laser and folds it in fixed order, with checksum checks. -/
  | collectiveStep (handle : Word) (scope number : Nat) (remote : PeerChunk)
  /-- COLLECTIVE_END (R259): A collective ends, and Spinel pushes its status word to the pusher's q9. -/
  | collectiveEnd (handle : Word) (scope number : Nat)
  /-- MATRIX_SELF_TEST (R281): When a self-test falls due, the engine's sequencer runs a 32-cycle test of every sub-array. -/
  | matrixSelfTest (core : Nat) (failing : List Nat)
  /-- DIE_WITHDRAWAL (R283): At the frame boundary after Cap(d) loses a floor bit, die d is withdrawn and its workgroups move to other cores, or the installation is lost. -/
  | dieWithdrawal (die : Nat)
  /-- POOL_ALLOTMENT (R27): The pod manager, through the hypervisor, allots to an installation's lease pool a set of channels and a list of permitted destinations, and the controller checks the list against R35. -/
  | poolAllotment (handle : Word) (channels destinations : List Nat)
  /-- PACKAGE_LEAVES_POD (R260): A package of an installation's pod grant leaves the pod, and every unended pod-scope collective of the installation ends with RESULT 5 at the remaining participants. -/
  | packageLeavesPod (package : Nat)
  /-- POWER_DOWN_SEQUENCE (R11): The supplies go down in the reverse of the power-up order. -/
  | powerDownSequence
  /-- POWER_ON_RESET (R15): RSTN_PWR or a power loss clears everything except the fuses. -/
  | powerOnReset
  /-- HOST_RESET (R15): RSTN_HOST (CXL fundamental reset) clears the link, the virtual functions, every partition and every installation; HBM, the dump region and the fencing records survive. -/
  | hostReset
  /-- DIE_WARM_RESET (R15): Firmware resets the cores and engines of one die after a fatal error on that die. Its subject (die) is the turn's. -/
  | dieWarmReset
  /-- FRAME_TICK (R14): The package frame counter advances once every 1,000 cycles. -/
  | frameTick
  /-- THERMAL_RECORD_READ (R13): The host reads the thermal shutdown record from Holbiong's flash over MCTP. -/
  | thermalRecordRead
  /-- THERMAL_RECORD_CLEAR (R13): The host clears the thermal shutdown record in Holbiong's flash. -/
  | thermalRecordClear
  /-- CONTROL_FRAME_SEND (R25): In its time window of each frame, a position sends its 512-bit control frame with frame number, ROTCFG, pause mask and acknowledgements. Its subject (port) is the turn's. -/
  | controlFrameSend
  /-- LEASE_CONTROLLER_APPLY (R28): At a frame boundary, the lease controller applies every request of the frame in issuer order and pushes the result words to q10. -/
  | leaseControllerApply
  /-- GUARD_ELAPSED (R31): The guard frames of a TUNING channel elapse, and the channel becomes STANDING. Its subject (port, laser) is the turn's. -/
  | guardElapsed
  /-- DRAIN_COMPLETE (R30): The send queue of a DRAINING channel empties, and the channel becomes FREE. Its subject (port, laser) is the turn's. -/
  | drainComplete
  /-- TURN_BOUNDARY (R37): At a turn boundary, each slotted channel sends what its queue holds and retunes to the next turn's destination within the first guard frame. -/
  | turnBoundary
  /-- ROTCFG_TAKE_EFFECT (R32): A new ROTCFG takes effect at the first frame F with F mod (new rotation length) = 0. -/
  | rotcfgTakeEffect
  /-- FLIT_SEND (R36): A channel admits a line for the destination it currently serves and sends it as a flit. Its subject (port, laser) is the turn's. -/
  | flitSend
  /-- INGRESS_DRAIN (R38): The ingress buffer drains to memory over reserved ingress streams; the pause bits clear when the fill falls below 128 KiB. Its subject (port) is the turn's. -/
  | ingressDrain
  /-- LASER_FAILURE (R46): A laser fails; its channel becomes REVOKED, its queued flits are discarded and event 1 is raised. Its subject (port, laser) is the turn's. -/
  | laserFailure
  /-- PORT_FAILURE (R46): A port fails; all its channels and its receive side become REVOKED and event 2 is raised. Its subject (port) is the turn's. -/
  | portFailure
  /-- STREAM_REPLACEMENT (R47): At the frame boundary after a revocation, each reserved fabric stream on the revoked channel moves to a FREE channel and resends its unacknowledged lines; event 4 is raised. -/
  | streamReplacement
  /-- CHANNEL_REPAIR (R28): A host command reports a firmware repair, and a REVOKED channel becomes FREE. Its subject (port, laser) is the turn's. -/
  | channelRepair
  /-- FABRIC_SEND_COMMAND (R44): The copy engine pops a fabric-send command and its two parameter words, and starts sending the range on the stream. Its subject (group) is the turn's. -/
  | fabricSendCommand
  /-- FABRIC_SEND_END (R45): A fabric-send transfer ends, and the engine pushes its status word to q6, plus q7 words for a translation fault. Its subject (transfer) is the turn's. -/
  | fabricSendEnd
  /-- IDE_ESTABLISH (R56): IDE is established on the link, after which the device answers accesses beyond configuration, DOE and PF BAR0. -/
  | ideEstablish
  /-- SWAP_OUT_COMPLETE (R68): The last dirty line of a swapping tenant's banks is written back, and the tenant becomes queued. Its subject (vf) is the turn's. -/
  | swapOutComplete
  /-- LAUNCH_COMPLETE (R64): All workgroups of a launch have retired, or its tenant is disabled, and the launch unit writes the completion record. Its subject (launch) is the turn's. -/
  | launchComplete
  /-- REGION_SCRUB (R75): The scrubber writes zero plaintext under the new key to every line of a queued region and marks it clean. -/
  | regionScrub
  /-- SLOT_SERVICE (R112): At the first cycle of each slot, a resource serves its instance's queued request, or donates the slot to a waiting context or allowance request. Its subject (resource, slot) is the turn's. -/
  | slotService
  /-- RESERVED_REQUEST_DEPART (R113): A reserved request held for slot alignment leaves its core so as to reach its anchor at the instance's next unclaimed slot. Its subject (op, line) is the turn's. -/
  | reservedRequestDepart
  /-- WORKGROUP_START (R131): A workgroup starts once its launch has started and its predecessor at the position has retired, and its groups enter the activation queue. Its subject (launch, workgroup) is the turn's. -/
  | workgroupStart
  /-- GROUP_SEAT (R140): In each cycle, free seats are filled by the oldest ready groups of seatable tenants. Its subject (core) is the turn's. -/
  | groupSeat
  /-- GROUP_UNSEAT (R140): A seated group's wait exceeds ACTCFG.T with AGE ≥ 256 and UEN = 1, and it becomes WAITING and frees its seat. Its subject (group) is the turn's. -/
  | groupUnseat
  /-- GROUP_WAKE (R140): A WAITING group's barrier phase is reached or its missing register line is installed, and it becomes READY. Its subject (group) is the turn's. -/
  | groupWake
  /-- CLAUSE_START (R142): At a clause boundary, a rail fetches and starts the clause of the oldest ready seated group, handler clauses first. Its subject (core, rail) is the turn's. -/
  | clauseStart
  /-- LLS_HALVING (R145): At every multiple of 4,096 core cycles, every seated group's LLS is halved. Its subject (core) is the turn's. -/
  | llsHalving
  /-- THROTTLE_EVALUATION (R145): At every multiple of 1,024 cycles, the core computes K and chooses the eligible groups. Its subject (core) is the turn's. -/
  | throttleEvaluation
  /-- WATCHDOG_EXPIRY (R148): A group's watchdog count reaches WDCFG.LIMIT × 65,536, and it traps WDOG, or is killed on a second expiry in its handler. Its subject (group) is the turn's. -/
  | watchdogExpiry
  /-- REGISTER_LINE_INSTALL (R161): A register-miss fetch completes over the context stream and installs its line in the Mantle. Its subject (group, line) is the turn's. -/
  | registerLineInstall
  /-- FAULT_SERVICE (R165): The fault-service group maps a page from the tenant's pool and resumes the group, or kills it when the pool is empty. Its subject (die) is the turn's. -/
  | faultService
  /-- MANTLE_SCRUB (R162): Mantle words that are not read are scrubbed once every 2^20 cycles. Its subject (core) is the turn's. -/
  | mantleScrub
  /-- LONG_LATENCY_COMPLETE (R167): A long-latency operation's results are written, or it is acknowledged, and its flag falls by 1. Its subject (op) is the turn's. -/
  | longLatencyComplete
  /-- LOAD_DATA_RETURN (R411): A load's line is read at its source, and the lanes' values are written. Its subject (op, line) is the turn's. -/
  | loadDataReturn
  /-- TRAP_ENTRY (R176): When the rail has no handler running, the oldest group with TRAPPEND set enters its supervisor handler. Its subject (core, rail) is the turn's. -/
  | trapEntry
  /-- SUSPENSION_EFFECT (R182): A requested suspension takes effect at the target group's next clause boundary, and SUSPENDED is set. Its subject (group) is the turn's. -/
  | suspensionEffect
  /-- COPY_COMMAND (R219): The copy engine pops a copy command with its four parameters, checks it and starts the transfer chunk by chunk. Its subject (group) is the turn's. -/
  | copyCommand
  /-- FILL_COMMAND (R219): The copy engine pops a fill command with its four parameters, checks it and starts writing the pattern chunk by chunk. Its subject (group) is the turn's. -/
  | fillCommand
  /-- COPY_UNKNOWN_KIND (R216): A command of an undefined kind pops no parameter and ends with result 2. Its subject (group) is the turn's. -/
  | copyUnknownKind
  /-- COPY_CHUNK_COMPLETE (R219): Every line of a chunk has been acknowledged; the engine sets its bitmap bit and counts its bytes on the barrier. Its subject (transfer, chunk) is the turn's. -/
  | copyChunkComplete
  /-- COPY_TRANSFER_END (R222): A transfer ends; the engine pushes its status to q6 and its q7 words, invalidates L1 lines and frees the owned range. Its subject (transfer) is the turn's. -/
  | copyTransferEnd
  /-- STORE_COMMIT (R232): A sent store entry commits its bytes at the home, which acknowledges it. Its subject (commit) is the turn's. -/
  | storeCommit
  /-- RELEASE_COMPLETE (R226): A release completes once earlier loads have performed, atomics are acknowledged and sent entries have committed. Its subject (op) is the turn's. -/
  | releaseComplete
  /-- ACQUIRE_COMPLETE (R228): An acquire completes, invalidates L1 and far lines as its scope requires, and releases the held instructions. Its subject (op) is the turn's. -/
  | acquireComplete
  /-- BARRIER_PHASE_ADVANCE (R241): Every home has acknowledged the quantum commit; PHASE advances, CMT clears and TryComplete runs again. Its subject (scope, unit, index) is the turn's. -/
  | barrierPhaseAdvance
  /-- BARRIER_WAKE (R243): Within 32 cycles of a completion, the sleeping waiters on the phase wake and their acquires complete. Its subject (group) is the turn's. -/
  | barrierWake
  /-- TSERVE_BROADCAST (R252): A SERVING broadcast reaches a core, which wakes the groups sleeping on that dispenser whose tickets now pass. Its subject (core, dispenser) is the turn's. -/
  | tserveBroadcast
  /-- SPINEL_COMMAND (R257): Spinel pops a command word and four parameter words from q8 and checks them. Its subject (group) is the turn's. -/
  | spinelCommand
  /-- MATRIX_COMMAND_START (R280): The matrix engine starts the next command of the stream. Its subject (core) is the turn's. -/
  | matrixCommandStart
  /-- MATRIX_COMMAND_END (R280): A matrix command finishes staging, compute and drain, or hands over its last line. Its subject (core) is the turn's. -/
  | matrixCommandEnd
  /-- MATRIX_MARKER (R267): Once every earlier command of the group has completed and q3 has room, the engine moves a q0 marker to q3. Its subject (group) is the turn's. -/
  | matrixMarker
deriving DecidableEq, Repr

end Sys2Proof
end

