-- ==== Sys2Proof/Decode.lean ====
section
/-!
DEFINITION. From bits to instructions: the fields of an instruction word (12 Table 12.1), the opcode map (12 Table 12.4)
as a total decoder that refuses by name, clause headers (12 Table 12.3), and the encoder written from the same tables.
-/
namespace Sys2Proof

/-- Why a word is no instruction (12 R325). -/
inductive DecodeError where
  /-- OP in 0xC0-0xEF: the future major space. -/
  | futureOpcode
  /-- An in-space reserved value of Table 12.4. -/
  | reservedOpcode
  /-- OP in 0xF0-0xFF at an instruction slot. -/
  | headerValue
  /-- Fewer than four bytes. -/
  | shortWord
deriving DecidableEq, Repr

/-- Bits [31:24] of a word (12 Table 12.1). -/
def opField (w : Word) : Byte := w.extractLsb' 24 8
/-- Bits [23:16] of a word. -/
def dField (w : Word) : Byte := w.extractLsb' 16 8
/-- Bits [15:8] of a word. -/
def aField (w : Word) : Byte := w.extractLsb' 8 8
/-- Bits [7:0] of a word. -/
def bField (w : Word) : Byte := w.extractLsb' 0 8

/-- A word from its four fields. -/
def mkWord (op d a b : Byte) : Word := op ++ d ++ a ++ b

/-- A word from four bytes in the order they lie in memory, little-endian (12 R315). -/
def wordOfBytes (b0 b1 b2 b3 : Byte) : Word := b3 ++ b2 ++ b1 ++ b0

/-- Row 0x0_ of Table 12.4. -/
def decodeRow0 (lo : Nat) (w : Word) : Except DecodeError Instr :=
  match lo with
  | 0 => .ok (.nop (w.extractLsb' 0 24))
  | 1 => .ok (.brk (w.extractLsb' 0 24))
  | 2 => .ok (.exit (dField w) (aField w) (bField w))
  | 3 => .ok (.swtrap (dField w) (aField w) (bField w))
  | 4 => .ok (.tret (dField w) (aField w) (bField w))
  | 5 => .ok (.ctxrd (dField w) (aField w) (bField w))
  | 6 => .ok (.ctxwr (dField w) (aField w) (bField w))
  | 7 => .ok (.ctxctl (dField w) (aField w) (bField w))
  | 8 => .ok (.setmode (dField w) (aField w) (bField w))
  | 9 => .ok (.modeset (dField w) (aField w) (bField w))
  | 10 => .ok (.sysv (dField w) (aField w) (bField w))
  | 11 => .ok (.rdfps (dField w) (aField w) (bField w))
  | 12 => .ok (.wrfps (dField w) (aField w) (bField w))
  | 13 => .ok (.rdcnt (dField w) (aField w) (bField w))
  | 14 => .ok (.pgmap (dField w) (aField w) (bField w))
  | 15 => .ok (.pgunmap (dField w) (aField w) (bField w))
  | _ => .error .reservedOpcode  -- a nibble has no further value

/-- Row 0x1_ of Table 12.4. -/
def decodeRow1 (lo : Nat) (w : Word) : Except DecodeError Instr :=
  match lo with
  | 0 => .ok (.bra (dField w) (aField w) (bField w))
  | 1 => .ok (.bru (dField w) (aField w) (bField w))
  | 2 => .ok (.ifnz (dField w) (aField w) (bField w))
  | 3 => .ok (.elseOp (dField w) (aField w) (bField w))
  | 4 => .ok (.endif (dField w) (aField w) (bField w))
  | 5 => .ok (.brnone (dField w) (aField w) (bField w))
  | 6 => .ok (.call (dField w) (aField w) (bField w))
  | 7 => .ok (.ret (dField w) (aField w) (bField w))
  | 8 => .ok (.loop (dField w) (aField w) (bField w))
  | 9 => .ok (.fwait (dField w) (aField w) (bField w))
  | 10 => .ok (.yield (dField w) (aField w) (bField w))
  | 11 => .ok (.brx (dField w) (aField w) (bField w))
  | _ => .error .reservedOpcode

/-- Row 0x2_ of Table 12.4. -/
def decodeRow2 (lo : Nat) (w : Word) : Except DecodeError Instr :=
  match lo with
  | 0 => .ok (.iadd (dField w) (aField w) (bField w))
  | 1 => .ok (.isub (dField w) (aField w) (bField w))
  | 2 => .ok (.imul (dField w) (aField w) (bField w))
  | 3 => .ok (.imulh (dField w) (aField w) (bField w))
  | 4 => .ok (.imin (dField w) (aField w) (bField w))
  | 5 => .ok (.imax (dField w) (aField w) (bField w))
  | 6 => .ok (.iabs (dField w) (aField w) (bField w))
  | 7 => .ok (.ineg (dField w) (aField w) (bField w))
  | 8 => .ok (.iand (dField w) (aField w) (bField w))
  | 9 => .ok (.ior (dField w) (aField w) (bField w))
  | 10 => .ok (.ixor (dField w) (aField w) (bField w))
  | 11 => .ok (.inot (dField w) (aField w) (bField w))
  | 12 => .ok (.shr (dField w) (aField w) (bField w))
  | 13 => .ok (.shl (dField w) (aField w) (bField w))
  | 14 => .ok (.sar (dField w) (aField w) (bField w))
  | 15 => .ok (.rotl (dField w) (aField w) (bField w))
  | _ => .error .reservedOpcode  -- a nibble has no further value

/-- Row 0x3_ of Table 12.4. -/
def decodeRow3 (lo : Nat) (w : Word) : Except DecodeError Instr :=
  match lo with
  | 0 => .ok (.bfx (dField w) (aField w) (bField w))
  | 1 => .ok (.bfi (dField w) (aField w) (bField w))
  | 2 => .ok (.popc (dField w) (aField w) (bField w))
  | 3 => .ok (.clz (dField w) (aField w) (bField w))
  | 4 => .ok (.brev (dField w) (aField w) (bField w))
  | 5 => .ok (.imad (dField w) (aField w) (bField w))
  | 6 => .ok (.idiv (dField w) (aField w) (bField w))
  | 7 => .ok (.irem (dField w) (aField w) (bField w))
  | 8 => .ok (.icmpeq (dField w) (aField w) (bField w))
  | 9 => .ok (.icmpne (dField w) (aField w) (bField w))
  | 10 => .ok (.icmplt (dField w) (aField w) (bField w))
  | 11 => .ok (.icmple (dField w) (aField w) (bField w))
  | 12 => .ok (.icmpgt (dField w) (aField w) (bField w))
  | 13 => .ok (.icmpge (dField w) (aField w) (bField w))
  | 14 => .ok (.sel (dField w) (aField w) (bField w))
  | _ => .error .reservedOpcode

/-- Row 0x4_ of Table 12.4. -/
def decodeRow4 (lo : Nat) (w : Word) : Except DecodeError Instr :=
  match lo with
  | 0 => .ok (.mov (dField w) (aField w) (bField w))
  | 1 => .ok (.movl (dField w) (aField w) (bField w))
  | 2 => .ok (.movi (dField w) (aField w) (bField w))
  | 3 => .ok (.movih (dField w) (aField w) (bField w))
  | 4 => .ok (.iaddl (dField w) (aField w) (bField w))
  | 5 => .ok (.imull (dField w) (aField w) (bField w))
  | 6 => .ok (.iandl (dField w) (aField w) (bField w))
  | 7 => .ok (.iorl (dField w) (aField w) (bField w))
  | 8 => .ok (.ixorl (dField w) (aField w) (bField w))
  | 9 => .ok (.mov64 (dField w) (aField w) (bField w))
  | 10 => .ok (.movl64 (dField w) (aField w) (bField w))
  | 11 => .ok (.getexec (dField w) (aField w) (bField w))
  | 12 => .ok (.setexec (dField w) (aField w) (bField w))
  | _ => .error .reservedOpcode

/-- Row 0x5_ of Table 12.4. -/
def decodeRow5 (lo : Nat) (w : Word) : Except DecodeError Instr :=
  match lo with
  | 0 => .ok (.fadd (dField w) (aField w) (bField w))
  | 1 => .ok (.fsub (dField w) (aField w) (bField w))
  | 2 => .ok (.fmul (dField w) (aField w) (bField w))
  | 3 => .ok (.fma (dField w) (aField w) (bField w))
  | 4 => .ok (.fms (dField w) (aField w) (bField w))
  | 5 => .ok (.fnma (dField w) (aField w) (bField w))
  | 6 => .ok (.fnms (dField w) (aField w) (bField w))
  | 7 => .ok (.fmal (dField w) (aField w) (bField w))
  | 8 => .ok (.fdiv (dField w) (aField w) (bField w))
  | 9 => .ok (.fsqrt (dField w) (aField w) (bField w))
  | 10 => .ok (.fmax (dField w) (aField w) (bField w))
  | 11 => .ok (.fmin (dField w) (aField w) (bField w))
  | 12 => .ok (.fmaxn (dField w) (aField w) (bField w))
  | 13 => .ok (.fminn (dField w) (aField w) (bField w))
  | 14 => .ok (.fabs (dField w) (aField w) (bField w))
  | 15 => .ok (.fneg (dField w) (aField w) (bField w))
  | _ => .error .reservedOpcode  -- a nibble has no further value

/-- Row 0x6_ of Table 12.4. -/
def decodeRow6 (lo : Nat) (w : Word) : Except DecodeError Instr :=
  match lo with
  | 0 => .ok (.fexp2 (dField w) (aField w) (bField w))
  | 1 => .ok (.flog2 (dField w) (aField w) (bField w))
  | 2 => .ok (.frsq (dField w) (aField w) (bField w))
  | 3 => .ok (.fcpys (dField w) (aField w) (bField w))
  | 4 => .ok (.fceq (dField w) (aField w) (bField w))
  | 5 => .ok (.fcne (dField w) (aField w) (bField w))
  | 6 => .ok (.fclt (dField w) (aField w) (bField w))
  | 7 => .ok (.fcle (dField w) (aField w) (bField w))
  | 8 => .ok (.reduce (dField w) (aField w) (bField w))
  | 9 => .ok (.scan (dField w) (aField w) (bField w))
  | 10 => .ok (.shfl (dField w) (aField w) (bField w))
  | 11 => .ok (.shflup (dField w) (aField w) (bField w))
  | 12 => .ok (.shfldn (dField w) (aField w) (bField w))
  | 13 => .ok (.shflx (dField w) (aField w) (bField w))
  | 14 => .ok (.vote (dField w) (aField w) (bField w))
  | 15 => .ok (.matchOp (dField w) (aField w) (bField w))
  | _ => .error .reservedOpcode  -- a nibble has no further value

/-- Row 0x7_ of Table 12.4. -/
def decodeRow7 (lo : Nat) (w : Word) : Except DecodeError Instr :=
  match lo with
  | 0 => .ok (.fence (dField w) (aField w) (bField w))
  | 1 => .ok (.ifence (dField w) (aField w) (bField w))
  | 2 => .ok (.cvt (dField w) (aField w) (bField w))
  | 3 => .ok (.fcpack (dField w) (aField w) (bField w))
  | 4 => .ok (.fcunpk (dField w) (aField w) (bField w))
  | 5 => .ok (.fclass (dField w) (aField w) (bField w))
  | 6 => .ok (.frint (dField w) (aField w) (bField w))
  | 7 => .ok (.fscale (dField w) (aField w) (bField w))
  | 8 => .ok (.flogb (dField w) (aField w) (bField w))
  | 9 => .ok (.fcun (dField w) (aField w) (bField w))
  | 10 => .ok (.frcp (dField w) (aField w) (bField w))
  | _ => .error .reservedOpcode

/-- Row 0x8_ of Table 12.4. -/
def decodeRow8 (lo : Nat) (w : Word) : Except DecodeError Instr :=
  match lo with
  | 0 => .ok (.ld32 (dField w) (aField w) (bField w))
  | 1 => .ok (.lda32 (dField w) (aField w) (bField w))
  | 2 => .ok (.ld8 (dField w) (aField w) (bField w))
  | 3 => .ok (.ld8s (dField w) (aField w) (bField w))
  | 4 => .ok (.ld16 (dField w) (aField w) (bField w))
  | 5 => .ok (.ld16s (dField w) (aField w) (bField w))
  | 6 => .ok (.ld64 (dField w) (aField w) (bField w))
  | 7 => .ok (.ld128 (dField w) (aField w) (bField w))
  | 8 => .ok (.st32 (dField w) (aField w) (bField w))
  | 9 => .ok (.stl32 (dField w) (aField w) (bField w))
  | 10 => .ok (.st8 (dField w) (aField w) (bField w))
  | 11 => .ok (.st16 (dField w) (aField w) (bField w))
  | 12 => .ok (.st64 (dField w) (aField w) (bField w))
  | 13 => .ok (.st128 (dField w) (aField w) (bField w))
  | 14 => .ok (.recwr (dField w) (aField w) (bField w))
  | 15 => .ok (.recrd (dField w) (aField w) (bField w))
  | _ => .error .reservedOpcode  -- a nibble has no further value

/-- Row 0x9_ of Table 12.4. -/
def decodeRow9 (lo : Nat) (w : Word) : Except DecodeError Instr :=
  match lo with
  | 0 => .ok (.arrive (dField w) (aField w) (bField w))
  | 1 => .ok (.waitp (dField w) (aField w) (bField w))
  | 2 => .ok (.barinit (dField w) (aField w) (bField w))
  | 3 => .ok (.bartest (dField w) (aField w) (bField w))
  | 4 => .ok (.arrivex (dField w) (aField w) (bField w))
  | 5 => .ok (.aor32 (dField w) (aField w) (bField w))
  | 6 => .ok (.axor32 (dField w) (aField w) (bField w))
  | 8 => .ok (.tkt (dField w) (aField w) (bField w))
  | 9 => .ok (.twait (dField w) (aField w) (bField w))
  | 10 => .ok (.tserve (dField w) (aField w) (bField w))
  | 11 => .ok (.qstat (dField w) (aField w) (bField w))
  | 12 => .ok (.lease (dField w) (aField w) (bField w))
  | 13 => .ok (.unlease (dField w) (aField w) (bField w))
  | 14 => .ok (.leaseq (dField w) (aField w) (bField w))
  | 15 => .ok (.slotset (dField w) (aField w) (bField w))
  | _ => .error .reservedOpcode

/-- Row 0xA_ of Table 12.4. -/
def decodeRowA (lo : Nat) (w : Word) : Except DecodeError Instr :=
  match lo with
  | 0 => .ok (.cas32 (dField w) (aField w) (bField w))
  | 1 => .ok (.cas64 (dField w) (aField w) (bField w))
  | 2 => .ok (.xchg32 (dField w) (aField w) (bField w))
  | 3 => .ok (.aadd32 (dField w) (aField w) (bField w))
  | 4 => .ok (.aadd64 (dField w) (aField w) (bField w))
  | 5 => .ok (.amin32 (dField w) (aField w) (bField w))
  | 6 => .ok (.amax32 (dField w) (aField w) (bField w))
  | 7 => .ok (.aand32 (dField w) (aField w) (bField w))
  | 8 => .ok (.radd32 (dField w) (aField w) (bField w))
  | 9 => .ok (.radd64 (dField w) (aField w) (bField w))
  | 10 => .ok (.rmin32 (dField w) (aField w) (bField w))
  | 11 => .ok (.rmax32 (dField w) (aField w) (bField w))
  | 12 => .ok (.rand32 (dField w) (aField w) (bField w))
  | 13 => .ok (.ror32 (dField w) (aField w) (bField w))
  | 14 => .ok (.rxor32 (dField w) (aField w) (bField w))
  | _ => .error .reservedOpcode

/-- Row 0xB_ of Table 12.4. -/
def decodeRowB (lo : Nat) (w : Word) : Except DecodeError Instr :=
  match lo with
  | 0 => .ok (.mma (dField w) (aField w) (bField w))
  | 1 => .ok (.accld (dField w) (aField w) (bField w))
  | 2 => .ok (.accst (dField w) (aField w) (bField w))
  | 3 => .ok (.accz (dField w) (aField w) (bField w))
  | 4 => .ok (.obclaim (dField w) (aField w) (bField w))
  | 5 => .ok (.obrel (dField w) (aField w) (bField w))
  | 6 => .ok (.perturb (dField w) (aField w) (bField w))
  | 8 => .ok (.setshape (dField w) (aField w) (bField w))
  | 9 => .ok (.ldshape (dField w) (aField w) (bField w))
  | 10 => .ok (.stshape (dField w) (aField w) (bField w))
  | 11 => .ok (.shfield (dField w) (aField w) (bField w))
  | 12 => .ok (.getshape (dField w) (aField w) (bField w))
  | _ => .error .reservedOpcode

/-- Reads one instruction word (12 R319 tests 1 and 2, R325): a future opcode, a header value and an in-space reserved
opcode are refused by name. -/
def decodeWord (w : Word) : Except DecodeError Instr :=
  let op := (opField w).toNat
  match op / 16 with
  | 0 => decodeRow0 (op % 16) w
  | 1 => decodeRow1 (op % 16) w
  | 2 => decodeRow2 (op % 16) w
  | 3 => decodeRow3 (op % 16) w
  | 4 => decodeRow4 (op % 16) w
  | 5 => decodeRow5 (op % 16) w
  | 6 => decodeRow6 (op % 16) w
  | 7 => decodeRow7 (op % 16) w
  | 8 => decodeRow8 (op % 16) w
  | 9 => decodeRow9 (op % 16) w
  | 10 => decodeRowA (op % 16) w
  | 11 => decodeRowB (op % 16) w
  | 15 => .error .headerValue
  | _ => .error .futureOpcode

/-- Reads the instruction at the front of a byte string and leaves the rest. -/
def decodeBytes : List Byte → Except DecodeError (Instr × List Byte)
  | b0 :: b1 :: b2 :: b3 :: rest =>
    match decodeWord (wordOfBytes b0 b1 b2 b3) with
    | .ok i => .ok (i, rest)
    | .error e => .error e
  | _ => .error .shortWord

/-- The first n bytes of a number, low byte first. -/
def bytesOfNat : Nat → Nat → List Byte
  | 0, _ => []
  | n + 1, x => BitVec.ofNat 8 x :: bytesOfNat n (x / 256)

/-- The number a byte string stands for, low byte first. -/
def natOfBytes : List Byte → Nat
  | [] => 0
  | b :: bs => b.toNat + 256 * natOfBytes bs

/-- The instruction the decoder reads from a row of the opcode table: the row's nbits bits laid out as the K7 stores
words, the bits above them zero up to the 32 bits of an instruction word. -/
def decodeTableWord (nbits w : Nat) : Option Instr :=
  match decodeBytes (bytesOfNat 4 (w % 2 ^ nbits)) with
  | .ok (i, _) => some i
  | .error _ => none

/-- The word of an instruction, from the same table (12 R315, Table 12.4); a step of another agent has none. -/
def encode : Instr → Option Word
  | .nop n => some (0x00#8 ++ n)
  | .brk n => some (0x01#8 ++ n)
  | .exit d a b => some (mkWord 0x02#8 d a b)
  | .swtrap d a b => some (mkWord 0x03#8 d a b)
  | .tret d a b => some (mkWord 0x04#8 d a b)
  | .ctxrd d a b => some (mkWord 0x05#8 d a b)
  | .ctxwr d a b => some (mkWord 0x06#8 d a b)
  | .ctxctl d a b => some (mkWord 0x07#8 d a b)
  | .setmode d a b => some (mkWord 0x08#8 d a b)
  | .modeset d a b => some (mkWord 0x09#8 d a b)
  | .sysv d a b => some (mkWord 0x0A#8 d a b)
  | .rdfps d a b => some (mkWord 0x0B#8 d a b)
  | .wrfps d a b => some (mkWord 0x0C#8 d a b)
  | .rdcnt d a b => some (mkWord 0x0D#8 d a b)
  | .pgmap d a b => some (mkWord 0x0E#8 d a b)
  | .pgunmap d a b => some (mkWord 0x0F#8 d a b)
  | .bra d a b => some (mkWord 0x10#8 d a b)
  | .bru d a b => some (mkWord 0x11#8 d a b)
  | .ifnz d a b => some (mkWord 0x12#8 d a b)
  | .elseOp d a b => some (mkWord 0x13#8 d a b)
  | .endif d a b => some (mkWord 0x14#8 d a b)
  | .brnone d a b => some (mkWord 0x15#8 d a b)
  | .call d a b => some (mkWord 0x16#8 d a b)
  | .ret d a b => some (mkWord 0x17#8 d a b)
  | .loop d a b => some (mkWord 0x18#8 d a b)
  | .fwait d a b => some (mkWord 0x19#8 d a b)
  | .yield d a b => some (mkWord 0x1A#8 d a b)
  | .brx d a b => some (mkWord 0x1B#8 d a b)
  | .iadd d a b => some (mkWord 0x20#8 d a b)
  | .isub d a b => some (mkWord 0x21#8 d a b)
  | .imul d a b => some (mkWord 0x22#8 d a b)
  | .imulh d a b => some (mkWord 0x23#8 d a b)
  | .imin d a b => some (mkWord 0x24#8 d a b)
  | .imax d a b => some (mkWord 0x25#8 d a b)
  | .iabs d a b => some (mkWord 0x26#8 d a b)
  | .ineg d a b => some (mkWord 0x27#8 d a b)
  | .iand d a b => some (mkWord 0x28#8 d a b)
  | .ior d a b => some (mkWord 0x29#8 d a b)
  | .ixor d a b => some (mkWord 0x2A#8 d a b)
  | .inot d a b => some (mkWord 0x2B#8 d a b)
  | .shr d a b => some (mkWord 0x2C#8 d a b)
  | .shl d a b => some (mkWord 0x2D#8 d a b)
  | .sar d a b => some (mkWord 0x2E#8 d a b)
  | .rotl d a b => some (mkWord 0x2F#8 d a b)
  | .bfx d a b => some (mkWord 0x30#8 d a b)
  | .bfi d a b => some (mkWord 0x31#8 d a b)
  | .popc d a b => some (mkWord 0x32#8 d a b)
  | .clz d a b => some (mkWord 0x33#8 d a b)
  | .brev d a b => some (mkWord 0x34#8 d a b)
  | .imad d a b => some (mkWord 0x35#8 d a b)
  | .idiv d a b => some (mkWord 0x36#8 d a b)
  | .irem d a b => some (mkWord 0x37#8 d a b)
  | .icmpeq d a b => some (mkWord 0x38#8 d a b)
  | .icmpne d a b => some (mkWord 0x39#8 d a b)
  | .icmplt d a b => some (mkWord 0x3A#8 d a b)
  | .icmple d a b => some (mkWord 0x3B#8 d a b)
  | .icmpgt d a b => some (mkWord 0x3C#8 d a b)
  | .icmpge d a b => some (mkWord 0x3D#8 d a b)
  | .sel d a b => some (mkWord 0x3E#8 d a b)
  | .mov d a b => some (mkWord 0x40#8 d a b)
  | .movl d a b => some (mkWord 0x41#8 d a b)
  | .movi d a b => some (mkWord 0x42#8 d a b)
  | .movih d a b => some (mkWord 0x43#8 d a b)
  | .iaddl d a b => some (mkWord 0x44#8 d a b)
  | .imull d a b => some (mkWord 0x45#8 d a b)
  | .iandl d a b => some (mkWord 0x46#8 d a b)
  | .iorl d a b => some (mkWord 0x47#8 d a b)
  | .ixorl d a b => some (mkWord 0x48#8 d a b)
  | .mov64 d a b => some (mkWord 0x49#8 d a b)
  | .movl64 d a b => some (mkWord 0x4A#8 d a b)
  | .getexec d a b => some (mkWord 0x4B#8 d a b)
  | .setexec d a b => some (mkWord 0x4C#8 d a b)
  | .fadd d a b => some (mkWord 0x50#8 d a b)
  | .fsub d a b => some (mkWord 0x51#8 d a b)
  | .fmul d a b => some (mkWord 0x52#8 d a b)
  | .fma d a b => some (mkWord 0x53#8 d a b)
  | .fms d a b => some (mkWord 0x54#8 d a b)
  | .fnma d a b => some (mkWord 0x55#8 d a b)
  | .fnms d a b => some (mkWord 0x56#8 d a b)
  | .fmal d a b => some (mkWord 0x57#8 d a b)
  | .fdiv d a b => some (mkWord 0x58#8 d a b)
  | .fsqrt d a b => some (mkWord 0x59#8 d a b)
  | .fmax d a b => some (mkWord 0x5A#8 d a b)
  | .fmin d a b => some (mkWord 0x5B#8 d a b)
  | .fmaxn d a b => some (mkWord 0x5C#8 d a b)
  | .fminn d a b => some (mkWord 0x5D#8 d a b)
  | .fabs d a b => some (mkWord 0x5E#8 d a b)
  | .fneg d a b => some (mkWord 0x5F#8 d a b)
  | .fexp2 d a b => some (mkWord 0x60#8 d a b)
  | .flog2 d a b => some (mkWord 0x61#8 d a b)
  | .frsq d a b => some (mkWord 0x62#8 d a b)
  | .fcpys d a b => some (mkWord 0x63#8 d a b)
  | .fceq d a b => some (mkWord 0x64#8 d a b)
  | .fcne d a b => some (mkWord 0x65#8 d a b)
  | .fclt d a b => some (mkWord 0x66#8 d a b)
  | .fcle d a b => some (mkWord 0x67#8 d a b)
  | .reduce d a b => some (mkWord 0x68#8 d a b)
  | .scan d a b => some (mkWord 0x69#8 d a b)
  | .shfl d a b => some (mkWord 0x6A#8 d a b)
  | .shflup d a b => some (mkWord 0x6B#8 d a b)
  | .shfldn d a b => some (mkWord 0x6C#8 d a b)
  | .shflx d a b => some (mkWord 0x6D#8 d a b)
  | .vote d a b => some (mkWord 0x6E#8 d a b)
  | .matchOp d a b => some (mkWord 0x6F#8 d a b)
  | .fence d a b => some (mkWord 0x70#8 d a b)
  | .ifence d a b => some (mkWord 0x71#8 d a b)
  | .cvt d a b => some (mkWord 0x72#8 d a b)
  | .fcpack d a b => some (mkWord 0x73#8 d a b)
  | .fcunpk d a b => some (mkWord 0x74#8 d a b)
  | .fclass d a b => some (mkWord 0x75#8 d a b)
  | .frint d a b => some (mkWord 0x76#8 d a b)
  | .fscale d a b => some (mkWord 0x77#8 d a b)
  | .flogb d a b => some (mkWord 0x78#8 d a b)
  | .fcun d a b => some (mkWord 0x79#8 d a b)
  | .frcp d a b => some (mkWord 0x7A#8 d a b)
  | .ld32 d a b => some (mkWord 0x80#8 d a b)
  | .lda32 d a b => some (mkWord 0x81#8 d a b)
  | .ld8 d a b => some (mkWord 0x82#8 d a b)
  | .ld8s d a b => some (mkWord 0x83#8 d a b)
  | .ld16 d a b => some (mkWord 0x84#8 d a b)
  | .ld16s d a b => some (mkWord 0x85#8 d a b)
  | .ld64 d a b => some (mkWord 0x86#8 d a b)
  | .ld128 d a b => some (mkWord 0x87#8 d a b)
  | .st32 d a b => some (mkWord 0x88#8 d a b)
  | .stl32 d a b => some (mkWord 0x89#8 d a b)
  | .st8 d a b => some (mkWord 0x8A#8 d a b)
  | .st16 d a b => some (mkWord 0x8B#8 d a b)
  | .st64 d a b => some (mkWord 0x8C#8 d a b)
  | .st128 d a b => some (mkWord 0x8D#8 d a b)
  | .recwr d a b => some (mkWord 0x8E#8 d a b)
  | .recrd d a b => some (mkWord 0x8F#8 d a b)
  | .arrive d a b => some (mkWord 0x90#8 d a b)
  | .waitp d a b => some (mkWord 0x91#8 d a b)
  | .barinit d a b => some (mkWord 0x92#8 d a b)
  | .bartest d a b => some (mkWord 0x93#8 d a b)
  | .arrivex d a b => some (mkWord 0x94#8 d a b)
  | .aor32 d a b => some (mkWord 0x95#8 d a b)
  | .axor32 d a b => some (mkWord 0x96#8 d a b)
  | .tkt d a b => some (mkWord 0x98#8 d a b)
  | .twait d a b => some (mkWord 0x99#8 d a b)
  | .tserve d a b => some (mkWord 0x9A#8 d a b)
  | .qstat d a b => some (mkWord 0x9B#8 d a b)
  | .lease d a b => some (mkWord 0x9C#8 d a b)
  | .unlease d a b => some (mkWord 0x9D#8 d a b)
  | .leaseq d a b => some (mkWord 0x9E#8 d a b)
  | .slotset d a b => some (mkWord 0x9F#8 d a b)
  | .cas32 d a b => some (mkWord 0xA0#8 d a b)
  | .cas64 d a b => some (mkWord 0xA1#8 d a b)
  | .xchg32 d a b => some (mkWord 0xA2#8 d a b)
  | .aadd32 d a b => some (mkWord 0xA3#8 d a b)
  | .aadd64 d a b => some (mkWord 0xA4#8 d a b)
  | .amin32 d a b => some (mkWord 0xA5#8 d a b)
  | .amax32 d a b => some (mkWord 0xA6#8 d a b)
  | .aand32 d a b => some (mkWord 0xA7#8 d a b)
  | .radd32 d a b => some (mkWord 0xA8#8 d a b)
  | .radd64 d a b => some (mkWord 0xA9#8 d a b)
  | .rmin32 d a b => some (mkWord 0xAA#8 d a b)
  | .rmax32 d a b => some (mkWord 0xAB#8 d a b)
  | .rand32 d a b => some (mkWord 0xAC#8 d a b)
  | .ror32 d a b => some (mkWord 0xAD#8 d a b)
  | .rxor32 d a b => some (mkWord 0xAE#8 d a b)
  | .mma d a b => some (mkWord 0xB0#8 d a b)
  | .accld d a b => some (mkWord 0xB1#8 d a b)
  | .accst d a b => some (mkWord 0xB2#8 d a b)
  | .accz d a b => some (mkWord 0xB3#8 d a b)
  | .obclaim d a b => some (mkWord 0xB4#8 d a b)
  | .obrel d a b => some (mkWord 0xB5#8 d a b)
  | .perturb d a b => some (mkWord 0xB6#8 d a b)
  | .setshape d a b => some (mkWord 0xB8#8 d a b)
  | .ldshape d a b => some (mkWord 0xB9#8 d a b)
  | .stshape d a b => some (mkWord 0xBA#8 d a b)
  | .shfield d a b => some (mkWord 0xBB#8 d a b)
  | .getshape d a b => some (mkWord 0xBC#8 d a b)
  | .powerSupplyRamp _ => none
  | .supplyWindowMissed _ => none
  | .bringUp _ => none
  | .thermalGate _ _ => none
  | .thermalGateRelease _ _ => none
  | .thermalShutdown _ _ => none
  | .controlFrameReceive _ _ _ => none
  | .rotcfgWrite _ => none
  | .flitReceive _ _ => none
  | .relayForward _ _ => none
  | .fabricEventDeliver _ => none
  | .cxlMemAccess _ _ _ => none
  | .vfEnable _ _ => none
  | .vfDisable _ _ => none
  | .vfBanksSet _ _ => none
  | .vfBanksClear _ _ => none
  | .vfGateSet _ _ => none
  | .vfGateClear _ _ => none
  | .lqEnable _ _ _ => none
  | .lqErrClear _ _ _ => none
  | .tailSnoop _ _ => none
  | .tailRefetch _ _ => none
  | .launchPacketStart _ _ => none
  | .partcfgWrite _ _ => none
  | .partitionReset _ => none
  | .firewallDrop _ _ => none
  | .regbindBind _ => none
  | .poisonDetect _ => none
  | .linefill _ => none
  | .poolListRead _ _ => none
  | .bar2Access _ _ _ _ => none
  | .dumpWindowRead _ _ => none
  | .fatalErrorDump _ _ => none
  | .dumpClear _ => none
  | .registerWrite _ _ _ => none
  | .spdmGetVersion _ => none
  | .spdmGetCapabilities _ => none
  | .spdmNegotiateAlgorithms _ => none
  | .spdmGetDigests _ => none
  | .spdmGetCertificate _ => none
  | .spdmChallenge _ => none
  | .spdmGetMeasurements _ => none
  | .spdmKeyExchange _ => none
  | .spdmFinish _ => none
  | .spdmKeyUpdate _ => none
  | .spdmEndSession _ => none
  | .spdmUnsupportedRequest _ _ => none
  | .ideKeyProgram _ => none
  | .install _ _ => none
  | .remove _ _ => none
  | .removeTakeEffect _ => none
  | .reservationReplacement _ => none
  | .farLineFill _ _ _ => none
  | .l2farWrite _ _ => none
  | .l2farTakeEffect _ => none
  | .atomicPerform _ _ _ => none
  | .barrierCount _ => none
  | .collectiveStart _ _ _ => none
  | .collectiveStep _ _ _ _ => none
  | .collectiveEnd _ _ _ => none
  | .matrixSelfTest _ _ => none
  | .dieWithdrawal _ => none
  | .poolAllotment _ _ _ => none
  | .packageLeavesPod _ => none
  | .powerDownSequence => none
  | .powerOnReset => none
  | .hostReset => none
  | .dieWarmReset => none
  | .frameTick => none
  | .thermalRecordRead => none
  | .thermalRecordClear => none
  | .controlFrameSend => none
  | .leaseControllerApply => none
  | .guardElapsed => none
  | .drainComplete => none
  | .turnBoundary => none
  | .rotcfgTakeEffect => none
  | .flitSend => none
  | .ingressDrain => none
  | .laserFailure => none
  | .portFailure => none
  | .streamReplacement => none
  | .channelRepair => none
  | .fabricSendCommand => none
  | .fabricSendEnd => none
  | .ideEstablish => none
  | .swapOutComplete => none
  | .launchComplete => none
  | .regionScrub => none
  | .slotService => none
  | .reservedRequestDepart => none
  | .workgroupStart => none
  | .groupSeat => none
  | .groupUnseat => none
  | .groupWake => none
  | .clauseStart => none
  | .llsHalving => none
  | .throttleEvaluation => none
  | .watchdogExpiry => none
  | .registerLineInstall => none
  | .faultService => none
  | .mantleScrub => none
  | .longLatencyComplete => none
  | .loadDataReturn => none
  | .trapEntry => none
  | .suspensionEffect => none
  | .copyCommand => none
  | .fillCommand => none
  | .copyUnknownKind => none
  | .copyChunkComplete => none
  | .copyTransferEnd => none
  | .storeCommit => none
  | .releaseComplete => none
  | .acquireComplete => none
  | .barrierPhaseAdvance => none
  | .barrierWake => none
  | .tserveBroadcast => none
  | .spinelCommand => none
  | .matrixCommandStart => none
  | .matrixCommandEnd => none
  | .matrixMarker => none

/-! ### Clause headers (12 R320) -/

/-- A clause header: instruction words (1 to 4), wait mask by flag, the flags of the two long-latency operations,
uniform marks by slot, literal words. -/
structure Header where
  count : Nat
  wait  : BitVec 12
  setA  : Nat
  setB  : Nat
  uni   : BitVec 4
  lit   : Nat
deriving DecidableEq, Repr

/-- Whether a word carries the header marker (12 Table 12.3). -/
def isHeader (w : Word) : Bool := w.extractLsb' 28 4 == 0xF#4

/-- The fields of a header word; no bit of a header is reserved (12 R320). -/
def headerOf (w : Word) : Header where
  count := (w.extractLsb' 26 2).toNat + 1
  wait := w.extractLsb' 14 12
  setA := (w.extractLsb' 10 4).toNat
  setB := (w.extractLsb' 6 4).toNat
  uni := w.extractLsb' 2 4
  lit := (w.extractLsb' 0 2).toNat

/-- The word of a header. -/
def encodeHeader (h : Header) : Word :=
  0xF#4 ++ BitVec.ofNat 2 (h.count - 1) ++ h.wait ++ BitVec.ofNat 4 h.setA ++ BitVec.ofNat 4 h.setB ++ h.uni ++
    BitVec.ofNat 2 h.lit

/-- Words of a clause after its header (12 R320). -/
def Header.words (h : Header) : Nat := h.count + h.lit

/-- A header whose flag fields name a flag or none (06 R169). -/
def Header.legal (h : Header) : Bool := (h.setA ≤ 11 || h.setA == 15) && (h.setB ≤ 11 || h.setB == 15)

/-! ### Field laws -/

/-- The bit of a word from its fields. -/
theorem mkWord_getLsbD (op d a b : Byte) (i : Nat) :
    (mkWord op d a b).getLsbD i = (op ++ d ++ a ++ b : BitVec (8 + 8 + 8 + 8)).getLsbD i := rfl

@[simp] theorem opField_mkWord (op d a b : Byte) : opField (mkWord op d a b) = op := by
  apply BitVec.eq_of_getLsbD_eq; intro i hi
  simp only [opField, BitVec.getLsbD_extractLsb', mkWord_getLsbD, BitVec.getLsbD_append]
  simp only [show ¬ 24 + i < 8 by omega, show ¬ 24 + i - 8 < 8 by omega, show ¬ 24 + i - 8 - 8 < 8 by omega, hi,
    decide_true, Bool.true_and, cond_false, if_false, decide_false]
  congr 1; omega
@[simp] theorem dField_mkWord (op d a b : Byte) : dField (mkWord op d a b) = d := by
  apply BitVec.eq_of_getLsbD_eq; intro i hi
  simp only [dField, BitVec.getLsbD_extractLsb', mkWord_getLsbD, BitVec.getLsbD_append]
  simp only [show ¬ 16 + i < 8 by omega, show ¬ 16 + i - 8 < 8 by omega, show 16 + i - 8 - 8 < 8 by omega, hi,
    decide_true, Bool.true_and, cond_false, cond_true, if_false, if_true, decide_false]
  congr 1; omega
@[simp] theorem aField_mkWord (op d a b : Byte) : aField (mkWord op d a b) = a := by
  apply BitVec.eq_of_getLsbD_eq; intro i hi
  simp only [aField, BitVec.getLsbD_extractLsb', mkWord_getLsbD, BitVec.getLsbD_append]
  simp only [show ¬ 8 + i < 8 by omega, show 8 + i - 8 < 8 by omega, hi,
    decide_true, Bool.true_and, cond_false, cond_true, if_false, if_true, decide_false]
  congr 1; omega
@[simp] theorem bField_mkWord (op d a b : Byte) : bField (mkWord op d a b) = b := by
  apply BitVec.eq_of_getLsbD_eq; intro i hi
  simp only [bField, BitVec.getLsbD_extractLsb', mkWord_getLsbD, BitVec.getLsbD_append]
  simp only [show 0 + i < 8 by omega, hi, decide_true, Bool.true_and, cond_true, if_true]
  congr 1; omega

end Sys2Proof
end

