-- ==== Sys2Proof/Machine/State.lean ====
section
/-!
DEFINITION. The state of a K7 package as plain data: everything the spec gives the machine (INVENTORY.md, State), the
reasons a step can stop, and the state right after a power-on reset. Sparse tables are lists of (key, entry) pairs with
keys strictly rising and no entry equal to the table's default.
-/
namespace Sys2Proof.Machine

/-- A table by number, in canonical form: keys strictly rising, no entry equal to its default. -/
abbrev Sparse (α : Type) := List (Nat × α)

/-! ### Groups (06) -/

/-- The trap record (06 Table 6.4). -/
structure TrapRec where
  cause    : BitVec 16 := 0
  slot     : Byte := 0
  flags    : Byte := 0
  laneMask : Word := 0
  clause   : Word64 := 0
  info0    : Word64 := 0
  info1    : Word64 := 0
  frame    : Word64 := 0
  word     : Word := 0
deriving DecidableEq, Repr

/-- The states of a group on a core (05 Table 5.4). -/
inductive GroupState where
  | ready | seated | waiting | retired
deriving DecidableEq, Repr

/-- The wait of a seat table entry (05 Table 5.3). -/
inductive SeatWait where
  | none | register | barrier
deriving DecidableEq, Repr

/-- The stall causes (05 Table 5.8), in table order. -/
inductive StallCause where
  | registerMiss | flagWait | slotAlignment | throttle | queueEmpty | queueFull | barrier | scoreboard | translation
deriving DecidableEq, Repr

/-- What a stalled group waits for (05 R143): the condition under which it is ready again. `ops` waits for operations to
end, `commits` for sent stores to reach their homes, `data` for the lines of a load to be read, `transfers` for copy transfers, `flags` for the flags of a mask (bit 12 is FLAGZ). -/
inductive Hold where
  | queueWords (q n : Nat)
  | queueRoom (q n : Nat)
  | flags (mask : BitVec 13)
  | flagRoom (flag : Nat)
  | ops (ids : List Nat)
  | commits (ids : List Nat)
  | data (op : Nat)
  | transfers (ids : List Nat)
  | region (number : Nat)
  | psbRoom (n : Nat)
  | leaseRoom
  | suspended (gid : Nat)
  | partner
  | lvqRoom
  | windowFree
deriving DecidableEq, Repr

/-- A stall in place: the cause it is charged to and what ends it. -/
structure Stall where
  cause : StallCause
  hold  : Hold
deriving DecidableEq, Repr

/-- A line of a shadow's load-value queue (06 R191): tagged with clause address, slot and destination. -/
structure LvqLine where
  clause : Nat
  slot   : Nat
  dest   : Nat
  values : List (Nat × Nat × Word)
deriving DecidableEq, Repr

/-- A clause as fetched (12 R320), with the long-latency operations that have issued from it (06 R166). -/
structure FetchedClause where
  header : Word
  words  : List Word
  lits   : List Word
  longs  : Nat
deriving DecidableEq, Repr

/-- Where bytes live (08 preface): the address space of an installation; the cores' SRAM, addressed by
core × 2^26 + byte offset; or a peer's window, by fabric address. -/
inductive Space where
  | virt (handle : Word)
  | sram
  | fabric (handle key : Word)
deriving DecidableEq, Repr

/-- A pending-store entry (06 R157): the address of its 16-byte block, lane, record slot, byte mask and data; the
model keeps beside it the space its record named at issue, whether the record is reserved, and the operation it is held
for: an ARRIVE whose quantum has not committed (08 R230), or the STL32 whose own entry it is (15 R414). -/
structure PsbEntry where
  block    : Nat
  lane     : Nat
  slot     : Byte
  mask     : BitVec 16
  data     : BitVec 128
  space    : Space
  reserved : Bool
  held     : Option Nat
deriving DecidableEq, Repr

/-- The control area of a group's context (06 Table 6.2), with its pending-store buffer (R157), completion bitmaps and
load-value queue (Table 6.1). -/
structure Control where
  pc          : Word64 := 0
  slot        : Nat := 0
  litPos      : Nat := 0
  satf        : Bool := false
  sovf        : Bool := false
  resumeWait  : Bool := false
  handler     : Bool := false
  suspended   : Bool := false
  paired      : Bool := false
  shadow      : Bool := false
  trapPend    : Bool := false
  sdrop       : Bool := false
  mode        : Word := 0xFF000000
  exist       : Word := 0
  exec        : Word := 0
  dead        : Word := 0
  deadSrc     : Word := 0
  alc         : Word := 0
  wdCount     : Word64 := 0
  handle      : Word := 0
  group       : Word := 0
  saveMode    : Word := 0
  saveExec    : Word := 0
  fpstat      : Vector (BitVec 5) 32 := Vector.replicate 32 0
  launchBuf   : Vector Word 32 := Vector.replicate 32 0
  laWords     : Nat := 0
  trapRec     : TrapRec := {}
  psb         : List PsbEntry := []
  psbHead     : Nat := 0
  psbScope    : Nat := 0
deriving DecidableEq, Repr

/-- The counters of a group (05 Table 5.9, 04 Table 4.9). -/
structure GroupCounters where
  gstall   : Sparse Nat := []
  issue    : Nat := 0
  clauses  : Nat := 0
  seatings : Nat := 0
  unseats  : Nat := 0
  alwReq   : Nat := 0
  alwTrap  : Nat := 0
deriving DecidableEq, Repr

/-- A placement position (05 R129): the core, or the first core of the quad, and what it holds there: the first
scratchpad unit on each core and the bases of its core and quad barrier objects. -/
structure Position where
  core     : Nat
  spadUnit : Nat
  barCore  : Nat
  barQuad  : Nat
deriving DecidableEq, Repr

/-- A group: where it comes from (05 R124), the position its workgroup runs at (R130), where it stands (05 R138 to R140), and its context (06 R154, R155). The
registers are the words the device holds for it; a line in `backed` has been written back once, so that it lives in its
context page whenever it is not resident (06 R156, R161); 256 + j in it marks such a line that the device has taken in hand
again. `window` keeps the handler's window of an unseated group (log 26). `done` counts the clauses completed outside a handler, which a
shadow follows (R191); `wdDue` marks a watchdog expiry that waits for the next clause header (05 R148). -/
structure Group where
  gid        : Nat
  launch     : Nat
  workgroup  : Nat
  sequence   : Nat
  localNo    : Nat
  kernel     : Nat
  fn         : Nat
  core       : Nat
  place      : Position := ⟨0, 0, 0, 0⟩
  gstate     : GroupState := .ready
  seat       : Option Nat := none
  wait       : SeatWait := .none
  waitCycles : Nat := 0
  age        : Nat := 0
  lls        : Nat := 0
  urgent     : Bool := false
  stalled    : Option Stall := none
  killed     : Bool := false
  ctl        : Control := {}
  regs       : Sparse Word := []
  regErr     : List Nat := []
  backed     : List Nat := []
  recs       : Sparse Word256 := []
  shapes     : Sparse Word512 := []
  bitmaps    : List Nat := []
  lvq        : List LvqLine := []
  queues     : Sparse (List Word) := []
  clause     : Option FetchedClause := none
  fetchHold  : Bool := false
  suspendBy  : List Nat := []
  done       : Nat := 0
  wdDue      : Bool := false
  window     : Sparse Word := []
  leaseOut   : Nat := 0
  counters   : GroupCounters := {}
deriving DecidableEq, Repr

/-! ### Outstanding operations (06 R167, 08 R226 to R231) -/

/-- One lane's part of a load or atomic: its address, the bit position of a packed element (07 R196), whether CLAMP
took it out (07 R198), the bits its own pending entries gave at issue as (address, bits, byte) (08 R225), and its
operands. -/
structure LaneAccess where
  lane     : Nat
  addr     : Nat
  bitPos   : Nat := 0
  clamped  : Bool := false
  forward  : List (Nat × Byte × Byte) := []
  operand  : Word64 := 0
  compare  : Word64 := 0
deriving DecidableEq, Repr

/-- A line of a load (07 R200): its address and the place at its home it was translated to (R211), whether its request has left the core and been served at its anchor
(04 R112, R113; at once for an allowance line), and its bytes once read, with whether it was poisoned; `slot` is the
record it was named by. -/
structure LineAccess where
  addr   : Nat
  phys   : Nat := 0
  slot   : Nat := 0
  left   : Bool := true
  served : Bool := true
  bytes  : Option (List Byte) := none
  poison : Bool := false
deriving DecidableEq, Repr

/-- What a load does with its bytes (15 Table 15.1, R427). -/
inductive LoadForm where
  | reg (bytes : Nat) (signed : Bool) (words : Nat)
  | shape
deriving DecidableEq, Repr

/-- One request of an atomic after aggregation (09 R253): its address, the lanes it carries, whether it has performed, the
old values it returned by lane, and whether it met a poisoned line (15 R417). -/
structure AtomRequest where
  addr  : Nat
  phys  : Nat := 0
  lanes : List LaneAccess
  done  : Bool := false
  olds  : List (Nat × Word64) := []
  died  : Bool := false
deriving DecidableEq, Repr

/-- An operand-buffer reservation record (10 R273, R274). -/
structure ObRec where
  number : Nat
  base   : Nat
  len    : Nat
  fmt    : Nat
  blk    : Nat
  soff   : Nat
  owner  : Nat
deriving DecidableEq, Repr

/-- A command of the matrix stream (10 R267; 15 R423, R424), with what it read at issue (10 R266): the tile, the shape
register, the lanes whose rows it acts on, and its operands. -/
inductive MatrixCommand where
  | mma (tile : Nat) (shape : Word512) (z : Bool) (descA descB : Word64) (recA recB : ObRec) (rows : Word)
  | load (tile : Nat) (shape : Word512) (slot : Nat) (image : Word256) (origin stride : Nat) (rows : Word)
  | store (tile : Nat) (shape : Word512) (slot : Nat) (image : Word256) (origin stride : Nat) (rows : Word) (free : Bool)
  | zero (tile : Nat) (rows : Word) (free : Bool)
deriving DecidableEq, Repr

/-- What follows when a release has completed (08 Table 8.2). A push names its queue and how many words of the queue stood
before its own, so that the engine takes none of them earlier (07 R220, 08 R236). -/
inductive ReleaseThen where
  | storeOwn (entries : List PsbEntry)
  | fence (acquire : Bool)
  | arrive (object requested : Nat)
  | serve (dispenser : Nat)
  | push (queue ahead : Nat)
  | launch (packet : List Word)
  | exit
  | ifence
  | matrix
deriving DecidableEq, Repr

/-- What an acquire waits for (08 R228). -/
inductive AcquireWait where
  | phase (object phase : Nat)
  | ticket (dispenser : Nat) (ticket : Word)
deriving DecidableEq, Repr

/-- The kinds of outstanding operation. -/
inductive OpKind where
  /-- Results known at issue, written at completion: (register, lane, value), with the exceptions they raise by lane and
  whether one saturated (11 R308). A shadow computes them itself. -/
  | value (writes : List (Nat × Nat × Word)) (exc : List (Nat × BitVec 5)) (sat : Bool)
  /-- Results known at issue that a shadow takes from its leader. -/
  | result (writes : List (Nat × Nat × Word))
  /-- A load: what it writes, its space, the record and the cache hint it read at issue (15 R406, 07 R215), its lines and
  lanes, the scope it acquires at (15 R412), and whether it is uniform. -/
  | load (form : LoadForm) (space : Space) (image : Word256) (hint : Nat) (lines : List LineAccess)
      (lanes : List LaneAccess) (acquire : Option Nat) (uniform : Bool)
  /-- An atomic or reduction: its operation, size and space, the record's image, its requests, whether it returns old values,
  whether it is uniform, and MODE.RND (09 R253, R254). -/
  | atomic (op : AtomOp) (size : Nat) (space : Space) (image : Word256) (requests : List AtomRequest)
      (returns uniform : Bool) (rnd : Nat)
  | release (scope : Nat) (before : List Nat) (entries : List Nat) (next : ReleaseThen)
  | acquire (scope : Nat) (wait : AcquireWait)
  | bartest (scope object phase : Nat)
  | barinit (object : Nat) (exparr expbytes : Nat)
  /-- A TKT: its dispenser, and whether each lane takes a ticket of its own (09 R251). -/
  | tkt (dispenser : Nat) (each : Bool)
  /-- A matrix command until its flag falls, and the lines an ACCST has handed over (10 R267, R268). -/
  | matrix (command : MatrixCommand) (lines : Option (List Nat))
  | obrel (record : Nat)
  /-- A page that has left the table: its function, virtual address and size, and its physical pages (13 R375). -/
  | pageOut (fn va size : Nat) (pages : List Nat) (writes : List (Nat × Nat × Word))
  | lease
  /-- A shadow's load, atomic or queue pop, which takes its values from the load-value queue (06 R191). -/
  | shadow (clause slot : Nat)
deriving DecidableEq, Repr

/-- A long-latency operation, release or acquire that has issued and not completed. `flag` is 0 to 11, 15 for FLAGZ, and
16 for an operation that no flag counts (a push's release). The registers it will write are `dest` to
`dest + destWords − 1` in the lanes of `lanes`; `clobbered` holds those that another write has reached since
(06 R168). `clause` and `slot` say where it stands in the code, which tags it for a shadow (06 R191). -/
structure OutOp where
  id        : Nat
  gid       : Nat
  flag      : Nat
  handler   : Bool
  lanes     : Word
  dest      : Nat := 0
  destWords : Nat := 0
  clobbered : List (Nat × Nat) := []
  clause    : Nat := 0
  slot      : Nat := 0
  kind      : OpKind
deriving DecidableEq, Repr

/-- A store on its way to its home (08 R226, R227): whose it is, where it goes, the bits it writes of its 16-byte block,
the operation that sent it (0 for none), for an ARRIVE the object and the writer index it is tagged with (R230), and
whether the core's memory unit has accepted it (R226; 15 R409, R413). `order` is its place in program order: its own
number, or the ACCST's whose line it is part of. A reserved store leaves its core for its slot and is served there
(04 R112, R113). -/
structure Commit where
  id       : Nat
  gid      : Nat
  lane     : Nat
  core     : Nat
  space    : Space
  block    : Nat
  phys     : Nat
  bits     : BitVec 128
  data     : BitVec 128
  reserved : Bool
  op       : Nat
  quantum  : Option (Nat × Nat) := none
  accepted : Bool := true
  order    : Nat := 0
  slot     : Nat := 0
  left     : Bool := true
  served   : Bool := true
deriving DecidableEq, Repr

/-- An entry held at its home for a quantum (08 R230): the object, the arrival that sent it, the phase once the arrival is
counted (R242), the writer index, its place in program order, and the bits it will write. -/
structure Window where
  object : Nat
  op     : Nat
  phase  : Option Nat
  writer : Nat
  order  : Nat
  gid    : Nat
  lane   : Nat
  core   : Nat
  space  : Space
  block  : Nat
  phys   : Nat
  bits   : BitVec 128
  data   : BitVec 128
deriving DecidableEq, Repr

/-! ### Cores (05, 06, 07, 10) -/

/-- A Mantle line that serves a context (06 R158 to R160): the group, the register line j, its bank, and its marks. -/
structure MantleLine where
  gid   : Nat
  line  : Nat
  bank  : Nat
  dirty : Bool
  stamp : Nat
deriving DecidableEq, Repr

/-- A rail: the group whose clause is in progress, the group whose handler holds the window, the window (06 R179), the
group a YIELD holds back (13 R361), and the rail's stall counters. -/
structure Rail where
  clauseOf : Option Nat := none
  handler  : Option Nat := none
  window   : Sparse Word := []
  yielded  : Option Nat := none
  rstall   : Sparse Nat := []
deriving DecidableEq, Repr

/-- An L1 line (07 R206): virtual line address, handle, bytes, the group whose miss filled it, recency, hint. -/
structure L1Line where
  addr   : Nat
  handle : Word
  way    : Nat
  bytes  : List Byte
  owner  : Nat
  stamp  : Nat
  hint   : Nat
deriving DecidableEq, Repr

/-- An entry of the victim tag array (05 R144). -/
structure VictimTag where
  addr   : Nat
  handle : Word
  owner  : Nat
  order  : Nat
deriving DecidableEq, Repr

/-- A cached translation (07 R211). -/
structure TlbEntry where
  handle : Word
  page   : Nat
deriving DecidableEq, Repr

/-- An entry of the stream (10 R267): its number, group and operation, the command, or the word of a marker, the release
its issue made (R268), whether the engine has started it, and the operand bytes staged for A and B (R270, R271). -/
structure StreamEntry where
  number  : Nat
  gid     : Nat
  op      : Nat
  command : MatrixCommand
  marker  : Option Word := none
  release : Nat := 0
  started : Bool := false
  stagedA : List Byte := []
  stagedB : List Byte := []
deriving DecidableEq, Repr

/-- What a page stands for: a run of device memory, or a stripe over channels with the pages taken in each (04 R105). -/
inductive PageTarget where
  | plain (addr : Nat)
  | stripe (width : Nat) (pages : List (List Nat))
deriving DecidableEq, Repr

/-- A mapped page, or a reserved record's pinned range (07 R210, Table 7.4). -/
structure Page where
  va     : Nat
  size   : Nat
  target : PageTarget
  r      : Bool
  w      : Bool
  x      : Bool
  uc     : Bool
  pin    : Bool
  shr    : Bool
  pooled : Bool
deriving DecidableEq, Repr

/-- A copy-engine transfer (07 R216 to R222, 02 R44): the command word, the records read when the command was popped
(15 R406), the parameters, the barrier object that counts its bytes, the next chunk (or line of a fabric-send) to send,
those sent and not acknowledged, those to send again (02 R47), the translations it holds (07 R219), and how it stopped: the
result, with the faulting address and whether it lies in the destination. -/
structure Transfer where
  id      : Nat
  core    : Nat
  gid     : Nat
  handle  : Word
  kind    : Nat
  word    : Word
  src     : Word256
  dst     : Word256
  srcOff  : Nat
  dstOff  : Nat
  count   : Nat
  pattern : Word
  object  : Option Nat
  next    : Nat
  flying  : List Nat
  again   : List Nat
  held    : List Page
  stopped : Option (Nat × Nat × Bool)
deriving DecidableEq, Repr

/-- The one pending perturbation of a core (10 R284). -/
structure Perturbation where
  tile   : Nat
  row    : Nat
  col    : Nat
  value  : Word
  handle : Word
deriving DecidableEq, Repr

/-- A core: scheduling, Mantle, L1 and instruction cache, matrix engine, device launch buffer. -/
structure Core where
  rails     : Sparse Rail := []
  mantle    : List MantleLine := []
  mcorr     : Nat := 0
  l1        : List L1Line := []
  icache    : Sparse (List Byte) := []
  tlb       : List TlbEntry := []
  victims   : List VictimTag := []
  evictions : Nat := 0
  eligible  : Option (List Nat) := none
  eligibleK : Nat := 0
  tileOwner : Sparse (Nat × Nat) := []
  acc       : Sparse Word := []
  accErr    : List Nat := []
  accTest   : List Nat := []
  obrecs    : List ObRec := []
  stream    : List StreamEntry := []
  perturb   : Option Perturbation := none
  fenced    : List Nat := []
  mxtest    : Nat := 0
  devLaunch : List (List Word) := []
  spadUnits : Sparse Nat := []
  mstall    : Sparse Nat := []
  cstall    : Sparse Nat := []
deriving DecidableEq, Repr

/-! ### Installations and launches (04, 05) -/

/-- A kernel record (04 Table 4.2). -/
structure KernelRec where
  entry     : Nat
  trapEntry : Nat
  span      : Nat
  nDecl     : Nat
  nFab      : Nat
  nShape    : Nat
  groups    : Nat
  regs      : Nat
  maxWg     : Nat
  allow     : Nat
  spad      : Nat
  flags     : Nat
  engRate   : Nat
  bars      : List Nat
deriving DecidableEq, Repr

/-- A declaration record (04 R103, Table 4.3). -/
structure Decl where
  image  : Word256
  slot   : Nat
  dir    : Nat
  reside : Nat
  rate   : Nat
  width  : Nat
  chan   : Nat
  init   : Nat
  banks  : Word
deriving DecidableEq, Repr

/-- A fabric stream record (04 Table 4.4). -/
structure FabRec where
  stream   : Nat
  kind     : Nat
  destMode : Nat
  srcSlot  : Nat
  dest     : Nat
  rate     : Nat
  turns    : Word64
  port     : Nat
  laser    : Nat
  window   : Nat
deriving DecidableEq, Repr

/-- A kernel of an installation, with its position list and the sequence number of its next workgroup (05 R129, R130). -/
structure Kernel where
  record    : KernelRec
  decls     : List Decl
  fabs      : List FabRec
  shapes    : List Word512
  positions : List Position
  seqNext   : Nat
deriving DecidableEq, Repr

/-- One reserved instance of a record on a core in one direction and channel (04 R106, R110), with its slots on its
anchor, its counters (R123) and whether it is lost (R121). The anchor is a binary resource code (Table 4.5). -/
structure Inst where
  kernel  : Nat
  slot    : Nat
  core    : Nat
  write   : Bool
  channel : Nat
  anchor  : Nat
  slots   : List Nat
  waiting : List (Nat × Nat)
  used    : Nat
  donated : Nat
  late    : Nat
  align   : Nat
  lost    : Bool
deriving DecidableEq, Repr

/-- A placed fabric stream (04 R435, R436; 02 R47). -/
structure Stream where
  kernel : Nat
  fab    : FabRec
  dest   : Nat
  port   : Nat
  laser  : Nat
  lost   : Bool
deriving DecidableEq, Repr

/-- An installation (04 R98 to R121). `dieBase`, `pkgBase` and `podBase` are the first physical barrier objects at those
scopes, `spinNumber` counts its collective commands by die and scope (09 R256); `receives` are the slots its receive streams hold, by
resource, slot and turns (04 R436); `withdrawing` the dies it is leaving (10 R283). -/
structure Installation where
  handle     : Word
  fn         : Nat
  part       : Nat
  hash       : Word256
  textBase   : Nat
  kernels    : List Kernel
  pages      : List Page
  floor      : BitVec 9
  insts      : List Inst
  streams    : List Stream
  receives   : List (Nat × Nat × Word64)
  dieBase    : Nat
  pkgBase    : Nat
  podBase    : Nat
  pool       : Option Nat
  lost       : Bool
  streamLost : Bool
  removing   : Bool
  withdrawing : List Nat
  withdrawn  : List Nat
  events     : List Word
  evLost     : Bool
  impFail    : Nat
  effective  : Nat
  spinNumber : Sparse Nat
deriving DecidableEq, Repr

/-- A launch (03 R62 to R65, 05 R124 to R133). -/
structure Launch where
  id       : Nat
  handle   : Word
  kernel   : Nat
  fn       : Nat
  queue    : Nat
  index    : Nat
  flags    : Nat
  ctxBase  : Nat
  wgCount  : Nat
  groups   : Nat
  compAddr : Word64
  compVal  : Word64
  args     : List Word
  first    : Nat
  started  : List Nat
  retired  : List Nat
  status   : Nat
  frame    : Nat
  pusher   : Option (Nat × Nat)
  complete : Bool
deriving DecidableEq, Repr

/-! ### Host side (03) -/

/-- A launch queue's registers (03 R59, Table 3.4), with the tail last read and whether its line is held (R60). -/
structure LaunchQueue where
  base     : Word64 := 0
  tailAddr : Word64 := 0
  head     : Word := 0
  cfg      : Word := 0
  tail     : Word := 0
  held     : Bool := false
deriving DecidableEq, Repr

/-- A packet of a device launch queue (05 R136): its words, the release its closing push made, the core that pushed it and
the pushing installation. -/
structure DevPacket where
  words  : List Word
  op     : Nat
  core   : Nat
  handle : Word
deriving DecidableEq, Repr

/-- A function: its registers in its own BAR0 and in its block of the physical function's BAR0 (03 Tables 3.3, 3.11,
3.12, 3.17, 04 Table 4.1), the banks it still holds while it swaps out (R68), the pool it listed (R91), its device launch queue (05 R136), and its launches' order. -/
structure Fn where
  vfctl     : Word := 0
  leaving   : Nat := 0
  queues    : Sparse LaunchQueue := []
  instImg   : Word64 := 0
  instLen   : Word := 0
  instRpt   : Word64 := 0
  instHandle : Word := 0
  instCmd   : Word := 0
  evqBase   : Word64 := 0
  evqCfg    : Word := 0
  evqHead   : Word := 0
  evqTail   : Word := 0
  l2Quota   : Word := 6144
  chlBase   : Word64 := 0
  chlCount  : Word := 0
  poolBase  : Word64 := 0
  poolCount : Word := 0
  dumpMap   : Word := 0
  dumpOff   : Word := 0
  apOff     : Sparse Word64 := []
  apLen     : Sparse Word := []
  pool      : List Nat := []
  poolUsed  : List Nat := []
  devQueue  : List DevPacket := []
  nextQueue : Nat := 0
deriving DecidableEq, Repr

/-- A partition's registers (03 Table 3.6, 05 Tables 5.5 to 5.7, 07 Table 7.3), the FAR value that waits for a frame
boundary, the FAR in force, and the frame it became valid in. -/
structure Partition where
  cfg     : Word := 0x20000000
  actCfg  : Word := 0x10008000
  llsCfg  : Word := 0x00408000
  wdCfg   : Word := 0x01000000
  l2far   : Word := 4
  farNow  : Nat := 4
  since   : Nat := 0
  turn    : Nat := 0
deriving DecidableEq, Repr

/-- A host event record (03 Table 3.18). -/
structure HostEvent where
  code  : Nat
  fn    : Nat
  frame : Nat
  data0 : Word64
  data1 : Word64
  data2 : Word64
deriving DecidableEq, Repr

/-- What the device answers over SPDM (03 R82 to R84). -/
inductive SpdmAnswer where
  | version (v : Nat)
  | capabilities
  | algorithms
  | digests (n : Nat)
  | certificate (n : Nat)
  | signed (index : Nat) (value : Word256)
  | measurements (blocks : List (Nat × List Word256))
  | keyExchange (index : Nat) (value : Word256)
  | finished
  | keysUpdated
  | ended
  | error (code : Nat)
deriving DecidableEq, Repr

/-- The host's side of the device (03): link, functions, host memory the device reads or writes, vectors raised, dump,
SPDM, and the physical function's single registers. -/
structure HostSide where
  cxlUp      : Bool := false
  vfsVisible : Bool := false
  ide        : Bool := false
  ideKeys    : Bool := false
  fns        : Sparse Fn := []
  parts      : Sparse Partition := []
  mem        : List Host.Cell := []
  vectors    : List (Nat × Nat) := []
  partCmd    : Word := 0
  d2dfw      : Sparse Word := []
  fwDrop     : Sparse Nat := []
  regBind    : Word64 := 0
  lfAddr     : Word64 := 0
  lfData     : List Byte := []
  lfCmd      : Word := 0
  skMask     : Sparse Word256 := []
  l2cSel     : Word := 0
  resSel     : Word := 0
  barSel     : Word := 0
  berylSel   : Word := 0
  readBack   : List Byte := []
  dumpValid  : Bool := false
  dump       : List Host.Cell := []
  dumpDraw   : Nat := 0
  dumpKeys   : Sparse (Nat × Nat) := []
  eventLog   : List HostEvent := []
  handshakes : List Nat := []
  sessions   : List Nat := []
  xmssNext   : Nat := 0
  spdmOut    : List (Nat × SpdmAnswer) := []
deriving DecidableEq, Repr

/-! ### Fabric (02) -/

/-- The states of a transmit channel (02 Table 2.1). -/
inductive ChannelState where
  | free | tuning | standing | draining | slotted | revoked
deriving DecidableEq, Repr

/-- A channel of a pool (02 R22, R27, R36): its pool, state, destination, guard frames still to pass, and the flits of
its send queue, with the destination each is for. -/
structure Channel where
  pool  : Nat
  state : ChannelState := .free
  dest  : Nat := 0
  guard : Nat := 0
  queue : List (Nat × Flit) := []
deriving DecidableEq, Repr

/-- A lease pool (02 R27, R35, R49). -/
structure Pool where
  number  : Nat
  handle  : Word
  dests   : List Nat
  starved : List Nat := []
deriving DecidableEq, Repr

/-- The lease requests (02 R28; 15 R428, R431). -/
inductive LeaseKind where
  | lease | unlease | leaseq
  | slotset (entry : Word) (selector : Word)
deriving DecidableEq, Repr

/-- A lease request on its way to the controller (02 R28): its issuer's place and group, its operands, the operation
that waits for it (LEASEQ and SLOTSET), and the frame it was sent in. -/
structure LeaseReq where
  kind   : LeaseKind
  gid    : Nat
  rank   : Nat
  handle : Word
  dest   : Word
  count  : Word
  op     : Nat
  frame  : Nat
deriving DecidableEq, Repr

/-- A port (02 R38, R39, R41, R46, R51): whether it has failed, its ingress buffer, a column port's relay buffer, the pause
bits its ingress and its relay buffer ask for, the pause masks seen by the position that sent them, and the package its
collective laser is tuned to. -/
structure Port where
  failed     : Bool := false
  ingress    : List Flit := []
  relay      : List Flit := []
  pauseSent  : BitVec 64 := 0
  relayPause : BitVec 64 := 0
  pauseSeen  : Sparse (BitVec 64) := []
  collective : Option Nat := none
deriving DecidableEq, Repr

/-- An import entry (07 Table 7.5). -/
structure ImportEntry where
  handle : Word := 0
  length : Nat := 0
  valid  : Bool := false
  perm   : Nat := 0
  bar    : Nat := 0
  key    : Word := 0
  base   : Nat := 0
deriving DecidableEq, Repr

/-- A far line (07 R208, R209). -/
structure FarLine where
  addr   : Nat
  handle : Word
  key    : Word
  slice  : Nat
  bytes  : List Byte
  valid  : BitVec 128
  dirty  : BitVec 128
  stamp  : Nat
deriving DecidableEq, Repr

/-- The fabric side of the package (02, 07 R208 to R214): its coordinates and the packages present in the pod, whether it
has taken the reference's frame number (R26), its rotation and the reference's, channels by port × 16 + laser, slot-table
entries by channel × 64 + turn, pools, requests, ports; the acknowledgements and refusals of the next control frames as
(port, flit number); flits admitted to a channel and not acknowledged, with installation and port; requests that wait for a
channel, with installation and target; an allotment for a function's next installation (log 21); the channels revoked and not
yet dealt with; control frames sent and answers given. -/
structure Fabric where
  row       : Nat := 0
  column    : Nat := 0
  present   : List Nat := []
  joined    : Bool := false
  closed    : Bool := false
  rotcfg    : Word := 0xFC191000
  rotNext   : Option Word := none
  rotRef    : Option Word := none
  relayCfg  : Word := 0x0002AAAA
  channels  : Sparse Channel := []
  slots     : Sparse Word := []
  pools     : List Pool := []
  requests  : List LeaseReq := []
  ports     : Sparse Port := []
  acks      : List (Nat × Nat) := []
  refusals  : List (Nat × Nat) := []
  sent      : List (Word × Nat × Flit) := []
  pending   : Sparse (List Nat × List Nat) := []
  waiting   : List (Word × Nat × Flit) := []
  asked     : List (Nat × Nat × Word) := []
  seen      : List (Nat × Nat) := []
  imports   : Sparse ImportEntry := []
  far       : List FarLine := []
  revoked   : List Nat := []
  frames    : List (Nat × ControlFrame) := []
  answers   : List (Nat × List Byte) := []
deriving DecidableEq, Repr

/-! ### Memory, barriers, tickets, Spinel (07 to 09) -/

/-- A line the L2 holds (03 R71, R72; 07 R207). -/
structure L2Line where
  slice  : Nat
  addr   : Nat
  key    : Nat
  pinned : Bool
  stamp  : Nat
deriving DecidableEq, Repr

/-- Device memory and what guards it (01 R432, 03 R73 to R80). `bootSwept` is the next region of the sweep that
bring-up starts over all regions (01 R16 step 5), and `early` the regions behind it that are clean already (03 R76); `unscrubbed` lists 64 KiB pages, the whole of a bound region (03 R75) and
a page that returned to its pool (13 R375); `toScrub` is the scrubber's queue of regions. -/
structure DeviceMem where
  bytes      : List Host.Cell := []
  sram       : List Host.Cell := []
  poison     : List Nat := []
  regionKey  : Sparse Nat := []
  unscrubbed : List Nat := []
  toScrub    : List Nat := []
  bootSwept  : Nat := 0
  early      : List Nat := []
  keyLive    : List Nat := [0]
  keyGen     : Sparse Nat := []
  l2         : List L2Line := []
  windows    : List Window := []
deriving DecidableEq, Repr

/-- A barrier object (09 Table 9.1), with the phase of each group's latest arrival and the lanes counted into it
(R248), and the groups it adjusts for (R249). -/
structure Barrier where
  phase    : BitVec 16 := 0
  cmt      : Bool := false
  expArr   : Nat := 0
  arrCnt   : Nat := 0
  expBytes : Nat := 0
  byteCnt  : Int := 0
  arrived  : Sparse (Nat × Word) := []
  killed   : Sparse Nat := []
deriving DecidableEq, Repr

/-- A ticket dispenser (09 Table 9.3). -/
structure Dispenser where
  serving : Word := 0
  next    : Word := 0
deriving DecidableEq, Repr

/-- Landed bytes on their way to a barrier object: key of the object and count. -/
structure Landed where
  number : Nat
  object : Nat
  bytes  : Nat
deriving DecidableEq, Repr

/-- A command Spinel has popped and accepted, with the records it read (09 R257, 15 R406). -/
structure SpinCommand where
  die     : Nat
  gid     : Nat
  handle  : Word
  number  : Nat
  word    : Word
  src     : Word256
  dst     : Word256
  srcOff  : Nat
  dstOff  : Nat
  count   : Nat
  barrier : Word
deriving DecidableEq, Repr

/-- A collective (09 R256, R260): its commands in die order, the chunks done, whether a chunk was accepted unchecked,
whether the current chunk is being sent again (02 R54), and its result. -/
structure Collective where
  handle    : Word
  scope     : Nat
  number    : Nat
  commands  : List SpinCommand
  chunk     : Nat
  unchecked : Bool
  resent    : Bool
  result    : Option Nat
deriving DecidableEq, Repr

/-! ### Package (01) -/

/-- A supply's state (01 R11). -/
inductive SupplyState where
  | off | on
deriving DecidableEq, Repr

/-- How far bring-up has come (01 R16). -/
inductive BringUpState where
  | notRun
  | failed (step : Nat)
  | done
deriving DecidableEq, Repr

/-- The thermal shutdown record in Holbiong's flash (01 R13): the dump header's fields and the last 60 events. -/
structure ThermalRecord where
  header : List Byte
  events : List HostEvent
deriving DecidableEq, Repr

/-- Power, clock, bring-up, thermal state (01 R11 to R17); `supplyMissed` marks a supply that missed its window since the power
was last away, `supplyLog` is Holbiong's log of them; `powerOffBy` is the frame by which a thermal shutdown takes the power away. -/
structure Package where
  supplies     : List Supply := []
  rstAsserted  : Bool := true
  supplyMissed : Bool := false
  supplyLog    : List Supply := []
  bringUp      : BringUpState := .notRun
  pllLocked    : Bool := false
  frame        : Nat := 0
  holbiongHash : Word256 := 0
  firmwareHash : Word256 := 0
  mappedOut    : List Nat := []
  fusesBlown   : List Nat := []
  fencing      : List (Nat × Nat × Nat) := []
  thermal      : List Nat := []
  powerOffBy   : Option Nat := none
  thermalFlash : Option ThermalRecord := none
  mctpOut      : List ThermalRecord := []
deriving DecidableEq, Repr

/-! ### Garnet's tables (04 R107, R112) -/

/-- The counts of a resource window (03 Table 3.16). -/
structure ResourceCount where
  used   : Nat := 0
  donated : Nat := 0
  alw    : Nat := 0
  ctx    : Nat := 0
  idle   : Nat := 0
deriving DecidableEq, Repr

/-- Slots held by reservations, by resource code × 512 + slot, with the holder's handle; the counts of each resource;
resources out of use (01 R17, 04 R120); the handles given since the last host reset (R100). -/
structure Garnet where
  held      : Sparse Word := []
  counts    : Sparse ResourceCount := []
  unusable  : List Nat := []
  handles   : List Word := []
deriving DecidableEq, Repr

/-! ### The whole machine -/

/-- Which agent moves next: a step of the opcode table with its subject, or the next instruction of a rail. -/
inductive Turn where
  | event (step : Instr) (x y z : Nat)
  | issue (core rail : Nat)
deriving DecidableEq, Repr

/-- The subject of a step that carries no operands: an operation, a core, a group and so on, as its row says. -/
structure Subject where
  x : Nat := 0
  y : Nat := 0
  z : Nat := 0
deriving DecidableEq, Repr

/-- The state of a K7 package; `dropped` names the requests whose flit the firewall has dropped (03 R67), by operation or commit
number and address. -/
structure State where
  agenda    : List Turn
  turn      : Subject
  cur       : Option Nat
  freeCtr   : Nat
  nextId    : Nat
  pkg       : Package
  host      : HostSide
  fab       : Fabric
  garnet    : Garnet
  installs  : List Installation
  launches  : List Launch
  groups    : List Group
  cores     : Sparse Core
  ops       : List OutOp
  commits   : List Commit
  transfers : List Transfer
  dieTlb    : Sparse (List TlbEntry)
  faults    : Sparse (List (Nat × Nat))
  mem       : DeviceMem
  bars      : Sparse Barrier
  landed    : List Landed
  dropped   : List (Nat × Nat)
  tickets   : Sparse Dispenser
  spin      : List SpinCommand
  collect   : List Collective
deriving DecidableEq, Repr

/-- Why the machine stops with a fault. Every fault below is safe: the machine stops where the hardware would not be. -/
inductive Fault where
  /-- An instruction was executed with no group issuing it: raised by the instruction frame when `cur` names no group.
  No turn of the machine does this. Safe: the model stops. -/
  | noIssuingGroup
deriving DecidableEq, Repr

/-- Why the machine refuses a step. -/
inductive Refusal where
  /-- The instruction has no meaning yet: raised by the dispatch alone. Safe: the model stops. -/
  | notModelled (mnemonic : String)
  /-- A turn names an instruction of the opcode map as if it were a step of another agent: raised by the step. Only an
  instruction fetched from memory issues. Safe: the model stops. -/
  | notAStep
deriving DecidableEq, Repr

/-- The machine right after a power-on reset (01 Table 1.3: everything cleared but the fuses), each register at the
value the spec states or the log names. -/
def State.reset : State where
  agenda := []
  turn := {}
  cur := none
  freeCtr := 0
  nextId := 1
  pkg := {}
  host := {}
  fab := {}
  garnet := {}
  installs := []
  launches := []
  groups := []
  cores := []
  ops := []
  commits := []
  transfers := []
  dieTlb := []
  faults := []
  mem := {}
  bars := []
  landed := []
  dropped := []
  tickets := []
  spin := []
  collect := []

end Sys2Proof.Machine
end

