-- ==== Sys2Proof/Machine/Sparse.lean ====
section
/-!
DEFINITION. Tables by number in canonical form: reading, writing and the form itself. Memory, registers and every other
sparse table of the state go through these three operations.
-/
namespace Sys2Proof.Machine

/-- The entry at a key; an unlisted key reads as the default. -/
def Sparse.get {α : Type} (dflt : α) : Sparse α → Nat → α
  | [], _ => dflt
  | (k, v) :: rest, i => if k = i then v else Sparse.get dflt rest i

/-- Takes the entry at a key out. -/
def Sparse.drop {α : Type} (m : Sparse α) (i : Nat) : Sparse α := m.filter (fun e => e.1 != i)

/-- Puts an entry at its place among rising keys. -/
def Sparse.put {α : Type} : Sparse α → Nat → α → Sparse α
  | [], i, v => [(i, v)]
  | (k, w) :: rest, i, v =>
    if i < k then (i, v) :: (k, w) :: rest
    else if i = k then (i, v) :: rest
    else (k, w) :: Sparse.put rest i v

/-- Writes the entry at a key; writing the default takes the key out. -/
def Sparse.set {α : Type} [DecidableEq α] (dflt : α) (m : Sparse α) (i : Nat) (v : α) : Sparse α :=
  if v = dflt then Sparse.drop m i else Sparse.put m i v

/-- Every key lies above a bound, keys rise, and no entry is the default. -/
def Sparse.wfAbove {α : Type} [DecidableEq α] (dflt : α) : Option Nat → Sparse α → Bool
  | _, [] => true
  | b, (k, v) :: rest =>
    (match b with | none => true | some n => decide (n < k)) && decide (v ≠ dflt) && Sparse.wfAbove dflt (some k) rest

/-- The canonical form. -/
def Sparse.wf {α : Type} [DecidableEq α] (dflt : α) (m : Sparse α) : Bool := Sparse.wfAbove dflt none m

/-- Changes the entry at a key by a function. -/
def Sparse.alter {α : Type} [DecidableEq α] (dflt : α) (m : Sparse α) (i : Nat) (f : α → α) : Sparse α :=
  Sparse.set dflt m i (f (Sparse.get dflt m i))

/-- Takes out the keys a test refuses; what stays keeps its form. -/
def Sparse.keep {α : Type} (p : Nat → Bool) (m : Sparse α) : Sparse α := m.filter (fun e => p e.1)

/-- Changes every listed entry. -/
def Sparse.mapAll {α : Type} [DecidableEq α] (dflt : α) (m : Sparse α) (f : Nat → α → α) : Sparse α :=
  (m.map (fun e => (e.1, f e.1 e.2))).filter (fun e => e.2 != dflt)

/-- A byte of a memory; an unlisted byte reads 0 (log 7). -/
def Memory.read (m : List Host.Cell) (a : Nat) : Byte := Sparse.get (α := Byte) 0#8 m a

/-- Writes a byte of a memory. -/
def Memory.write (m : List Host.Cell) (a : Nat) (b : Byte) : List Host.Cell := Sparse.set (α := Byte) 0#8 m a b

/-- The canonical form of a memory: addresses strictly rising, no byte equal to what an unlisted address reads as. -/
def Memory.wf (m : List Host.Cell) : Bool := Sparse.wf (α := Byte) 0#8 m

/-- Bytes from an address on. -/
def Memory.readBytes (m : List Host.Cell) (a : Nat) : Nat → List Byte
  | 0 => []
  | n + 1 => Memory.read m a :: Memory.readBytes m (a + 1) n

/-- Writes bytes from an address on. -/
def Memory.writeBytes (m : List Host.Cell) (a : Nat) : List Byte → List Host.Cell
  | [] => m
  | b :: bs => Memory.writeBytes (Memory.write m a b) (a + 1) bs

/-- Writes the bytes that a mask names (bit i for byte i). -/
def Memory.writeMasked (m : List Host.Cell) (a : Nat) (mask : Nat) : List Byte → List Host.Cell
  | [] => m
  | b :: bs => Memory.writeMasked (if mask % 2 = 1 then Memory.write m a b else m) (a + 1) (mask / 2) bs

/-- Writes the bits that a mask names into a run of bytes, low bit of the lowest byte first (07 R199, R201). -/
def Memory.writeBits (m : List Host.Cell) (a : Nat) (mask data : Nat) : Nat → List Host.Cell
  | 0 => m
  | n + 1 =>
    let mb := BitVec.ofNat 8 mask
    let m' := if mb = 0#8 then m
      else Memory.write m a ((Memory.read m a &&& ~~~mb) ||| (BitVec.ofNat 8 data &&& mb))
    Memory.writeBits m' (a + 1) (mask / 256) (data / 256) n

/-- Zeroes a range. -/
def Memory.clear (m : List Host.Cell) (a n : Nat) : List Host.Cell :=
  m.filter (fun c => c.1 < a || a + n ≤ c.1)

/-- Puts an element into a rising list without repeats. -/
def insertSorted (x : Nat) : List Nat → List Nat
  | [] => [x]
  | y :: ys => if x < y then x :: y :: ys else if x = y then y :: ys else y :: insertSorted x ys

end Sys2Proof.Machine
end

