-- ==== Sys2Proof/Machine/Lookup.lean ====
section
/-!
DEFINITION. Finding and replacing the parts of the state: groups, cores, rails, installations, kernels, launches,
functions, partitions, operations; the lane masks and the MODE fields. Every meaning reads and writes the state through
these.
-/
namespace Sys2Proof.Machine

/-! ### Lanes (06 R151) -/

/-- The lanes of a mask, ascending. -/
def laneList (m : Word) : List Nat := (List.range 32).filter (fun t => m.getLsbD t)

/-- The mask of one lane. -/
def laneBit (t : Nat) : Word := 1#32 <<< t

/-- The mask of a list of lanes. -/
def maskOf : List Nat → Word
  | [] => 0#32
  | t :: ts => laneBit t ||| maskOf ts

/-! ### Parts by number -/

/-- Replaces the first element a test picks. -/
def replaceFirst {α : Type} (p : α → Bool) (x : α) : List α → List α
  | [] => []
  | y :: ys => if p y then x :: ys else y :: replaceFirst p x ys

/-- The group with a number. -/
def State.group? (s : State) (gid : Nat) : Option Group := s.groups.find? (fun g => g.gid == gid)

/-- The core of a group. -/
def State.coreOf (s : State) (gid : Nat) : Nat := match s.group? gid with | none => 0 | some g => g.core

/-- Puts a group back in its place. -/
def State.putGroup (s : State) (g : Group) : State :=
  { s with groups := replaceFirst (fun h => h.gid == g.gid) g s.groups }

/-- Changes the group with a number, if there is one. -/
def State.onGroup (s : State) (gid : Nat) (f : Group → Group) : State :=
  match s.group? gid with
  | none => s
  | some g => s.putGroup (f g)

/-- A core of the package. -/
def State.core (s : State) (c : Nat) : Core := Sparse.get {} s.cores c

/-- Puts a core back. -/
def State.putCore (s : State) (c : Nat) (k : Core) : State := { s with cores := Sparse.set {} s.cores c k }

/-- Changes a core. -/
def State.onCore (s : State) (c : Nat) (f : Core → Core) : State := s.putCore c (f (s.core c))

/-- A rail of a core. -/
def State.rail (s : State) (c r : Nat) : Rail := Sparse.get {} (s.core c).rails r

/-- Changes a rail. -/
def State.onRail (s : State) (c r : Nat) (f : Rail → Rail) : State :=
  s.onCore c (fun k => { k with rails := Sparse.alter {} k.rails r f })

/-- The rail of a seat (05 R138). -/
def railOfSeat (seat : Nat) : Nat := seat % Config.rails

/-- The die of a core (01 R9). -/
def dieOfCore (c : Nat) : Nat := c / Config.coresPerDie

/-- The quad of a core, over the package. -/
def quadOfCore (c : Nat) : Nat := c / 4

/-- The installation with a handle. -/
def State.inst? (s : State) (h : Word) : Option Installation := s.installs.find? (fun i => i.handle == h)

/-- Puts an installation back. -/
def State.putInst (s : State) (i : Installation) : State :=
  { s with installs := replaceFirst (fun j => j.handle == i.handle) i s.installs }

/-- Changes the installation with a handle, if there is one. -/
def State.onInst (s : State) (h : Word) (f : Installation → Installation) : State :=
  match s.inst? h with
  | none => s
  | some i => s.putInst (f i)

/-- The number of the lost stream that 02 R48 reports: the lowest (log 22). -/
def Installation.lostStreamNo (i : Installation) : Nat :=
  ((i.streams.filter (fun st => st.lost)).map (fun st => st.fab.stream)).foldl min 63

/-- A kernel of an installation. -/
def Installation.kernel? (i : Installation) (k : Nat) : Option Kernel := i.kernels[k]?

/-- The kernel of a group. -/
def State.kernelOf (s : State) (g : Group) : Option Kernel :=
  match s.inst? g.ctl.handle with
  | none => none
  | some i => i.kernel? g.kernel

/-- The kernel record of a group; a group of a removed installation finds an empty one, which no group has
(an installation outlives its groups, 04 R101). -/
def State.recordOf (s : State) (g : Group) : KernelRec :=
  match s.kernelOf g with
  | none => ⟨0, 0, 0, 0, 0, 0, 0, 0, 0, 0, 0, 0, 0, []⟩
  | some k => k.record

/-- The launch with a number. -/
def State.launch? (s : State) (n : Nat) : Option Launch := s.launches.find? (fun l => l.id == n)

/-- Puts a launch back. -/
def State.putLaunch (s : State) (l : Launch) : State :=
  { s with launches := replaceFirst (fun m => m.id == l.id) l s.launches }

/-- Changes the launch with a number, if there is one. -/
def State.onLaunch (s : State) (n : Nat) (f : Launch → Launch) : State :=
  match s.launch? n with
  | none => s
  | some l => s.putLaunch (f l)

/-- The registers of a function. -/
def State.fn (s : State) (v : Nat) : Fn := Sparse.get {} s.host.fns v

/-- Changes the registers of a function. -/
def State.onFn (s : State) (v : Nat) (f : Fn → Fn) : State :=
  { s with host := { s.host with fns := Sparse.alter {} s.host.fns v f } }

/-- A partition's registers. -/
def State.part (s : State) (p : Nat) : Partition := Sparse.get {} s.host.parts p

/-- Changes a partition's registers. -/
def State.onPart (s : State) (p : Nat) (f : Partition → Partition) : State :=
  { s with host := { s.host with parts := Sparse.alter {} s.host.parts p f } }

/-- An outstanding operation. -/
def State.op? (s : State) (id : Nat) : Option OutOp := s.ops.find? (fun o => o.id == id)

/-- Puts an operation back. -/
def State.putOp (s : State) (o : OutOp) : State :=
  { s with ops := replaceFirst (fun p => p.id == o.id) o s.ops }

/-- Ends an operation. -/
def State.dropOp (s : State) (id : Nat) : State := { s with ops := s.ops.filter (fun o => o.id != id) }

/-- Changes device memory and what guards it. -/
def State.onMem (s : State) (f : DeviceMem → DeviceMem) : State := { s with mem := f s.mem }

/-- Changes the fabric side. -/
def State.onFab (s : State) (f : Fabric → Fabric) : State := { s with fab := f s.fab }

/-- Changes the host side. -/
def State.onHost (s : State) (f : HostSide → HostSide) : State := { s with host := f s.host }

/-- Changes the package. -/
def State.onPkg (s : State) (f : Package → Package) : State := { s with pkg := f s.pkg }

/-- Changes a group's control area. -/
def Group.onCtl (g : Group) (f : Control → Control) : Group := { g with ctl := f g.ctl }

/-- Changes a group's counters. -/
def Group.count (g : Group) (f : GroupCounters → GroupCounters) : Group := { g with counters := f g.counters }

/-! ### Fields of registers -/

/-- Bits [hi:lo] of a word, as a number. -/
def wbits {w : Nat} (x : BitVec w) (hi lo : Nat) : Nat := bitsOf x.toNat hi lo

/-- A bit of a word. -/
def wbit {w : Nat} (x : BitVec w) (i : Nat) : Bool := x.getLsbD i

/-- MODE.GUARD (12 Table 12.5). -/
def modeGuard (m : Word) : Nat := wbits m 31 24
/-- MODE.GSENSE. -/
def modeSense (m : Word) : Bool := wbit m 23
/-- MODE.TYPE. -/
def modeType (m : Word) : Nat := wbits m 22 19
/-- MODE.RND. -/
def modeRnd (m : Word) : Nat := wbits m 18 16
/-- The trap enables IVE, DZE, OFE, UFE, NXE in FPSTAT bit order. -/
def modeTraps (m : Word) : BitVec 5 := m.extractLsb' 11 5
/-- MODE.SAT. -/
def modeSat (m : Word) : Bool := wbit m 10
/-- MODE.CVTW. -/
def modeWrap (m : Word) : Bool := wbit m 9
/-- MODE.SATTRAP. -/
def modeSatTrap (m : Word) : Bool := wbit m 8
/-- MODE.CPOL. -/
def modeCpol (m : Word) : Nat := wbits m 7 6

/-- VFCTL.EN (03 Table 3.3). -/
def Fn.enabled (f : Fn) : Bool := wbit f.vfctl 31
/-- VFCTL.PART. -/
def Fn.part (f : Fn) : Nat := wbits f.vfctl 30 28
/-- VFCTL.BANKS. -/
def Fn.banks (f : Fn) : Nat := wbits f.vfctl 23 16
/-- VFCTL.GATE. -/
def Fn.gate (f : Fn) : Bool := wbit f.vfctl 15

/-- PARTCFG.V (03 Table 3.6). -/
def Partition.valid (p : Partition) : Bool := wbit p.cfg 31
/-- PARTCFG.ASHARE. -/
def Partition.ashare (p : Partition) : Nat := wbits p.cfg 30 28
/-- The dies of a partition. -/
def Partition.dies (p : Partition) : List Nat := (List.range 8).filter (fun d => wbit p.cfg (8 + d))

/-- The partition that holds a die. -/
def State.partOfDie (s : State) (die : Nat) : Option Nat :=
  (List.range 8).find? (fun p => (s.part p).valid && (s.part p).dies.contains die)

/-- D2DFW.OPEN of a die as it reads: no bit for the die itself, nor for a die outside its partition (03 R67). -/
def State.openOf (s : State) (die : Nat) : Word :=
  let kept := match s.partOfDie die with
    | none => 0#32
    | some p => maskOf ((s.part p).dies.filter (· != die))
  Sparse.get 0#32 s.host.d2dfw die &&& kept

/-- Whether a die-to-die crossing carries traffic: OPEN is set at both ends (03 R67). -/
def State.crossing (s : State) (d e : Nat) : Bool := d == e || (wbit (s.openOf d) e && wbit (s.openOf e) d)

/-- Whether a die is thermally gated or its tenant's issue gate is set (01 R13, 03 R69). -/
def State.gated (s : State) (g : Group) : Bool := (s.fn g.fn).gate || s.pkg.thermal.contains (dieOfCore g.core)

/-- Whether a group's tenant is resident: it holds banks (03 Table 3.7). The key-0 groups of the
physical function are always resident. -/
def State.resident (s : State) (g : Group) : Bool := g.fn == 0 || ((s.fn g.fn).banks != 0)

/-- Live lanes: EXIST and not DEAD (13 Table 13.1). -/
def Control.live (c : Control) : Word := c.exist &&& ~~~c.dead

/-- Draws a fresh counter for a free value (log 2). -/
def State.tick (s : State) : State := { s with freeCtr := s.freeCtr + 1 }

/-- Takes a fresh number for an operation, a commit, a transfer, a group or a launch. -/
def State.fresh (s : State) : Nat × State := (s.nextId, { s with nextId := s.nextId + 1 })

end Sys2Proof.Machine
end

