-- ==== Sys2Proof/Machine/Record.lean ====
section
/-!
DEFINITION. Buffer records (07 Table 7.1): their fields, which images are invalid (R195), how an index becomes an address
(R196, R197), and the flat byte range an engine sees (R217, R218).
-/
namespace Sys2Proof.Machine

/-- The fields of a buffer record (07 Table 7.1). -/
structure BufRec where
  key      : Word
  space    : Nat
  stream   : Nat
  remote   : Bool
  scope    : Nat
  cpol     : Nat
  clamp    : Bool
  reserved : Bool
  swz      : Nat
  esize    : Nat
  stride   : Nat
  extent   : Nat
  base     : Nat
deriving DecidableEq, Repr

/-- Reads a record image. -/
def bufRec (x : Word256) : BufRec where
  key := x.extractLsb' 224 32
  space := wbits x 167 166
  stream := wbits x 165 160
  remote := wbit x 159
  scope := wbits x 158 156
  cpol := wbits x 155 154
  clamp := wbit x 153
  reserved := wbit x 152
  swz := wbits x 151 148
  esize := wbits x 147 144
  stride := wbits x 143 112
  extent := wbits x 103 64
  base := wbits x 63 0

/-- Writes a record image from its fields. -/
def BufRec.image (r : BufRec) : Word256 :=
  r.key ++ 0#56 ++ BitVec.ofNat 2 r.space ++ BitVec.ofNat 6 r.stream ++ BitVec.ofBool r.remote ++
    BitVec.ofNat 3 r.scope ++ BitVec.ofNat 2 r.cpol ++ BitVec.ofBool r.clamp ++ BitVec.ofBool r.reserved ++
    BitVec.ofNat 4 r.swz ++ BitVec.ofNat 4 r.esize ++ BitVec.ofNat 32 r.stride ++ 0#8 ++ BitVec.ofNat 40 r.extent ++
    BitVec.ofNat 64 r.base

/-- A packed record: elements of 4 or 6 bits (07 R196). -/
def BufRec.packed (r : BufRec) : Bool := r.esize < 2

/-- Bits of a packed element. -/
def BufRec.width (r : BufRec) : Nat := if r.esize = 0 then 4 else 6

/-- The words of an image, low word first. -/
def imageWords (x : Word256) : List Word := (List.range 8).map (fun j => x.extractLsb' (32 * j) 32)

/-- The image of eight words, low word first. -/
def imageOfWords (ws : List Word) : Word256 := BitVec.ofNat 256 (ws.foldr (fun w n => w.toNat + 2 ^ 32 * n) 0)

/-- The words of an image that contain a fault, word 0 in bit 0; 0 for a valid image (07 R195). A fault of a field marks
every word that holds a bit of the field. -/
def imageFaults (x : Word256) : Nat :=
  let r := bufRec x
  let packing := r.packed && (r.stride != 0 || r.swz != 0)
  let w1 := !r.remote && r.space == 0 && decide (r.base ≥ 2 ^ 57)
  let w3 := wbits x 111 104 != 0 || (r.packed && r.stride != 0)
  let w4 := decide (r.scope ≥ 6) || decide (r.swz ≥ 6) || decide (r.esize ≥ 7) || packing ||
    (r.remote && (r.space != 0 || r.reserved)) || (r.space != 0 && decide (r.scope > 2))
  let w5 := wbits x 191 168 != 0 || r.space == 3 || (r.remote && r.space != 0) ||
    (r.space != 0 && decide (r.scope > 2))
  let w6 := wbits x 223 192 != 0
  w1.toNat * 2 + w3.toNat * 8 + w4.toNat * 16 + w5.toNat * 32 + w6.toNat * 64

/-- Whether an image is valid. -/
def imageValid (x : Word256) : Bool := imageFaults x == 0

/-- Flips bits [lo + n − 1 : lo] of an offset by bits [src + n − 1 : src]. -/
def xorField (off lo n src : Nat) : Nat := off ^^^ (((off >>> src) % 2 ^ n) <<< lo)

/-- Swizzle codes (07 Table 7.2). -/
def swizzle (code off : Nat) : Nat :=
  match code with
  | 1 => xorField off 4 3 7
  | 2 => xorField off 4 3 8
  | 3 => xorField off 4 3 9
  | 4 => xorField off 4 3 10
  | 5 => xorField off 2 5 7
  | _ => off

/-- The byte address of an element and, for a packed record, the bit it starts at (07 R196). Addresses stay within 64
bits. -/
def BufRec.addrOf (r : BufRec) (idx : Nat) : Nat × Nat :=
  if r.packed then
    let bit := idx * r.width
    ((r.base + bit / 8) % 2 ^ 64, bit % 8)
  else ((r.base + swizzle r.swz (idx * r.stride)) % 2 ^ 64, 0)

/-- The record as a flat byte range (07 R217). -/
def BufRec.range (r : BufRec) : Nat :=
  if r.packed then ceilDiv (r.extent * r.width) 8 else r.extent * r.stride

/-- The address of a byte of the flat range: the swizzle applies to each 4-byte word's offset (07 R217, R218). -/
def BufRec.byteAddr (r : BufRec) (off : Nat) : Nat :=
  (r.base + swizzle r.swz (off / 4 * 4) + off % 4) % 2 ^ 64

end Sys2Proof.Machine
end

