-- ==== Sys2Proof/Machine/Store.lean ====
section
/-!
DEFINITION. Memory at its homes: pages and translation (07 R210, R211; 04 R105), regions and scrubbing (03 R75, R76), the
committed bytes of HBM, scratchpad and far lines, poison (03 R78 to R80), the L1 with the victim tags (07 R206, R215;
05 R144), the L2's lines and quotas (03 R71, R72), and the way a commit in flight reads (08 R227).
-/
namespace Sys2Proof.Machine

/-! ### Pages (07 R210, R211; 04 R105) -/

/-- The physical address of a byte at an offset of a page's target: a plain run, or line i of a stripe in channel
i mod WIDTH at line ⌊i / WIDTH⌋ of the 64 KiB pages taken there (04 R105). -/
def PageTarget.phys : PageTarget → Nat → Nat
  | .plain a, off => a + off
  | .stripe w pages, off =>
    let line := off / 128
    let place := line / w
    (((pages.getD (line % w) []).getD (place / 512) 0) + place % 512 * 128) + off % 128

/-- The page that holds a virtual address. -/
def Installation.page? (i : Installation) (va : Nat) : Option Page :=
  i.pages.find? (fun p => decide (p.va ≤ va) && decide (va < p.va + p.size))

/-- The page of an address space that holds a virtual address. -/
def State.page? (s : State) (handle : Word) (va : Nat) : Option Page :=
  match s.inst? handle with
  | none => none
  | some i => i.page? va

/-- The physical address a page gives a virtual address. -/
def Page.phys (p : Page) (va : Nat) : Nat := p.target.phys (va - p.va)

/-- The kinds of access that translation tells apart (07 R211). -/
inductive AccessKind where
  | read | write | atomic | fetch
deriving DecidableEq, Repr

/-- Whether a page permits an access; a share-key page is read-only to tenants (03 R74). -/
def Page.permits (p : Page) : AccessKind → Bool
  | .read => p.r
  | .write => p.w && !p.shr
  | .atomic => p.w && !p.shr
  | .fetch => p.x

/-- INFO1 of a page fault but for bit 8 (06 Table 6.5). -/
def AccessKind.info : AccessKind → Nat
  | .read => 1
  | .write => 2
  | .atomic => 6
  | .fetch => 1

/-- The outcome of translating an address. -/
inductive Translation where
  | ok (phys : Nat) (page : Page)
  | absent
  | denied
deriving DecidableEq, Repr

/-- Translates an address (07 R211). -/
def State.translate (s : State) (handle : Word) (va : Nat) (k : AccessKind) : Translation :=
  match s.page? handle va with
  | none => .absent
  | some p => if p.permits k then .ok (p.phys va) p else .denied

/-! ### Regions (03 R73 to R77) -/

/-- The 2 MiB region of a physical address. -/
def regionOf (phys : Nat) : Nat := phys / Config.regionBytes

/-- The 64 KiB pages of a region. -/
def pagesOfRegion (region : Nat) : List Nat := (List.range 32).map (fun i => 32 * region + i)

/-- Whether the page of a physical address has been scrubbed since its region was bound or it returned to a pool, and
since bring-up (03 R75, 13 R375, 01 R16 step 5). -/
def DeviceMem.clean (m : DeviceMem) (phys : Nat) : Bool :=
  (decide (regionOf phys < m.bootSwept) || m.early.contains (regionOf phys)) && !m.unscrubbed.contains (phys / Config.pageBytes)

/-- Marks pages unscrubbed and queues a region for the scrubber (03 R75). -/
def DeviceMem.soil (m : DeviceMem) (pages : List Nat) (region : Nat) : DeviceMem :=
  { m with
    unscrubbed := pages.foldl (fun l p => insertSorted p l) m.unscrubbed
    toScrub := if m.toScrub.contains region then m.toScrub else m.toScrub ++ [region] }

/-- The key id of a physical address. -/
def DeviceMem.keyOf (m : DeviceMem) (phys : Nat) : Nat := Sparse.get 0 m.regionKey (regionOf phys)

/-- Moves a region to the head of the scrubber's queue (03 R76). -/
def DeviceMem.promote (m : DeviceMem) (region : Nat) : DeviceMem :=
  { m with toScrub := region :: m.toScrub.filter (· != region) }

/-- Zeroes a 64 KiB page and clears its poison: every line is stored whole (03 R75, R80). -/
def DeviceMem.zeroPage (m : DeviceMem) (page : Nat) : DeviceMem :=
  { m with
    bytes := Memory.clear m.bytes (page * Config.pageBytes) Config.pageBytes
    poison := m.poison.filter (fun a => a / Config.pageBytes != page)
    unscrubbed := m.unscrubbed.filter (· != page) }

/-- Scrubs what is still unscrubbed of a region, and takes it out of the scrubber's queue (03 R75, R76; 01 R16 step 5). -/
def DeviceMem.scrub (m : DeviceMem) (region : Nat) : DeviceMem :=
  let swept := decide (region < m.bootSwept) || m.early.contains region
  let pages := (pagesOfRegion region).filter (fun p => !swept || m.unscrubbed.contains p)
  let m1 := pages.foldl DeviceMem.zeroPage m
  { m1 with
    toScrub := m1.toScrub.filter (· != region)
    early := if swept then m1.early else insertSorted region m1.early }

/-! ### Bytes at home -/

/-- The handle's far line of a fabric address (07 R208). -/
def Fabric.farLine? (f : Fabric) (handle key : Word) (a : Nat) : Option FarLine :=
  f.far.find? (fun l => l.handle == handle && l.key == key && l.addr == a / 128 * 128)

/-- A committed byte at its home: HBM by physical address, scratchpad by its SRAM address, a far line by fabric
address. -/
def State.homeByte (s : State) (space : Space) (phys : Nat) : Byte :=
  match space with
  | .virt _ => Memory.read s.mem.bytes phys
  | .sram => Memory.read s.mem.sram phys
  | .fabric h k =>
    match s.fab.farLine? h k phys with
    | none => 0#8
    | some l => if l.valid.getLsbD (phys % 128) then l.bytes.getD (phys % 128) 0#8 else 0#8

/-- A run of committed bytes. -/
def State.homeBytes (s : State) (space : Space) (phys : Nat) : Nat → List Byte
  | 0 => []
  | n + 1 => s.homeByte space phys :: s.homeBytes space (phys + 1) n

/-- The byte a 128-bit image holds at an offset. -/
def byteAt (x : BitVec 128) (off : Nat) : Byte := x.extractLsb' (8 * off) 8

/-- A byte changed by the bits of a store that fall in it. -/
def mergeByte (old bits data : Byte) : Byte := (old &&& ~~~bits) ||| (data &&& bits)

/-- Merges a 16-byte store into a run of bytes that starts at an address (08 R227). -/
def mergeBlock (start block : Nat) (bits data : BitVec 128) : List Byte → List Byte
  | [] => []
  | b :: bs =>
    (if block ≤ start ∧ start < block + 16 then
      mergeByte b (byteAt bits (start - block)) (byteAt data (start - block)) else b) ::
        mergeBlock (start + 1) block bits data bs

/-- The bytes of a run as the core that owns commits in flight sees them (08 R227), without the commits that a test
leaves out (15 R409). -/
def State.coreBytes (s : State) (core : Nat) (space : Space) (addr : Nat) (skip : Commit → Bool) (home : List Byte) :
    List Byte :=
  s.commits.foldl (fun bs c =>
    if c.core == core && c.space == space && c.quantum.isNone && c.accepted && !skip c then mergeBlock addr c.block c.bits c.data bs else bs) home

/-! ### The L2's lines (03 R71, R72; 07 R207) -/

/-- The home slice of a physical address (01 R432). -/
def sliceOf (phys : Nat) : Nat := phys / Config.channelBytes % Config.channels

/-- The most lines a key may hold in a slice; the keys without a quota hold what fits (03 R71). -/
def State.l2Quota (s : State) (key : Nat) : Nat :=
  if 1 ≤ key ∧ key ≤ 256 then min 6144 (wbits (s.fn key).l2Quota 12 0) else 6144

/-- The lines of a key in a slice. -/
def DeviceMem.l2Count (m : DeviceMem) (slice key : Nat) : Nat :=
  (m.l2.filter (fun l => l.slice == slice && l.key == key)).length

/-- The least recently used line of a list that is not pinned. -/
def l2Oldest (ls : List L2Line) : Option L2Line :=
  ls.foldl (fun best l =>
    if l.pinned then best else
      match best with
      | none => some l
      | some b => if l.stamp < b.stamp then some l else some b) none

/-- The ways of a slice that hold local lines (07 R208). -/
def State.localWays (s : State) (slice : Nat) : Nat :=
  match (List.range 8).find? (fun p => (s.part p).valid && (s.part p).dies.contains (slice / 64)) with
  | none => 24
  | some p => 24 - min 8 (s.part p).farNow

/-- An access to a line at its home slice: a hit, or a fill that chooses its victim by 03 R72. -/
def State.touchL2 (s : State) (phys : Nat) : State :=
  let line := phys / 128 * 128
  let slice := sliceOf line
  let key := s.mem.keyOf line
  let now : L2Line := ⟨slice, line, key, false, s.freeCtr⟩
  match s.mem.l2.find? (fun l => l.addr == line) with
  | some l => s.onMem (fun m => { m with l2 := replaceFirst (fun k => k.addr == line) { l with stamp := s.freeCtr } m.l2 })
  | none =>
    let set := s.mem.l2.filter (fun l => l.slice == slice && Config.l2Set l.addr == Config.l2Set line)
    if set.length < s.localWays slice then s.onMem (fun m => { m with l2 := m.l2 ++ [now] })
    else
      let surplus := set.filter (fun l => decide (s.mem.l2Count slice l.key > s.l2Quota l.key))
      let own := set.filter (fun l => l.key == key)
      let victim :=
        match l2Oldest surplus with
        | some v => some v
        | none =>
          if s.l2Quota key ≤ s.mem.l2Count slice key ∧ (l2Oldest own).isSome then l2Oldest own else l2Oldest set
      match victim with
      | none => s
      | some v => s.onMem (fun m => { m with l2 := m.l2.filter (fun l => l.addr != v.addr) ++ [now] })

/-! ### The firewall (03 R67) -/

/-- The slice that keeps the far line of a fabric address: number (A[43:7] mod n) of the partition's usable slices
(07 R208). -/
def State.farSlice (s : State) (part : Nat) (addr : Nat) : Nat :=
  let usable := ((s.part part).dies.flatMap (fun d => (List.range 64).map (fun i => 64 * d + i))).filter
    (fun c => !s.pkg.mappedOut.contains c)
  usable.getD (bitsOf addr 43 7 % max 1 usable.length) 0

/-- The die whose slices hold a line: stacks 2n and 2n + 1 are die n's (01 R9). -/
def State.homeDie (s : State) (space : Space) (phys : Nat) : Option Nat :=
  match space with
  | .virt _ => some (sliceOf phys / 64)
  | .sram => none
  | .fabric h _ => some (s.farSlice (match s.inst? h with | none => 0 | some i => i.part) phys / 64)

/-- Whether a request of a core passes the firewall on its way to the home of a line. -/
def State.passes (s : State) (core : Nat) (space : Space) (phys : Nat) : Bool :=
  match s.homeDie space phys with
  | none => true
  | some d => s.crossing (dieOfCore core) d

/-- Whether the firewall has dropped a flit of a load's line, an atomic's request or a store, by number and address. -/
def State.lostFlit (s : State) (id addr : Nat) : Bool := s.dropped.contains (id, addr)

/-! ### Writing at home -/

/-- Whether the line of a physical address is poisoned. -/
def DeviceMem.poisoned (m : DeviceMem) (phys : Nat) : Bool := m.poison.contains (phys / 128 * 128)

/-- Writes bits of a block of up to 128 bytes at its home (08 preface). A store that covers less than a poisoned line is
discarded; one that covers all 128 bytes clears the poison (03 R80). The answer says whether the store was kept. -/
def State.writeHome (s : State) (space : Space) (phys n : Nat) (bits data : Nat) : State × Bool :=
  match space with
  | .virt _ =>
    if s.mem.poisoned phys && !(n == 128 && bits == 2 ^ 1024 - 1) then (s, false)
    else
      ((s.touchL2 phys).onMem (fun m =>
        { m with bytes := Memory.writeBits m.bytes phys bits data n, poison := m.poison.filter (· != phys / 128 * 128) }),
        true)
  | .sram => (s.onMem (fun m => { m with sram := Memory.writeBits m.sram phys bits data n }), true)
  | .fabric _ _ => (s, true)

/-! ### The L1 (07 R203, R206, R215; 05 R144) -/

/-- The set of a line (07 R206). -/
def l1Set (addr : Nat) : Nat := addr / 128 % 512

/-- The ways of a core's L1: way 15 − u is scratchpad while unit u is held (07 R203). -/
def Core.l1Ways (k : Core) : List Nat :=
  (List.range 16).filter (fun w => w == 0 || Sparse.get 0 k.spadUnits (15 - w) == 0)

/-- The L1 copy of a line. -/
def Core.l1Line? (k : Core) (handle : Word) (addr : Nat) : Option L1Line :=
  k.l1.find? (fun l => l.handle == handle && l.addr == addr / 128 * 128)

/-- The line a full set replaces: the least recently used, those kept by hint 2 after all others (07 R215). -/
def l1Victim (ls : List L1Line) : Option L1Line :=
  let older (a b : L1Line) : Bool := decide (a.stamp < b.stamp)
  let pick (ms : List L1Line) : Option L1Line :=
    ms.foldl (fun best l => match best with | none => some l | some b => if older l b then some l else some b) none
  match pick (ls.filter (fun l => l.hint != 2)) with
  | some v => some v
  | none => pick ls

/-- Writes the next entry of the victim tag array, a ring of 512 (05 R144). -/
def Core.noteVictim (k : Core) (l : L1Line) : Core :=
  let entry : VictimTag := ⟨l.addr, l.handle, l.owner, k.evictions⟩
  { k with
    victims := k.victims.filter (fun v => decide (k.evictions < v.order + 512)) ++ [entry]
    evictions := k.evictions + 1 }

/-- Fills a line into the L1 (07 R206, R215): hint 1 inserts it as the least recently used. -/
def Core.fillL1 (k : Core) (l : L1Line) : Core :=
  let others := k.l1.filter (fun m => !(m.handle == l.handle && m.addr == l.addr))
  let set := others.filter (fun m => l1Set m.addr == l1Set l.addr)
  let stamp := if l.hint == 1 then 0 else l.stamp
  match k.l1Ways.find? (fun w => !(set.any (fun m => m.way == w))) with
  | some w => { k with l1 := others ++ [{ l with way := w, stamp := stamp }] }
  | none =>
    match l1Victim set with
    | none => k
    | some v =>
      { (k.noteVictim v) with
        l1 := others.filter (fun m => !(m.handle == v.handle && m.addr == v.addr)) ++
          [{ l with way := v.way, stamp := stamp }] }

/-- A miss takes the newest victim tag of its line out; the owner it names scores if it is seated (05 R144). -/
def State.victimHit (s : State) (core : Nat) (handle : Word) (addr : Nat) : State :=
  let hits := (s.core core).victims.filter (fun v => v.handle == handle && v.addr == addr)
  match hits.getLast? with
  | none => s
  | some v =>
    let s' := s.onCore core (fun k => { k with victims := k.victims.filter (fun w => w.order != v.order) })
    s'.onGroup v.owner (fun g => if g.gstate = .seated then { g with lls := min 65535 (g.lls + 1) } else g)

/-- Takes every L1 line of an installation out of a core's L1 (08 R228). -/
def Core.dropL1 (k : Core) (handle : Word) : Core := { k with l1 := k.l1.filter (fun l => l.handle != handle) }

/-- Takes the L1 lines of a byte range out of a core's L1 (07 R221). -/
def Core.dropL1Range (k : Core) (handle : Word) (lo hi : Nat) : Core :=
  { k with l1 := k.l1.filter (fun l => !(l.handle == handle && decide (l.addr < hi) && decide (lo < l.addr + 128))) }

/-- A commit updates the copy of its line in its core's L1 (07 R206). -/
def Core.updateL1 (k : Core) (handle : Word) (block : Nat) (bits data : BitVec 128) : Core :=
  { k with
    l1 := k.l1.map (fun l =>
      if l.handle == handle && l.addr == block / 128 * 128 then
        { l with bytes := mergeBlock l.addr block bits data l.bytes } else l) }

/-! ### Far lines (07 R208, R209) -/

/-- Writes bytes into a far line, allocating it without a fetch and marking the bytes dirty (07 R209). -/
def FarLine.write (l : FarLine) (block : Nat) (bits data : BitVec 128) : FarLine :=
  let touched : BitVec 128 := (List.range 16).foldl (fun m i =>
    if byteAt bits i != 0#8 then m ||| (1#128 <<< (block % 128 + i)) else m) 0#128
  { l with
    bytes := mergeBlock l.addr block bits data l.bytes
    valid := l.valid ||| touched
    dirty := l.dirty ||| touched }

/-- The flit that writes a far line's dirty bytes back to its window (07 R209). -/
def farFlit (l : FarLine) (number : Nat) : Flit :=
  ⟨0, BitVec.ofNat 64 l.addr, false, .store, l.key, l.dirty, l.bytes, number⟩

/-- Sends the dirty bytes of a far line to the fabric (07 R209). -/
def State.writeBackFar (s : State) (l : FarLine) : State :=
  if l.dirty == 0#128 then s
  else
    let (n, s') := s.fresh
    s'.onFab (fun f => { f with waiting := f.waiting ++ [(l.handle, l.addr / 2 ^ 52, farFlit l n)] })

/-- Puts a far line in place, evicting the least recently used line of its set when the far ways are full
(07 R208, R209). -/
def State.putFar (s : State) (ways : Nat) (l : FarLine) : State :=
  let others := s.fab.far.filter (fun m => !(m.handle == l.handle && m.key == l.key && m.addr == l.addr))
  let set := others.filter (fun m => m.slice == l.slice && Config.l2Set m.addr == Config.l2Set l.addr)
  if set.length < ways then s.onFab (fun f => { f with far := others ++ [l] })
  else
    let oldest := set.foldl (fun best m =>
      match best with | none => some m | some b => if m.stamp < b.stamp then some m else some b)
      (none : Option FarLine)
    match oldest with
    | none => s.writeBackFar l
    | some v =>
      (s.writeBackFar v).onFab (fun f => { f with
        far := others.filter (fun m => !(m.handle == v.handle && m.key == v.key && m.addr == v.addr)) ++ [l] })

/-- The far ways of the partition of an installation. -/
def State.farWays (s : State) (handle : Word) : Nat :=
  match s.inst? handle with
  | none => 0
  | some i => min 8 (s.part i.part).farNow

/-- An empty far line for a fabric address. -/
def State.newFar (s : State) (handle key : Word) (addr : Nat) : FarLine :=
  let part := match s.inst? handle with | none => 0 | some i => i.part
  ⟨addr / 128 * 128, handle, key, s.farSlice part addr, List.replicate 128 0#8, 0#128, 0#128, s.freeCtr⟩

/-- A store through a remote record commits into its far line (07 R209). -/
def State.storeFar (s : State) (handle key : Word) (block : Nat) (bits data : BitVec 128) : State :=
  let l := (s.fab.farLine? handle key block).getD (s.newFar handle key block)
  s.putFar (s.farWays handle) ({ l with stamp := s.freeCtr }.write block bits data)

/-- Writes back every dirty far line of an installation and marks it clean (07 R209). -/
def State.flushFar (s : State) (handle : Word) : State :=
  let dirty := s.fab.far.filter (fun l => l.handle == handle && l.dirty != 0#128)
  (dirty.foldl (fun t l => t.writeBackFar l) s).onFab (fun f => { f with
    far := f.far.map (fun l => if l.handle == handle then { l with dirty := 0#128 } else l) })

/-- Takes every far line of an installation out (07 R209). -/
def State.dropFar (s : State) (handle : Word) : State :=
  (s.flushFar handle).onFab (fun f => { f with far := f.far.filter (fun l => l.handle != handle) })

end Sys2Proof.Machine
end

