-- ==== Sys2Proof/Machine/Barrier.lean ====
section
/-!
DEFINITION. Barrier objects (09 R240 to R249): which object an instruction names, counting and completing a phase
(R241), the quantum it commits (08 R230, R231), and what dead lanes and killed groups add (R248, R249). An object's
number is (scope × 1024 + unit) × 65,536 + index, where the unit is the core, the quad over the package, the die, or 0.
-/
namespace Sys2Proof.Machine

/-- The number of an object. -/
def barKey (scope unit index : Nat) : Nat := (scope * 1024 + unit) * 65536 + index

/-- The scope of an object's number. -/
def barScope (key : Nat) : Nat := key / 65536 / 1024

/-- The unit of an object's number. -/
def barUnit (key : Nat) : Nat := key / 65536 % 1024

/-- An object. -/
def State.bar (s : State) (key : Nat) : Barrier := Sparse.get {} s.bars key

/-- Changes an object. -/
def State.onBar (s : State) (key : Nat) (f : Barrier → Barrier) : State :=
  { s with bars := Sparse.alter {} s.bars key f }

/-- The number of the object that index i of a scope names for a group (05 R126, R127). -/
def State.objectOf (s : State) (g : Group) (scope i : Nat) : Nat :=
  let p := g.place
  let bases := match s.inst? g.ctl.handle with | none => (0, 0, 0) | some k => (k.dieBase, k.pkgBase, k.podBase)
  match scope with
  | 0 => barKey 0 g.core (p.barCore + i)
  | 1 => barKey 1 (quadOfCore g.core) (p.barQuad + i)
  | 2 => barKey 2 (dieOfCore g.core) (bases.1 + i)
  | 3 => barKey 3 0 (bases.2.1 + i)
  | _ => barKey 4 0 (bases.2.2 + i)

/-- The phase that an arrival counted now belongs to (09 R242). -/
def Barrier.counting (b : Barrier) : Nat := (b.phase.toNat + b.cmt.toNat) % 2 ^ 16

/-- Whether a phase has completed (09 R243). -/
def Barrier.completed (b : Barrier) (p : Nat) : Bool :=
  let d := (b.phase.toNat + 2 ^ 16 - p % 2 ^ 16) % 2 ^ 16
  decide (1 ≤ d) && decide (d ≤ 32767)

/-- Whether the object has met its counts (09 R241). -/
def Barrier.met (b : Barrier) : Bool :=
  !b.cmt && !(b.expArr == 0 && b.expBytes == 0) && decide (b.expArr ≤ b.arrCnt) && decide ((b.expBytes : Int) ≤ b.byteCnt)

/-- Whether an event fits the counters (09 R242). -/
def Barrier.room (b : Barrier) (arrivals : Nat) (bytes requested : Nat) : Bool :=
  decide (b.arrCnt + arrivals ≤ 16777215) && decide (b.byteCnt + (bytes : Int) - requested < 2 ^ 31) &&
    decide (-(2 ^ 31 : Int) ≤ b.byteCnt + (bytes : Int) - requested)

/-- Takes a met phase's counts off and marks the quantum as committing (09 R241). -/
def Barrier.commitMark (b : Barrier) : Barrier :=
  { b with arrCnt := b.arrCnt - b.expArr, byteCnt := b.byteCnt - b.expBytes, cmt := true }

/-- Puts a window entry in its place: ascending writer index, then program order (08 R230). -/
def insertWindow (w : Window) : List Window → List Window
  | [] => [w]
  | v :: vs =>
    if w.writer < v.writer ∨ (w.writer = v.writer ∧ w.order < v.order) then w :: v :: vs else v :: insertWindow w vs

/-- Sorts the entries of a quantum so that writing them in order leaves each byte to the highest writer index, and within
a writer to the latest in program order (08 R230). -/
def sortWindows : List Window → List Window
  | [] => []
  | w :: ws => insertWindow w (sortWindows ws)

/-- Writes the entries of a quantum; the answer names the lanes whose entry met a poisoned line (03 R80). -/
def State.writeWindows (s : State) : List Window → State × List (Nat × Nat)
  | [] => (s, [])
  | w :: ws =>
    let (s', kept) :=
      match w.space with
      | .fabric h k => (s.storeFar h k w.block w.bits w.data, true)
      | .sram => s.writeHome .sram w.phys 16 w.bits.toNat w.data.toNat
      | .virt h => s.writeHome (.virt h) w.phys 16 w.bits.toNat w.data.toNat
    let s'' := match w.space with
      | .virt h => s'.onCore w.core (fun k => k.updateL1 h w.block w.bits w.data)
      | _ => s'
    let (t, dead) := s''.writeWindows ws
    (t, if kept then dead else (w.gid, w.lane) :: dead)

/-- CommitQuantum (08 R230 steps 3 and 4): the homes write the quantum's entries, and the writers' copies are freed. -/
def State.commitQuantum (s : State) (key phase : Nat) : State × List (Nat × Nat) :=
  let mine (w : Window) : Bool := w.object == key && w.phase == some phase
  let ws := s.mem.windows.filter mine
  let ops := ws.map (fun w => w.op)
  let (s', dead) := s.writeWindows (sortWindows ws)
  let s'' := s'.onMem (fun m => { m with windows := m.windows.filter (fun w => !mine w) })
  ({ s'' with groups := s''.groups.map (fun g =>
      g.onCtl (fun c => { c with psb := c.psb.filter (fun e =>
        match e.held with | none => true | some o => !ops.contains o) })) }, dead)

/-- TryComplete (09 R241) up to the acknowledgement of the homes, which is a step of its own. -/
def State.tryComplete (s : State) (key : Nat) : State × List (Nat × Nat) :=
  if (s.bar key).met then
    (s.onBar key Barrier.commitMark).commitQuantum key (s.bar key).phase.toNat
  else (s, [])

/-- Count (09 R241). -/
def State.countBar (s : State) (key arrivals bytes requested : Nat) : State × List (Nat × Nat) :=
  (s.onBar key (fun b => { b with
    arrCnt := b.arrCnt + arrivals, byteCnt := b.byteCnt + (bytes : Int) - requested })).tryComplete key

/-- What the object keeps of a group's latest arrival into the phase now counting (09 R248). -/
def Barrier.countedMask (b : Barrier) (gid : Nat) : Word :=
  let (p, m) := Sparse.get (0, 0#32) b.arrived gid
  if p = b.counting then m else 0#32

/-- The lanes that an arrival counts: the active ones, and at the group's first arrival into the phase its dead lanes
(09 R245, R248). -/
def Barrier.arrivalLanes (b : Barrier) (g : Group) (active : Word) : Word :=
  if b.countedMask g.gid == 0#32 then active ||| (g.ctl.exist &&& g.ctl.dead) else active

/-- Notes the lanes counted into the phase. -/
def Barrier.noteArrival (b : Barrier) (gid : Nat) (lanes : Word) : Barrier :=
  { b with arrived := Sparse.set (0, 0#32) b.arrived gid (b.counting, b.countedMask gid ||| lanes) }

/-- Counts an arrival of a group for the lanes of an instruction; answers the phase it was counted into. -/
def State.countArrival (s : State) (key : Nat) (g : Group) (active : Word) (requested : Nat) :
    State × List (Nat × Nat) × Nat :=
  let b := s.bar key
  let lanes := b.arrivalLanes g active
  let (t, dead) := (s.onBar key (fun b => b.noteArrival g.gid lanes)).countBar key (laneList lanes).length 0 requested
  (t, dead, b.counting)

/-- A lane that dies is counted into each phase its group has arrived in without it (09 R248). -/
def State.countDeadLane (s : State) (gid lane : Nat) : State × List (Nat × Nat) :=
  let keys := (s.bars.filter (fun kb =>
    kb.2.countedMask gid != 0#32 && !(kb.2.countedMask gid).getLsbD lane)).map (fun kb => kb.1)
  keys.foldl (fun (acc : State × List (Nat × Nat)) key =>
    let (t, dead) := (acc.1.onBar key (fun b => b.noteArrival gid (laneBit lane))).countBar key 1 0 0
    (t, acc.2 ++ dead)) (s, [])

/-- A killed group is counted on the core and quad objects of its position, now and in every later phase until its
workgroup retires (09 R249). -/
def State.countKilled (s : State) (g : Group) : State × List (Nat × Nat) :=
  let bars := (s.recordOf g).bars
  let keys := (List.range (bars.getD 0 0)).map (s.objectOf g 0) ++ (List.range (bars.getD 1 0)).map (s.objectOf g 1)
  keys.foldl (fun (acc : State × List (Nat × Nat)) key =>
    let b := acc.1.bar key
    if b.expArr == 0 then acc
    else
      let left := g.ctl.exist &&& ~~~(b.countedMask g.gid)
      let (t, dead) := (acc.1.onBar key (fun b =>
        { (b.noteArrival g.gid g.ctl.exist) with
          killed := Sparse.set 0 b.killed g.gid (laneList g.ctl.exist).length })).countBar key (laneList left).length 0 0
      (t, acc.2 ++ dead)) (s, [])

/-- When a phase has been reported complete, the next one starts with the lanes of the killed groups (09 R249); then
TryComplete runs again (R241). -/
def State.startPhase (s : State) (key : Nat) : State × List (Nat × Nat) :=
  let b := s.bar key
  let lanes := b.killed.foldl (fun n e => n + e.2) 0
  (s.onBar key (fun b => { b with
    arrCnt := b.arrCnt + lanes
    arrived := b.killed.foldl (fun a e => Sparse.set (0, 0#32) a e.1 (b.counting, 0xFFFFFFFF#32)) b.arrived })).tryComplete
      key

end Sys2Proof.Machine
end

