-- ==== Sys2Proof/Machine/Place.lean ====
section
/-!
DEFINITION. Where an address of a record lies (07 R194, R198, R205, R213): in the address space of the installation, in a
core's scratchpad, or behind a peer's window; and the ranges that transfers own (07 R221).
-/
namespace Sys2Proof.Machine

/-- The address of a byte of a scratchpad unit: the model numbers the units of a core from 0, so that the units of a
workgroup are consecutive, and gives unit u the addresses from 65,536 × u on (log 17). -/
def spadAddr (core unit off : Nat) : Nat := core * 2 ^ 26 + unit * 65536 + off

/-- The space and address of n bytes at an address of a record, and whether they lie in the workgroup's scratchpad on
the addressed core (07 R194, R198); the own core under SPACE 2 is as SPACE 1 (R205). -/
def State.place (s : State) (g : Group) (r : BufRec) (addr n : Nat) : Space × Nat × Bool :=
  if r.remote then (.fabric g.ctl.handle r.key, addr, true)
  else if r.space = 0 then (.virt g.ctl.handle, addr, true)
  else
    let k := s.recordOf g
    let unit := g.place.spadUnit
    let core := if r.space = 1 then g.core else g.core / 4 * 4 + addr / 2 ^ 20 % 4
    let off := if r.space = 1 then addr else addr % 2 ^ 20
    (.sram, spadAddr core unit off,
      decide (off + n ≤ k.spad * 65536) && (r.space == 1 || decide (addr < 2 ^ 22)) && (core == g.core || k.span == 1))

/-- The core whose SRAM an address lies in. -/
def coreOfSram (a : Nat) : Nat := a / 2 ^ 26

/-- Whether a byte range [lo, hi) overlaps [lo', hi'). -/
def overlaps (lo hi lo' hi' : Nat) : Bool := decide (lo < hi') && decide (lo' < hi) && decide (lo < hi) && decide (lo' < hi')

/-- The destination range a transfer owns: a swizzle moves words within 128 bytes of the offset, so the range is one run
(07 R197, R218, R221). -/
def Transfer.reach (t : Transfer) : Nat × Nat :=
  let r := bufRec t.dst
  (r.base + t.dstOff, r.base + t.dstOff + t.count)

/-- The owned range of a copy or fill; a fabric-send's destination lies at the peer. -/
def State.ownedBy (s : State) (t : Transfer) : Option (Space × Nat × Nat) :=
  if t.kind = 1 ∨ t.kind = 2 then
    match s.group? t.gid with
    | none => none
    | some g =>
      let p := s.place g (bufRec t.dst) t.reach.1 1
      some (p.1, p.2.1, p.2.1 + (t.reach.2 - t.reach.1))
  else none

/-- The transfers that own bytes of a range (07 R221). -/
def State.owners (s : State) (space : Space) (lo hi : Nat) : List Nat :=
  (s.transfers.filter (fun t =>
    match s.ownedBy t with
    | none => false
    | some (sp, a, b) => sp == space && overlaps lo hi a b)).map (fun t => t.id)

/-- The bytes an access of a nominal size moves: one element of a packed record (07 R199). -/
def BufRec.span (r : BufRec) (size bitPos : Nat) : Nat := if r.packed then (bitPos + r.width + 7) / 8 else size

end Sys2Proof.Machine
end

