-- ==== Sys2Proof/Machine/Tiles.lean ====
section
/-!
DEFINITION. Tiles and operands of the matrix engine as places (10 R262 to R264, R269 to R277): shape-register fields, fusing
modes, formats, which lane owns a row, and which bytes of memory a command reads or writes.
-/
namespace Sys2Proof.Machine

/-! ### The shape register (10 Table 10.6, Table 10.8) -/

/-- The place of a field by its code: the low bit and the width. -/
def shapePlace (code : Nat) : Nat × Nat :=
  match code with
  | 0 => (0, 4)
  | 1 => (4, 4)
  | 2 => (8, 4)
  | 3 => (32, 16)
  | 4 => (48, 16)
  | 5 => (64, 16)
  | 6 => (80, 16)
  | 7 => (96, 16)
  | 8 => (112, 16)
  | 9 => (128, 16)
  | 10 => (144, 16)
  | 11 => (160, 16)
  | 12 => (176, 8)
  | 13 => (192, 16)
  | 14 => (208, 16)
  | _ => (224, 32)

/-- A field of a shape register by its code. -/
def shapeGet (sh : Word512) (code : Nat) : Nat :=
  sh.toNat / 2 ^ (shapePlace code).1 % 2 ^ (shapePlace code).2

/-- A shape register with a field replaced. -/
def shapeSet (sh : Word512) (code v : Nat) : Word512 :=
  let p := shapePlace code
  let mask : Word512 := BitVec.ofNat 512 ((2 ^ p.2 - 1) * 2 ^ p.1)
  (sh &&& ~~~mask) ||| BitVec.ofNat 512 (v % 2 ^ p.2 * 2 ^ p.1)

/-- A shape register with several fields replaced. -/
def shapeSets (sh : Word512) : List (Nat × Nat) → Word512
  | [] => sh
  | f :: fs => shapeSets (shapeSet sh f.1 f.2) fs

/-- The fields that only Grant writes. -/
def shapeRO (code : Nat) : Bool := code == 1 || code == 6 || code == 7 || code == 8 || code == 12 || code == 14 || code == 15

/-! ### Fusing modes and formats (10 Tables 10.1, 10.2) -/

/-- M and N of the nine fusing modes. -/
def fusingModes : List (Nat × Nat) :=
  [(16, 16), (16, 32), (32, 16), (32, 32), (16, 64), (64, 16), (32, 64), (64, 32), (64, 64)]

/-- M and N of a mode. -/
def modeSize (k : Nat) : Nat × Nat := fusingModes.getD k (0, 0)

/-- Elements of a K unit of a format. -/
def unitLen (fmt : Nat) : Nat := if 3 ≤ fmt ∧ fmt ≤ 7 then 32 else 16

/-- Bytes of a K unit's elements (10 Table 10.2). -/
def unitBytes (fmt : Nat) : Nat := [8, 12, 18, 16, 24, 24, 32, 32, 32, 32, 64, 128, 16, 16, 8, 32].getD fmt 0

/-- Whether a format accumulates in binary64, so that its tile is a pair (10 R275). -/
def wideTile (fmt : Nat) : Bool := fmt == 11

/-- Bytes of a tile's element. -/
def tileElem (fmt : Nat) : Nat := if wideTile fmt then 8 else 4

/-! ### Rows and commands (10 R276, R291) -/

/-- The lane that owns a row: two rows a lane, four under a 16-lane grant (10 R276). -/
def rowLane (g : Group) (r : Nat) : Nat := if g.ctl.exist == 0xFFFF#32 then r / 4 else r / 2

/-- Rows, columns and K that a shape register leaves valid (10 R291). -/
def validRows (sh : Word512) : Nat := min (shapeGet sh 9) (shapeGet sh 6)
/-- Valid columns. -/
def validCols (sh : Word512) : Nat := min (shapeGet sh 10) (shapeGet sh 7)
/-- Valid K. -/
def validK (sh : Word512) : Nat := min (shapeGet sh 11) (shapeGet sh 8)

/-- The rows below a bound that lanes of a mask own. -/
def rowsOf (g : Group) (lanes : Word) (n : Nat) : List Nat := (List.range n).filter (fun r => lanes.getLsbD (rowLane g r))

/-- The tile a command names. -/
def MatrixCommand.tile : MatrixCommand → Nat
  | .mma t .. => t
  | .load t .. => t
  | .store t .. => t
  | .zero t .. => t

/-! ### Elements of a record (10 R277) -/

/-- The place of an element of a record of a group, with whether it is in bounds. -/
def State.elementPlace (s : State) (g : Group) (r : BufRec) (size idx : Nat) : Space × Nat × Bool :=
  let p := s.place g r (r.addrOf idx).1 size
  (p.1, p.2.1, p.2.2 && decide (idx < r.extent))

/-- The elements an ACCLD or ACCST moves: row, column, index (10 R277). -/
def movedElements (g : Group) (sh : Word512) (origin stride : Nat) (lanes : Word) : List (Nat × Nat × Nat) :=
  (rowsOf g lanes (validRows sh)).flatMap (fun r =>
    (List.range (validCols sh)).map (fun c => (r, c, origin + r * stride + c)))

/-! ### Operands in scratchpad (10 R269, R270, R272) -/

/-- An operand descriptor (10 Table 10.4). -/
structure Desc where
  q    : Bool
  rot  : Nat
  core : Nat
  off  : Nat
  rp   : Nat
  tp   : Nat
  ob   : Nat
deriving DecidableEq, Repr

/-- Reads a descriptor pair. -/
def descOf (v : Word64) : Desc :=
  ⟨wbit v 31, wbits v 30 28, wbits v 21 20, wbits v 19 0, wbits v 63 52, wbits v 51 40, wbits v 34 32⟩

/-- The offset of byte x of K unit u of operand row r (10 R270). -/
def Desc.offset (d : Desc) (r u x : Nat) : Nat := d.off + r * d.rp + u * d.tp + 16 * d.rot * (r % 8) + x

/-- The core whose scratchpad holds an operand (10 Table 10.4). -/
def State.operandCore (s : State) (g : Group) (d : Desc) : Nat :=
  if (s.recordOf g).span = 1 then g.core / 4 * 4 + d.core else g.core

/-- The SRAM address of a byte of an operand. -/
def State.operandAddr (s : State) (g : Group) (d : Desc) (r u x : Nat) : Nat :=
  spadAddr (s.operandCore g d) g.place.spadUnit (d.offset r u x)

/-- The bytes of a K unit from its start, with its scale byte (10 R264). -/
def ObRec.reach (o : ObRec) : Nat := max (unitBytes o.fmt) (if o.blk = 2 then o.soff + 1 else 0)

/-- K units a command stages (10 R291). -/
def stagedUnits (sh : Word512) : Nat :=
  if validRows sh = 0 ∨ validCols sh = 0 then 0 else ceilDiv (validK sh) (unitLen (shapeGet sh 2))

/-- The operand rows an MMA stages: A's rows owned by active lanes, and B's columns (10 R272). -/
def mmaRows (g : Group) (sh : Word512) (lanes : Word) : List Nat :=
  if validCols sh = 0 ∨ validK sh = 0 then [] else rowsOf g lanes (validRows sh)
/-- B's columns. -/
def mmaCols (sh : Word512) : List Nat :=
  if validRows sh = 0 ∨ validK sh = 0 then [] else List.range (validCols sh)

/-- The ranges of a scratchpad operand's rows and K units. -/
def State.operandRanges (s : State) (g : Group) (d : Desc) (o : ObRec) (rows : List Nat) (units : Nat) : List (Nat × Nat) :=
  if d.q then []
  else rows.flatMap (fun r => (List.range units).map (fun u =>
    (s.operandAddr g d r u 0, s.operandAddr g d r u 0 + o.reach)))

/-! ### What a command still reads, and writes (10 R268; 15 R409, R424) -/

/-- The bytes an entry of a stream still has to read as loads of its group: space, range, and the lane they belong to, if
one; an MMA has read its scratchpad operands once it has started. -/
def State.entryReads (s : State) (g : Group) (e : StreamEntry) : List (Space × Nat × Nat × Option Nat) :=
  if e.marker.isSome then []
  else match e.command with
    | .mma _ sh _ dA dB rA rB rows =>
      if e.started then []
      else
        (s.operandRanges g (descOf dA) rA (mmaRows g sh rows) (stagedUnits sh) ++
          s.operandRanges g (descOf dB) rB (mmaCols sh) (stagedUnits sh)).map (fun r => (.sram, r.1, r.2, none))
    | .load _ sh _ image origin stride rows =>
      (movedElements g sh origin stride rows).filterMap (fun m =>
        let size := tileElem (shapeGet sh 2)
        let p := s.elementPlace g (bufRec image) size m.2.2
        if p.2.2 then some (p.1, p.2.1, p.2.1 + size, some (rowLane g m.1)) else none)
    | _ => []

/-- The bytes an ACCST writes. -/
def State.storeRanges (s : State) (g : Group) (c : MatrixCommand) : List (Space × Nat × Nat) :=
  match c with
  | .store _ sh _ image origin stride rows _ =>
    (movedElements g sh origin stride rows).filterMap (fun m =>
      let size := tileElem (shapeGet sh 2)
      let p := s.elementPlace g (bufRec image) size m.2.2
      if p.2.2 then some (p.1, p.2.1, p.2.1 + size) else none)
  | _ => []

/-- Whether a command of a group that issued before an operation still has to read a byte of a range in a lane
(15 R409). -/
def State.enginePending (s : State) (gid lane id : Nat) (space : Space) (lo hi : Nat) : Bool :=
  match s.group? gid with
  | none => false
  | some g =>
    ((s.core g.core).stream.filter (fun e => e.gid == gid && decide (e.op < id))).any (fun e =>
      (s.entryReads g e).any (fun r => r.1 == space && overlaps lo hi r.2.1 r.2.2.1 &&
        (match r.2.2.2 with | none => true | some l => l == lane)))

/-- The ACCSTs of a group whose flags are busy and that overlap a range (10 R268). -/
def State.storesOver (s : State) (gid : Nat) (space : Space) (lo hi : Nat) : List Nat :=
  match s.group? gid with
  | none => []
  | some g =>
    (s.ops.filter (fun o => o.gid == gid && (match o.kind with
      | .matrix c _ => (s.storeRanges g c).any (fun r => r.1 == space && overlaps lo hi r.2.1 r.2.2)
      | _ => false))).map (fun o => o.id)

end Sys2Proof.Machine
end

