-- ==== Sys2Proof/Machine/Report.lean ====
section
/-!
DEFINITION. What the device reports: event records in a function's ring (03 R95), MSI-X vectors (R57), completion records,
and fabric events in an installation's buffer (02 R43).
-/
namespace Sys2Proof.Machine

/-- The bytes of an event record (03 Table 3.18). -/
def HostEvent.bytes (e : HostEvent) : List Byte :=
  bytesOfNat 2 e.code ++ bytesOfNat 2 e.fn ++ bytesOfNat 4 e.frame ++ bytesOfNat 8 e.data0.toNat ++
    bytesOfNat 8 e.data1.toNat ++ bytesOfNat 8 e.data2.toNat

/-- The MSI-X vector of a function's event queue: a virtual function's is taken modulo 16 (03 Table 3.17). -/
def evVector (fn : Nat) (cfg : Word) : Nat := if fn = 0 then wbits cfg 15 8 else wbits cfg 15 8 % 16

/-- Writes an event record to a function's queue (03 R95): at TAIL, which then advances, and VECTOR is raised; a full
ring drops the record and sets LOST; while EN = 0 nothing happens. -/
def State.writeEvent (s : State) (fn : Nat) (e : HostEvent) : State :=
  let f := s.fn fn
  if !wbit f.evqCfg 31 then s
  else
    let size := 2 ^ wbits f.evqCfg 23 20
    if (f.evqTail - f.evqHead).toNat == size then
      s.onFn fn (fun f => { f with evqCfg := f.evqCfg ||| 0x40000000#32 })
    else
      let at_ := (wbits f.evqBase 63 12) * 4096 + f.evqTail.toNat % size * 32
      (s.onFn fn (fun f => { f with evqTail := f.evqTail + 1 })).onHost (fun h =>
        { h with mem := Memory.writeBytes h.mem at_ e.bytes, vectors := h.vectors ++ [(fn, evVector fn f.evqCfg)] })

/-- Raises an event to a function's queue, and keeps it for the dump's event log (03 R86, R95). -/
def State.event (s : State) (queue code func : Nat) (d0 d1 d2 : Nat) : State :=
  let e : HostEvent := ⟨code, func, s.pkg.frame % 2 ^ 32, BitVec.ofNat 64 d0, BitVec.ofNat 64 d1, BitVec.ofNat 64 d2⟩
  (s.writeEvent queue e).onHost (fun h => { h with eventLog := h.eventLog ++ [e] })

/-- An event word of the fabric (02 Table 2.6), LOST clear. -/
def fabricWord (kind port laser dest : Nat) : Word :=
  BitVec.ofNat 32 (kind % 16 * 2 ^ 28 + port % 64 * 2 ^ 22 + laser % 16 * 2 ^ 18 + dest % 2 ^ 12)

/-- Appends an event word to an installation's buffer of 64 words, dropping the oldest when it is full, and raises host
event 0x20 + KIND (02 R43). -/
def State.fabricEvent (s : State) (handle : Word) (w : Word) : State :=
  (s.onInst handle (fun i =>
    if i.events.length ≥ 64 then { i with events := i.events.drop 1 ++ [w], evLost := true }
    else { i with events := i.events ++ [w] })).event 0 (0x20 + wbits w 31 28) 0 w.toNat handle.toNat 0

/-- A fabric event that concerns no installation goes to the host alone (02 R43). -/
def State.fabricHostEvent (s : State) (w : Word) : State := s.event 0 (0x20 + wbits w 31 28) 0 w.toNat 0 0

/-- Raises the highest of the status codes a launch has met (05 R133). -/
def State.launchStatus (s : State) (launch status : Nat) : State :=
  s.onLaunch launch (fun l => { l with status := max l.status status })

end Sys2Proof.Machine
end

