-- ==== Sys2Proof/Machine/Ops.lean ====
section
/-!
DEFINITION. The named operations over a group: register and window access (06 R154, R177, R168), the Mantle (R158 to
R161), queues (R170, R171), flags (R167), lane death (R186, R187), kill and retirement (R178, 05 R133), taking an
exception (06 R173 to R179) and returning from one (R180), and the group's progress through a clause (R166).
-/
namespace Sys2Proof.Machine

/-! ### Outstanding operations and flags (06 R166 to R168) -/

/-- The operations of a group. -/
def State.opsOf (s : State) (gid : Nat) : List OutOp := s.ops.filter (fun o => o.gid == gid)

/-- How many operations a flag counts; 15 is FLAGZ (06 R167). -/
def State.flagCount (s : State) (gid flag : Nat) : Nat :=
  (s.ops.filter (fun o => o.gid == gid && o.flag == flag)).length

/-- Whether every flag of a mask is clear; bit 12 names FLAGZ. -/
def State.flagsClear (s : State) (gid : Nat) (mask : BitVec 13) : Bool :=
  s.ops.all (fun o => !(o.gid == gid &&
    ((decide (o.flag < 12) && mask.getLsbD o.flag) || (o.flag == 15 && mask.getLsbD 12))))

/-- Whether an operation will write a lane of a register. -/
def OutOp.writes (o : OutOp) (r t : Nat) : Bool :=
  decide (o.dest ≤ r) && decide (r < o.dest + o.destWords) && o.lanes.getLsbD t

/-- Whether an outstanding operation of a group will write a lane of a register (06 R168). -/
def State.hazard (s : State) (gid r t : Nat) : Bool := s.ops.any (fun o => o.gid == gid && o.writes r t)

/-! ### The Mantle (06 R156, R158 to R161) -/

/-- Whether a register line of a group is resident on its core. -/
def Core.resident (k : Core) (gid line : Nat) : Bool := k.mantle.any (fun m => m.gid == gid && m.line == line)

/-- The context block of a group (06 R154). -/
def State.contextBase (s : State) (g : Group) : Nat :=
  match s.launch? g.launch with
  | none => 0
  | some l =>
    l.ctxBase + ((if g.ctl.shadow then l.wgCount * l.groups else 0) + g.ctl.group.toNat) * 65536

/-- The bank of a register line: the (j mod nb)-th set bit of BANKS (06 R158). -/
def bankOf (banks line : Nat) : Nat :=
  let held := (List.range 8).filter (fun b => banks.testBit b)
  held.getD (line % max 1 held.length) 0

/-- A word of a group's context block in memory; an unmapped page reads 0. -/
def State.contextWord (s : State) (g : Group) (off : Nat) : Word :=
  match s.translate g.ctl.handle (s.contextBase g + off) .read with
  | .ok p _ => BitVec.ofNat 32 (natOfBytes (Memory.readBytes s.mem.bytes p 4))
  | _ => 0#32

/-- The word of a lane of a register line: the one the device holds, or the context page's when the line has been
written back and is not resident. -/
def State.lineWord (s : State) (g : Group) (r t : Nat) : Word :=
  if g.backed.contains r && !(s.core g.core).resident g.gid r then s.contextWord g (128 * r + 4 * t)
  else Sparse.get 0#32 g.regs (32 * r + t)

/-- Whether register number r names the handler window (06 R177). -/
def Group.inWindow (g : Group) (r : Nat) : Bool := g.ctl.handler && decide (r < 8)

/-- The word that stands in a lane of a register of a group: w0 to w7 are the rail's window in a handler (06 R177). -/
def State.heldReg (s : State) (g : Group) (r t : Nat) : Word :=
  if g.inWindow r then
    match g.seat with
    | none => 0#32
    | some n => Sparse.get 0#32 (s.rail g.core (railOfSeat n)).window (32 * r + t)
  else s.lineWord g r t

/-- The value of a lane of a register for an instruction of a group: a register that an outstanding operation will write
reads as a free value (06 R168). -/
def State.readReg (s : State) (g : Group) (r t : Nat) : Word :=
  if !g.inWindow r && s.hazard g.gid r t then Config.unpredictable s.freeCtr r t else s.heldReg g r t

/-- Marks a resident line as written. -/
def State.touchLine (s : State) (g : Group) (r : Nat) : State :=
  s.onCore g.core (fun k => { k with
    mantle := k.mantle.map (fun m => if m.gid == g.gid && m.line == r then { m with dirty := true, stamp := s.freeCtr } else m) })

/-- The device takes a written-back line into its own hands again: its words come from the context page (06 R161). -/
def State.holdLine (s : State) (gid r : Nat) : State :=
  match s.group? gid with
  | none => s
  | some g =>
    if g.backed.contains r && !(s.core g.core).resident gid r then
      let regs := (List.range 32).foldl (fun m t => Sparse.set 0#32 m (32 * r + t) (s.contextWord g (128 * r + 4 * t))) g.regs
      s.putGroup { g with regs := regs, backed := (256 + r) :: g.backed.filter (· != r) }
    else s

/-- Writes a lane of a register line, whatever writes are outstanding; the error mark of the word is cleared
(06 R161). -/
def State.putReg (s : State) (gid r t : Nat) (x : Word) : State :=
  let s := s.holdLine gid r
  match s.group? gid with
  | none => s
  | some g =>
    (s.touchLine g r).putGroup { g with
      regs := Sparse.set 0#32 g.regs (32 * r + t) x
      regErr := g.regErr.filter (· != 32 * r + t) }

/-- A write of a lane of a register by an instruction: the window in a handler (06 R177); a register that an outstanding
operation will write keeps one of the two values, so the operation is told (R168). -/
def State.writeReg (s : State) (gid r t : Nat) (x : Word) : State :=
  match s.group? gid with
  | none => s
  | some g =>
    if g.inWindow r then
      match g.seat with
      | none => s
      | some n => s.onRail g.core (railOfSeat n) (fun rl => { rl with window := Sparse.set 0#32 rl.window (32 * r + t) x })
    else
      let s' := s.putReg gid r t x
      { s' with ops := s'.ops.map (fun o =>
          if o.gid == gid && o.writes r t then { o with clobbered := (r, t) :: o.clobbered } else o) }

/-- Writes the results of an operation that completes: a register another write has reached meanwhile keeps one of the
two values (06 R168). A dead lane keeps its registers (06 R187). -/
def State.writeResult (s : State) (o : OutOp) (r t : Nat) (x : Word) : State :=
  match s.group? o.gid with
  | none => s
  | some g =>
    if g.ctl.dead.getLsbD t then s
    else if o.clobbered.contains (r, t) && !Config.keepLater s.freeCtr (32 * r + t) then s
    else if o.handler && decide (r < 8) then
      match g.seat with
      | none => s
      | some n => s.onRail g.core (railOfSeat n) (fun rl => { rl with window := Sparse.set 0#32 rl.window (32 * r + t) x })
    else
      let s' := s.putReg o.gid r t x
      { s' with ops := s'.ops.map (fun p =>
          if p.gid == o.gid && p.id != o.id && p.writes r t then { p with clobbered := (r, t) :: p.clobbered } else p) }

/-- Writes a list of results. -/
def State.writeResults (s : State) (o : OutOp) : List (Nat × Nat × Word) → State
  | [] => s
  | (r, t, x) :: ws => (s.writeResult o r t x).writeResults o ws

/-- Writes one value of n words to a run of registers in a lane. -/
def State.writeWords (s : State) (gid r t : Nat) : List Word → State
  | [] => s
  | w :: ws => (s.writeReg gid r t w).writeWords gid (r + 1) t ws

/-! ### Queues (06 R170 to R172, 15 R422) -/

/-- Words a queue holds for a group (15 Table 15.6). -/
def queueDepth (q : Nat) : Nat := if q = 1 ∨ q = 2 then 1024 else if q = 12 then 32 else 64

/-- A queue a program reads (06 Table 6.3). -/
def queueReads (q : Nat) : Bool := q == 3 || q == 6 || q == 7 || q == 9 || q == 10 || q == 11

/-- A queue a program writes. -/
def queueWrites (q : Nat) : Bool := q == 0 || q == 1 || q == 2 || q == 4 || q == 5 || q == 8

/-- The words of a queue of a group. -/
def Group.queue (g : Group) (q : Nat) : List Word := Sparse.get [] g.queues q

/-- Replaces the words of a queue. -/
def Group.setQueue (g : Group) (q : Nat) (ws : List Word) : Group := { g with queues := Sparse.set [] g.queues q ws }

/-- Entries of q0 that are taken: the group's commands and markers in the core's stream (10 R267). -/
def State.q0Used (s : State) (g : Group) : Nat :=
  ((s.core g.core).stream.filter (fun e => e.gid == g.gid)).length

/-- Free room of a queue; q12 takes words while a closing packet finds one of the core's four places (05 R134). -/
def State.queueRoom (s : State) (g : Group) (q : Nat) : Nat :=
  if q = 0 then 64 - s.q0Used g
  else if q = 12 then
    32 * (5 - (s.core g.core).devLaunch.length) - 1 - g.ctl.laWords
  else queueDepth q - (g.queue q).length

/-- Adds words to the tail of a queue, as an engine does. -/
def State.pushWords (s : State) (gid q : Nat) (ws : List Word) : State :=
  s.onGroup gid (fun g => if g.gstate = .retired then g else g.setQueue q (g.queue q ++ ws))

/-! ### Age (05 R139) -/

/-- Oldest first: launch age, then group number; a shadow follows its leader. -/
def Group.older (a b : Group) : Bool :=
  decide (a.launch < b.launch) ||
    (a.launch == b.launch && (decide (a.ctl.group.toNat < b.ctl.group.toNat) ||
      (a.ctl.group == b.ctl.group && !a.ctl.shadow && b.ctl.shadow)))

/-- The oldest group of a list. -/
def oldestOf : List Group → Option Group
  | [] => none
  | g :: gs =>
    match oldestOf gs with
    | none => some g
    | some h => if h.older g then some h else some g

/-- The groups seated on a rail (05 R138). -/
def State.onRailGroups (s : State) (c r : Nat) : List Group :=
  s.groups.filter (fun g => g.core == c && g.gstate == .seated && (g.seat.map railOfSeat) == some r)

/-! ### Suspension (06 R182, 13 R372) -/

/-- Withdraws the suspensions a handler made (06 R182). -/
def State.resumeAll (s : State) (by_ : Nat) : State :=
  { s with groups := s.groups.map (fun g =>
      if g.suspendBy.contains by_ then
        let left := g.suspendBy.filter (· != by_)
        { g with suspendBy := left, ctl := { g.ctl with suspended := g.ctl.suspended && !left.isEmpty } }
      else g) }

/-! ### Taking an exception (06 R173 to R179) -/

/-- A trap as an instruction raises it: cause, the lanes that raised it, INFO0, INFO1. -/
structure Trap where
  cause : Nat
  mask  : Word
  info0 : Nat := 0
  info1 : Nat := 0
deriving DecidableEq, Repr

/-- The byte of FLAGS: VALID, HDR, UNI (06 Table 6.4). -/
def trapFlags (hdr uni : Bool) : Byte := 1#8 ||| (if hdr then 2#8 else 0#8) ||| (if uni then 4#8 else 0#8)

/-- A value in every lane of a window register. -/
def windowFill (m : Sparse Word) (r : Nat) (x : Word) : Sparse Word :=
  (List.range 32).foldl (fun w t => Sparse.set 0#32 w (32 * r + t) x) m

/-- The window at handler entry (06 Table 6.6). -/
def entryWindow (tr : TrapRec) (group : Word) : Sparse Word :=
  let w0 : Word := tr.flags ++ tr.slot ++ tr.cause
  ([w0, tr.laneMask, loWord tr.clause, hiWord tr.clause, loWord tr.info0, hiWord tr.info0, loWord tr.info1,
    group].foldl (fun (acc : Sparse Word × Nat) x => (windowFill acc.1 acc.2 x, acc.2 + 1)) ([], 0)).1

/-- The address a handler starts at: TRAPENTRY of the kernel, or the partition's default handler, whose address the spec
does not give (06 R176, R181; log 12). -/
def State.trapEntryOf (s : State) (g : Group) : Word64 :=
  let k := s.recordOf g
  match s.inst? g.ctl.handle with
  | none => Config.defaultEntry 0
  | some i => if k.trapEntry == 0xFFFFFFFF then Config.defaultEntry i.part else BitVec.ofNat 64 (i.textBase + k.trapEntry)

/-- TrapEntry (06 R176): the trap record is complete, MODE and EXEC are saved, MODE is reset, EXEC is the lane mask,
HANDLER is set, the watchdog count cleared, the rail's window bound and loaded, and the pc at the handler. Pending
stores, flags, shape registers, ALC and queues stay as they were. -/
def State.enterHandler (s : State) (g : Group) : State :=
  match g.seat with
  | none => s
  | some seat =>
    let record := { g.ctl.trapRec with frame := BitVec.ofNat 64 s.pkg.frame }
    let g' := { g with
      stalled := none, clause := none
      ctl := { g.ctl with
        trapRec := record
        saveMode := g.ctl.mode, saveExec := g.ctl.exec
        mode := 0xFF000000#32, exec := record.laneMask
        handler := true, trapPend := false, wdCount := 0#64
        pc := s.trapEntryOf g, slot := 0, litPos := 0 } }
    (s.putGroup g').onRail g.core (railOfSeat seat) (fun r =>
      { r with
        handler := some g.gid
        window := entryWindow record g.ctl.group
        clauseOf := if r.clauseOf = some g.gid then none else r.clauseOf })

/-- The partner of a paired group (06 R190). -/
def State.partner (s : State) (g : Group) : Option Group :=
  if g.ctl.paired || g.ctl.shadow then
    s.groups.find? (fun h => h.launch == g.launch && h.ctl.group == g.ctl.group && h.gid != g.gid)
  else none

/-- Whether the pair agrees on a trap, so that the leader may enter its handler (06 R193). -/
def State.pairAgrees (s : State) (g : Group) : Bool :=
  match s.partner g with
  | none => true
  | some h => h.ctl.trapPend && h.ctl.trapRec.cause == g.ctl.trapRec.cause &&
      h.ctl.trapRec.laneMask == g.ctl.trapRec.laneMask

/-- The oldest group of a rail whose trap waits enters its handler, when the rail has no handler running (06 R176,
R179); a suspended group enters after it is resumed (R182), a leader once its shadow agrees, a shadow never (R193). -/
def State.enterOldest (s : State) (c r : Nat) : State :=
  if (s.rail c r).handler.isSome then s
  else
    match oldestOf ((s.onRailGroups c r).filter (fun g =>
      g.ctl.trapPend && !g.ctl.suspended && !g.ctl.shadow && s.pairAgrees g)) with
    | none => s
    | some g => s.enterHandler g

/-- Leaves the rail free for another group's clause when it holds this group's. -/
def State.leaveRail (s : State) (g : Group) : State :=
  match g.seat with
  | none => s
  | some seat => s.onRail g.core (railOfSeat seat) (fun r =>
      { r with clauseOf := if r.clauseOf = some g.gid then none else r.clauseOf })

/-- Releases the window of a group's handler (06 R178, R180). -/
def State.freeWindow (s : State) (g : Group) : State :=
  match g.seat with
  | none => s
  | some seat => s.onRail g.core (railOfSeat seat) (fun r =>
      if r.handler = some g.gid then { r with handler := none, window := [] } else r)

/-! ### Retirement, kill, death (05 R133, 06 R178, R186, R187) -/

/-- The next entries of a pending-store buffer after some have left (06 R157). -/
def Control.setPsb (c : Control) (es : List PsbEntry) : Control := { c with psb := es }

/-- Zeroes a tile and its marks: a released tile reads as zero to its next owner (10 R275). -/
def Core.clearTile (k : Core) (t : Nat) : Core :=
  { k with
    acc := k.acc.filter (fun e => e.1 / 4096 != t)
    accErr := k.accErr.filter (fun e => e / 4096 != t)
    accTest := k.accTest.filter (fun e => e / 16 / 4096 != t) }

/-- Frees a group's claims on its core's matrix engine: its tiles, its operand-buffer records, and its commands
(10 R274, R275; log 18). -/
def Core.freeEngine (k : Core) (gid : Nat) : Core :=
  let tiles := (k.tileOwner.filter (fun e => e.2.1 == gid + 1)).map (fun e => e.1)
  let k1 := tiles.foldl Core.clearTile k
  { k1 with
    tileOwner := k1.tileOwner.filter (fun e => e.2.1 != gid + 1)
    obrecs := k1.obrecs.filter (fun o => o.owner != gid)
    stream := k1.stream.filter (fun e => e.gid != gid) }

/-- When all groups of a workgroup have retired, the workgroup retires: its position is free and the launch counts it
(05 R133). -/
def State.retireWorkgroup (s : State) (launch wg : Nat) : State :=
  let mates := s.groups.filter (fun g => g.launch == launch && g.workgroup == wg)
  match s.launch? launch with
  | none => s
  | some l =>
    if mates.all (fun g => g.gstate == .retired) && !l.retired.contains wg then
      let gids := mates.map (fun g => g.gid)
      let s1 := s.putLaunch { l with retired := insertSorted wg l.retired }
      let s2 := { s1 with bars := Sparse.mapAll {} s1.bars (fun _ b => { b with
          killed := b.killed.filter (fun e => !gids.contains e.1)
          arrived := b.arrived.filter (fun e => !gids.contains e.1) }) }
      s2
    else s

/-- Retires a group (05 R133): its seat and claim are freed, the partial launch packet is discarded (R137), tiles and
records are freed, fabric event words return to their buffer (02 R43), and the suspensions it made are withdrawn. -/
def State.retire (s : State) (gid : Nat) : State :=
  match s.group? gid with
  | none => s
  | some g =>
    let s1 := ((s.leaveRail g).freeWindow g).resumeAll gid
    let s2 := s1.onGroup gid (fun g => { g with
      gstate := .retired, seat := none, wait := .none, lls := 0, age := 0, stalled := none, clause := none
      fetchHold := false, wdDue := false, queues := [], suspendBy := [], leaseOut := 0
      ctl := { g.ctl with laWords := 0, launchBuf := Vector.replicate 32 0#32, trapPend := false, suspended := false } })
    let back := g.queue 11
    let s3 := if back.isEmpty then s2 else s2.onInst g.ctl.handle (fun i =>
      let all := back ++ i.events
      { i with events := all.drop (all.length - 64), evLost := i.evLost || decide (all.length > 64) })
    let s4 := (s3.onCore g.core (fun k => k.freeEngine gid)).retireWorkgroup g.launch g.workgroup
    match g.seat with
    | none => s4
    | some seat => s4.enterOldest g.core (railOfSeat seat)

/-- What a killed group leaves: unreleased stores are discarded and flags abandoned; sent stores and atomics go on, and
stores sent for a quantum that was not counted commit outside it (06 R178, 08 R239, log 14). -/
def State.abandon (s : State) (gid : Nat) : State :=
  let gone := (s.ops.filter (fun o => o.gid == gid)).map (fun o => o.id)
  let loose (w : Window) : Bool := w.gid == gid && w.phase.isNone
  let freed := (s.mem.windows.filter loose).map (fun w =>
    ({ id := w.order, gid := w.gid, lane := w.lane, core := w.core, space := w.space, block := w.block, phys := w.phys,
        bits := w.bits, data := w.data, reserved := false, op := 0, order := w.order } : Commit))
  { s with
    ops := (s.ops.filter (fun o => o.gid != gid || (match o.kind with | .atomic .. => true | _ => false))).map (fun o =>
      if o.gid == gid then { o with flag := 16, destWords := 0 } else o)
    commits := s.commits.map (fun c => if gone.contains c.op then { c with quantum := none } else c) ++ freed
    mem := { s.mem with windows := s.mem.windows.filter (fun w => !loose w) }
    groups := s.groups.map (fun g => if g.gid == gid then g.onCtl (fun c => c.setPsb []) else g) }

/-- What settling has to do: a lane that dies, or a group that is killed. -/
inductive Job where
  | dies (gid lane : Nat)
  | kill (gid : Nat)
deriving DecidableEq, Repr

/-- Whether a job still stands. -/
def State.stands (s : State) : Job → Bool
  | .dies gid t => match s.group? gid with
    | none => false
    | some g => g.gstate != .retired && g.ctl.exist.getLsbD t && !g.ctl.dead.getLsbD t
  | .kill gid => match s.group? gid with
    | none => false
    | some g => g.gstate != .retired

/-- Does one job; a pair's lanes die together and its groups are killed together (06 R192, R193): marks the lane dead and discards its unreleased stores (06 R186, R187), or kills the group (R178).
The answer lists the jobs that follow. -/
def State.doJob (s : State) : Job → State × List Job
  | .dies gid t =>
    let s1 := s.onGroup gid (fun g => g.onCtl (fun c =>
      { c with dead := c.dead ||| laneBit t, psb := c.psb.filter (fun e => e.lane != t || e.held.isSome) }))
    let (s2, dead) := s1.countDeadLane gid t
    match s2.group? gid with
    | none => (s2, [])
    | some g =>
      (s2, (match s.partner g with | none => [] | some p => [.dies p.gid t]) ++ (if g.ctl.live == 0#32 then [.kill gid] else []) ++
        dead.map (fun d => .dies d.1 d.2))
  | .kill gid =>
    match s.group? gid with
    | none => (s, [])
    | some g =>
      let lost := g.ctl.handler && g.ctl.trapRec.cause == 0x10#16
      let s1 := (s.launchStatus g.launch (if lost then 2 else 1)).abandon gid
      let (s2, dead) := if g.ctl.shadow then (s1, []) else s1.countKilled g
      ((s2.onGroup gid (fun g => { g with killed := true })).retire gid,
        (match s.partner g with | none => [] | some p => [.kill p.gid]) ++ dead.map (fun d => .dies d.1 d.2))

/-- Does jobs until none stands; each one done takes a lane or a group away, so the fuel is enough. -/
def State.settle (s : State) : Nat → List Job → State
  | 0, _ => s
  | n + 1, js =>
    match js.dropWhile (fun j => !s.stands j) with
    | [] => s
    | j :: js =>
      let (s', more) := s.doJob j
      s'.settle n (js ++ more)

/-- Fuel for settling: more than the lanes and groups there are. -/
def State.fuel (s : State) : Nat := 256 * (s.groups.length + 1)

/-- Kills a group (06 R178). -/
def State.killGroup (s : State) (gid : Nat) : State := s.settle s.fuel [.kill gid]

/-- Lanes die (06 R186). -/
def State.killLanes (s : State) (dead : List (Nat × Nat)) : State :=
  if dead.isEmpty then s else s.settle s.fuel (dead.map (fun d => .dies d.1 d.2))

/-- A mismatch of a pair (06 R192): the stores of both are discarded, both are killed, and event 0x36 goes to the physical
function and the tenant. -/
def State.mismatch (s : State) (g : Group) : State :=
  let say (t : State) (q : Nat) : State := t.event q 0x36 g.fn g.ctl.pc.toNat g.ctl.handle.toNat g.ctl.group.toNat
  (say (say s 0) g.fn).killGroup g.gid

/-- A trap that waits: when leader and shadow have both recorded one and differ, that is a mismatch; otherwise the oldest
waiting group of the rail enters (06 R193). -/
def State.afterTrap (s : State) (gid : Nat) : State :=
  match s.group? gid with
  | none => s
  | some g =>
    match s.partner g with
    | some h =>
      if h.ctl.trapPend && !s.pairAgrees g then s.mismatch g
      else
        let l := if g.ctl.shadow then h else g
        match l.seat with | none => s | some seat => s.enterOldest l.core (railOfSeat seat)
    | none => match g.seat with | none => s | some seat => s.enterOldest g.core (railOfSeat seat)

/-- Whether an operation is the load of an LDSHAPE that stalls in place (10 R290). -/
def OutOp.loadsShape (o : OutOp) : Bool :=
  match o.kind with
  | .load .shape .. => true
  | _ => false

/-- Gives up the line an LDSHAPE in place has asked for: a trapping instruction has no effect (06 R173). -/
def State.dropShapeLoads (s : State) (gid : Nat) : State :=
  { s with ops := s.ops.filter (fun o => !(o.gid == gid && o.loadsShape)) }

/-- Raises a trap of a group (06 R173 to R176): a trap in a handler kills (R178); otherwise the record is written and the
group enters its handler as soon as its rail has none running. -/
def State.raiseTrap (s : State) (g : Group) (tr : Trap) (slot : Nat) (hdr uni : Bool) (word : Word) : State :=
  if g.ctl.handler then s.killGroup g.gid
  else
    let record : TrapRec := {
      cause := BitVec.ofNat 16 tr.cause, slot := BitVec.ofNat 8 slot, flags := trapFlags hdr uni, laneMask := tr.mask
      clause := g.ctl.pc, info0 := BitVec.ofNat 64 tr.info0, info1 := BitVec.ofNat 64 tr.info1
      frame := BitVec.ofNat 64 s.pkg.frame, word := word }
    let g' := { g with stalled := none, ctl := { g.ctl with trapRec := record, trapPend := true } }
    let g'' := if tr.cause = 4 then g'.count (fun c => { c with alwTrap := c.alwTrap + 1 }) else g'
    (((s.putGroup g'').dropShapeLoads g.gid).leaveRail g'').afterTrap g.gid

/-! ### Fetching code (12 R320, 08 R238) -/

/-- The place of a line in a core's instruction cache. -/
def icacheKey (handle : Word) (a : Nat) : Nat := handle.toNat * 2 ^ 57 + a / 128

/-- A byte of code as a core fetches it: from a copy its instruction cache may hold, or from the home (08 R238). -/
def State.fetchByte (s : State) (core : Nat) (handle : Word) (a : Nat) : Option Byte :=
  match s.translate handle a .fetch with
  | .ok p _ =>
    let line := Sparse.get [] (s.core core).icache (icacheKey handle a)
    if !line.isEmpty && Config.fetchHits (s.freeCtr + a / 128) then some (line.getD (a % 128) 0#8)
    else some (Memory.read s.mem.bytes p)
  | _ => none

/-- The word of code at an address, or the first byte that cannot be fetched. -/
def State.fetchWord (s : State) (core : Nat) (handle : Word) (a : Nat) : Except Nat Word :=
  match s.fetchByte core handle a, s.fetchByte core handle (a + 1), s.fetchByte core handle (a + 2),
    s.fetchByte core handle (a + 3) with
  | some b0, some b1, some b2, some b3 => .ok (wordOfBytes b0 b1 b2 b3)
  | _, _, _, _ => .error a

/-- Words of code from an address on, or the first byte that cannot be fetched. -/
def State.fetchWords (s : State) (core : Nat) (handle : Word) (a : Nat) : Nat → Except Nat (List Word)
  | 0 => .ok []
  | n + 1 =>
    match s.fetchWord core handle a with
    | .error e => .error e
    | .ok w =>
      match s.fetchWords core handle (a + 4) n with
      | .error e => .error e
      | .ok ws => .ok (w :: ws)

/-- Whether an opcode is of class L (12 Table 12.4). -/
def isLong (op : Nat) : Bool :=
  op == 0x05 || op == 0x0E || op == 0x0F || op == 0x36 || op == 0x37 || op == 0x58 || op == 0x59 || op == 0x70 ||
    op == 0x71 || (decide (0x80 ≤ op) && decide (op ≤ 0x87)) || op == 0x89 ||
    (decide (0x90 ≤ op) && decide (op ≤ 0x96)) || (decide (0x98 ≤ op) && decide (op ≤ 0x9A)) || op == 0x9E || op == 0x9F ||
    (decide (0xA0 ≤ op) && decide (op ≤ 0xAE)) || (decide (0xB0 ≤ op) && decide (op ≤ 0xB3)) || op == 0xB5 || op == 0xB9

/-- How many literals an opcode consumes (12 Table 12.4). -/
def litsOf (op : Nat) : Nat :=
  if op == 0x4A then 2
  else if op == 0x08 || op == 0x0D || op == 0x10 || op == 0x11 || op == 0x15 || op == 0x16 || op == 0x18 || op == 0x41 ||
    (decide (0x44 ≤ op) && decide (op ≤ 0x48)) || op == 0x57 then 1
  else 0

/-- The opcode of a word, as a number. -/
def opOf (w : Word) : Nat := (opField w).toNat

/-- The literals the words of a clause before a slot consume (06 R180). -/
def litsBefore (ws : List Word) (slot : Nat) : Nat := (ws.take slot).foldl (fun n w => n + litsOf (opOf w)) 0

/-- The long-latency operations of the words before a slot (06 R180). -/
def longsBefore (ws : List Word) (slot : Nat) : Nat := ((ws.take slot).filter (fun w => isLong (opOf w))).length

/-- The clause at an address. -/
def State.fetchClause (s : State) (core : Nat) (handle : Word) (pc : Nat) : Except Nat FetchedClause :=
  match s.fetchWord core handle pc with
  | .error e => .error e
  | .ok h =>
    if isHeader h then
      let hd := headerOf h
      match s.fetchWords core handle (pc + 4) (hd.count + hd.lit) with
      | .error e => .error e
      | .ok ws => .ok ⟨h, ws.take hd.count, ws.drop hd.count, 0⟩
    else .ok ⟨h, [], [], 0⟩

/-! ### Progress through a clause (06 R166) -/

/-- The clause that holds a group's slot completes: the pc moves past it, the watchdog count is cleared and the rail is
free (06 R166, 05 R148). -/
def State.endClause (s : State) (g : Group) : State :=
  let words := match g.clause with | none => 0 | some c => c.words.length + c.lits.length
  let g' := { g with
    clause := none
    done := if g.ctl.handler then g.done else g.done + 1
    ctl := { g.ctl with
      pc := g.ctl.pc + BitVec.ofNat 64 (4 * (1 + words)), slot := 0, litPos := 0, resumeWait := false, wdCount := 0#64 }
    counters := { g.counters with clauses := g.counters.clauses + 1 } }
  (s.putGroup g').leaveRail g'

/-- The instruction at a group's slot has issued: the next slot follows, or the clause completes. -/
def State.nextSlot (s : State) (gid : Nat) (lits cycles : Nat) (long : Bool) : State :=
  match s.group? gid with
  | none => s
  | some g =>
    let g' := { g with
      stalled := none
      clause := g.clause.map (fun (c : FetchedClause) => if long then { c with longs := c.longs + 1 } else c)
      ctl := { g.ctl with slot := g.ctl.slot + 1, litPos := g.ctl.litPos + lits }
      counters := { g.counters with issue := g.counters.issue + cycles } }
    match g'.clause with
    | none => s.putGroup g'
    | some c => if g'.ctl.slot < c.words.length then s.putGroup g' else s.endClause g'

/-- Branch (13 R352): the pc is the target, and the rest of the clause does not issue. -/
def State.branch (s : State) (gid : Nat) (target : Word64) (cycles : Nat) : State :=
  match s.group? gid with
  | none => s
  | some g =>
    let g' := { g with
      stalled := none, clause := none
      done := if g.ctl.handler then g.done else g.done + 1
      ctl := { g.ctl with pc := target, slot := 0, litPos := 0, resumeWait := false, wdCount := 0#64 }
      counters := { g.counters with issue := g.counters.issue + cycles, clauses := g.counters.clauses + 1 } }
    (s.putGroup g').leaveRail g'

/-- The instruction stalls in place (05 R143): the rail is free, and the group resumes at the same slot. -/
def State.stall (s : State) (g : Group) (st : Stall) : State :=
  (s.putGroup { g with stalled := some st }).leaveRail g

/-! ### Returning from an exception (06 R180) -/

/-- Where a return resumes: slot and literal position, from the clause at the pc; a slot past the clause resumes at the
next clause. -/
def State.resumePoint (s : State) (g : Group) (pc : Word64) (slot : Nat) : Word64 × Nat × Nat :=
  match s.fetchClause g.core g.ctl.handle pc.toNat with
  | .error _ => (pc, slot, 0)
  | .ok c =>
    if slot = 0 then (pc, 0, 0)
    else if c.words.isEmpty then (pc, slot, 0)
    else if slot < c.words.length then (pc, slot, litsBefore c.words slot)
    else (pc + BitVec.ofNat 64 (4 * (1 + c.words.length + c.lits.length)), 0, 0)

/-- At a leader's return its registers, control area and shape registers replace its shadow's (06 R193). -/
def State.copyToShadow (s : State) (g : Group) : State :=
  match s.partner g with
  | none => s
  | some h =>
    if !h.ctl.shadow then s
    else s.putGroup { h with
      regs := g.regs, shapes := g.shapes, stalled := none, clause := none, done := g.done
      ctl := { g.ctl with shadow := true, paired := false, psb := h.ctl.psb, psbHead := h.ctl.psbHead } }

/-- TrapReturn (06 R180): MODE and EXEC come back from where the entry saved them, HANDLER is cleared and the window
released, and the group resumes at the trapped slot or the one after it. Every group the handler suspended is resumed
(R182). -/
def State.trapReturn (s : State) (g : Group) (skip : Bool) : State :=
  let record := g.ctl.trapRec
  let slot := record.slot.toNat + (if skip then 1 else 0)
  let p := s.resumePoint g record.clause slot
  let next := p.2.1 == 0 && slot != 0
  let g' := { g with
    clause := none, stalled := none
    ctl := { g.ctl with
      mode := g.ctl.saveMode, exec := g.ctl.saveExec, handler := false
      pc := p.1, slot := p.2.1, litPos := p.2.2
      resumeWait := !wbit record.flags 1 && !next
      trapRec := { record with flags := record.flags &&& 0xFE#8 } } }
  ((((s.putGroup g').leaveRail g').freeWindow g').resumeAll g.gid).copyToShadow g'

end Sys2Proof.Machine
end

