-- ==== Sys2Proof/Machine/Operands.lean ====
section
/-!
DEFINITION. Operand forms: the field kinds (12 R316, R317; 15 R405; 10 R265), the page of an instruction, the checks of
R319 in their order, active lanes (06 R151), and reading and writing the fields d, a and b.
-/
namespace Sys2Proof.Machine

/-- The kinds of a field (12 Table 12.2, 15 R405). `typed` is a register, or a pair when the type at issue is 64-bit
(13 R349, 14 R383); `eight` names eight registers in a row (15 R415); `code` lists the legal ranges and the MBZ bits; `acc` names a tile
with the MBZ bits its instruction leaves (10 R265); `queue` is a queue number (15 R422); `cvt` is a field of CVT that follows a format (14 R395); `fold` is the
step code of REDUCE or SCAN, which follows the type (14 Table 14.12). -/
inductive Kind where
  | reg | pair | quad | eight | typed | record | shape | scope | queue | any | unused
  | acc (mbz : Nat)
  | cvt (format : Nat)
  | fold (scan : Bool)
  | code (legal : List (Nat × Nat)) (mbz : Nat := 0)
deriving DecidableEq, Repr

/-- How many rail cycles an instruction holds (06 R152, 13 R355). -/
inductive Cycles where
  | lanes | one | ifnz
deriving DecidableEq, Repr

/-- The page of an instruction: the kinds of its fields, whether d is read and written, its literals, its class (L, 1, P
of 12 Table 12.4), whether S is Live (13 R355), whether a shadow computes it itself although it is long-latency
(06 R191), whether it is a release (08 Table 8.2), whether a pending acquire holds it (R228), whether it is
cross-lane, so that no source names a queue (14 R399), the MODE types it refuses (15 R417), how many registers it writes where that is not the span of d, whether a shadow takes its
data from the load-value queue at issue (06 R191), and checks of its own on the fields and literals, which answer a cause
and INFO1 (12 R319 step 8). -/
structure Form where
  d      : Kind
  a      : Kind
  b      : Kind
  dRead  : Bool := false
  dWrite : Bool := false
  lits   : Nat := 0
  long   : Bool := false
  one    : Bool := false
  priv   : Bool := false
  live   : Bool := false
  cycles : Cycles := .lanes
  own    : Bool := false
  sync   : Bool := false
  mem    : Bool := false
  cross  : Bool := false
  badType : Nat → Bool := fun _ => false
  words  : Option Nat := none
  viaLvq : Bool := false
  late   : List Word → Option (Nat × Nat) := fun _ => none

/-- A 64-bit type code: I64, N64, F64. -/
def wideType (ty : Nat) : Bool := ty == 2 || ty == 3 || ty == 5

/-- Whether an instruction is MODE-typed, so that it traps on a TYPE of 12 to 15 (12 R323). -/
def Form.typed (f : Form) : Bool := f.d == .typed || f.a == .typed || f.b == .typed

/-- The kind of a field under MODE.TYPE. -/
def Kind.under (ty : Nat) : Kind → Kind
  | .typed => if wideType ty then .pair else .reg
  | .cvt f => if wideType f then .pair else .reg
  | .fold scan =>
    let top := if 4 ≤ ty ∧ ty ≤ 7 then 3 else 6
    .code ((1, top) :: if scan then [(17, 16 + top)] else [])
  | k => k

/-- How many registers a kind names, 0 for one that names none. -/
def Kind.span : Kind → Nat
  | .reg => 1
  | .pair => 2
  | .quad => 4
  | .eight => 8
  | .typed => 1
  | _ => 0

/-- A register at or above REGS (12 R316, R317); values 0 to 7 in a handler name the window. -/
def beyondRegs (k : Kind) (v regs : Nat) (handler : Bool) : Bool :=
  k.span != 0 && decide (v < 240) && !(handler && decide (v < 8)) && decide (regs < v + k.span)

/-- Queue misuse (06 R170, 12 R316, 15 R405): a queue where the kind takes none, against its direction, or as the
destination of a long-latency instruction. -/
def queueMisuse (k : Kind) (v : Nat) (reads writes long : Bool) : Bool :=
  (k == .queue && decide (13 ≤ v) && decide (v ≤ 15)) || k.span != 0 && decide (240 ≤ v) &&
    (k != .reg || (reads && !(queueReads (v - 240) || v == 252)) ||
      (writes && (long || !(queueWrites (v - 240) || v == 252))))

/-- A code outside its legal values (12 R316). -/
def codeBad (k : Kind) (v : Nat) : Bool :=
  match k with
  | .scope => decide (4 < v)
  | .queue => decide (15 < v)
  | .code legal _ => !(legal.any (fun r => decide (r.1 ≤ v) && decide (v ≤ r.2)))
  | _ => false

/-- The MBZ bits a field value sets (12 R316, R318; 15 R405; 10 R265). -/
def fieldMbz (k : Kind) (v : Nat) : Nat :=
  match k with
  | .pair => if v < 240 then v % 2 else 0
  | .quad => if v < 240 then v % 4 else 0
  | .record => v / 64 * 64
  | .shape => v / 16 * 16
  | .acc m => v &&& m
  | .code _ m => v &&& m
  | .unused => v % 16
  | _ => 0

/-- What a check of R319 finds: nothing, or a cause and INFO1. -/
abbrev Finding := Option (Nat × Nat)

/-- Takes the first finding. -/
def firstOf : List Finding → Finding
  | [] => none
  | some x :: _ => some x
  | none :: fs => firstOf fs

/-- A finding when a test holds. -/
def findIf (p : Bool) (cause info1 : Nat) : Finding := if p then some (cause, info1) else none

/-- The state of the group that the checks read. -/
structure Check where
  mode    : Word
  handler : Bool
  regs    : Nat
  litLeft : Nat
  longs   : Nat

/-- The checks of R319 from step 3 on, in order; the first that fails decides (12 R319, R323). The register fields are taken
one after the other (log 67). -/
def Form.findings (pg : Form) (c : Check) (d a b : Nat) (lits : List Word) : Finding :=
  let ty := modeType c.mode
  let kd := pg.d.under ty
  let ka := pg.a.under ty
  let kb := pg.b.under ty
  let guard := modeGuard c.mode
  let mbz := fieldMbz kd d * 65536 + fieldMbz ka a * 256 + fieldMbz kb b
  firstOf [
    findIf (pg.priv && !c.handler) 1 7,
    findIf (decide (guard < 240) && decide (c.regs ≤ guard)) 1 2,
    findIf (beyondRegs kd d c.regs c.handler || (kd == .eight && decide (232 < d) && decide (d < 240))) 1 2,
    findIf (queueMisuse kd d pg.dRead pg.dWrite pg.long) 1 3,
    findIf (beyondRegs ka a c.regs c.handler || (ka == .eight && decide (232 < a) && decide (a < 240))) 1 2,
    findIf (queueMisuse ka a true false pg.long || (pg.cross && ka.span != 0 && decide (240 ≤ a))) 1 3,
    findIf (beyondRegs kb b c.regs c.handler) 1 2,
    findIf (queueMisuse kb b true false pg.long || (pg.cross && kb.span != 0 && decide (240 ≤ b))) 1 3,
    findIf (codeBad kd d || codeBad ka a || codeBad kb b || (pg.typed && decide (12 ≤ ty)) || pg.badType ty) 1 1,
    findIf (decide (c.litLeft < pg.lits)) 1 6,
    findIf (pg.long && decide (2 ≤ c.longs)) 1 4,
    findIf (mbz != 0) 3 mbz,
    pg.late lits]

/-- The guard of an instruction (06 R151). -/
def State.guardMask (s : State) (g : Group) : Word :=
  let r := modeGuard g.ctl.mode
  if 240 ≤ r then 0xFFFFFFFF#32
  else
    let m := maskOf ((List.range 32).filter (fun t => s.readReg g r t != 0#32))
    if modeSense g.ctl.mode then ~~~m else m

/-- The active lanes of an instruction (06 R151). -/
def State.activeMask (s : State) (g : Group) : Word :=
  g.ctl.exist &&& ~~~g.ctl.dead &&& g.ctl.exec &&& s.guardMask g

/-- The three fields of an instruction word. -/
inductive Fld where
  | d | a | b
deriving DecidableEq, Repr

/-- An instruction as it executes (13 R348): its group, its page and word, S, L, whether it is uniform or of class 1, the
flag a long-latency one counts on, its literals, the words it pops for its fields, and the lanes that die of what they read
(06 R186). -/
structure Ctx where
  gid  : Nat
  g    : Group
  form : Form
  op   : Nat
  d    : Nat
  a    : Nat
  b    : Nat
  S    : List Nat
  L    : List Nat
  uni  : Bool
  flag : Nat
  lits : List Word
  popA : List Word := []
  popB : List Word := []
  popD : List Word := []
  dying : List Nat := []

/-- The lowest active lane. -/
def Ctx.low (x : Ctx) : Nat := x.S.headD 0

/-- The lanes of S as a mask. -/
def Ctx.sMask (x : Ctx) : Word := maskOf x.S

/-- MODE as the instruction reads it. -/
def Ctx.mode (x : Ctx) : Word := x.g.ctl.mode

/-- MODE.TYPE as the instruction reads it. -/
def Ctx.ty (x : Ctx) : Nat := modeType x.g.ctl.mode

/-- A field's number. -/
def Ctx.num (x : Ctx) : Fld → Nat
  | .d => x.d
  | .a => x.a
  | .b => x.b

/-- A field's kind. -/
def Ctx.kind (x : Ctx) (f : Fld) : Kind :=
  match f with
  | .d => x.form.d.under x.ty
  | .a => x.form.a.under x.ty
  | .b => x.form.b.under x.ty

/-- The word popped for a field in a lane. -/
def Ctx.popped (x : Ctx) (f : Fld) (t : Nat) : Word :=
  let ws := match f with | .d => x.popD | .a => x.popA | .b => x.popB
  ws.getD (x.L.findIdx (· == t)) 0#32

/-- Register number n of a lane, for the instruction. -/
def Ctx.reg (x : Ctx) (s : State) (n t : Nat) : Word := s.readReg x.g n t

/-- Rd (13 Table 13.1): the 32-bit value of a field in a lane, the popped word for a queue. -/
def Ctx.rd (x : Ctx) (s : State) (f : Fld) (t : Nat) : Word :=
  if 240 ≤ x.num f then x.popped f t else x.reg s (x.num f) t

/-- The pair a field names in a lane, low word in the even register. -/
def Ctx.rdPair (x : Ctx) (s : State) (f : Fld) (t : Nat) : Word64 :=
  pair (x.reg s (x.num f) t) (x.reg s (x.num f + 1) t)

/-- The value of a typed field: the pair under a 64-bit type, else the register with zeros above. -/
def Ctx.val (x : Ctx) (s : State) (f : Fld) (t : Nat) : Word64 :=
  match x.kind f with
  | .pair => x.rdPair s f t
  | _ => (x.rd s f t).setWidth 64

/-- Whether a field names a queue that the instruction pops. -/
def Ctx.popsField (x : Ctx) (f : Fld) : Bool :=
  x.kind f == .reg && decide (240 ≤ x.num f) && (f != .d || x.form.dRead)

/-- Whether the instruction pushes its result to a queue. -/
def Ctx.pushes (x : Ctx) : Bool := x.form.dWrite && x.kind .d == .reg && decide (240 ≤ x.d)

/-- The lanes of L that read a Mantle word with an uncorrectable error: they die, every lane of S when the instruction acts
once (06 R161, R186). -/
def Ctx.deadReads (x : Ctx) : List Nat :=
  if x.g.regErr.isEmpty then []
  else
    let bad (f : Fld) (t : Nat) : Bool :=
      decide (x.num f < 240) && (f != .d || x.form.dRead) &&
        (List.range (x.kind f).span).any (fun i => x.g.regErr.contains (32 * (x.num f + i) + t) &&
          !(x.g.ctl.handler && decide (x.num f + i < 8)))
    let hit := x.L.filter (fun t => bad .d t || bad .a t || bad .b t)
    if hit.isEmpty then [] else if x.uni then x.S else hit

end Sys2Proof.Machine
end

