-- ==== Sys2Proof/Machine/Order.lean ====
section
/-!
DEFINITION. Ordering (08): the pending-store buffer as releases, overflows and atomics empty it (R225, R226, R233,
15 R409, R413), releases and acquires as operations (R226, R228), and what an acquire invalidates.
-/
namespace Sys2Proof.Machine

/-! ### The pending-store buffer (06 R157, 07 R201) -/

/-- The bits a byte mask covers. -/
def bitsOfMask (m : BitVec 16) : BitVec 128 :=
  BitVec.ofNat 128 ((List.range 16).foldl (fun n i => if m.getLsbD i then n + 255 * 256 ^ i else n) 0)

/-- A store of the buffer: its entry and the bits it writes, from its byte mask or, for a packed element, from the entry
that follows it (07 R201). -/
structure PsbStore where
  entry : PsbEntry
  bits  : BitVec 128
deriving DecidableEq, Repr

/-- The stores of a buffer, oldest first. -/
def psbStores : List PsbEntry → List PsbStore
  | [] => []
  | [e] => [⟨e, bitsOfMask e.mask⟩]
  | e :: m :: rest =>
    if m.slot == 0xFF#8 then ⟨e, m.data⟩ :: psbStores rest else ⟨e, bitsOfMask e.mask⟩ :: psbStores (m :: rest)

/-- Takes entries out of the buffer; head moves past those that were oldest when they left (06 R157). -/
def Control.takeOut (c : Control) (p : PsbEntry → Bool) : Control :=
  { c with
    psb := c.psb.filter (fun e => !p e)
    psbHead := (c.psbHead + (c.psb.takeWhile p).length) % 128 }

/-- Whether any bit of a byte is set. -/
def anyBit (b : Byte) : Bool := b != 0#8

/-- The bits that a lane's own entries give a run of n bytes, the newest entry of each bit deciding (08 R225, 07 R201). -/
def forwardBits (es : List PsbStore) (space : Space) (lane addr : Nat) : Nat → List (Nat × Byte × Byte)
  | 0 => []
  | n + 1 =>
    let mine := es.filter (fun e => e.entry.lane == lane && e.entry.space == space &&
      decide (e.entry.block ≤ addr) && decide (addr < e.entry.block + 16))
    let (bits, data) := mine.foldl (fun (acc : Byte × Byte) e =>
      let b := byteAt e.bits (addr - e.entry.block)
      (acc.1 ||| b, mergeByte acc.2 b (byteAt e.entry.data (addr - e.entry.block)))) (0#8, 0#8)
    if anyBit bits then (addr, bits, data) :: forwardBits es space lane (addr + 1) n
    else forwardBits es space lane (addr + 1) n

/-- A byte of a load as its lane's own entries change it. -/
def LaneAccess.own (l : LaneAccess) (addr : Nat) (b : Byte) : Byte :=
  match l.forward.find? (fun f => f.1 == addr) with
  | none => b
  | some f => mergeByte b f.2.1 f.2.2

/-- The bytes a load form moves in a lane. -/
def LoadForm.bytes : LoadForm → Nat
  | .reg n _ _ => n
  | .shape => 64

/-- Whether a store's bits touch a byte that a lane's load still has to read from memory: a byte of a line not yet read
that its own entries do not give whole (15 R409). -/
def LaneAccess.needs (l : LaneAccess) (span : Nat) (lines : List LineAccess) (block : Nat) (bits : BitVec 128) : Bool :=
  !l.clamped && (List.range span).any (fun i =>
    let a := l.addr + i
    decide (block ≤ a) && decide (a < block + 16) &&
      anyBit (byteAt bits (a - block) &&& ~~~(match l.forward.find? (fun f => f.1 == a) with
        | none => 0#8
        | some f => f.2.1)) &&
      lines.any (fun n => n.addr == a / 128 * 128 && n.bytes.isNone))

/-- Whether an outstanding load holds a later store of one of its lanes (15 R409). -/
def OutOp.holdsStore (o : OutOp) (gid lane id : Nat) (space : Space) (block : Nat) (bits : BitVec 128) : Bool :=
  match o.kind with
  | .load form sp image _ lines lanes _ _ =>
    o.gid == gid && decide (o.id < id) && sp == space &&
      lanes.any (fun l => l.lane == lane && l.needs ((bufRec image).span form.bytes l.bitPos) lines block bits)
  | _ => false

/-- The bytes from the first to the last that a store touches. -/
def touchedSpan (block : Nat) (bits : BitVec 128) : Nat × Nat :=
  let t := (List.range 16).filter (fun i => anyBit (byteAt bits i))
  (block + t.headD 0, block + t.getLastD 0 + 1)

/-- Whether something holds a sent store back from the core's memory unit: a transfer that owns a byte of it (15 R413), an
earlier load of its lane, the engine's among them (R409, 10 R268), or an earlier store of its lane to the same bits that is
held back itself. -/
def State.blocked (s : State) (gid lane id : Nat) (space : Space) (block : Nat) (bits : BitVec 128) : Bool :=
  let r := touchedSpan block bits
  !(s.owners space r.1 r.2).isEmpty || s.ops.any (fun o => o.holdsStore gid lane id space block bits) ||
    s.enginePending gid lane id space r.1 r.2 ||
    s.commits.any (fun c => c.gid == gid && c.lane == lane && c.space == space && c.block == block && !c.accepted &&
      decide (c.order < id) && c.bits &&& bits != 0#128)

/-! ### Sending entries (08 R226, 15 R413) -/

/-- Sends one store: translated again from its virtual address; if its page is gone or not writable it is discarded and
SDROP is set (15 R413). A reserved entry is not translated again for permission: its pages are pinned (04 R105). -/
def State.sendStore (s : State) (g : Group) (st : PsbStore) (op : Nat) (quantum : Option (Nat × Nat)) :
    State × List Nat :=
  let e := st.entry
  let go (phys : Nat) : State × List Nat :=
    let (id, s') := s.fresh
    ({ s' with commits := s'.commits ++
        [{ id := id, gid := g.gid, lane := e.lane, core := g.core, space := e.space, block := e.block, phys := phys
           bits := st.bits, data := e.data, reserved := e.reserved, op := op, quantum := quantum
           accepted := !s.blocked g.gid e.lane id e.space e.block st.bits, order := id, slot := e.slot.toNat
           left := !e.reserved, served := !e.reserved }] }, [id])
  match e.space with
  | .sram => go e.block
  | .fabric _ _ => go e.block
  | .virt h =>
    match s.translate h e.block .write with
    | .ok p _ => go p
    | _ => (s.onGroup g.gid (fun g => g.onCtl (fun c => { c with sdrop := true })), [])

/-- Sends stores in order. -/
def State.sendStores (s : State) (g : Group) (op : Nat) (quantum : Nat → Option (Nat × Nat)) :
    List PsbStore → State × List Nat
  | [] => (s, [])
  | st :: sts =>
    let (s', ids) := s.sendStore g st op (quantum st.entry.lane)
    let (s'', more) := s'.sendStores g op quantum sts
    (s'', ids ++ more)

/-- Sends every unsent entry of some lanes that a test picks, and takes them out of the buffer; an ARRIVE's entries stay,
held until its quantum commits (08 R226, R230). -/
def State.sendEntries (s : State) (gid : Nat) (p : PsbEntry → Bool) (op : Nat) (quantum : Nat → Option (Nat × Nat))
    (keep : Bool) : State × List Nat :=
  match s.group? gid with
  | none => (s, [])
  | some g =>
    let q (e : PsbEntry) : Bool := e.held.isNone && p e
    let (s', ids) := s.sendStores g op quantum (psbStores (g.ctl.psb.filter q))
    (s'.onGroup gid (fun g => g.onCtl (fun c =>
      if keep then { c with psb := c.psb.map (fun e => if q e then { e with held := some op } else e) } else c.takeOut q)),
      ids)

/-! ### Releases (08 R226) -/

/-- An operation that an earlier-load, earlier-atomic or earlier-release condition of R226 waits for. -/
def OutOp.beforeRelease (o : OutOp) : Bool :=
  match o.kind with
  | .load .. => true
  | .atomic .. => true
  | .release .. => true
  | .matrix .. => true
  | _ => false

/-- The earlier operations of some lanes that a release waits for. -/
def State.earlier (s : State) (gid : Nat) (lanes : Word) : List Nat :=
  (s.ops.filter (fun o => o.gid == gid && o.beforeRelease && o.lanes &&& lanes != 0#32)).map (fun o => o.id)

/-- The writer index of a lane (08 R230). -/
def State.writerIndex (s : State) (g : Group) (lane : Nat) : Nat :=
  (s.fab.row * 64 + s.fab.column) * 2 ^ 40 + g.ctl.group.toNat * 32 + lane

/-- The sent stores of a list that the memory unit has not accepted. -/
def State.notAccepted (s : State) (ids : List Nat) : List Nat :=
  ids.filter (fun i => s.commits.any (fun c => c.id == i && !c.accepted))

/-- Starts a release of some lanes (08 R226): every entry of the lanes is sent, and the release is an operation until its
conditions hold. At core scope an entry counts as committed once the memory unit has accepted it, so only those held
back are waited for. `op` carries the flag, the destination and what follows. -/
def State.startRelease (s : State) (op : OutOp) (scope : Nat) (object : Option Nat) (next : ReleaseThen) : State :=
  match s.group? op.gid with
  | none => s
  | some g =>
    let before := s.earlier op.gid op.lanes
    let quantum (lane : Nat) : Option (Nat × Nat) := object.map (fun k => (k, s.writerIndex g lane))
    let (s', ids) := s.sendEntries op.gid (fun e => op.lanes.getLsbD e.lane) op.id quantum object.isSome
    let s'' := s'.onGroup op.gid (fun g => g.onCtl (fun c => { c with psbScope := max c.psbScope scope }))
    { s'' with ops := s''.ops ++ [{ op with
        kind := .release scope before (if scope ≤ 1 && object.isNone then s''.notAccepted ids else ids) next }] }

/-! ### Acquires (08 R228) -/

/-- Whether an operation is a pending acquire. -/
def OutOp.acquiring (o : OutOp) : Bool :=
  match o.kind with
  | .acquire .. => true
  | .load _ _ _ _ _ _ (some _) _ => true
  | .release _ _ _ (.fence true) => true
  | .bartest .. => true
  | _ => false

/-- The pending acquires that hold the memory instructions of some lanes (08 R228). -/
def State.heldBy (s : State) (gid : Nat) (lanes : Word) : List Nat :=
  (s.ops.filter (fun o => o.gid == gid && o.acquiring && o.lanes &&& lanes != 0#32)).map (fun o => o.id)

/-- What an acquire of a scope invalidates when it completes: at quad scope or wider the installation's L1 lines on the
core, at pod scope its far lines too (08 R228). Scopes: 1 core to 5 pod. -/
def State.acquireEffect (s : State) (core : Nat) (handle : Word) (scope : Nat) : State :=
  let s1 := if 2 ≤ scope then s.onCore core (fun k => k.dropL1 handle) else s
  if 5 ≤ scope then s1.dropFar handle else s1

/-! ### Overflow (08 R233) -/

/-- Whether the next overflow entry may be sent: the previous one has been acknowledged, and no release of its lane is
outstanding. -/
def State.mayOverflow (s : State) (g : Group) (e : PsbEntry) : Bool :=
  !(s.commits.any (fun c => c.gid == g.gid && c.op == 0)) &&
    !(s.ops.any (fun o => o.gid == g.gid && o.lanes.getLsbD e.lane && (match o.kind with | .release .. => true | _ => false)))

/-- Sends the oldest entry that no release has sent, and sets SOVF (08 R233). -/
def State.overflowOne (s : State) (gid : Nat) : State :=
  match s.group? gid with
  | none => s
  | some g =>
    match psbStores (g.ctl.psb.filter (fun e => e.held.isNone)) with
    | [] => s
    | st :: _ =>
      if s.mayOverflow g st.entry then
        let (s', _) := s.sendStore g st 0 none
        s'.onGroup gid (fun g => g.onCtl (fun c =>
          let i := c.psb.findIdx (fun e => e.held.isNone)
          let n := match c.psb[i + 1]? with | none => 1 | some m => if m.slot == 0xFF#8 then 2 else 1
          { c with
            sovf := true
            psb := c.psb.take i ++ c.psb.drop (i + n)
            psbHead := if i = 0 then (c.psbHead + n) % 128 else c.psbHead }))
      else s

/-- Free entries of a group's buffer. -/
def Control.psbFree (c : Control) : Nat := 128 - c.psb.length

end Sys2Proof.Machine
end

