-- ==== Sys2Proof/Machine/Flags.lean ====
section
/-!
DEFINITION. Flags and narrowing: integer types (13 R349, 11 Table 11.3), Wrap, SatInt, Ext and Arith (13 Table 13.1, R350),
and raising floating-point exceptions (11 R307 to R309).
-/
namespace Sys2Proof.Machine

/-! ### Integer types -/

/-- An integer type: its width and whether it is signed (11 Table 11.3). -/
structure IntType where
  width  : Nat
  signed : Bool
deriving DecidableEq, Repr

/-- The integer type of a MODE.TYPE code: I32 under F32, F16 and BF16, I64 under F64 (13 R349). -/
def intType (ty : Nat) : IntType :=
  match ty with
  | 0 => ⟨32, true⟩
  | 1 => ⟨32, false⟩
  | 2 => ⟨64, true⟩
  | 3 => ⟨64, false⟩
  | 5 => ⟨64, true⟩
  | 8 => ⟨16, true⟩
  | 9 => ⟨16, false⟩
  | 10 => ⟨8, true⟩
  | 11 => ⟨8, false⟩
  | _ => ⟨32, true⟩

/-- The least value of a type. -/
def IntType.least (i : IntType) : Int := if i.signed then -(2 ^ (i.width - 1) : Int) else 0

/-- The greatest value of a type. -/
def IntType.greatest (i : IntType) : Int := if i.signed then 2 ^ (i.width - 1) - 1 else 2 ^ i.width - 1

/-- The value of the low bits of a register, or pair, under a type. -/
def IntType.read (i : IntType) (x : Word64) : Int :=
  let n := x.toNat % 2 ^ i.width
  if i.signed ∧ 2 ^ (i.width - 1) ≤ n then (n : Int) - 2 ^ i.width else n

/-- Wrap (13 Table 13.1): x modulo 2^W, read back as the type reads it. -/
def IntType.wrap (i : IntType) (x : Int) : Int :=
  let n := x.emod (2 ^ i.width)
  if i.signed ∧ (2 ^ (i.width - 1) : Int) ≤ n then n - 2 ^ i.width else n

/-- SatInt (13 Table 13.1): x clamped to the type's range, and whether that changed it. -/
def IntType.sat (i : IntType) (x : Int) : Int × Bool :=
  if x < i.least then (i.least, true) else if i.greatest < x then (i.greatest, true) else (x, false)

/-- Ext (13 Table 13.1): a value of the type as a register value. A narrow signed type is sign-extended to 32 bits, a
narrow unsigned one zero-extended; a 64-bit one fills the pair. -/
def IntType.ext (i : IntType) (x : Int) : Word64 :=
  if i.width = 64 then BitVec.ofInt 64 x else (BitVec.ofInt 32 x).setWidth 64

/-! ### What a lane computes -/

/-- The result of one lane: the value written to d (a word, or a pair), whether it saturated, and the floating-point
exceptions it raises in FPSTAT bit order: IV 16, DZ 8, OF 4, UF 2, NX 1. -/
structure LaneOut where
  val : Word64
  sat : Bool := false
  exc : BitVec 5 := 0#5
deriving DecidableEq, Repr

/-- A plain result. -/
def LaneOut.plain (x : Word64) : LaneOut := ⟨x, false, 0#5⟩

/-- Arith (13 R350): Wrap when MODE.SAT = 0, SatInt when it is 1, through Ext. -/
def arith (i : IntType) (satMode : Bool) (x : Int) : LaneOut :=
  if satMode then let (v, hit) := i.sat x; ⟨i.ext v, hit, 0#5⟩ else .plain (i.ext (i.wrap x))

/-! ### Exceptions -/

/-- The lanes that raise an exception their MODE enables (11 R309). -/
def trappingLanes (enables : BitVec 5) (outs : List (Nat × LaneOut)) : List (Nat × LaneOut) :=
  outs.filter (fun o => o.2.exc &&& enables != 0#5)

/-- The OR of the enabled exceptions of some lanes (11 R309). -/
def raisedOver (enables : BitVec 5) : List (Nat × LaneOut) → BitVec 5
  | [] => 0#5
  | o :: os => (o.2.exc &&& enables) ||| raisedOver enables os

/-- The FPX trap of an instruction, if a lane raises an enabled exception (11 R309, 06 Table 6.5). -/
def fpxTrap (enables : BitVec 5) (outs : List (Nat × LaneOut)) : Option Trap :=
  match trappingLanes enables outs with
  | [] => none
  | ls => some { cause := 8, mask := maskOf (ls.map (fun o => o.1)), info0 := (raisedOver enables ls).toNat, info1 := 0 }

/-- Sets FPSTAT bits of a lane; they are sticky (11 R308), and a dead lane's stop changing (06 R187). -/
def Control.raise (c : Control) (t : Nat) (exc : BitVec 5) : Control :=
  if c.dead.getLsbD t then c else { c with fpstat := c.fpstat.setIfInBounds t (c.fpstat.getD t 0#5 ||| exc) }

/-- Raises the exceptions of each lane, and SATF when a lane saturated (11 R308, 13 R348). -/
def Control.raiseAll (c : Control) (outs : List (Nat × LaneOut)) : Control :=
  let c' := outs.foldl (fun c o => c.raise o.1 o.2.exc) c
  { c' with satf := c'.satf || outs.any (fun o => o.2.sat) }

end Sys2Proof.Machine
end

