-- ==== Sys2Proof/Machine/Float.lean ====
section
/-!
DEFINITION. Floating arithmetic on bit patterns (11 R294 to R314): formats, decoding, the one rounding, the operations of
14 R386 to R393, the approximate functions (14 R394), conversions (11 R311 to R314), Facet blocks (11 R301 to R304).
Every operation computes its exact value and rounds it once.
-/
namespace Sys2Proof.Machine

/-! ### Formats (11 R294, R297) -/

/-- A floating format: exponent and fraction bits, bias, and its encodings without the sign: the largest finite value,
infinity, and the default NaN where it has one; patterns above these are NaNs. -/
structure FloatFmt where
  ebits : Nat
  fbits : Nat
  bias  : Int
  top   : Nat
  inf   : Option Nat
  nan   : Option Nat
deriving DecidableEq, Repr

/-- binary32. -/
def f32 : FloatFmt := ⟨8, 23, 127, 0x7F7FFFFF, some 0x7F800000, some 0x7FC00000⟩
/-- binary64. -/
def f64 : FloatFmt := ⟨11, 52, 1023, 0x7FEFFFFFFFFFFFFF, some 0x7FF0000000000000, some 0x7FF8000000000000⟩
/-- binary16. -/
def f16 : FloatFmt := ⟨5, 10, 15, 0x7BFF, some 0x7C00, some 0x7E00⟩
/-- BF16. -/
def bf16 : FloatFmt := ⟨8, 7, 127, 0x7F7F, some 0x7F80, some 0x7FC0⟩
/-- E5M2. -/
def e5m2 : FloatFmt := ⟨5, 2, 15, 0x7B, some 0x7C, some 0x7E⟩
/-- E4M3. -/
def e4m3 : FloatFmt := ⟨4, 3, 7, 0x7E, none, some 0x7F⟩
/-- E3M2. -/
def e3m2 : FloatFmt := ⟨3, 2, 3, 0x1F, none, none⟩
/-- E2M3. -/
def e2m3 : FloatFmt := ⟨2, 3, 1, 0x1F, none, none⟩
/-- E2M1. -/
def e2m1 : FloatFmt := ⟨2, 1, 1, 0x7, none, none⟩

/-- Bits of a format. -/
def FloatFmt.width (f : FloatFmt) : Nat := 1 + f.ebits + f.fbits

/-- The weight of the sign bit. -/
def FloatFmt.signBit (f : FloatFmt) : Nat := 2 ^ (f.ebits + f.fbits)

/-- The exponent of the last place of a subnormal. -/
def FloatFmt.quantum (f : FloatFmt) : Int := 1 - f.bias - f.fbits

/-- Bits with a sign. -/
def FloatFmt.signed (f : FloatFmt) (neg : Bool) (n : Nat) : Nat := if neg then f.signBit + n else n

/-- The floating type of a MODE.TYPE code (14 R383). -/
def floatType (ty : Nat) : FloatFmt :=
  match ty with
  | 2 => f64
  | 3 => f64
  | 5 => f64
  | 6 => f16
  | 7 => bf16
  | _ => f32

/-! ### Values -/

/-- What a pattern means: a NaN, an infinity, or ± mant × 2^exp. -/
inductive FloatVal where
  | nan (signalling : Bool)
  | inf (neg : Bool)
  | fin (neg : Bool) (mant : Nat) (exp : Int)
deriving DecidableEq, Repr

/-- Whether a pattern has its sign bit set. -/
def FloatFmt.negative (f : FloatFmt) (x : Nat) : Bool := decide (f.signBit ≤ x % (2 * f.signBit))

/-- Decodes a pattern (11 R294, R295, R297). -/
def FloatFmt.decode (f : FloatFmt) (x : Nat) : FloatVal :=
  let neg := f.negative x
  let mag := x % f.signBit
  let e := mag / 2 ^ f.fbits
  let frac := mag % 2 ^ f.fbits
  if f.inf = some mag then .inf neg
  else if f.top < mag then .nan (decide (frac < 2 ^ (f.fbits - 1)))
  else if e = 0 then .fin neg frac f.quantum
  else .fin neg (2 ^ f.fbits + frac) (f.quantum + e - 1)

/-- A NaN with its quiet bit set (11 R295). -/
def FloatFmt.quiet (f : FloatFmt) (x : Nat) : Nat := x % (2 * f.signBit) ||| 2 ^ (f.fbits - 1)

/-- Whether a value is a NaN. -/
def FloatVal.isNan : FloatVal → Bool
  | .nan _ => true
  | _ => false

/-- Whether a value is a signalling NaN. -/
def FloatVal.isSignalling : FloatVal → Bool
  | .nan s => s
  | _ => false

/-! ### Results and flags (11 R307) -/

/-- IV. -/
def flagIV : BitVec 5 := 16#5
/-- DZ. -/
def flagDZ : BitVec 5 := 8#5
/-- OF. -/
def flagOF : BitVec 5 := 4#5
/-- UF. -/
def flagUF : BitVec 5 := 2#5
/-- NX. -/
def flagNX : BitVec 5 := 1#5

/-- What MODE gives an operation: the rounding, SAT, and whether UF is enabled (11 R305, R307). -/
structure FloatEnv where
  rnd : Nat
  sat : Bool
  uf  : Bool
deriving DecidableEq, Repr

/-- The environment of a MODE value; RND of 5 to 7 rounds as RNE (11 R305). -/
def floatEnv (mode : Word) : FloatEnv :=
  ⟨if modeRnd mode ≤ 4 then modeRnd mode else 0, modeSat mode, (modeTraps mode).getLsbD 1⟩

/-- A result with its flags. -/
structure FloatOut where
  bits : Nat
  exc  : BitVec 5 := 0#5
  sat  : Bool := false
deriving DecidableEq, Repr

/-- The default NaN with IV (11 R295). -/
def FloatFmt.invalid (f : FloatFmt) : FloatOut := ⟨f.nan.getD 0, flagIV, false⟩

/-- An infinity of a format that has one. -/
def FloatFmt.infinity (f : FloatFmt) (neg : Bool) : Nat := f.signed neg (f.inf.getD f.top)

/-- The first NaN of some operands, quieted, with IV if one is signalling (11 R295). -/
def FloatFmt.propagate (f : FloatFmt) (xs : List Nat) : Option FloatOut :=
  match xs.find? (fun x => (f.decode x).isNan) with
  | none => none
  | some x => some ⟨f.quiet x, if xs.any (fun y => (f.decode y).isSignalling) then flagIV else 0#5, false⟩

/-! ### Rounding (11 R305, R306) -/

/-- How many bits a number has. -/
def bitLen (n : Nat) : Nat := if n = 0 then 0 else n.log2 + 1

/-- Whether a magnitude q + r / d (r below d) rounds up to q + 1 (11 Table 11.5). -/
def roundsUp (rnd : Nat) (neg : Bool) (q r d : Nat) : Bool :=
  match rnd with
  | 1 => false
  | 2 => !neg && r != 0
  | 3 => neg && r != 0
  | 4 => decide (d ≤ 2 * r)
  | _ => decide (d < 2 * r) || (2 * r == d && q % 2 == 1)

/-- ± mant × 2^k rounded to an integer magnitude, and whether that is inexact. A shift far below the last bit needs no
division. -/
def roundInt (rnd : Nat) (neg : Bool) (mant : Nat) (k : Int) : Nat × Bool :=
  if 0 ≤ k then (mant * 2 ^ k.toNat, false)
  else if mant = 0 then (0, false)
  else
    let n := (-k).toNat
    if bitLen mant + 1 < n then (if roundsUp rnd neg 0 1 4 then 1 else 0, true)
    else
      let d := 2 ^ n
      let q := mant / d
      let r := mant % d
      (if roundsUp rnd neg q r d then q + 1 else q, r != 0)

/-- A rounding into a format: the magnitude's pattern as if the exponent had no upper end, whether it differs from the
exact value, and whether the value rounded with the exponent unbounded is below the smallest normal (11 R306, R307). -/
structure Rounded where
  index   : Nat
  inexact : Bool
  tiny    : Bool

/-- Rounds ± mant × 2^exp, mant not 0. -/
def FloatFmt.roundMag (f : FloatFmt) (rnd : Nat) (neg : Bool) (mant : Nat) (exp : Int) : Rounded :=
  let e := exp + bitLen mant - 1
  let free := roundInt rnd neg mant (exp - (e - f.fbits))
  let eU := if free.1 = 2 ^ (f.fbits + 1) then e + 1 else e
  let q := max (e - f.fbits) f.quantum
  let n := roundInt rnd neg mant (exp - q)
  ⟨n.1 + (q - f.quantum).toNat * 2 ^ f.fbits, n.2, decide (eU < 1 - f.bias)⟩

/-- An overflowing result of an IEEE destination (11 R306). -/
def FloatFmt.overflow (f : FloatFmt) (rnd : Nat) (neg : Bool) : Nat :=
  let big := match rnd with | 1 => true | 2 => neg | 3 => !neg | _ => false
  f.signed neg (if big then f.top else f.inf.getD f.top)

/-- Delivers ± mant × 2^exp into an IEEE format: overflow, UF and NX by 11 R306, R307, saturation by R312, 14 R384. -/
def FloatFmt.deliver (f : FloatFmt) (env : FloatEnv) (neg : Bool) (mant : Nat) (exp : Int) : FloatOut :=
  if mant = 0 then ⟨f.signed neg 0, 0#5, false⟩
  else if (f.bias : Int) + 2 < exp + bitLen mant - 1 then
    if env.sat then ⟨f.signed neg f.top, flagNX, true⟩ else ⟨f.overflow env.rnd neg, flagOF ||| flagNX, false⟩
  else
    let r := f.roundMag env.rnd neg mant exp
    if f.top < r.index then
      if env.sat then ⟨f.signed neg f.top, flagNX, true⟩ else ⟨f.overflow env.rnd neg, flagOF ||| flagNX, false⟩
    else
      ⟨f.signed neg r.index,
        (if r.inexact then flagNX else 0#5) ||| (if r.tiny && (r.inexact || env.uf) then flagUF else 0#5), false⟩

/-- Delivers into a small element: a finite overflow saturates, and UF is raised when a non-zero value becomes zero
(11 R312, Table 11.7). -/
def FloatFmt.deliverSmall (f : FloatFmt) (rnd : Nat) (neg : Bool) (mant : Nat) (exp : Int) : FloatOut :=
  if mant = 0 then ⟨f.signed neg 0, 0#5, false⟩
  else if (f.bias : Int) + 4 < exp + bitLen mant - 1 then ⟨f.signed neg f.top, flagNX, true⟩
  else
    let r := f.roundMag rnd neg mant exp
    if f.top < r.index then ⟨f.signed neg f.top, flagNX, true⟩
    else ⟨f.signed neg r.index, (if r.inexact then flagNX else 0#5) ||| (if r.index = 0 then flagUF else 0#5), false⟩

/-! ### Arithmetic (14 R386 to R388) -/

/-- The signed integer of a finite value at an exponent at or below its own. -/
def scaled (neg : Bool) (mant : Nat) (exp at_ : Int) : Int :=
  let m : Int := (mant * 2 ^ (exp - at_).toNat : Nat)
  if neg then -m else m

/-- An exact sum of two finite values, rounded (11 R306): a zero sum of equal signs keeps the sign, every other one is +0,
−0 under RDN. -/
def FloatFmt.sum (f : FloatFmt) (env : FloatEnv) (n1 : Bool) (m1 : Nat) (e1 : Int) (n2 : Bool) (m2 : Nat) (e2 : Int) :
    FloatOut :=
  let e := if m1 = 0 then e2 else if m2 = 0 then e1 else min e1 e2
  let v := (if m1 = 0 then 0 else scaled n1 m1 e1 e) + (if m2 = 0 then 0 else scaled n2 m2 e2 e)
  if v = 0 then
    if n1 == n2 && m1 == 0 && m2 == 0 then ⟨f.signed n1 0, 0#5, false⟩ else ⟨f.signed (env.rnd == 3) 0, 0#5, false⟩
  else f.deliver env (decide (v < 0)) v.natAbs e

/-- x + y, or x − y (14 R386). -/
def FloatFmt.add (f : FloatFmt) (env : FloatEnv) (negate : Bool) (x y : Nat) : FloatOut :=
  match f.propagate [x, y] with
  | some o => o
  | none =>
    match f.decode x, f.decode y with
    | .inf a, .inf b => if a == (b != negate) then ⟨f.infinity a, 0#5, false⟩ else f.invalid
    | .inf a, _ => ⟨f.infinity a, 0#5, false⟩
    | _, .inf b => ⟨f.infinity (b != negate), 0#5, false⟩
    | .fin a m e, .fin b n d => f.sum env a m e (b != negate) n d
    | _, _ => f.invalid

/-- x × y (14 R386). -/
def FloatFmt.mul (f : FloatFmt) (env : FloatEnv) (x y : Nat) : FloatOut :=
  match f.propagate [x, y] with
  | some o => o
  | none =>
    match f.decode x, f.decode y with
    | .inf a, .inf b => ⟨f.infinity (a != b), 0#5, false⟩
    | .inf a, .fin b n _ => if n = 0 then f.invalid else ⟨f.infinity (a != b), 0#5, false⟩
    | .fin a m _, .inf b => if m = 0 then f.invalid else ⟨f.infinity (a != b), 0#5, false⟩
    | .fin a m e, .fin b n d => f.deliver env (a != b) (m * n) (e + d)
    | _, _ => f.invalid

/-- The exact product of two values that are no NaNs: none for 0 × ∞. -/
def productOf : FloatVal → FloatVal → Option FloatVal
  | .inf a, .inf b => some (.inf (a != b))
  | .inf a, .fin b n _ => if n = 0 then none else some (.inf (a != b))
  | .fin a m _, .inf b => if m = 0 then none else some (.inf (a != b))
  | .fin a m e, .fin b n d => some (.fin (a != b) (m * n) (e + d))
  | _, _ => none

/-- Changes the sign of a number. -/
def FloatVal.negateIf (v : FloatVal) (p : Bool) : FloatVal :=
  match v with
  | .nan s => .nan s
  | .inf n => .inf (n != p)
  | .fin n m e => .fin (n != p) m e

/-- ±(x × y) ± z with one rounding (14 R387). -/
def FloatFmt.fma (f : FloatFmt) (env : FloatEnv) (negProduct negAddend : Bool) (x y z : Nat) : FloatOut :=
  let vx := f.decode x
  let vy := f.decode y
  let vz := f.decode z
  match f.propagate [x, y, z] with
  | some o => o
  | none =>
    match productOf vx vy with
    | none => f.invalid
    | some p =>
      match p.negateIf negProduct, vz.negateIf negAddend with
      | .inf a, .inf b => if a == b then ⟨f.infinity a, 0#5, false⟩ else f.invalid
      | .inf a, _ => ⟨f.infinity a, 0#5, false⟩
      | _, .inf b => ⟨f.infinity b, 0#5, false⟩
      | .fin a m e, .fin b n d => f.sum env a m e b n d
      | _, _ => f.invalid

/-- A quotient m / n as mant × 2^exp with at least p bits and, in its last bit, whether more follows. -/
def quotient (p m n : Nat) : Nat × Int :=
  let s := p + bitLen n
  let q := m * 2 ^ s / n
  (2 * q + (if m * 2 ^ s % n = 0 then 0 else 1), -(s : Int) - 1)

/-- x / y (14 R386, R388). -/
def FloatFmt.div (f : FloatFmt) (env : FloatEnv) (x y : Nat) : FloatOut :=
  match f.propagate [x, y] with
  | some o => o
  | none =>
    match f.decode x, f.decode y with
    | .inf _, .inf _ => f.invalid
    | .inf a, .fin b _ _ => ⟨f.infinity (a != b), 0#5, false⟩
    | .fin a _ _, .inf b => ⟨f.signed (a != b) 0, 0#5, false⟩
    | .fin a m e, .fin b n d =>
      if n = 0 then (if m = 0 then f.invalid else ⟨f.infinity (a != b), flagDZ, false⟩)
      else if m = 0 then ⟨f.signed (a != b) 0, 0#5, false⟩
      else
        let q := quotient (f.fbits + 4) m n
        f.deliver env (a != b) q.1 (q.2 + e - d)
    | _, _ => f.invalid

/-- The greatest r with r² ≤ n, for n below 2^(2k). -/
def isqrtBits (n : Nat) : Nat → Nat → Nat
  | 0, r => r
  | k + 1, r => isqrtBits n k (if (r + 2 ^ k) * (r + 2 ^ k) ≤ n then r + 2 ^ k else r)

/-- The integer square root. -/
def isqrt (n : Nat) : Nat := isqrtBits n (bitLen n / 2 + 1) 0

/-- √x (14 R386, R388). -/
def FloatFmt.sqrt (f : FloatFmt) (env : FloatEnv) (x : Nat) : FloatOut :=
  match f.propagate [x] with
  | some o => o
  | none =>
    match f.decode x with
    | .fin neg m e =>
      if m = 0 then ⟨f.signed neg 0, 0#5, false⟩
      else if neg then f.invalid
      else
        let odd := (e % 2).toNat
        let sh := 2 * (f.fbits + 4) + odd
        let n := m * 2 ^ sh
        let r := isqrt n
        f.deliver env false (2 * r + (if r * r = n then 0 else 1)) ((e - sh) / 2 - 1)
    | .inf false => ⟨f.infinity false, 0#5, false⟩
    | _ => f.invalid

/-! ### Minimum, maximum, compare, classify (14 R389 to R391) -/

/-- A pattern without NaN as an ordered number, −0 below +0. -/
def FloatFmt.order (f : FloatFmt) (x : Nat) : Int :=
  let mag : Int := (x % f.signBit : Nat)
  if f.negative x then -mag - 1 else mag

/-- Maximum or minimum (14 R389); `numbers` prefers a number to a NaN. -/
def FloatFmt.extreme (f : FloatFmt) (greater numbers : Bool) (x y : Nat) : FloatOut :=
  let w := 2 * f.signBit
  let vx := f.decode x
  let vy := f.decode y
  let exc := if vx.isSignalling || vy.isSignalling then flagIV else 0#5
  if numbers && vx.isNan && !vy.isNan then ⟨y % w, exc, false⟩
  else if numbers && vy.isNan && !vx.isNan then ⟨x % w, exc, false⟩
  else if vx.isNan then ⟨f.quiet x, exc, false⟩
  else if vy.isNan then ⟨f.quiet y, exc, false⟩
  else if decide (f.order y ≤ f.order x) == greater then ⟨x % w, 0#5, false⟩
  else ⟨y % w, 0#5, false⟩

/-- A value as an ordered number for compares, −0 equal to +0. -/
def FloatFmt.value (f : FloatFmt) (x : Nat) : Int :=
  let mag : Int := (x % f.signBit : Nat)
  if f.negative x then -mag else mag

/-- The compares (14 Table 14.3). -/
inductive FloatCmp where
  | eq | ne | lt | le | un
deriving DecidableEq, Repr

/-- A compare (14 R391). -/
def FloatFmt.compare (f : FloatFmt) (c : FloatCmp) (x y : Nat) : FloatOut :=
  let vx := f.decode x
  let vy := f.decode y
  let nan := vx.isNan || vy.isNan
  let signal := vx.isSignalling || vy.isSignalling || (nan && (c == .lt || c == .le))
  let holds := match c with
    | .un => nan
    | .eq => !nan && f.value x == f.value y
    | .ne => nan || f.value x != f.value y
    | .lt => !nan && decide (f.value x < f.value y)
    | .le => !nan && decide (f.value x ≤ f.value y)
  ⟨if holds then 1 else 0, if signal then flagIV else 0#5, false⟩

/-- FCLASS (14 Table 14.4). -/
def FloatFmt.classify (f : FloatFmt) (x : Nat) : Nat :=
  match f.decode x with
  | .nan true => 2 ^ 8
  | .nan false => 2 ^ 9
  | .inf true => 2 ^ 0
  | .inf false => 2 ^ 7
  | .fin neg m _ =>
    if m = 0 then (if neg then 2 ^ 3 else 2 ^ 4)
    else if m < 2 ^ f.fbits then (if neg then 2 ^ 2 else 2 ^ 5)
    else (if neg then 2 ^ 1 else 2 ^ 6)

/-! ### Integral values, scale, exponent (14 R392, R393) -/

/-- FRINT with its rounding resolved (14 R392). -/
def FloatFmt.integral (f : FloatFmt) (rnd : Nat) (exact : Bool) (x : Nat) : FloatOut :=
  match f.propagate [x] with
  | some o => o
  | none =>
    match f.decode x with
    | .fin neg m e =>
      if m = 0 ∨ 0 ≤ e then ⟨x % (2 * f.signBit), 0#5, false⟩
      else
        let r := roundInt rnd neg m e
        let bits := if r.1 = 0 then 0 else (f.roundMag 0 neg r.1 0).index
        ⟨f.signed neg bits, if r.2 && exact then flagNX else 0#5, false⟩
    | _ => ⟨x % (2 * f.signBit), 0#5, false⟩

/-- FSCALE (14 R393). -/
def FloatFmt.scale (f : FloatFmt) (env : FloatEnv) (x : Nat) (n : Int) : FloatOut :=
  match f.propagate [x] with
  | some o => o
  | none =>
    match f.decode x with
    | .fin neg m e => f.deliver env neg m (e + n)
    | _ => ⟨x % (2 * f.signBit), 0#5, false⟩

/-- FLOGB (14 R393). -/
def FloatFmt.logb (f : FloatFmt) (x : Nat) : FloatOut :=
  match f.propagate [x] with
  | some o => o
  | none =>
    match f.decode x with
    | .fin _ m e =>
      if m = 0 then ⟨f.infinity true, flagDZ, false⟩
      else
        let n := e + bitLen m - 1
        if n = 0 then ⟨0, 0#5, false⟩
        else ⟨f.signed (decide (n < 0)) (f.roundMag 0 (decide (n < 0)) n.natAbs 0).index, 0#5, false⟩
    | _ => ⟨f.infinity false, 0#5, false⟩

/-! ### Approximate functions (14 R394)

Exact values are held as intervals of multiples of 2^−prec; a delivered result is any value the bound of Table 14.7
permits, chosen by a free value (log 10). -/

/-- The approximate functions. -/
inductive Approx where
  | exp2 | log2 | rsq | rcp
deriving DecidableEq, Repr

/-- The number of an approximate function, for the free value. -/
def Approx.number : Approx → Nat
  | .exp2 => 0
  | .log2 => 1
  | .rsq => 2
  | .rcp => 3

/-- Fraction bits of the fixed-point numbers that bound an exact value. -/
def fixBits : Nat := 256

/-- 2^(2^−i) in fixed point, for i = 1, 2, …, by square roots. -/
def rootsOfTwo : Nat → Nat → List Nat
  | 0, _ => []
  | n + 1, x => let r := isqrt (x * 2 ^ fixBits); r :: rootsOfTwo n r

/-- 2^g for a fraction g given by its first n bits, most significant first, in fixed point. -/
def expFraction (bits : Nat) (n : Nat) : Nat :=
  ((rootsOfTwo n (2 * 2 ^ fixBits)).zipIdx).foldl (fun acc (ri : Nat × Nat) =>
    if bits.testBit (n - 1 - ri.2) then acc * ri.1 / 2 ^ fixBits else acc) (2 ^ fixBits)

/-- The first n bits of log₂ m after the point, for m in [1, 2) in fixed point. -/
def logFraction (m : Nat) : Nat → Nat
  | 0 => 0
  | n + 1 =>
    let sq := m * m / 2 ^ fixBits
    if 2 * 2 ^ fixBits ≤ sq then 2 ^ n + logFraction (sq / 2) n else logFraction sq n

/-- An interval of a positive real: lo × 2^exp to hi × 2^exp. -/
structure Interval where
  lo  : Nat
  hi  : Nat
  exp : Int
deriving DecidableEq, Repr

/-- 2^x for a finite x = ± m × 2^e that is no integer. -/
def expInterval (neg : Bool) (m : Nat) (e : Int) : Interval :=
  let fix : Int := if 0 ≤ e + 120 then (m * 2 ^ (e + 120).toNat : Nat) else (m / 2 ^ (-(e + 120)).toNat : Nat)
  let v : Int := if neg then -fix - 1 else fix
  let n := v.fdiv (2 ^ 120)
  let g := (v.fmod (2 ^ 120)).toNat
  let y := expFraction g 120
  ⟨y - 2 ^ 150, y + 2 ^ 150, n - fixBits⟩

/-- |log₂ x| and its sign for a finite x = m × 2^e that is no power of 2. -/
def logInterval (m : Nat) (e : Int) : Bool × Interval :=
  let n := e + bitLen m - 1
  let mant := m * 2 ^ fixBits / 2 ^ (bitLen m - 1)
  let l : Int := n * 2 ^ 120 + (logFraction mant 120 : Nat)
  (decide (l < 0), ⟨l.natAbs - 2 ^ 8, l.natAbs + 2 ^ 8, -120⟩)

/-- 1 / √x for x = m × 2^e. -/
def rsqInterval (m : Nat) (e : Int) : Interval :=
  let odd := (e % 2).toNat
  let y := isqrt (2 ^ 400 / (m * 2 ^ odd))
  ⟨y - 1, y + 2, -200 - (e - odd) / 2⟩

/-- 1 / x for x = m × 2^e. -/
def rcpInterval (m : Nat) (e : Int) : Interval := ⟨2 ^ 300 / m, 2 ^ 300 / m + 1, -300 - e⟩

/-- Compares a × 2^d with b × 2^e: a at most b. -/
def leScaled (a : Nat) (d : Int) (b : Nat) (e : Int) : Bool :=
  let at_ := min d e
  decide (a * 2 ^ (d - at_).toNat ≤ b * 2 ^ (e - at_).toNat)

/-- The greatest value of a format at or below lo × 2^exp, as a pattern; the largest finite value above the range. -/
def FloatFmt.floorOf (f : FloatFmt) (lo : Nat) (exp : Int) : Nat :=
  if lo = 0 then 0 else min f.top (f.roundMag 1 false lo exp).index

/-- Mantissa and exponent of a finite magnitude pattern. -/
def FloatFmt.parts (f : FloatFmt) (mag : Nat) : Nat × Int :=
  match f.decode mag with
  | .fin _ m e => (m, e)
  | _ => (0, 0)

/-- The exponent of the gap above a magnitude pattern. -/
def FloatFmt.gapExp (f : FloatFmt) (mag : Nat) : Int := f.quantum + max 0 ((mag / 2 ^ f.fbits : Nat) - 1 : Int)

/-- Whether a magnitude pattern lies within k × 2^g of some point of an interval. -/
def FloatFmt.near (f : FloatFmt) (mag : Nat) (i : Interval) (k : Nat) (g : Int) : Bool :=
  let p := f.parts mag
  let at_ := min (min p.2 i.exp) g
  let v := p.1 * 2 ^ (p.2 - at_).toNat
  let lo := i.lo * 2 ^ (i.exp - at_).toNat
  let hi := i.hi * 2 ^ (i.exp - at_).toNat
  let w := k * 2 ^ (g - at_).toNat
  decide (lo ≤ v + w) && decide (v ≤ hi + w)

/-- A magnitude that the bound permits: the free value's candidate when it lies within the bound, else the greatest value
at or below the exact one. `abs` gives an absolute bound in place of ulps. -/
def FloatFmt.approximate (f : FloatFmt) (a : Approx) (x : Nat) (neg : Bool) (i : Interval) (ulps : Nat) (abs : Option Int) : Nat :=
  let base := f.floorOf i.lo i.exp
  let cand := Config.approxPick a.number f.width (BitVec.ofNat 64 (x % (2 * f.signBit))) % (2 * f.signBit)
  let g := match abs with | none => f.gapExp base | some e => e
  let k := match abs with | none => ulps | some _ => 1
  if cand % f.signBit ≤ f.top && f.near (cand % f.signBit) i k g && (f.negative cand == neg || cand % f.signBit == 0) then
    f.signed neg (cand % f.signBit)
  else f.signed neg base

/-- An approximate function of a finite operand in F32 or F64, before overflow and underflow are named: the value
± mant × 2^exp if exact, or an approximation as a pattern. -/
inductive ApproxValue where
  | exact (neg : Bool) (mant : Nat) (exp : Int)
  | pattern (bits : Nat)
deriving DecidableEq, Repr

/-- Whether a finite value is an integer, and which. -/
def integerOf (neg : Bool) (m : Nat) (e : Int) : Option Int :=
  let sign (n : Nat) : Int := if neg then -(n : Int) else n
  if 0 ≤ e then some (sign (m * 2 ^ (min e 2000).toNat))
  else if m % 2 ^ (-e).toNat = 0 then some (sign (m / 2 ^ (-e).toNat)) else none

/-- Whether a mantissa is a power of 2. -/
def powerOfTwo (m : Nat) : Bool := m == 2 ^ (bitLen m - 1)

/-- The value of an approximate function at a positive or negative finite operand that needs no special case. The exact
results are those of 14 Table 14.7. -/
def FloatFmt.approxValue (f : FloatFmt) (a : Approx) (x : Nat) (neg : Bool) (m : Nat) (e : Int) : ApproxValue :=
  let top := e + bitLen m - 1
  match a with
  | .exp2 =>
    match integerOf neg m e with
    | some n =>
      if 1 - f.bias ≤ n then .exact false 1 n
      else .pattern (f.approximate a x false ⟨1, 1, n⟩ 2 none)
    | none => .pattern (f.approximate a x false (expInterval neg m e) 2 none)
  | .log2 =>
    if powerOfTwo m then .exact (decide (top < 0)) top.natAbs 0
    else
      let l := logInterval m e
      let close := decide (-1 ≤ top) && (decide (top < 1))
      .pattern (f.approximate a x l.1 l.2 2 (if close then some (if f.width = 64 then -51 else -22) else none))
  | .rsq =>
    if powerOfTwo m && top % 2 == 0 then .exact false 1 (-(top / 2))
    else .pattern (f.approximate a x false (rsqInterval m e) 1 none)
  | .rcp =>
    if powerOfTwo m && 1 - f.bias ≤ -top then .exact neg 1 (-top)
    else if powerOfTwo m then .pattern (f.approximate a x neg ⟨1, 1, -top⟩ 1 none)
    else .pattern (f.approximate a x neg (rcpInterval m e) 1 none)

/-- Whether 1 / |x| lies beyond the largest finite value (14 Table 14.7). -/
def FloatFmt.rcpOverflows (f : FloatFmt) (m : Nat) (e : Int) : Bool :=
  let p := f.parts f.top
  !leScaled 1 0 (m * p.1) (e + p.2)

/-- A pattern of one format rounded to nearest even into another (14 R394). -/
def FloatFmt.narrow (f g : FloatFmt) (bits : Nat) : Nat :=
  match f.decode bits with
  | .fin neg m e => (g.deliver ⟨0, false, false⟩ neg m e).bits
  | .inf neg => g.infinity neg
  | .nan _ => g.nan.getD 0

/-- Names what a finite operand's result raises (14 R394, Table 14.7): an infinity is an overflow of FEXP2 or FRCP, +0 an
underflow of FEXP2, and a subnormal or zero one of FRCP. -/
def FloatFmt.approxFlags (f : FloatFmt) (a : Approx) (sat : Bool) (bits : Nat) : FloatOut :=
  let mag := bits % f.signBit
  let neg := f.negative bits
  if f.inf = some mag then
    if a = .exp2 ∨ a = .rcp then
      (if sat then ⟨f.signed neg f.top, flagNX, true⟩ else ⟨bits, flagOF, false⟩)
    else ⟨bits, 0#5, false⟩
  else if (a = .exp2 && mag = 0) || (a = .rcp && decide (mag < 2 ^ f.fbits)) then ⟨bits, flagUF, false⟩
  else ⟨bits, 0#5, false⟩

/-- The limits of FEXP2: +∞ at or above the first, +0 at or below the second (14 Table 14.7). -/
def FloatFmt.expLimits (f : FloatFmt) : Int × Int :=
  if f.width = 64 then (1024, -1075) else if f = f16 then (16, -25) else if f = bf16 then (128, -134) else (128, -150)

/-- Compares ± m × 2^e with an integer: at or above it. -/
def geInt (neg : Bool) (m : Nat) (e : Int) (n : Int) : Bool :=
  if 0 ≤ e then decide (n ≤ scaled neg m (min e 2000) 0)
  else decide (n * 2 ^ (-e).toNat ≤ (if neg then -(m : Int) else m))

/-- The result of an approximate function in the format it is computed in, as a pattern of the destination. -/
def FloatFmt.approxBits (f : FloatFmt) (a : Approx) (x : Nat) (neg : Bool) (m : Nat) (e : Int) : Nat :=
  let g := if f.width = 16 then f32 else f
  let wide := if f.width = 16 then (g.deliver ⟨0, false, false⟩ neg m e).bits else x
  match g.approxValue a wide neg m e with
  | .exact n m e => (f.deliver ⟨0, false, false⟩ n m e).bits
  | .pattern b => if f.width = 16 then g.narrow f b else b

/-- An approximate function (14 R394). -/
def FloatFmt.approx (f : FloatFmt) (a : Approx) (sat : Bool) (x : Nat) : FloatOut :=
  match f.propagate [x] with
  | some o => o
  | none =>
    match a, f.decode x with
    | .exp2, .inf neg => ⟨if neg then 0 else f.infinity false, 0#5, false⟩
    | .exp2, .fin neg m e =>
      if m = 0 then ⟨(f.deliver ⟨0, false, false⟩ false 1 0).bits, 0#5, false⟩
      else if geInt neg m e f.expLimits.1 then f.approxFlags a sat (f.infinity false)
      else if geInt (!neg) m e (-f.expLimits.2) then f.approxFlags a sat 0
      else f.approxFlags a sat (f.approxBits a x neg m e)
    | .log2, .inf neg => if neg then f.invalid else ⟨f.infinity false, 0#5, false⟩
    | .log2, .fin neg m e =>
      if m = 0 then ⟨f.infinity true, flagDZ, false⟩
      else if neg then f.invalid
      else ⟨f.approxBits a x neg m e, 0#5, false⟩
    | .rsq, .inf neg => if neg then f.invalid else ⟨0, 0#5, false⟩
    | .rsq, .fin neg m e =>
      if m = 0 then ⟨f.infinity neg, flagDZ, false⟩
      else if neg then f.invalid
      else ⟨f.approxBits a x neg m e, 0#5, false⟩
    | .rcp, .inf neg => ⟨f.signed neg 0, 0#5, false⟩
    | .rcp, .fin neg m e =>
      if m = 0 then ⟨f.infinity neg, flagDZ, false⟩
      else if f.rcpOverflows m e then f.approxFlags a sat (f.infinity neg)
      else f.approxFlags a sat (f.approxBits a x neg m e)
    | _, _ => f.invalid

/-! ### Conversions (11 R311 to R314, 14 R395, R396) -/

/-- What a format code of Table 14.9 names: an integer type, an IEEE format or a small element. -/
inductive FormatCode where
  | int (i : IntType)
  | ieee (f : FloatFmt)
  | small (f : FloatFmt)
deriving DecidableEq, Repr

/-- The format of a code (14 Table 14.9). -/
def formatOf (code : Nat) : FormatCode :=
  match code with
  | 4 => .ieee f32
  | 5 => .ieee f64
  | 6 => .ieee f16
  | 7 => .ieee bf16
  | 12 => .small e5m2
  | 13 => .small e4m3
  | 14 => .small e3m2
  | 15 => .small e2m3
  | 16 => .small e2m1
  | n => .int (intType n)

/-- A NaN of a format in an IEEE format (11 R313). -/
def FloatFmt.convertNan (f g : FloatFmt) (x : Nat) : Nat :=
  let frac := x % 2 ^ f.fbits
  let kept := if f.fbits ≤ g.fbits then frac * 2 ^ (g.fbits - f.fbits) else frac / 2 ^ (f.fbits - g.fbits)
  g.signed (f.negative x) (g.inf.getD 0 + (kept ||| 2 ^ (g.fbits - 1)))

/-- A floating value to an IEEE format (11 Table 11.7). -/
def FloatFmt.toIeee (f g : FloatFmt) (env : FloatEnv) (x : Nat) : FloatOut :=
  match f.decode x with
  | .nan s => ⟨f.convertNan g x, if s then flagIV else 0#5, false⟩
  | .inf neg => ⟨g.infinity neg, 0#5, false⟩
  | .fin neg m e => g.deliver env neg m e

/-- A floating value to a small element (11 Table 11.7). -/
def FloatFmt.toSmall (f g : FloatFmt) (env : FloatEnv) (x : Nat) : FloatOut :=
  match f.decode x with
  | .nan s =>
    match g.nan with
    | some n => ⟨n, if s then flagIV else 0#5, false⟩
    | none => ⟨0, flagIV, false⟩
  | .inf neg =>
    match g.inf with
    | some _ => ⟨g.infinity neg, 0#5, false⟩
    | none => ⟨g.signed neg g.top, flagNX, true⟩
  | .fin neg m e => g.deliverSmall env.rnd neg m e

/-- A floating value to an integer (11 R311, R312, Table 11.7). -/
def FloatFmt.toInt (f : FloatFmt) (i : IntType) (rnd : Nat) (wrapping : Bool) (x : Nat) : LaneOut :=
  match f.decode x with
  | .nan _ => ⟨0#64, false, flagIV⟩
  | .inf neg => if wrapping then ⟨0#64, false, flagIV⟩ else ⟨i.ext (if neg then i.least else i.greatest), true, flagIV⟩
  | .fin neg m e =>
    if wrapping then
      if 64 ≤ e then ⟨0#64, false, 0#5⟩
      else
        let r := roundInt rnd neg m e
        ⟨i.ext (i.wrap (if neg then -(r.1 : Int) else r.1)), false, if r.2 then flagNX else 0#5⟩
    else if m ≠ 0 ∧ 64 ≤ e then ⟨i.ext (if neg then i.least else i.greatest), true, flagIV⟩
    else
      let r := roundInt rnd neg m e
      let v : Int := if neg then -(r.1 : Int) else r.1
      let fit := i.sat v
      if fit.2 then ⟨i.ext fit.1, true, flagIV⟩ else ⟨i.ext v, false, if r.2 then flagNX else 0#5⟩

/-- A floating result as a lane's. -/
def FloatOut.lane (o : FloatOut) : LaneOut := ⟨BitVec.ofNat 64 o.bits, o.sat, o.exc⟩

/-- A value of a small or IEEE format read from a register (14 R383, R396). -/
def FloatFmt.field (f : FloatFmt) (x : Word64) : Nat := x.toNat % 2 ^ f.width

/-- CVT (14 R395): a value of a format converted into another. A conversion of a floating format to itself copies the
value; a signalling NaN is quieted and raises IV. -/
def convert (src dst : FormatCode) (env : FloatEnv) (wrapping : Bool) (x : Word64) : LaneOut :=
  match src, dst with
  | .int i, .int j =>
    let v := i.read x
    if wrapping then .plain (j.ext (j.wrap v)) else let fit := j.sat v; ⟨j.ext fit.1, fit.2, 0#5⟩
  | .int i, .ieee g =>
    let v := i.read x
    (g.deliver env (decide (v < 0)) v.natAbs 0).lane
  | .int i, .small g =>
    let v := i.read x
    (g.deliverSmall env.rnd (decide (v < 0)) v.natAbs 0).lane
  | .ieee f, .int j => f.toInt j env.rnd wrapping (f.field x)
  | .small f, .int j => f.toInt j env.rnd wrapping (f.field x)
  | .ieee f, .ieee g =>
    if f = g then
      (if (f.decode (f.field x)).isNan then (f.toIeee g env (f.field x)).lane
       else .plain (BitVec.ofNat 64 (f.field x)))
    else (f.toIeee g env (f.field x)).lane
  | .small f, .ieee g => (f.toIeee g env (f.field x)).lane
  | .ieee f, .small g => (f.toSmall g env (f.field x)).lane
  | .small f, .small g => if f = g then .plain (BitVec.ofNat 64 (f.field x)) else (f.toSmall g env (f.field x)).lane

/-! ### Facet blocks (11 R301 to R304) -/

/-- The magnitude width of a Facet code: FC2, FC4, FC7. -/
def facetWidth (code : Nat) : Nat := match code with | 0 => 2 | 1 => 4 | _ => 7

/-- The words that carry a block (14 R397). -/
def facetWords (code : Nat) : Nat := match code with | 0 => 2 | 1 => 3 | _ => 5

/-- An element of a block: none for a NaN block, else sign, magnitude and exponent (11 R302). -/
def facetElement (w block j : Nat) : Option (Bool × Nat × Int) :=
  let e := block % 256
  if e = 255 then none
  else
    let mu := (block / 256 % 256).testBit (j / 2)
    let el := block / 2 ^ (16 + (w + 1) * j) % 2 ^ (w + 1)
    some (decide (2 ^ w ≤ el), el % 2 ^ w, (e : Int) - (if mu then 1 else 0) - 126 - w)

/-- Round(x / unit(e)) of 11 R304 for a finite x, and whether it is inexact. -/
def facetQ (rnd w : Nat) (e : Nat) (neg : Bool) (m : Nat) (exp : Int) : Nat × Bool :=
  roundInt rnd neg m (exp - ((e : Int) - 126 - w))

/-- fits(j, e) (11 R304). -/
def facetFits (rnd w e : Nat) : FloatVal → Bool
  | .fin neg m exp => decide (m = 0) || (decide (exp + bitLen m ≤ (e : Int) - 126 + 1) &&
      decide ((facetQ rnd w e neg m exp).1 ≤ 2 ^ w - 1))
  | _ => false

/-- The smallest exponent that fits, from a list of candidates; 254 if none. -/
def facetExponent (rnd w : Nat) (xs : List FloatVal) : Nat :=
  ((List.range 255).find? (fun e => xs.all (facetFits rnd w e))).getD 254

/-- A packed element: sign, magnitude, and whether it saturated, differs from its value, became zero. -/
structure FacetElem where
  neg  : Bool
  mag  : Nat
  sat  : Bool
  nx   : Bool
  uf   : Bool

/-- Packs one element at an exponent (11 R304). -/
def facetElem (rnd w e : Nat) (v : FloatVal) : FacetElem :=
  match v with
  | .fin neg m exp =>
    if facetFits rnd w e v then
      let q := facetQ rnd w e neg m exp
      ⟨neg, q.1, false, q.2, m != 0 && q.1 == 0⟩
    else ⟨neg, 2 ^ w - 1, true, true, false⟩
  | .inf neg => ⟨neg, 2 ^ w - 1, true, true, false⟩
  | .nan _ => ⟨false, 0, false, false, false⟩

/-- Packs 16 values into a block (11 R304). -/
def facetPack (rnd w : Nat) (xs : List FloatVal) : FloatOut :=
  if xs.any FloatVal.isNan then ⟨255, if xs.any FloatVal.isSignalling then flagIV else 0#5, false⟩
  else
    let e := facetExponent rnd w xs
    let at_ (j : Nat) : FloatVal := xs.getD j (.fin false 0 0)
    let mu (i : Nat) : Bool := decide (1 ≤ e) && facetFits rnd w (e - 1) (at_ (2 * i)) && facetFits rnd w (e - 1) (at_ (2 * i + 1))
    let els := (List.range 16).map (fun j => facetElem rnd w (if mu (j / 2) then e - 1 else e) (at_ j))
    let muBits := (List.range 8).foldl (fun n i => if mu i then n + 2 ^ i else n) 0
    let body := (els.zipIdx).foldl (fun n (ej : FacetElem × Nat) =>
      n + ((if ej.1.neg then 2 ^ w else 0) + ej.1.mag) * 2 ^ (16 + (w + 1) * ej.2)) 0
    ⟨body + muBits * 256 + e,
      (if els.any (·.nx) then flagNX else 0#5) ||| (if els.any (·.uf) then flagUF else 0#5), els.any (·.sat)⟩

end Sys2Proof.Machine
end

