-- ==== Sys2Proof/Machine/Frame.lean ====
section
/-!
DEFINITION. The frame every instruction executes in (13 R348): checks, active lanes, queue pops and pushes (06 R170 to
R172), the waits before issue, the effect, and the move to the next slot; with the pair of leader and shadow (06 R190 to
R193). An instruction's page and its effect are all a meaning adds.
-/
namespace Sys2Proof.Machine

/-- What an instruction's effect answers: it is done, it branches, it traps, it stalls in place (with what the attempt has
changed), or its group is gone from the slot. -/
inductive Act where
  | done  (s : State)
  | jump  (s : State) (target : Word64)
  | trap  (t : Trap)
  | stall (st : Stall) (before : State → State)
  | gone  (s : State)

/-- A stall that changes nothing. -/
def Act.wait (c : StallCause) (h : Hold) : Act := .stall ⟨c, h⟩ (fun s => s)

/-! ### Pushing to queues (06 R171, 05 R134, 10 R267) -/

/-- Whether a push to a queue is a release (08 Table 8.2): q4, q8, and the push that closes a packet of q12. -/
def pushReleases (g : Group) (q n : Nat) : Bool := q == 4 || q == 8 || (q == 12 && decide (32 ≤ g.ctl.laWords + n))

/-- Whether a pending acquire holds a push (08 R228): a push to an engine, or a closing push. -/
def pushHeld (g : Group) (q n : Nat) : Bool := decide (q ≤ 8) || pushReleases g q n

/-- Appends words to the launch assembly buffer (05 R134). -/
def Control.assemble (c : Control) : List Word → Control × Option (List Word)
  | [] => (c, none)
  | w :: ws =>
    let c1 := { c with launchBuf := c.launchBuf.setIfInBounds c.laWords w, laWords := c.laWords + 1 }
    if c1.laWords = 32 then
      let packet := c1.launchBuf.toList
      let (c2, _) := { c1 with launchBuf := Vector.replicate 32 0#32, laWords := 0 }.assemble ws
      (c2, some packet)
    else c1.assemble ws

/-- Pushes words to a queue of a group for the lanes of an instruction. -/
def State.pushQueue (s : State) (x : Ctx) (q : Nat) (ws : List Word) : State :=
  let release (t : State) (scope : Nat) (next : ReleaseThen) : State :=
    let (id, t') := t.fresh
    t'.startRelease { id := id, gid := x.gid, flag := 16, handler := x.g.ctl.handler, lanes := x.sMask, kind := .lease }
      scope none next
  match q with
  | 0 =>
    ws.foldl (fun t w =>
      let (n, t') := t.fresh
      t'.onCore x.g.core (fun k => { k with stream := k.stream ++ [{ number := n, gid := x.gid, op := 0, command := .zero 0 0#32 false, marker := some w }] })) s
  | 4 => release (s.pushWords x.gid 4 ws) 1 (.push 4 (x.g.queue 4).length)
  | 8 => release (s.pushWords x.gid 8 ws) 1 (.push 8 (x.g.queue 8).length)
  | 12 =>
    match s.group? x.gid with
    | none => s
    | some g =>
      let (c, packet) := g.ctl.assemble ws
      let s1 := s.putGroup { g with ctl := c }
      match packet with
      | none => s1
      | some p =>
        let entry : DevPacket := ⟨p, s1.nextId, g.core, g.ctl.handle⟩
        ((release s1 4 (.launch p)).onFn g.fn (fun f => { f with devQueue := f.devQueue ++ [entry] })).onCore g.core
          (fun k => { k with devLaunch := k.devLaunch ++ [p] })
  | _ => s.pushWords x.gid q ws

/-! ### Writing results (13 R348) -/

/-- The lanes that are written, with their values: a uniform instruction gives every lane of S the value of the lowest. -/
def Ctx.spread {α : Type} (x : Ctx) (outs : List (Nat × α)) : List (Nat × α) :=
  if x.uni then
    match outs with
    | [] => []
    | o :: _ => x.S.map (fun t => (t, o.2))
  else outs

/-- Wr (13 Table 13.1): writes a value of a field's kind to d of a lane. -/
def Ctx.writeLane (x : Ctx) (s : State) (t : Nat) (v : Word64) : State :=
  match x.kind .d with
  | .pair => (s.writeReg x.gid x.d t (loWord v)).writeReg x.gid (x.d + 1) t (hiWord v)
  | _ => s.writeReg x.gid x.d t (loWord v)

/-- Writes values to d of some lanes; a dying lane's destination stays as it was (06 R186). -/
def Ctx.writeLanes (x : Ctx) (s : State) : List (Nat × Word64) → State
  | [] => s
  | o :: os => x.writeLanes (if x.dying.contains o.1 then s else x.writeLane s o.1 o.2) os

/-- Writes the results of an instruction: pushes them when d names a queue (06 R171), else writes them to the lanes. -/
def Ctx.writeD (x : Ctx) (s : State) (outs : List (Nat × Word64)) : State :=
  if x.pushes then s.pushQueue x (x.d - 240) (outs.map (fun o => loWord o.2))
  else x.writeLanes s (x.spread outs)

/-- The words that a completed operation will write for values of d's kind, by register and lane. -/
def Ctx.writesOf (x : Ctx) (outs : List (Nat × Word64)) : List (Nat × Nat × Word) :=
  (x.spread outs).flatMap (fun o =>
    match x.kind .d with
    | .pair => [(x.d, o.1, loWord o.2), (x.d + 1, o.1, hiWord o.2)]
    | _ => [(x.d, o.1, loWord o.2)])

/-! ### Long-latency operations (06 R167) -/

/-- The operation an instruction starts. -/
def Ctx.newOp (x : Ctx) (id words : Nat) (kind : OpKind) : OutOp :=
  { id := id, gid := x.gid, flag := x.flag, handler := x.g.ctl.handler, lanes := x.sMask, dest := x.d, destWords := words
    clause := x.g.ctl.pc.toNat, slot := x.g.ctl.slot, kind := kind }

/-- Starts an operation of an instruction that writes a number of registers from d on. -/
def Ctx.start (x : Ctx) (s : State) (words : Nat) (kind : OpKind) : State :=
  let (id, s') := s.fresh
  { s' with ops := s'.ops ++ [x.newOp id words kind] }

/-- Whether an operation's values reach a shadow through the load-value queue (06 R191). -/
def OutOp.shadowed (o : OutOp) : Bool :=
  match o.kind with
  | .value .. => false
  | .shadow _ _ => false
  | _ => decide (o.flag ≤ 15)

/-- Ends an operation: its results are written, its flag falls (06 R167), and a leader's values go to its shadow's
load-value queue (R191). -/
def State.endOp (s : State) (o : OutOp) (writes : List (Nat × Nat × Word)) : State :=
  let s1 := (s.writeResults o writes).dropOp o.id
  match s1.group? o.gid with
  | none => s1
  | some g =>
    if g.ctl.paired && !o.handler && o.shadowed then
      match s1.partner g with
      | none => s1
      | some h => s1.putGroup { h with lvq := h.lvq ++ [⟨o.clause, o.slot, o.dest, writes⟩] }
    else s1

/-! ### Pops (06 R171) -/

/-- Pops words of a queue for a field; `none` when too few are there. q12 answers LAWORDS and pops nothing (05 R134). -/
def Group.popField (g : Group) (q n : Nat) : Option (Group × List Word) :=
  if q = 12 then some (g, List.replicate n (BitVec.ofNat 32 g.ctl.laWords))
  else
    let ws := g.queue q
    if ws.length < n then none else some (g.setQueue q (ws.drop n), ws.take n)

/-- Pops a field when it names a queue. -/
def Ctx.popOne (x : Ctx) (g : Group) (f : Fld) : Option (Group × List Word) :=
  if x.popsField f then g.popField (x.num f - 240) x.L.length else some (g, [])

/-- Pops the queue operands of an instruction, a before b; `none` when a queue holds too few words. -/
def Ctx.takePops (x : Ctx) (s : State) : Option (State × Ctx) :=
  match s.group? x.gid with
  | none => none
  | some g =>
    match x.popOne g .a with
    | none => none
    | some (g1, wa) =>
      match x.popOne g1 .b with
      | none => none
      | some (g2, wb) =>
        match x.popOne g2 .d with
        | none => none
        | some (g3, wd) => some (s.putGroup g3, { x with popA := wa, popB := wb, popD := wd })

/-- The first queue an instruction pops. -/
def Ctx.popQueue (x : Ctx) : Nat :=
  if x.popsField .a then x.a - 240 else if x.popsField .b then x.b - 240 else x.d - 240

/-- Whether an instruction pops a queue that empties as it is read. -/
def Ctx.popsAny (x : Ctx) : Bool :=
  [Fld.a, Fld.b, Fld.d].any (fun f => x.popsField f && x.num f != 252)

/-- The words a leader's pop gives, as its shadow will take them: field, place, word (06 R191). -/
def Ctx.popLine (x : Ctx) : LvqLine :=
  let code (n : Nat) (ws : List Word) : List (Nat × Nat × Word) := ws.zipIdx.map (fun w => (n, w.2, w.1))
  ⟨x.g.ctl.pc.toNat, x.g.ctl.slot, x.d, code 0 x.popD ++ code 1 x.popA ++ code 2 x.popB⟩

/-- A shadow's instruction with the words its leader popped. -/
def Ctx.withLine (x : Ctx) (l : LvqLine) : Ctx :=
  let words (n : Nat) : List Word := (l.values.filter (fun v => v.1 == n)).map (fun v => v.2.2)
  { x with popD := words 0, popA := words 1, popB := words 2 }

/-! ### The frame -/

/-- The rail cycles of an instruction (06 R152, 13 R355). -/
def Ctx.cycles (x : Ctx) : Nat :=
  let wide := [x.form.d, x.form.a, x.form.b].any (fun k => k == .typed) && wideType x.ty
  let data := [x.kind .d, x.kind .a, x.kind .b].any (fun k => k == .pair || k == .quad)
  match x.form.cycles with
  | .one => 1
  | .ifnz => if x.uni then 1 else max 1 (laneList (x.g.ctl.exec &&& x.g.ctl.live)).length
  | .lanes => if x.uni then (if wide then 2 else 1) else x.L.length * (if wide || data then 2 else 1)

/-- Whether a group leads a shadow through its instructions: a handler runs in the leader alone (06 R193). -/
def Control.leads (c : Control) : Bool := c.paired && !c.handler

/-- Why an instruction must wait before it issues: its queues (06 R171), a pending acquire (08 R228), its flag
(06 R167), its shadow's load-value queue (R191). -/
def Ctx.mustWait (x : Ctx) (s : State) : Option Stall :=
  let n := x.L.length
  if x.pushes && decide (s.queueRoom x.g (x.d - 240) < n) then some ⟨.queueFull, .queueRoom (x.d - 240) n⟩
  else if (x.form.mem || (x.pushes && pushHeld x.g (x.d - 240) n)) && !(s.heldBy x.gid x.sMask).isEmpty then
    some ⟨.barrier, .ops (s.heldBy x.gid x.sMask)⟩
  else if x.form.long && decide (63 ≤ s.flagCount x.gid x.flag) then some ⟨.flagWait, .flagRoom x.flag⟩
  else if x.g.ctl.leads && x.form.long && !x.form.own &&
      (match s.partner x.g with | none => false | some h => decide (128 ≤ h.lvq.length)) then
    some ⟨.queueFull, .lvqRoom⟩
  else none

/-- Whether an instruction is a release, so that a leader waits for its shadow there (06 R192). -/
def Ctx.syncs (x : Ctx) : Bool := x.form.sync || (x.pushes && pushReleases x.g (x.d - 240) x.L.length)

/-- Whether two groups stand at the same instruction. -/
def sameSlot (g h : Group) : Bool := g.ctl.pc == h.ctl.pc && g.ctl.slot == h.ctl.slot

/-- What leader and shadow must agree on at a release: their pending stores and the operands of the instruction, which fix
the words each would push and the arrival each would make (06 R192). -/
def Ctx.pairEqual (x : Ctx) (s : State) (h : Group) : Bool :=
  let y := { x with gid := h.gid, g := h }
  let plain (e : PsbEntry) := (e.block, e.lane, e.slot, e.mask, e.data)
  (x.g.ctl.psb.filter (fun e => e.held.isNone)).map plain == h.ctl.psb.map plain &&
    x.L.all (fun t =>
      [Fld.d, Fld.a, Fld.b].all (fun f =>
        x.popsField f || (x.kind f).span == 0 || decide (240 ≤ x.num f) ||
          (List.range (x.kind f).span).all (fun i => x.reg s (x.num f + i) t == y.reg s (x.num f + i) t)))

/-- A shadow takes its part of an instruction from its leader: a long-latency operation waits for the load-value queue
(06 R191). -/
def Ctx.shadowOp (x : Ctx) (s : State) : State :=
  x.start s (x.form.words.getD (if x.form.dWrite then (x.kind .d).span else 0)) (.shadow x.g.ctl.pc.toNat x.g.ctl.slot)

/-- The lost stream that a push of a fabric-send command to q4 reports (02 R48): the lanes that push one, when a stream of the
installation is lost. -/
def Ctx.sendLost (x : Ctx) (s t : State) : Option Trap :=
  if !(x.pushes && x.d == 244) then none
  else match s.inst? x.g.ctl.handle, t.group? x.gid with
  | some i, some g =>
    let words := (g.queue 4).drop (x.g.queue 4).length
    let lanes := (x.L.zip words).filterMap (fun lw => if wbits lw.2 31 28 = 9 then some lw.1 else none)
    if i.streamLost && !lanes.isEmpty then some ⟨0x10, maskOf lanes, 0x100 + i.lostStreamNo, 0⟩ else none
  | _, _ => none

/-- What the frame makes of an effect. -/
def Ctx.finish (x : Ctx) (s : State) (word : Word) (act : Act) : State :=
  let trap (tr : Trap) : State := s.raiseTrap x.g tr x.g.ctl.slot false x.uni word
  match act with
  | .done t =>
    (match x.sendLost s t with
    | some tr => trap tr
    | none => (t.nextSlot x.gid x.form.lits x.cycles x.form.long).killLanes (x.dying.map (fun l => (x.gid, l))))
  | .jump t target =>
    (match x.sendLost s t with
    | some tr => trap tr
    | none => (t.branch x.gid target x.cycles).killLanes (x.dying.map (fun l => (x.gid, l))))
  | .trap tr => trap tr
  | .stall st f =>
    match (f s).group? x.gid with
    | none => f s
    | some g => (f s).stall g st
  | .gone t => t

/-- Whether an effect is a trap. -/
def Act.isTrap : Act → Bool
  | .trap _ => true
  | _ => false

/-- A shadow's instruction (06 R191 to R193). -/
def Ctx.issueShadow (x : Ctx) (s : State) (word : Word) (body : Ctx → State → Act) : State :=
  match s.partner x.g with
  | none => x.finish s word (body x s)
  | some h =>
    let trapHere := h.ctl.trapPend && sameSlot x.g h
    if trapHere then
      match body x s with
      | .trap tr => x.finish s word (.trap tr)
      | .done t => if (x.sendLost s t).isSome then x.finish s word (.done t) else s.mismatch x.g
      | _ => s.mismatch x.g
    else if x.syncs then s.stall x.g ⟨.barrier, .partner⟩
    else if x.popsAny || x.form.viaLvq then
      match x.g.lvq.find? (fun l => l.clause == x.g.ctl.pc.toNat && l.slot == x.g.ctl.slot && l.dest == x.d) with
      | none => s.mismatch x.g
      | some l =>
        let s' := s.putGroup { x.g with lvq := x.g.lvq.erase l }
        (x.withLine l).finish s' word (body (x.withLine l) s')
    else if x.pushes then x.finish s word (.done s)
    else if x.form.long && !x.form.own then
      match body x s with
      | .trap tr => x.finish s word (.trap tr)
      | .done t =>
        let alc := match t.group? x.gid with | none => x.g.ctl.alc | some g => g.ctl.alc
        x.finish s word (.done ((x.shadowOp s).onGroup x.gid (fun g => g.onCtl (fun c => { c with alc := alc }))))
      | _ => x.finish s word (.done (x.shadowOp s))
    else x.finish s word (body x s)

/-- A leader's instruction at a release: it waits for its shadow, compares, and takes the shadow along (06 R192). -/
def Ctx.issueLeaderSync (x : Ctx) (s popped : State) (word : Word) (body : Ctx → State → Act) : State :=
  match s.partner x.g with
  | none => x.finish s word (body x popped)
  | some h =>
    if !(sameSlot x.g h && (h.stalled.map (fun st => st.hold)) == some .partner) then s.stall x.g ⟨.barrier, .partner⟩
    else if !x.pairEqual s h then s.mismatch x.g
    else
      let along (t : State) : State :=
        let y := { x with gid := h.gid, g := h }
        let t1 := t.onGroup h.gid (fun g => g.onCtl (fun c => { c with psb := [] }))
        let t2 := if x.form.long then y.shadowOp t1 else t1
        t2.nextSlot h.gid x.form.lits x.cycles x.form.long
      match body x popped with
      | .done t => x.finish s word (.done (along t))
      | .gone t => if (t.group? x.gid).all (fun g => g.gstate == .retired) then t.retire h.gid else along t
      | act => x.finish s word act

/-- An instruction that has passed its checks and has an active lane. -/
def Ctx.issueActive (x : Ctx) (s : State) (word : Word) (body : Ctx → State → Act) : State :=
  if x.g.ctl.shadow then x.issueShadow s word body
  else
    match x.takePops s with
    | none => s.stall x.g ⟨.queueEmpty, .queueWords x.popQueue x.L.length⟩
    | some (s1, x1) =>
      match x1.mustWait s1 with
      | some st => s.stall x.g st
      | none =>
        let s2 := if x.g.ctl.leads && x.popsAny then
            match s1.partner x.g with
            | none => s1
            | some h => s1.putGroup { h with lvq := h.lvq ++ [x1.popLine] }
          else s1
        if x.g.ctl.leads && x.syncs then x1.issueLeaderSync s s2 word body
        else x1.finish s word (body x1 s2)

/-- The flag of a long-latency operation by its place in the clause (06 R166): SETA, then SETB; 15 is FLAGZ. -/
def flagFor (c : FetchedClause) : Nat :=
  let h := headerOf c.header
  if c.longs = 0 then h.setA else h.setB

/-- The clause a group is in. -/
def Group.inClause (g : Group) : FetchedClause := g.clause.getD ⟨0#32, [], [], 0⟩

/-- The literals of the clause that are left for a group's slot (12 R320). -/
def Group.litsLeft (g : Group) : List Word := g.inClause.lits.drop g.ctl.litPos

/-- Whether the instruction at a group's slot acts once: it is marked uniform in the header, or of class 1 (12 R320, Table 12.4). -/
def Group.uniform (g : Group) (form : Form) : Bool := (headerOf g.inClause.header).uni.getLsbD g.ctl.slot || form.one

/-- S of an instruction as a mask: the active lanes, or Live (06 R151, 13 R355). -/
def State.actLanes (s : State) (g : Group) (form : Form) : Word := if form.live then g.ctl.live else s.activeMask g

/-- What the checks of R319 read of a group. -/
def State.checkOf (s : State) (g : Group) : Check :=
  ⟨g.ctl.mode, g.ctl.handler, (s.recordOf g).regs, g.litsLeft.length, g.inClause.longs⟩

/-- What the checks find at an instruction of a group (12 R319). -/
def State.findingsAt (s : State) (g : Group) (form : Form) (d a b : Nat) : Finding :=
  form.findings (s.checkOf g) d a b g.litsLeft

/-- The lanes a trap of R319 names: S, or its lowest lane for a uniform instruction (06 Table 6.4). -/
def State.trapLanes (s : State) (g : Group) (form : Form) : Word :=
  if g.uniform form then maskOf ((laneList (s.actLanes g form)).take 1) else s.actLanes g form

/-- An instruction of a group as it executes, its queue operands not yet popped. -/
def State.ctxOf (s : State) (g : Group) (form : Form) (op d a b : Nat) : Ctx :=
  let lanes := laneList (s.actLanes g form)
  let uni := g.uniform form
  let x : Ctx := { gid := g.gid, g := g, form := form, op := op, d := d, a := a, b := b, S := lanes
                   L := if uni then lanes.take 1 else lanes, uni := uni, flag := flagFor g.inClause, lits := g.litsLeft.take form.lits }
  { x with dying := x.deadReads }

/-- Issue (13 R348) for a group. -/
def State.issueIn (s : State) (g : Group) (form : Form) (op : Nat) (word : Word) (d a b : Nat)
    (body : Ctx → State → Act) : State :=
  match s.findingsAt g form d a b with
  | some (cause, info1) =>
    s.raiseTrap g ⟨cause, s.trapLanes g form, word.toNat, info1⟩ g.ctl.slot false (g.uniform form) word
  | none =>
    if (laneList (s.actLanes g form)).isEmpty then s.nextSlot g.gid form.lits 1 form.long
    else (s.ctxOf g form op d a b).issueActive s word body

/-- An instruction of the group that issues it. -/
def issue (form : Form) (op d a b : Byte) (body : Ctx → State → Act) (s : State) : Host.Outcome State Fault Refusal :=
  match s.cur with
  | none => .fault .noIssuingGroup
  | some gid =>
    match s.group? gid with
    | none => .fault .noIssuingGroup
    | some g => .next (s.tick.issueIn g form op.toNat (mkWord op d a b) d.toNat a.toNat b.toNat body)

/-- The results of the lanes of L. -/
def Ctx.results (x : Ctx) (s : State) (f : Ctx → State → Nat → LaneOut) : List (Nat × LaneOut) :=
  x.L.map (fun t => (t, f x s t))

/-- The effect of an instruction that computes one value a lane: FPX if a lane raises an enabled exception (11 R309),
else the results, FPSTAT (R308) and SATF (13 R348). -/
def laneEffect (f : Ctx → State → Nat → LaneOut) (x : Ctx) (s : State) : Act :=
  let outs := x.results s f
  match fpxTrap (modeTraps x.mode) outs with
  | some t => .trap t
  | none =>
    let s1 := x.writeD s (outs.map (fun o => (o.1, o.2.val)))
    .done (s1.onGroup x.gid (fun g => g.onCtl (fun c => c.raiseAll (x.spread outs))))

/-- The same for a long-latency instruction: the values are written, and the exceptions raised, when the operation
completes (13 R379, 14 R385). -/
def laneEffectLong (f : Ctx → State → Nat → LaneOut) (x : Ctx) (s : State) : Act :=
  let outs := x.results s f
  match fpxTrap (modeTraps x.mode) outs with
  | some t => .trap t
  | none =>
    .done (x.start s (x.kind .d).span (.value (x.writesOf (outs.map (fun o => (o.1, o.2.val))))
      ((x.spread outs).map (fun o => (o.1, o.2.exc))) (outs.any (fun o => o.2.sat))))

/-- A per-lane instruction. -/
def issueLanes (form : Form) (op d a b : Byte) (f : Ctx → State → Nat → LaneOut) (s : State) :
    Host.Outcome State Fault Refusal :=
  issue form op d a b (laneEffect f) s

end Sys2Proof.Machine
end

