-- ==== Sys2Proof/Machine/Access.lean ====
section
/-!
DEFINITION. What every memory instruction shares (15 R407 to R410): the addresses of its lanes (07 R196 to R199), its tests
in the order of 06 R175, the allowance (04 R115, R116), and the waits before anything leaves the core.
-/
namespace Sys2Proof.Machine

/-! ### Addresses of the lanes (07 R196, R198, R200) -/

/-- A lane's access before its tests: its index, its address as the record forms it, the bit a packed element starts at, its
place, how many bytes it covers, and whether it is out of bounds. -/
structure Probe where
  lane   : Nat
  idx    : Nat
  raw    : Nat
  bitPos : Nat
  addr   : Nat
  span   : Nat
  out    : Bool
deriving DecidableEq, Repr

/-- The space of a record for a group. -/
def State.spaceOf (s : State) (g : Group) (r : BufRec) : Space := (s.place g r 0 0).1

/-- A lane's access through a record (07 R196, R198). -/
def Ctx.probe (x : Ctx) (s : State) (r : BufRec) (size t : Nat) : Probe :=
  let idx := (x.rd s .a t).toNat
  let at_ := r.addrOf idx
  let n := r.span size at_.2
  let p := s.place x.g r at_.1 n
  ⟨t, idx, at_.1, at_.2, p.2.1, n, decide (r.extent ≤ idx) || !p.2.2⟩

/-- The lines a run of bytes touches, ascending (07 R200). -/
def linesOf (addr n : Nat) : List Nat :=
  if n = 0 then [] else (List.range ((addr + n - 1) / 128 - addr / 128 + 1)).map (fun i => (addr / 128 + i) * 128)

/-- The lines a lane's access touches. -/
def Probe.lines (p : Probe) : List Nat := linesOf p.addr p.span

/-- Distinct numbers, ascending. -/
def distinct (ns : List Nat) : List Nat := ns.foldl (fun l n => insertSorted n l) []

/-- The line requests of an instruction, ascending: its lines, an atomic's too, which are coalesced after aggregation (04 R115,
07 R200; log 55). -/
def requestsOf (ps : List Probe) : List Nat := distinct (ps.flatMap (fun p => p.lines))

/-- The lanes of some accesses. -/
def lanesOf (ps : List Probe) : Word := maskOf (ps.map (fun p => p.lane))

/-! ### The tests (15 R407; 06 R175) -/

/-- The lost stream that R48 reports, if one is lost. -/
def Installation.lostStream (i : Installation) : Option Nat := if i.streamLost then some i.lostStreamNo else none

/-- The lost stream of a group's installation. -/
def State.lostStream (s : State) (g : Group) : Option Nat :=
  match s.inst? g.ctl.handle with
  | none => none
  | some i => i.lostStream

/-- Whether a record of a group is lost (04 R121). -/
def State.recordLost (s : State) (g : Group) (slot : Nat) : Bool :=
  match s.inst? g.ctl.handle with
  | none => false
  | some i => i.insts.any (fun n => n.kernel == g.kernel && n.slot == slot && n.lost)

/-- The directions of a reserved record: bit 0 read, bit 1 write (04 Table 4.3). -/
def State.directions (s : State) (g : Group) (slot : Nat) : Nat :=
  match s.kernelOf g with
  | none => 0
  | some k => ((k.decls.find? (fun d => d.slot == slot)).map (fun d => d.dir)).getD 0

/-- Test 1: RESV_LOST (04 R121, 02 R48). -/
def Ctx.testLost (x : Ctx) (s : State) (r : BufRec) (slot : Nat) : Option Trap :=
  if r.reserved && s.recordLost x.g slot then some ⟨0x10, maskOf x.L, slot, 0⟩
  else if r.remote then (s.lostStream x.g).map (fun n => ⟨0x10, maskOf x.L, 0x100 + n, 0⟩)
  else none

/-- Test 2: BOUNDS of a direction that a reserved record lacks; an atomic through one always (15 R407, R417). -/
def Ctx.testDirection (x : Ctx) (s : State) (r : BufRec) (slot : Nat) (kind : AccessKind) : Option Trap :=
  let dirs := s.directions x.g slot
  let lacks := match kind with
    | .read => !dirs.testBit 0
    | .write => !dirs.testBit 1
    | _ => true
  if r.reserved && lacks then some ⟨6, maskOf x.L, slot, if kind = .read then 0x100000000 else 0x200000000⟩ else none

/-- Test 2: BOUNDS of the lanes out of bounds, without CLAMP (07 R198). -/
def testBounds (r : BufRec) (slot : Nat) (ps : List Probe) : Option Trap :=
  let out := ps.filter (fun p => p.out)
  match out with
  | [] => none
  | p :: _ => if r.clamp then none else some ⟨6, lanesOf out, slot, p.idx⟩

/-- Test 3: ALIGN (07 R198, R199): a packed record refuses atomics and shapes, with INFO1 = 0. -/
def testAlign (r : BufRec) (size : Nat) (plain : Bool) (ps : List Probe) : Option Trap :=
  let bad := ps.filter (fun p => if r.packed then !plain else p.raw % size != 0)
  match bad with
  | [] => none
  | p :: _ => some ⟨7, lanesOf bad, p.raw, if r.packed then 0 else size⟩

/-- Whether the allowance meters an access: an allowance record outside a handler (04 R115, R116). -/
def Ctx.metered (x : Ctx) (r : BufRec) : Bool := !r.reserved && !x.g.ctl.handler

/-- Test 4: ALLOW (04 R115). -/
def Ctx.testAllow (x : Ctx) (s : State) (ps : List Probe) : Option Trap :=
  let allow := (s.recordOf x.g).allow
  let alc := x.g.ctl.alc.toNat
  let reqs := requestsOf ps
  if allow < alc + reqs.length then
    let cut := reqs.drop (allow - alc)
    let beyond := ps.filter (fun p => (requestsOf [p]).any (fun n => cut.contains n))
    some ⟨4, lanesOf beyond, alc, reqs.length⟩
  else none

/-- Test 4: PGF (07 R211): the lanes with a line that does not translate. -/
def State.testPages (s : State) (space : Space) (kind : AccessKind) (ps : List Probe) : Option Trap :=
  match space with
  | .virt h =>
    let bad (n : Nat) : Bool := match s.translate h n kind with | .ok _ _ => false | _ => true
    let beyond := ps.filter (fun p => p.lines.any bad)
    match beyond with
    | [] => none
    | p :: _ =>
      let line := (p.lines.find? bad).getD 0
      let denied := match s.translate h line kind with | .denied => 0x100 | _ => 0
      some ⟨5, lanesOf beyond, max p.addr line, kind.info + denied⟩
  | _ => none

/-- The first trap of a list. -/
def firstTrap : List (Option Trap) → Option Trap
  | [] => none
  | some t :: _ => some t
  | none :: ts => firstTrap ts

/-! ### The waits (15 R407, R409; 04 R116; 03 R76) -/

/-- The place of a line at its home. -/
def State.physOf (s : State) (space : Space) (kind : AccessKind) (line : Nat) : Nat :=
  match space with
  | .virt h => match s.translate h line kind with | .ok p _ => p | _ => 0
  | _ => line

/-- A line of global memory that has not been scrubbed (03 R76). -/
def State.soiled (s : State) (space : Space) (phys : Nat) : Bool :=
  match space with
  | .virt _ => !s.mem.clean phys
  | _ => false

/-- Requests of a group through allowance records that still hold an outstanding-transaction entry (04 R116). -/
def OutOp.held (o : OutOp) : Nat :=
  match o.kind with
  | .load _ _ image _ lines _ _ _ =>
    if (bufRec image).reserved then 0 else (lines.filter (fun l => l.bytes.isNone)).length
  | .atomic _ _ _ _ reqs _ _ _ => (distinct ((reqs.filter (fun r => !r.done)).map (fun r => r.addr / 128))).length
  | _ => 0

/-- The operations of a group that hold entries. -/
def State.holders (s : State) (gid : Nat) : List OutOp := s.ops.filter (fun o => o.gid == gid && !o.handler && decide (0 < o.held))

/-- The wait for scrubbing, for owned ranges, for an ACCST of the group (10 R268), or for a free entry; `none` when the instruction may send. -/
def Ctx.accessWait (x : Ctx) (s : State) (r : BufRec) (space : Space) (kind : AccessKind) (ps : List Probe) : Option Act :=
  let phys := (distinct (ps.flatMap (fun p => p.lines))).map (s.physOf space kind)
  match phys.find? (s.soiled space) with
  | some p => some (.stall ⟨.translation, .region (regionOf p)⟩ (fun t => t.onMem (fun m => m.promote (regionOf p))))
  | none =>
    let owners := ps.flatMap (fun p => s.owners space p.addr (p.addr + p.span))
    let busy := ps.flatMap (fun p => s.storesOver x.gid space p.addr (p.addr + p.span))
    if !owners.isEmpty then some (.wait .scoreboard (.transfers owners))
    else if !busy.isEmpty then some (.wait .scoreboard (.ops busy))
    else
      let holders := s.holders x.gid
      let taken := holders.foldl (fun n o => n + o.held) 0
      if x.metered r && kind != .write && !holders.isEmpty &&
          decide ((s.recordOf x.g).allow < taken + (requestsOf ps).length) then
        some (.wait .queueFull (.ops (holders.map (fun o => o.id))))
      else none

/-! ### The tests together -/

/-- What the tests leave: the space, and the accesses of the lanes that CLAMP did not take out. -/
inductive Tested where
  | stop (a : Act)
  | go (space : Space) (ps : List Probe)

/-- The access tests of R407 in their order. -/
def Ctx.tests (x : Ctx) (s : State) (r : BufRec) (slot size : Nat) (kind : AccessKind) (plain : Bool) : Tested :=
  let all := x.L.map (x.probe s r size)
  let ps := all.filter (fun p => !p.out)
  let space := s.spaceOf x.g r
  match firstTrap [x.testLost s r slot, x.testDirection s r slot kind, testBounds r slot all, testAlign r size plain ps,
      if x.metered r then x.testAllow s ps else none, if r.reserved then none else s.testPages space kind ps] with
  | some t => .stop (.trap t)
  | none =>
    match x.accessWait s r space kind ps with
    | some a => .stop a
    | none => .go space ps

/-! ### What sending costs (04 R115, R123; 07 R211) -/

/-- Puts a page into a translation cache of a size; a full one drops an entry. -/
def addTlb (size drop : Nat) (e : TlbEntry) (l : List TlbEntry) : List TlbEntry :=
  if l.contains e then l
  else if l.length < size then l ++ [e]
  else l.eraseIdx (drop % size) ++ [e]

/-- Caches the translation of a line on its core and its die (07 R211). -/
def State.noteTlb (s : State) (core : Nat) (handle : Word) (line : Nat) : State :=
  match s.page? handle line with
  | none => s
  | some p =>
    let e : TlbEntry := ⟨handle, p.va⟩
    let s1 := s.onCore core (fun k => { k with tlb := addTlb 128 (Config.tlbDrops s.freeCtr) e k.tlb })
    { s1 with dieTlb := Sparse.alter [] s1.dieTlb (dieOfCore core) (addTlb 8192 (Config.tlbDrops s.freeCtr) e) }

/-- Charges an instruction's requests to ALC and caches its translations. -/
def Ctx.charge (x : Ctx) (s : State) (r : BufRec) (space : Space) (ps : List Probe) : State :=
  let n := (requestsOf ps).length
  let s1 := if x.metered r then
      s.onGroup x.gid (fun g =>
        (g.onCtl (fun c => { c with alc := c.alc + BitVec.ofNat 32 n })).count (fun c => { c with alwReq := c.alwReq + n }))
    else s
  match space with
  | .virt h =>
    if r.reserved then s1
    else (distinct (ps.flatMap (fun p => p.lines))).foldl (fun t line => t.noteTlb x.g.core h line) s1
  | _ => s1

/-! ### A lane's own order (15 R409) -/

/-- The outstanding atomics of a lane that overlap a run of bytes. -/
def State.atomicsOver (s : State) (gid lane : Nat) (space : Space) (lo hi : Nat) : List Nat :=
  (s.ops.filter (fun o => o.gid == gid && (match o.kind with
    | .atomic _ size sp _ reqs _ _ _ => sp == space && reqs.any (fun r =>
        !r.done && overlaps lo hi r.addr (r.addr + size) && r.lanes.any (fun l => l.lane == lane))
    | _ => false))).map (fun o => o.id)

/-- The bits a buffer entry names: its byte mask, or a mask entry's own bits (07 R201). -/
def PsbEntry.bits (e : PsbEntry) : BitVec 128 := if e.slot == 0xFF#8 then e.data else bitsOfMask e.mask

/-- Whether an entry of a lane overlaps a run of bytes. -/
def PsbEntry.over (e : PsbEntry) (space : Space) (lane lo hi : Nat) : Bool :=
  e.lane == lane && e.space == space && (List.range 16).any (fun i =>
    anyBit (byteAt e.bits i) && decide (lo ≤ e.block + i) && decide (e.block + i < hi))

/-- How many entries, from the oldest, an atomic's lane must have sent: up to and with the newest that overlaps. -/
def cutOf (es : List PsbEntry) (space : Space) (lane lo hi : Nat) : Nat :=
  (es.zipIdx.filter (fun e => e.1.over space lane lo hi)).foldl (fun n e => max n (e.2 + 1)) 0

/-- The operations a lane's atomic waits for: an STL32 whose own entry is among those entries. -/
def State.ownFirst (s : State) (es : List PsbEntry) (cut lane : Nat) : List Nat :=
  ((es.take cut).filter (fun e => e.lane == lane)).filterMap (fun e =>
    match e.held with
    | none => none
    | some o => if s.ops.any (fun p => p.id == o && (match p.kind with | .release _ _ _ (.storeOwn _) => true | _ => false))
        then some o else none)

/-- The sent stores of a lane that overlap a run of bytes and have not reached their homes. -/
def State.flying (s : State) (gid lane : Nat) (space : Space) (lo hi : Nat) : List Nat :=
  (s.commits.filter (fun c => c.gid == gid && c.lane == lane && c.space == space &&
    overlaps lo hi (touchedSpan c.block c.bits).1 (touchedSpan c.block c.bits).2)).map (fun c => c.id)

/-- Sends the pending entries that atomics of some lanes must follow; they carry no release (15 R409). -/
def State.sendBefore (s : State) (gid : Nat) (space : Space) (size : Nat) (ps : List Probe) : State × List Nat :=
  match s.group? gid with
  | none => (s, [])
  | some g =>
    let es := g.ctl.psb
    let cut (lane : Nat) : Nat := (ps.filter (fun p => p.lane == lane)).foldl (fun n p =>
      max n (cutOf es space lane p.addr (p.addr + size))) 0
    let marked := es.zipIdx.map (fun e => (e.1, e.1.held.isNone && decide (e.2 < cut e.1.lane)))
    let (id, s0) := s.fresh
    let (s1, ids) := s0.sendStores g id (fun _ => none) (psbStores ((marked.filter (fun m => m.2)).map (fun m => m.1)))
    (s1.onGroup gid (fun g => g.onCtl (fun c => { c with
      psb := (marked.filter (fun m => !m.2)).map (fun m => m.1)
      psbHead := (c.psbHead + (marked.takeWhile (fun m => m.2)).length) % 128 })), ids)

/-! ### Entries of a store (06 R157, 07 R201) -/

/-- A number shifted to its place in a 16-byte block. -/
def inBlock (v addr block : Nat) : BitVec 128 :=
  BitVec.ofNat 128 (if block ≤ addr then v * 256 ^ (addr - block) else v / 256 ^ (block - addr))

/-- The byte mask of a bit mask. -/
def byteMask (bits : BitVec 128) : BitVec 16 :=
  BitVec.ofNat 16 ((List.range 16).foldl (fun n i => if anyBit (byteAt bits i) then n + 2 ^ i else n) 0)

/-- The entries a lane's store places: one for each 16-byte block it touches, and for a packed element a pair
(07 R201). -/
def storeEntries (r : BufRec) (slot : Nat) (space : Space) (p : Probe) (size value : Nat) (held : Option Nat) : List PsbEntry :=
  let mask := if r.packed then (2 ^ r.width - 1) * 2 ^ p.bitPos else 2 ^ (8 * size) - 1
  let data := if r.packed then value % 2 ^ r.width * 2 ^ p.bitPos else value % 2 ^ (8 * size)
  (List.range ((p.addr + p.span - 1) / 16 - p.addr / 16 + 1)).flatMap (fun i =>
    let block := (p.addr / 16 + i) * 16
    let bits := inBlock mask p.addr block
    let e : PsbEntry := ⟨block, p.lane, BitVec.ofNat 8 slot, byteMask bits, inBlock data p.addr block, space, r.reserved, held⟩
    e :: (if r.packed then [{ e with slot := 0xFF#8, mask := 0#16, data := bits }] else []))

end Sys2Proof.Machine
end

