-- ==== Sys2Proof/Machine/Turns.lean ====
section
/-!
DEFINITION. What a turn has the machine do: a step of the opcode table with its subject, or the next word of a rail's clause; and what
becomes of a word that is no instruction (12 R319, R325).
-/
namespace Sys2Proof.Machine

/-- Whether an instruction is a step of another agent, which has no word. -/
def isStep (i : Instr) : Bool := (encode i).isNone

/-- The word at a group's slot. -/
def Group.slotWord (g : Group) : Option Word :=
  match g.clause with
  | none => none
  | some c => c.words[g.ctl.slot]?

/-- A word at a slot that is no instruction (12 R325): the future space traps FUTOP, a reserved or header value traps
ILLOP with reason 1. -/
def State.badWord (s : State) (g : Group) (w : Word) (e : DecodeError) : State :=
  let c := g.clause.getD ⟨0#32, [], [], 0⟩
  let uni := (headerOf c.header).uni.getLsbD g.ctl.slot
  let m := s.activeMask g
  let mask := if uni then maskOf ((laneList m).take 1) else m
  match e with
  | .futureOpcode => s.tick.raiseTrap g ⟨2, mask, w.toNat, 0⟩ g.ctl.slot false uni w
  | _ => s.tick.raiseTrap g ⟨1, mask, w.toNat, 1⟩ g.ctl.slot false uni w

/-- What a turn has the machine do: an instruction to execute in a state, a word that is none, or nothing the machine
does. -/
inductive Move where
  | run (i : Instr) (s : State)
  | bad (s : State)
  | none
deriving Repr

/-- The move of a turn. -/
def State.moveOf (s : State) : Turn → Move
  | .event i x y z => if isStep i then .run i { s with turn := ⟨x, y, z⟩, cur := Option.none } else .none
  | .issue c r =>
    match (s.rail c r).clauseOf with
    | .none => .run .clauseStart { s with turn := ⟨c, r, 0⟩, cur := Option.none }
    | some gid =>
      match s.group? gid with
      | .none => .run .clauseStart { s with turn := ⟨c, r, 0⟩, cur := Option.none }
      | some g =>
        match g.slotWord with
        | .none => .run .clauseStart { s with turn := ⟨c, r, 0⟩, cur := Option.none }
        | some w =>
          match decodeWord w with
          | .ok i => .run i { s with cur := some gid }
          | .error e => .bad (s.badWord g w e)

end Sys2Proof.Machine
end

