-- ==== Sys2Proof/Machine/Control.lean ====
section
/-!
DEFINITION. Branches (13 R352 to R354), divergence (R355, R356), exit, flags and traps (R357 to R362), MODE and status
(R363 to R366).
-/
namespace Sys2Proof.Machine

/-! ### Branches -/

/-- The page of an instruction of class 1 without operands. -/
def plainForm : Form := { d := .unused, a := .unused, b := .unused, one := true }

/-- The literal target of a branch: H + 4 × lit mod 2^64 (13 R352). -/
def Ctx.target (x : Ctx) : Word64 := x.g.ctl.pc + (x.lits.headD 0#32).signExtend 64 <<< 2

/-- TextBase of the group's installation. -/
def State.textBase (s : State) (h : Word) : Nat :=
  match s.inst? h with
  | none => 0
  | some i => i.textBase

/-- The address of the clause that follows the one an instruction stands in. -/
def Ctx.following (x : Ctx) : Word64 :=
  let words := match x.g.clause with | none => 0 | some c => c.words.length + c.lits.length
  x.g.ctl.pc + BitVec.ofNat 64 (4 * (1 + words))

/-- BRA (13 R353). -/
def execBra (d a b : Byte) (s : State) : Host.Outcome State Fault Refusal :=
  issue { plainForm with lits := 1 } 0x10#8 d a b (fun x s => .jump s x.target) s

/-- BRU (13 R353). -/
def execBru (d a b : Byte) (s : State) : Host.Outcome State Fault Refusal :=
  issue { plainForm with a := .reg, b := .code [(0, 1)], lits := 1 } 0x11#8 d a b (fun x s =>
    if (x.rd s .a x.low == 0#32) == (x.b == 1) then .jump s x.target else .done s) s

/-- BRNONE (13 R353, R355). -/
def execBrnone (d a b : Byte) (s : State) : Host.Outcome State Fault Refusal :=
  issue { plainForm with lits := 1, live := true } 0x15#8 d a b (fun x s =>
    if x.g.ctl.exec &&& x.g.ctl.live == 0#32 then .jump s x.target else .done s) s

/-- CALL (13 R354). -/
def execCall (d a b : Byte) (s : State) : Host.Outcome State Fault Refusal :=
  issue { plainForm with d := .reg, dWrite := true, lits := 1 } 0x16#8 d a b (fun x s =>
    let link := loWord (x.following - BitVec.ofNat 64 (s.textBase x.g.ctl.handle))
    .jump (x.writeD s [(x.low, link.setWidth 64)]) x.target) s

/-- A branch to TextBase + x (13 R354). -/
def branchText (x : Ctx) (s : State) : Act :=
  let v := (x.rd s .a x.low).toNat
  let target := s.textBase x.g.ctl.handle + v
  if v % 4 != 0 then .trap { cause := 7, mask := maskOf x.L, info0 := target, info1 := 4 }
  else .jump s (BitVec.ofNat 64 target)

/-- RET (13 R354). -/
def execRet (d a b : Byte) (s : State) : Host.Outcome State Fault Refusal :=
  issue { plainForm with a := .reg } 0x17#8 d a b branchText s

/-- LOOP (13 R353). -/
def execLoop (d a b : Byte) (s : State) : Host.Outcome State Fault Refusal :=
  issue { plainForm with d := .reg, dRead := true, dWrite := true, lits := 1 } 0x18#8 d a b (fun x s =>
    let n := x.rd s .d x.low - 1#32
    let s' := x.writeD s [(x.low, n.setWidth 64)]
    if n == 0#32 then .done s' else .jump s' x.target) s

/-- BRX (13 R354). -/
def execBrx (d a b : Byte) (s : State) : Host.Outcome State Fault Refusal :=
  issue { plainForm with a := .reg } 0x1B#8 d a b branchText s

/-! ### Divergence -/

/-- Writes EXEC; the change takes effect from the next slot (13 R356). -/
def State.setExec (s : State) (gid : Nat) (m : Word) : State :=
  s.onGroup gid (fun g => g.onCtl (fun c => { c with exec := m }))

/-- IFNZ (13 R356): a uniform one applies its one test to every lane. -/
def execIfnz (d a b : Byte) (s : State) : Host.Outcome State Fault Refusal :=
  issue { d := .reg, a := .reg, b := .unused, dWrite := true, live := true, cycles := .ifnz } 0x12#8 d a b (fun x s =>
    let m := x.g.ctl.exec
    let pass := if x.uni then (if x.rd s .a x.low == 0#32 then 0#32 else 0xFFFFFFFF#32)
      else maskOf (x.L.filter (fun t => x.rd s .a t != 0#32))
    .done ((x.writeD s (x.L.map (fun t => (t, m.setWidth 64)))).setExec x.gid (m &&& x.g.ctl.live &&& pass))) s

/-- ELSE (13 R356). -/
def execElseOp (d a b : Byte) (s : State) : Host.Outcome State Fault Refusal :=
  issue { plainForm with a := .reg, live := true } 0x13#8 d a b (fun x s =>
    .done (s.setExec x.gid (x.rd s .a x.low &&& ~~~x.g.ctl.exec))) s

/-- ENDIF (13 R356). -/
def execEndif (d a b : Byte) (s : State) : Host.Outcome State Fault Refusal :=
  issue { plainForm with a := .reg, live := true } 0x14#8 d a b (fun x s =>
    .done (s.setExec x.gid (x.rd s .a x.low))) s

/-- GETEXEC (13 R356). -/
def execGetexec (d a b : Byte) (s : State) : Host.Outcome State Fault Refusal :=
  issue { plainForm with d := .reg, dWrite := true, live := true } 0x4B#8 d a b (fun x s =>
    .done (x.writeD s [(x.low, x.g.ctl.exec.setWidth 64)])) s

/-- SETEXEC (13 R356). -/
def execSetexec (d a b : Byte) (s : State) : Host.Outcome State Fault Refusal :=
  issue { plainForm with a := .reg, live := true } 0x4C#8 d a b (fun x s =>
    .done (s.setExec x.gid (x.rd s .a x.low &&& x.g.ctl.exist))) s

/-! ### Exit, flags and traps -/

/-- The bytes of a word of an opcode whose 24 field bits are ignored. -/
def fieldBytes (n : BitVec 24) : Byte × Byte × Byte :=
  (n.extractLsb' 16 8, n.extractLsb' 8 8, n.extractLsb' 0 8)

/-- The page of an opcode whose fields are ignored (13 R357). -/
def ignoreForm : Form := { d := .any, a := .any, b := .any }

/-- NOP (13 R357). -/
def execNop (n : BitVec 24) (s : State) : Host.Outcome State Fault Refusal :=
  issue ignoreForm 0x00#8 (fieldBytes n).1 (fieldBytes n).2.1 (fieldBytes n).2.2 (fun _ s => .done s) s

/-- BRK (13 R357, 06 R184). -/
def execBrk (n : BitVec 24) (s : State) : Host.Outcome State Fault Refusal :=
  issue ignoreForm 0x01#8 (fieldBytes n).1 (fieldBytes n).2.1 (fieldBytes n).2.2 (fun x _ =>
    .trap { cause := 0x0E, mask := x.sMask }) s

/-- The effect of EXIT (13 R359): in a handler the group is killed; else it waits for its flags, then releases at pkg scope
for every live lane, then retires. -/
def exitEffect (x : Ctx) (s : State) : Act :=
  if x.g.ctl.handler then .gone (s.killGroup x.gid)
  else if !s.flagsClear x.gid 0x1FFF#13 then .wait .flagWait (.flags 0x1FFF#13)
  else
    let pending := (s.ops.filter (fun o => o.gid == x.gid && (match o.kind with | .release _ _ _ .exit => true | _ => false))).map
      (fun o => o.id)
    if !pending.isEmpty then .wait .barrier (.ops pending)
    else
      let live := x.g.ctl.live
      if (x.g.ctl.psb.any (fun e => e.held.isNone)) || !(s.earlier x.gid live).isEmpty then
        .stall ⟨.barrier, .ops [s.nextId]⟩ (fun s =>
          let (id, t) := s.fresh
          t.startRelease { id := id, gid := x.gid, flag := 16, handler := false, lanes := live, kind := .lease } 4 none .exit)
      else .gone (s.retire x.gid)

/-- EXIT (13 R359). -/
def execExit (d a b : Byte) (s : State) : Host.Outcome State Fault Refusal :=
  issue { plainForm with sync := true } 0x02#8 d a b exitEffect s

/-- SWTRAP (13 R358). -/
def execSwtrap (d a b : Byte) (s : State) : Host.Outcome State Fault Refusal :=
  issue ignoreForm 0x03#8 d a b (fun x _ =>
    .trap { cause := 0x0F, mask := maskOf x.L, info0 := x.d * 65536 + x.a * 256 + x.b }) s

/-- The operations of a group's handler that a flag still counts (13 R362). -/
def State.handlerOps (s : State) (gid : Nat) : List Nat :=
  (s.ops.filter (fun o => o.gid == gid && o.handler && o.flag != 16)).map (fun o => o.id)

/-- TRET (13 R362). -/
def execTret (d a b : Byte) (s : State) : Host.Outcome State Fault Refusal :=
  issue { plainForm with b := .code [(0, 1)], priv := true } 0x04#8 d a b (fun x s =>
    if !(s.handlerOps x.gid).isEmpty then .wait .flagWait (.ops (s.handlerOps x.gid))
    else .gone (s.trapReturn x.g (x.b == 1))) s

/-- FWAIT (13 R360). -/
def execFwait (d a b : Byte) (s : State) : Host.Outcome State Fault Refusal :=
  issue { plainForm with a := .code [(0, 255)] 0x70, b := .any } 0x19#8 d a b (fun x s =>
    let mask := if 128 ≤ x.a then 0x1FFF#13 else BitVec.ofNat 13 (x.a % 16 * 256 + x.b)
    if s.flagsClear x.gid mask then .done s else .wait .flagWait (.flags mask)) s

/-- YIELD (13 R361): the rail holds the group back once its clause has completed. -/
def execYield (d a b : Byte) (s : State) : Host.Outcome State Fault Refusal :=
  issue plainForm 0x1A#8 d a b (fun x s =>
    match x.g.seat with
    | none => .done s
    | some seat => .done (s.onRail x.g.core (railOfSeat seat) (fun r => { r with yielded := some x.gid }))) s

/-! ### Mode and status -/

/-- The instruction's word. -/
def Ctx.word (x : Ctx) : Nat := x.op * 2 ^ 24 + x.d * 65536 + x.a * 256 + x.b

/-- A trap of cause ILLOP or MBZ that an effect raises: INFO0 is the word (06 Table 6.5). -/
def Ctx.badValue (x : Ctx) (cause info1 : Nat) : Act :=
  .trap { cause := cause, mask := maskOf x.L, info0 := x.word, info1 := info1 }

/-- A write of MODE with the checks of 12 R323; it applies from the next slot (13 R363). -/
def setMode (x : Ctx) (s : State) (v : Word) : Act :=
  if wbits v 3 0 != 0 then x.badValue 3 (wbits v 3 0)
  else if 5 ≤ modeRnd v then x.badValue 3 (modeRnd v * 65536)
  else if 12 ≤ modeType v then x.badValue 3 0x780000
  else if modeGuard v < 240 && decide ((s.recordOf x.g).regs ≤ modeGuard v) then x.badValue 1 2
  else .done (s.onGroup x.gid (fun g => g.onCtl (fun c => { c with mode := v })))

/-- SETMODE (13 R363). -/
def execSetmode (d a b : Byte) (s : State) : Host.Outcome State Fault Refusal :=
  issue { plainForm with lits := 1 } 0x08#8 d a b (fun x s => setMode x s (x.lits.headD 0#32)) s

/-- The low bit and the width of a MODE field (13 Table 13.6, 12 Table 12.5). -/
def modeField : Nat → Nat × Nat
  | 0 => (24, 8)
  | 1 => (23, 1)
  | 2 => (19, 4)
  | 3 => (16, 3)
  | 4 => (11, 5)
  | 5 => (10, 1)
  | 6 => (9, 1)
  | 7 => (8, 1)
  | 8 => (6, 2)
  | _ => (4, 2)

/-- Replaces n bits of a word from a place on. -/
def setBits (w : Word) (lo n v : Nat) : Word :=
  let mask := BitVec.ofNat 32 ((2 ^ n - 1) * 2 ^ lo)
  (w &&& ~~~mask) ||| (BitVec.ofNat 32 (v * 2 ^ lo) &&& mask)

/-- MODESET (13 R363): bits of the value at or above the field's width are MBZ. -/
def execModeset (d a b : Byte) (s : State) : Host.Outcome State Fault Refusal :=
  let f := modeField d.toNat
  let high := a.toNat / 2 ^ f.2 * 2 ^ f.2
  issue { plainForm with
      d := .code [(0, 9)], a := .any
      late := fun _ => if high = 0 then none else some (3, high * 256) } 0x09#8 d a b
    (fun x s => setMode x s (setBits x.mode f.1 f.2 x.a)) s

/-- A partition register a handler reads (13 Table 13.7). -/
def State.partitionValue (s : State) (g : Group) (code : Nat) : Word :=
  let p := s.part (match s.inst? g.ctl.handle with | none => 0 | some i => i.part)
  match code with
  | 0x20 => p.actCfg
  | 0x21 => p.llsCfg
  | 0x22 => p.wdCfg
  | _ => p.cfg

/-- A system value (13 Table 13.7). -/
def State.systemValue (s : State) (g : Group) (code t : Nat) : Word :=
  let launch := s.launch? g.launch
  let num (n : Nat) : Word := BitVec.ofNat 32 n
  match code with
  | 0x00 => num t
  | 0x01 => num g.localNo
  | 0x02 => num g.workgroup
  | 0x03 => g.ctl.group
  | 0x04 => num (match launch with | none => 0 | some l => l.groups)
  | 0x05 => num (match launch with | none => 0 | some l => l.wgCount)
  | 0x06 => num g.core
  | 0x07 => num (match g.seat with | none => 0 | some seat => railOfSeat seat)
  | 0x08 => num (g.seat.getD 0)
  | 0x09 => num (s.fab.row * 64 + s.fab.column)
  | 0x0A => if g.ctl.exist == 0xFFFF#32 then 16#32 else 32#32
  | 0x0B => g.ctl.exist
  | 0x0C => g.ctl.dead
  | 0x0D => g.ctl.deadSrc
  | 0x0E => g.ctl.mode
  | 0x0F => g.ctl.handle
  | 0x10 => num g.sequence
  | _ => s.partitionValue g code

/-- SYSV (13 R364). -/
def execSysv (d a b : Byte) (s : State) : Host.Outcome State Fault Refusal :=
  issueLanes { d := .reg, a := .code [(0, 0x10), (0x20, 0x23)], b := .unused, dWrite := true, priv := decide (0x20 ≤ a.toNat ∧ a.toNat ≤ 0x23) }
    0x0A#8 d a b (fun x s t => .plain ((s.systemValue x.g x.a t).setWidth 64)) s

/-- The group flags as RDFPS shows them (13 R365). -/
def Control.statusFlags (c : Control) : Nat := c.satf.toNat + 2 * c.sovf.toNat + 4 * c.sdrop.toNat

/-- RDFPS (13 R365). -/
def execRdfps (d a b : Byte) (s : State) : Host.Outcome State Fault Refusal :=
  issueLanes { d := .reg, a := .unused, b := .code [(0, 1)], dWrite := true } 0x0B#8 d a b (fun x _ t =>
    .plain (if x.b = 0 then (x.g.ctl.fpstat.getD t 0#5).setWidth 64 else BitVec.ofNat 64 x.g.ctl.statusFlags)) s

/-- Writes FPSTAT of some lanes (13 R365 codes 0 and 1). -/
def Control.writeFps (c : Control) (clear : Bool) : List (Nat × Word) → Control
  | [] => c
  | (t, v) :: vs =>
    let bits := v.extractLsb' 0 5
    let old := c.fpstat.getD t 0#5
    ({ c with fpstat := c.fpstat.setIfInBounds t (if clear then old &&& ~~~bits else bits) }).writeFps clear vs

/-- WRFPS (13 R365). -/
def execWrfps (d a b : Byte) (s : State) : Host.Outcome State Fault Refusal :=
  issue { d := .unused, a := .reg, b := .code [(0, 3)] } 0x0C#8 d a b (fun x s =>
    let v := x.rd s .a x.low
    .done (s.onGroup x.gid (fun g => g.onCtl (fun c =>
      match x.b with
      | 0 => c.writeFps false (x.spread (x.L.map (fun t => (t, x.rd s .a t))))
      | 1 => c.writeFps true (x.spread (x.L.map (fun t => (t, x.rd s .a t))))
      | 2 => { c with
          satf := c.satf && !wbit v 0
          sovf := c.sovf && !wbit v 1
          sdrop := c.sdrop && !wbit v 2 }
      | _ => { c with deadSrc := c.deadSrc &&& ~~~v })))) s

/-! ### Counters (13 R366) -/

/-- A counter of cycles as it reads: the whole frames that have surely passed, and any number of cycles besides (log 3). -/
def State.cycles (s : State) (stored : Nat) : Nat := stored - Config.frameCycles + Config.freeCycles s.freeCtr

/-- A counter of the cycles of waits as it reads: any number, for the frames in which a wait was found say no more than that (01
R433; log 3). -/
def State.charged (s : State) (frames : Nat) : Nat := Config.freeCharge s.freeCtr frames

/-- A stall cause that can apply to an engine (05 R150): slot alignment, its queues, the range scoreboard, translation. -/
def engineCause (c : Nat) : Bool := c == 2 || c == 4 || c == 5 || c == 7 || c == 8

/-- The reserved instances of a record slot of a kernel on a core (04 R123). -/
def State.instancesOf (s : State) (g : Group) (slot : Nat) : List Inst :=
  match s.inst? g.ctl.handle with
  | none => []
  | some i => i.insts.filter (fun n => n.kernel == g.kernel && n.slot == slot && n.core == g.core)

/-- The value of a counter (13 R366, Tables 4.9, 5.9, 13.8). -/
def State.counter (s : State) (g : Group) (n : Nat) : Nat :=
  let k := s.core g.core
  let total (f : Inst → Nat) (slot : Nat) : Nat := (s.instancesOf g slot).foldl (fun m i => m + f i) 0
  if n = 0x000 then s.pkg.frame
  else if n = 0x001 then
    s.cycles ((s.pkg.frame - (s.part ((s.inst? g.ctl.handle).map (fun i => i.part) |>.getD 0)).since) * 1000)
  else if n = 0x002 then s.cycles ((s.pkg.frame - (match s.launch? g.launch with | none => 0 | some l => l.frame)) * 1000)
  else if 0x100 ≤ n ∧ n ≤ 0x108 then s.charged (Sparse.get 0 g.counters.gstall (n - 0x100))
  else if 0x110 ≤ n ∧ n ≤ 0x118 then
    match g.seat with
    | none => 0
    | some seat => s.charged (Sparse.get 0 (s.rail g.core (railOfSeat seat)).rstall (n - 0x110))
  else if 0x120 ≤ n ∧ n ≤ 0x128 then
    if engineCause (n - 0x120) then s.charged (Sparse.get 0 k.mstall (n - 0x120)) else 0
  else if 0x130 ≤ n ∧ n ≤ 0x138 then
    if engineCause (n - 0x130) then s.charged (Sparse.get 0 k.cstall (n - 0x130)) else 0
  else if n = 0x140 then g.counters.issue
  else if n = 0x141 then g.counters.clauses
  else if n = 0x142 then g.counters.seatings
  else if n = 0x143 then g.counters.unseats
  else if n = 0x144 then (if g.gstate = .seated then g.lls else 0)
  else if n = 0x150 then k.mxtest
  else if n = 0x151 then k.mcorr
  else if n = 0x152 then (match s.inst? g.ctl.handle with | none => 0 | some i => i.impFail)
  else if n = 0x200 then g.counters.alwReq
  else if n = 0x201 then g.ctl.alc.toNat
  else if n = 0x202 then g.counters.alwTrap
  else if n = 0x203 then s.charged 0
  else if 0x300 ≤ n ∧ n < 0x400 then
    let slot := (n - 0x300) / 4
    match (n - 0x300) % 4 with
    | 0 => total (·.used) slot
    | 1 => total (·.donated) slot
    | 2 => total (·.late) slot
    | _ => s.charged (total (·.align) slot)
  else 0

/-- RDCNT (13 R366): the literal's upper bits are MBZ. -/
def execRdcnt (d a b : Byte) (s : State) : Host.Outcome State Fault Refusal :=
  issue { plainForm with
      d := .pair, dWrite := true, lits := 1
      late := fun ls =>
        let v := (ls.headD 0#32).toNat
        if v < 4096 then none else some (3, v / 4096 * 4096) } 0x0D#8 d a b
    (fun x s => .done (x.writeD s [(x.low, BitVec.ofNat 64 (s.counter x.g (wbits (x.lits.headD 0#32) 11 0)))])) s

end Sys2Proof.Machine
end

