-- ==== Sys2Proof/Machine/MemInstr.lean ====
section
/-!
DEFINITION. Loads, stores and the record instructions (15 R411 to R415): 0x80 to 0x8F. A load becomes an operation whose
lines are read by steps of their own (LOAD_DATA_RETURN); a plain store is complete when its entries are in the
pending-store buffer.
-/
namespace Sys2Proof.Machine

/-! ### Loads (15 R411, R412) -/

/-- The lanes of a load as its operation keeps them, with what their own pending entries give (08 R225). -/
def Ctx.loadLanes (x : Ctx) (space : Space) (ps : List Probe) : List LaneAccess :=
  x.L.map (fun t =>
    match ps.find? (fun p => p.lane == t) with
    | none => { lane := t, addr := 0, clamped := true }
    | some p => { lane := t, addr := p.addr, bitPos := p.bitPos
                  forward := forwardBits (psbStores x.g.ctl.psb) space t p.addr p.span })

/-- The lines of a load: a reserved line must leave for its slot and be served there (04 R113), any other is sent at once. -/
def State.loadLines (s : State) (r : BufRec) (slot : Nat) (space : Space) (ps : List Probe) : List LineAccess :=
  (distinct (ps.flatMap (fun p => p.lines))).map (fun n =>
    { addr := n, phys := s.physOf space .read n, slot := slot, left := !r.reserved, served := !r.reserved })

/-- Load (15 R411) of a form, with the scope an LDA32 acquires at (R412). -/
def Ctx.load (x : Ctx) (s : State) (form : LoadForm) (words : Nat) (acquires : Bool) : Act :=
  let image := Sparse.get 0#256 x.g.recs x.b
  let r := bufRec image
  match x.tests s r x.b form.bytes .read (form != .shape) with
  | .stop a => a
  | .go space ps =>
    let after := ps.flatMap (fun p => s.atomicsOver x.gid p.lane space p.addr (p.addr + p.span))
    if !after.isEmpty then .wait .barrier (.ops after)
    else
      let hint := if r.cpol = 0 then modeCpol x.mode else r.cpol
      .done (x.start (x.charge s r space ps) words (.load form space image hint (s.loadLines r x.b space ps)
        (x.loadLanes space ps) (if acquires && r.scope != 0 then some r.scope else none) x.uni))

/-- The page of a load whose destination is of a kind. -/
def loadForm (d : Kind) : Form := { d := d, a := .reg, b := .record, dWrite := true, long := true, mem := true }

/-- LD32. -/
def execLd32 (d a b : Byte) : State → Host.Outcome State Fault Refusal :=
  issue (loadForm .reg) 0x80 d a b (fun x s => x.load s (.reg 4 false 1) 1 false)

/-- LDA32: LD32 and then an acquire at the record's SCOPE. -/
def execLda32 (d a b : Byte) : State → Host.Outcome State Fault Refusal :=
  issue (loadForm .reg) 0x81 d a b (fun x s => x.load s (.reg 4 false 1) 1 true)

/-- LD8: the byte, zero-extended. -/
def execLd8 (d a b : Byte) : State → Host.Outcome State Fault Refusal :=
  issue (loadForm .reg) 0x82 d a b (fun x s => x.load s (.reg 1 false 1) 1 false)

/-- LD8S: the byte, sign-extended. -/
def execLd8s (d a b : Byte) : State → Host.Outcome State Fault Refusal :=
  issue (loadForm .reg) 0x83 d a b (fun x s => x.load s (.reg 1 true 1) 1 false)

/-- LD16: the half word, zero-extended. -/
def execLd16 (d a b : Byte) : State → Host.Outcome State Fault Refusal :=
  issue (loadForm .reg) 0x84 d a b (fun x s => x.load s (.reg 2 false 1) 1 false)

/-- LD16S: the half word, sign-extended. -/
def execLd16s (d a b : Byte) : State → Host.Outcome State Fault Refusal :=
  issue (loadForm .reg) 0x85 d a b (fun x s => x.load s (.reg 2 true 1) 1 false)

/-- LD64: a pair. -/
def execLd64 (d a b : Byte) : State → Host.Outcome State Fault Refusal :=
  issue (loadForm .pair) 0x86 d a b (fun x s => x.load s (.reg 8 false 2) 2 false)

/-- LD128: four registers. -/
def execLd128 (d a b : Byte) : State → Host.Outcome State Fault Refusal :=
  issue (loadForm .quad) 0x87 d a b (fun x s => x.load s (.reg 16 false 4) 4 false)

/-! ### Stores (15 R413, R414) -/

/-- A number from words, low word first. -/
def natOfWords (ws : List Word) : Nat := ws.foldr (fun w n => w.toNat + 2 ^ 32 * n) 0

/-- The data of a store in a lane: the register, pair or quad of d. -/
def Ctx.dataOf (x : Ctx) (s : State) (t : Nat) : Nat :=
  match x.kind .d with
  | .pair => (x.rdPair s .d t).toNat
  | .quad => natOfWords ((List.range 4).map (fun i => x.reg s (x.d + i) t))
  | _ => (x.rd s .d t).toNat

/-- The entries a store places, in ascending lane order (15 R413). -/
def Ctx.entries (x : Ctx) (s : State) (r : BufRec) (space : Space) (ps : List Probe) (size : Nat) (held : Option Nat) :
    List PsbEntry :=
  ps.flatMap (fun p => storeEntries r x.b space p size (x.dataOf s p.lane) held)

/-- Puts entries at the tail of a group's buffer. -/
def State.placeEntries (s : State) (gid : Nat) (es : List PsbEntry) : State :=
  s.onGroup gid (fun g => g.onCtl (fun c => { c with psb := c.psb ++ es }))

/-- The wait of a store for entries: the oldest entries overflow one by one (08 R233). -/
def Ctx.roomWait (x : Ctx) (n : Nat) : Act := .stall ⟨.queueFull, .psbRoom n⟩ (fun t => t.overflowOne x.gid)

/-- A plain store of a size (15 R413). -/
def Ctx.store (x : Ctx) (s : State) (size : Nat) : Act :=
  let r := bufRec (Sparse.get 0#256 x.g.recs x.b)
  match x.tests s r x.b size .write true with
  | .stop a => a
  | .go space ps =>
    let es := x.entries s r space ps size none
    if x.g.ctl.psbFree < es.length then x.roomWait es.length
    else .done ((x.charge s r space ps).placeEntries x.gid es)

/-- STL32 (15 R414): its own entry waits in the buffer until the rest of the release has completed; through a record of
SCOPE lane it is a plain store whose flag falls at once. -/
def Ctx.storeRelease (x : Ctx) (s : State) : Act :=
  let r := bufRec (Sparse.get 0#256 x.g.recs x.b)
  match x.tests s r x.b 4 .write true with
  | .stop a => a
  | .go space ps =>
    let held := if r.scope = 0 then none else some s.nextId
    let es := x.entries s r space ps 4 held
    if x.g.ctl.psbFree < es.length then x.roomWait es.length
    else if r.scope = 0 then .done ((x.charge s r space ps).placeEntries x.gid es)
    else
      let (id, s1) := s.fresh
      .done (((x.charge s1 r space ps).placeEntries x.gid es).startRelease (x.newOp id 0 .lease) r.scope none
        (.storeOwn es))

/-- The page of a plain store whose data is of a kind. -/
def storeForm (d : Kind) : Form := { d := d, a := .reg, b := .record, dRead := true, mem := true }

/-- ST32. -/
def execSt32 (d a b : Byte) : State → Host.Outcome State Fault Refusal :=
  issue (storeForm .reg) 0x88 d a b (fun x s => x.store s 4)

/-- STL32: ST32 and a release at the record's SCOPE. -/
def execStl32 (d a b : Byte) : State → Host.Outcome State Fault Refusal :=
  issue { storeForm .reg with long := true, sync := true } 0x89 d a b (fun x s => x.storeRelease s)

/-- ST8: d[7:0]. -/
def execSt8 (d a b : Byte) : State → Host.Outcome State Fault Refusal :=
  issue (storeForm .reg) 0x8A d a b (fun x s => x.store s 1)

/-- ST16: d[15:0]. -/
def execSt16 (d a b : Byte) : State → Host.Outcome State Fault Refusal :=
  issue (storeForm .reg) 0x8B d a b (fun x s => x.store s 2)

/-- ST64: a pair. -/
def execSt64 (d a b : Byte) : State → Host.Outcome State Fault Refusal :=
  issue (storeForm .pair) 0x8C d a b (fun x s => x.store s 8)

/-- ST128: four registers. -/
def execSt128 (d a b : Byte) : State → Host.Outcome State Fault Refusal :=
  issue (storeForm .quad) 0x8D d a b (fun x s => x.store s 16)

/-! ### Records (15 R415) -/

/-- RECWR: the image of eight registers of the lowest active lane becomes a record, unless the slot or the image is
reserved (ILLOP reason 8) or the image is invalid (MBZ, 07 R195). -/
def recWrite (x : Ctx) (s : State) : Act :=
  let image := imageOfWords ((List.range 8).map (fun j => x.reg s (x.a + j) x.low))
  if (bufRec (Sparse.get 0#256 x.g.recs x.b)).reserved || (bufRec image).reserved then x.badValue 1 8
  else if imageFaults image != 0 then x.badValue 3 (imageFaults image)
  else .done (s.onGroup x.gid (fun g => { g with recs := Sparse.set 0#256 g.recs x.b image }))

/-- RECWR. -/
def execRecwr (d a b : Byte) : State → Host.Outcome State Fault Refusal :=
  issue { d := .unused, a := .eight, b := .record, one := true } 0x8E d a b recWrite

/-- RECRD: word j of a record to register d + j of every lane of S. -/
def recRead (x : Ctx) (s : State) : Act :=
  let ws := imageWords (Sparse.get 0#256 x.g.recs x.b)
  .done (x.S.foldl (fun t lane => t.writeWords x.gid x.d lane ws) s)

/-- RECRD. -/
def execRecrd (d a b : Byte) : State → Host.Outcome State Fault Refusal :=
  issue { d := .eight, a := .unused, b := .record, dWrite := true, one := true } 0x8F d a b recRead

end Sys2Proof.Machine
end

