-- ==== Sys2Proof/Machine/Atomics.lean ====
section
/-!
DEFINITION. Atomics and reductions (15 R416, R417; 09 R253 to R255): 0x95, 0x96 and 0xA0 to 0xAE. An instruction aggregates its
lanes into one request for each address; each request performs at its home in a step of its own (ATOMIC_PERFORM).
-/
namespace Sys2Proof.Machine

/-! ### Combine and Apply (09 Table 9.4, R254) -/

/-- A float add: rounded in the group's RND, no flag, a NaN operand or result giving the default NaN (09 R254). -/
def atomFloatAdd (size rnd m x : Nat) : Nat :=
  let f := if size = 4 then f32 else f64
  if (f.decode m).isNan || (f.decode x).isNan then f.nan.getD 0
  else
    let o := f.add ⟨rnd, false, false⟩ false m x
    if (f.decode o.bits).isNan then f.nan.getD 0 else o.bits

/-- A number of a size read as signed. -/
def signedOf (size n : Nat) : Int := if 2 ^ (8 * size - 1) ≤ n then (n : Int) - 2 ^ (8 * size) else n

/-- Apply(m, x), which is also Combine(m, x) (09 Table 9.4); compare-and-swap has its own rule. -/
def applyAtomic (op : AtomOp) (size rnd m x : Nat) : Nat :=
  match op with
  | .add => (m + x) % 2 ^ (8 * size)
  | .fadd => atomFloatAdd size rnd m x
  | .minU => min m x
  | .maxU => max m x
  | .minS => if signedOf size m ≤ signedOf size x then m else x
  | .maxS => if signedOf size m ≤ signedOf size x then x else m
  | .and => m &&& x
  | .or => m ||| x
  | .xor => m ^^^ x
  | .xchg => x
  | .cas => x

/-- The pairs of a compare-and-swap, one lane after another: the memory after them, and each lane's old value (R253). -/
def casAll (m : Nat) : List LaneAccess → Nat × List (Nat × Nat)
  | [] => (m, [])
  | l :: ls =>
    let m' := if m = l.compare.toNat then l.operand.toNat else m
    let rest := casAll m' ls
    (rest.1, (l.lane, m) :: rest.2)

/-- The old values of the lanes after the first, from the fold of the lanes before (R253). -/
def oldsAfter (op : AtomOp) (size rnd v p : Nat) : List LaneAccess → List (Nat × Nat)
  | [] => []
  | l :: ls => (l.lane, applyAtomic op size rnd v p) :: oldsAfter op size rnd v (applyAtomic op size rnd p l.operand.toNat) ls

/-- What one request does to a value at its home: the value after it, and each lane's old value (R253). -/
def performAtomic (op : AtomOp) (size rnd v : Nat) (lanes : List LaneAccess) : Nat × List (Nat × Nat) :=
  match op with
  | .cas => casAll v lanes
  | _ =>
    match lanes with
    | [] => (v, [])
    | l :: ls =>
      let first := l.operand.toNat
      let fold := ls.foldl (fun f l => applyAtomic op size rnd f l.operand.toNat) first
      (applyAtomic op size rnd v fold, (l.lane, v) :: oldsAfter op size rnd v first ls)

/-! ### The instructions (15 R416) -/

/-- The kinds of operation of Table 15.3, before MODE.TYPE decides. -/
inductive AtomKind where
  | cas | xchg | add | min | max | and | or | xor
deriving DecidableEq, Repr

/-- The operation under MODE.TYPE: add is float under F32 for 4 bytes and F64 for 8; minimum and maximum follow
Signed(IT). -/
def AtomKind.op (k : AtomKind) (size ty : Nat) : AtomOp :=
  match k with
  | .cas => .cas
  | .xchg => .xchg
  | .add => if (size = 4 ∧ ty = 4) ∨ (size = 8 ∧ ty = 5) then .fadd else .add
  | .min => if (intType ty).signed then .minS else .minU
  | .max => if (intType ty).signed then .maxS else .maxU
  | .and => .and
  | .or => .or
  | .xor => .xor

/-- The operands of a lane: the data and, for compare-and-swap, what it compares with (Table 15.3). -/
def Ctx.atomOperands (x : Ctx) (s : State) (k : AtomKind) (size t : Nat) : Word64 × Word64 :=
  match k with
  | .cas =>
    if size = 4 then ((x.reg s (x.d + 1) t).setWidth 64, (x.reg s x.d t).setWidth 64)
    else (pair (x.reg s (x.d + 2) t) (x.reg s (x.d + 3) t), pair (x.reg s x.d t) (x.reg s (x.d + 1) t))
  | _ => (x.val s .d t, 0#64)

/-- The requests of an instruction, one for each distinct address (09 R253). -/
def Ctx.atomRequests (x : Ctx) (s : State) (k : AtomKind) (size : Nat) (space : Space) (ps : List Probe) :
    List AtomRequest :=
  (distinct (ps.map (fun p => p.addr))).map (fun a =>
    { addr := a
      phys := s.physOf space .atomic (a / 128 * 128) + a % 128
      lanes := (ps.filter (fun p => p.addr == a)).map (fun p =>
        let v := x.atomOperands s k size p.lane
        { lane := p.lane, addr := a, operand := v.1, compare := v.2 }) })

/-- Whether a lane's own stores hold its atomic back (15 R409): what it waits for, if so. -/
def Ctx.atomWait (x : Ctx) (s : State) (space : Space) (size : Nat) (ps : List Probe) : Option Act :=
  let es := x.g.ctl.psb
  let own := ps.flatMap (fun p => s.ownFirst es (cutOf es space p.lane p.addr (p.addr + size)) p.lane)
  if !own.isEmpty then some (.wait .barrier (.ops own))
  else
    let ids := (s.sendBefore x.gid space size ps).2
    if !ids.isEmpty then
      some (.stall ⟨.barrier, .commits ids⟩ (fun t => (t.sendBefore x.gid space size ps).1))
    else
      let fly := ps.flatMap (fun p => s.flying x.gid p.lane space p.addr (p.addr + size))
      if fly.isEmpty then none else some (.wait .barrier (.commits fly))

/-- An atomic or reduction (15 R416). -/
def Ctx.atomic (x : Ctx) (s : State) (k : AtomKind) (size : Nat) (returns : Bool) : Act :=
  let image := Sparse.get 0#256 x.g.recs x.b
  let r := bufRec image
  match x.tests s r x.b size .atomic false with
  | .stop a => a
  | .go space ps =>
    match x.atomWait s space size ps with
    | some a => a
    | none =>
      .done (x.start (x.charge s r space ps) (if returns then size / 4 else 0)
        (.atomic (k.op size x.ty) size space image (x.atomRequests s k size space ps) returns x.uni
          (floatEnv x.mode).rnd))

/-- The kind of d: an even register or a quad where operands of the size and kind need it (Table 15.3). -/
def AtomKind.field (k : AtomKind) (size : Nat) : Kind :=
  match k with
  | .cas => if size = 4 then .pair else .quad
  | _ => if size = 4 then .reg else .pair

/-- The MODE types an instruction refuses: F16 and BF16 for adds (15 R417), 12 to 15 where the type matters (12 R323). -/
def AtomKind.refuses (k : AtomKind) (ty : Nat) : Bool :=
  match k with
  | .add => ty == 6 || ty == 7 || decide (12 ≤ ty)
  | .min => decide (12 ≤ ty)
  | .max => decide (12 ≤ ty)
  | _ => false

/-- The page of an atomic or reduction. -/
def atomForm (k : AtomKind) (size : Nat) (returns : Bool) : Form :=
  { d := k.field size, a := .reg, b := .record, dRead := true, dWrite := returns, long := true, mem := true
    badType := k.refuses, words := some (if returns then size / 4 else 0) }

/-- CAS32: compare and swap, 4 bytes, returning the old value. -/
def execCas32 (d a b : Byte) : State → Host.Outcome State Fault Refusal :=
  issue (atomForm .cas 4 true) 0xA0 d a b (fun x s => x.atomic s .cas 4 true)

/-- CAS64: compare and swap, 8 bytes, returning the old value. -/
def execCas64 (d a b : Byte) : State → Host.Outcome State Fault Refusal :=
  issue (atomForm .cas 8 true) 0xA1 d a b (fun x s => x.atomic s .cas 8 true)

/-- XCHG32: exchange, 4 bytes, returning the old value. -/
def execXchg32 (d a b : Byte) : State → Host.Outcome State Fault Refusal :=
  issue (atomForm .xchg 4 true) 0xA2 d a b (fun x s => x.atomic s .xchg 4 true)

/-- AADD32: add, float under the float type of its size, 4 bytes, returning the old value. -/
def execAadd32 (d a b : Byte) : State → Host.Outcome State Fault Refusal :=
  issue (atomForm .add 4 true) 0xA3 d a b (fun x s => x.atomic s .add 4 true)

/-- AADD64: add, float under the float type of its size, 8 bytes, returning the old value. -/
def execAadd64 (d a b : Byte) : State → Host.Outcome State Fault Refusal :=
  issue (atomForm .add 8 true) 0xA4 d a b (fun x s => x.atomic s .add 8 true)

/-- AMIN32: minimum by Signed(IT), 4 bytes, returning the old value. -/
def execAmin32 (d a b : Byte) : State → Host.Outcome State Fault Refusal :=
  issue (atomForm .min 4 true) 0xA5 d a b (fun x s => x.atomic s .min 4 true)

/-- AMAX32: maximum by Signed(IT), 4 bytes, returning the old value. -/
def execAmax32 (d a b : Byte) : State → Host.Outcome State Fault Refusal :=
  issue (atomForm .max 4 true) 0xA6 d a b (fun x s => x.atomic s .max 4 true)

/-- AAND32: and, 4 bytes, returning the old value. -/
def execAand32 (d a b : Byte) : State → Host.Outcome State Fault Refusal :=
  issue (atomForm .and 4 true) 0xA7 d a b (fun x s => x.atomic s .and 4 true)

/-- AOR32: or, 4 bytes, returning the old value. -/
def execAor32 (d a b : Byte) : State → Host.Outcome State Fault Refusal :=
  issue (atomForm .or 4 true) 0x95 d a b (fun x s => x.atomic s .or 4 true)

/-- AXOR32: xor, 4 bytes, returning the old value. -/
def execAxor32 (d a b : Byte) : State → Host.Outcome State Fault Refusal :=
  issue (atomForm .xor 4 true) 0x96 d a b (fun x s => x.atomic s .xor 4 true)

/-- RADD32: add, float under the float type of its size, 4 bytes, returning nothing. -/
def execRadd32 (d a b : Byte) : State → Host.Outcome State Fault Refusal :=
  issue (atomForm .add 4 false) 0xA8 d a b (fun x s => x.atomic s .add 4 false)

/-- RADD64: add, float under the float type of its size, 8 bytes, returning nothing. -/
def execRadd64 (d a b : Byte) : State → Host.Outcome State Fault Refusal :=
  issue (atomForm .add 8 false) 0xA9 d a b (fun x s => x.atomic s .add 8 false)

/-- RMIN32: minimum by Signed(IT), 4 bytes, returning nothing. -/
def execRmin32 (d a b : Byte) : State → Host.Outcome State Fault Refusal :=
  issue (atomForm .min 4 false) 0xAA d a b (fun x s => x.atomic s .min 4 false)

/-- RMAX32: maximum by Signed(IT), 4 bytes, returning nothing. -/
def execRmax32 (d a b : Byte) : State → Host.Outcome State Fault Refusal :=
  issue (atomForm .max 4 false) 0xAB d a b (fun x s => x.atomic s .max 4 false)

/-- RAND32: and, 4 bytes, returning nothing. -/
def execRand32 (d a b : Byte) : State → Host.Outcome State Fault Refusal :=
  issue (atomForm .and 4 false) 0xAC d a b (fun x s => x.atomic s .and 4 false)

/-- ROR32: or, 4 bytes, returning nothing. -/
def execRor32 (d a b : Byte) : State → Host.Outcome State Fault Refusal :=
  issue (atomForm .or 4 false) 0xAD d a b (fun x s => x.atomic s .or 4 false)

/-- RXOR32: xor, 4 bytes, returning nothing. -/
def execRxor32 (d a b : Byte) : State → Host.Outcome State Fault Refusal :=
  issue (atomForm .xor 4 false) 0xAE d a b (fun x s => x.atomic s .xor 4 false)

end Sys2Proof.Machine
end

