-- ==== Sys2Proof/Machine/Shapes.lean ====
section
/-!
DEFINITION. Granted shapes (10 R262, R264, R285 to R293) and the shape instructions (15 R427): 0xB8 to 0xBC.
-/
namespace Sys2Proof.Machine

/-! ### Grant (10 R286) -/

/-- The better of a mode and the best one so far: the larger M × N, then the larger M (10 R286). -/
def betterMode (best : Option Nat) (k : Nat) : Option Nat :=
  match best with
  | none => some k
  | some b =>
    let x := modeSize k
    let y := modeSize b
    if y.1 * y.2 < x.1 * x.2 ∨ (x.1 * x.2 = y.1 * y.2 ∧ y.1 < x.1) then some k else some b

/-- The best mode of a floor within a request. -/
def bestMode (floor : BitVec 9) (rm rn : Nat) : Option Nat :=
  ((List.range 9).filter (fun k => floor.getLsbD k && decide ((modeSize k).1 ≤ rm) && decide ((modeSize k).2 ≤ rn))).foldl
    betterMode none

/-- Grant (10 R286). -/
def grantShape (sh : Word512) (floor : BitVec 9) : Word512 :=
  let s0 := shapeSets sh [(6, 0), (7, 0), (8, 0), (12, 0), (14, 0), (15, floor.toNat)]
  let done (s : Word512) : Word512 :=
    shapeSets s [(9, shapeGet s 6), (10, shapeGet s 7), (11, shapeGet s 8), (1, 1)]
  match shapeGet sh 0 with
  | 1 =>
    let u := unitLen (shapeGet sh 2)
    match bestMode floor (shapeGet sh 3) (shapeGet sh 4) with
    | none => shapeSet s0 1 2
    | some k =>
      if shapeGet sh 5 < u then shapeSet s0 1 2
      else done (shapeSets s0 [(6, (modeSize k).1), (7, (modeSize k).2), (12, k),
        (8, min (shapeGet sh 5 / u * u) 1024)])
  | 2 =>
    if 32 ≤ shapeGet sh 13 then done (shapeSet s0 14 32)
    else if 16 ≤ shapeGet sh 13 then done (shapeSet s0 14 16)
    else shapeSet s0 1 2
  | _ => shapeSet s0 1 0

/-- The capability floor of a group's installation (04 R110). -/
def State.floorOf (s : State) (g : Group) : BitVec 9 :=
  match s.inst? g.ctl.handle with
  | none => 0#9
  | some i => i.floor

/-- A shape register of a group. -/
def Group.shape (g : Group) (k : Nat) : Word512 := Sparse.get 0#512 g.shapes k

/-- Writes a shape register of a group. -/
def State.putShape (s : State) (gid k : Nat) (sh : Word512) : State :=
  s.onGroup gid (fun g => { g with shapes := Sparse.set 0#512 g.shapes k sh })

/-! ### SETSHAPE, SHFIELD, GETSHAPE (10 R288, R289) -/

/-- MBZ bits of a pair of register operands (12 R318). -/
def Ctx.pairMbz (x : Ctx) (lo hi maskLo maskHi : Word) : Option Act :=
  let l := lo &&& maskLo
  let h := hi &&& maskHi
  if l ||| h == 0#32 then none else some (x.badValue 3 (l.toNat + 2 ^ 32 * h.toNat))

/-- SETSHAPE (10 R288). -/
def setShape (x : Ctx) (s : State) : Act :=
  let lo := x.reg s x.a x.low
  let hi := x.reg s (x.a + 1) x.low
  let masks : Word × Word :=
    match x.b with
    | 1 => (0#32, 0xFFF00000#32)
    | 2 => (0xFFFF0000#32, 0xFFFFFFFF#32)
    | _ => (0#32, 0#32)
  match x.pairMbz lo hi masks.1 masks.2 with
  | some a => a
  | none =>
    let sh : Word512 :=
      match x.b with
      | 1 => shapeSets 0#512 [(0, 1), (3, wbits lo 15 0), (4, wbits lo 31 16), (5, wbits hi 15 0), (2, wbits hi 19 16)]
      | 2 => shapeSets 0#512 [(0, 2), (13, wbits lo 15 0)]
      | _ => 0#512
    .done (s.putShape x.gid x.d (if x.b = 0 then 0#512 else grantShape sh (s.floorOf x.g)))

/-- SETSHAPE. -/
def execSetshape (d a b : Byte) : State → Host.Outcome State Fault Refusal :=
  issue { d := .shape, a := .pair, b := .code [(0, 2)], one := true, cycles := .one } 0xB8 d a b setShape

/-- A SHAPE trap: the shape register and the reason (10 R293, Table 10.9). -/
def Ctx.shapeTrap (x : Ctx) (k reason : Nat) : Trap := ⟨0x0A, maskOf x.L, k, reason⟩

/-- A tail as SHFIELD writes it: the signed value clamped to 0 to 65,535 (10 R289). -/
def clampTail (w : Word) : Nat := if w.msb then 0 else min w.toNat 65535

/-- SHFIELD (10 R289). -/
def shapeField (x : Ctx) (s : State) : Act :=
  let w := x.rd s .a x.low
  let v := wbits w 15 0
  if 15 < x.b || shapeRO x.b || (x.b == 0 && decide (3 ≤ v)) || (x.b == 2 && decide (15 < v)) then
    .trap (x.shapeTrap x.d 8)
  else
    let sh := x.g.shape x.d
    if 9 ≤ x.b ∧ x.b ≤ 11 then .done (s.putShape x.gid x.d (shapeSet sh x.b (clampTail w)))
    else .done (s.putShape x.gid x.d
      (shapeSets (shapeSet sh x.b v) [(1, 0), (6, 0), (7, 0), (8, 0), (12, 0), (14, 0)]))

/-- SHFIELD. -/
def execShfield (d a b : Byte) : State → Host.Outcome State Fault Refusal :=
  issue { d := .shape, a := .reg, b := .any, one := true, cycles := .one } 0xBB d a b shapeField

/-- GETSHAPE (10 R289). -/
def getShape (x : Ctx) (s : State) : Act :=
  if 15 < x.b then .trap (x.shapeTrap x.a 8)
  else laneEffect (fun x _ _ => .plain (BitVec.ofNat 64 (shapeGet (x.g.shape x.a) x.b))) x s

/-- GETSHAPE. -/
def execGetshape (d a b : Byte) : State → Host.Outcome State Fault Refusal :=
  issue { d := .reg, a := .shape, b := .any, dWrite := true, one := true, cycles := .one } 0xBC d a b getShape

/-! ### LDSHAPE, STSHAPE (10 R290) -/

/-- The words of a loaded image that contain a fault: an MBZ bit, or a reserved CLASS (10 R290). -/
def shapeFaults (sh : Word512) : Nat :=
  let mbz : Nat := (2 ^ 512 - 2 ^ 256) + 0xFF * 2 ^ 184 + 0xFFFFF * 2 ^ 12
  let bad : Word512 := sh &&& BitVec.ofNat 512 mbz
  (List.range 16).foldl (fun n i =>
    if bad.extractLsb' (32 * i) 32 != 0#32 || (i == 0 && decide (3 ≤ shapeGet sh 0)) then n + 2 ^ i else n) 0

/-- The register that a loaded image makes (10 R290): its request, granted, with its own tails. -/
def shapeOfImage (sh : Word512) (floor : BitVec 9) : Word512 :=
  let request := shapeSets 0#512 ([0, 2, 3, 4, 5, 9, 10, 11, 13].map (fun c => (c, shapeGet sh c)))
  shapeSets (grantShape request floor) ([9, 10, 11].map (fun c => (c, shapeGet sh c)))

/-- The bytes of a load's lane, as its lines and its own entries give them, with whether a poisoned line gave one. -/
def laneBytes (lines : List LineAccess) (l : LaneAccess) (n : Nat) : List Byte × Bool :=
  let one (a : Nat) : Byte × Bool :=
    match lines.find? (fun k => k.addr == a / 128 * 128) with
    | none => (0#8, false)
    | some k =>
      let whole := l.forward.any (fun f => f.1 == a && f.2.1 == 0xFF#8)
      (l.own a ((k.bytes.getD []).getD (a % 128) 0#8), k.poison && !whole)
  let bs := (List.range n).map (fun i => one (l.addr + i))
  (bs.map (fun b => b.1), bs.any (fun b => b.2))

/-- What LDSHAPE does with its 64 bytes: MBZ, or the register is written; a poisoned line kills the lanes instead
(06 R186). -/
def Ctx.takeShape (x : Ctx) (s : State) (bytes : List Byte) (poison : Bool) (ps : List Probe) : Act :=
  let r := bufRec (Sparse.get 0#256 x.g.recs x.b)
  let sh : Word512 := BitVec.ofNat 512 (natOfBytes bytes)
  if poison then .done ((x.charge s r (s.spaceOf x.g r) ps).killLanes (x.S.map (fun t => (x.gid, t))))
  else if shapeFaults sh != 0 then x.badValue 3 (shapeFaults sh)
  else .done ((x.charge s r (s.spaceOf x.g r) ps).putShape x.gid x.d (shapeOfImage sh (s.floorOf x.g)))

/-- The words a leader's LDSHAPE read, as its shadow will take them (06 R191). -/
def Ctx.shapeLine (x : Ctx) (bytes : List Byte) : LvqLine :=
  ⟨x.g.ctl.pc.toNat, x.g.ctl.slot, x.d,
    (List.range 16).map (fun i => (0, i, BitVec.ofNat 32 (natOfBytes ((bytes.drop (4 * i)).take 4))))⟩

/-- Puts an LDSHAPE's data on its shadow's load-value queue. -/
def Ctx.leadShape (x : Ctx) (s : State) (bytes : List Byte) : State :=
  if x.g.ctl.leads then
    match s.partner x.g with
    | none => s
    | some h => s.putGroup { h with lvq := h.lvq ++ [x.shapeLine bytes] }
  else s

/-- LDSHAPE (10 R290, 15 R427): the clause stalls in place until the line has returned; a clamped access reads zeros. -/
def loadShape (x : Ctx) (s : State) : Act :=
  if x.g.ctl.shadow then x.takeShape s (x.popD.flatMap (fun w => bytesOfNat 4 w.toNat)) false []
  else
    match s.ops.find? (fun o => o.gid == x.gid && o.loadsShape) with
    | some o =>
      (match o.kind with
      | .load _ _ _ _ lines lanes _ _ =>
        if lines.any (fun l => l.bytes.isNone) then .wait .flagWait (.data o.id)
        else
          let r := bufRec (Sparse.get 0#256 x.g.recs x.b)
          let (bytes, poison) := match lanes with | [] => ([], false) | l :: _ => laneBytes lines l 64
          x.takeShape (x.leadShape (s.dropOp o.id) bytes) bytes poison (x.L.map (x.probe s r 64))
      | _ => .done s)
    | none =>
      let image := Sparse.get 0#256 x.g.recs x.b
      let r := bufRec image
      match x.tests s r x.b 64 .read false with
      | .stop a => a
      | .go space ps =>
        let after := ps.flatMap (fun p => s.atomicsOver x.gid p.lane space p.addr (p.addr + p.span))
        if !after.isEmpty then .wait .barrier (.ops after)
        else if ps.isEmpty then x.takeShape (x.leadShape s (List.replicate 64 0#8)) (List.replicate 64 0#8) false []
        else
          .stall ⟨.flagWait, .data s.nextId⟩ (fun t =>
            let (id, t') := t.fresh
            let hint := if r.cpol = 0 then modeCpol x.mode else r.cpol
            { t' with ops := t'.ops ++ [{ x.newOp id 0 (.load .shape space image hint (t.loadLines r x.b space ps)
              (x.loadLanes space ps) none true) with flag := 16 }] })

/-- LDSHAPE. -/
def execLdshape (d a b : Byte) : State → Host.Outcome State Fault Refusal :=
  issue { d := .shape, a := .reg, b := .record, long := true, one := true, cycles := .one, mem := true, own := true
          viaLvq := true } 0xB9 d a b loadShape

/-- STSHAPE: the 64 bytes of the register as four entries of the lowest active lane (10 R290). -/
def storeShape (x : Ctx) (s : State) : Act :=
  let r := bufRec (Sparse.get 0#256 x.g.recs x.b)
  match x.tests s r x.b 64 .write false with
  | .stop a => a
  | .go space ps =>
    let es := ps.flatMap (fun p => storeEntries r x.b space p 64 (x.g.shape x.d).toNat none)
    if x.g.ctl.psbFree < es.length then x.roomWait es.length
    else .done ((x.charge s r space ps).placeEntries x.gid es)

/-- STSHAPE. -/
def execStshape (d a b : Byte) : State → Host.Outcome State Fault Refusal :=
  issue { d := .shape, a := .reg, b := .record, one := true, cycles := .one, mem := true } 0xBA d a b storeShape

end Sys2Proof.Machine
end

