-- ==== Sys2Proof/Machine/Sync.lean ====
section
/-!
DEFINITION. Fences (15 R418, R419), barrier instructions (R420; 09 R245 to R248), tickets (R421; 09 R250 to R252) and queue
status (R422). Releases and acquires complete in steps of their own.
-/
namespace Sys2Proof.Machine

/-! ### Fences -/

/-- FENCE (15 R418): a release part, then an acquire part; an acquire alone completes in its cycle of issue. -/
def fence (x : Ctx) (s : State) : Act :=
  if x.d.testBit 1 then
    let (id, s1) := s.fresh
    .done (s1.startRelease (x.newOp id 0 .lease) x.a none (.fence (x.d.testBit 0)))
  else .done (s.acquireEffect x.g.core x.g.ctl.handle x.a)

/-- FENCE. -/
def execFence (d a b : Byte) : State → Host.Outcome State Fault Refusal :=
  issue { d := .code [(1, 3)], a := .code [(1, 5)], b := .unused, long := true, sync := d.toNat.testBit 1
          mem := d.toNat.testBit 1 } 0x70 d a b fence

/-- IFENCE (15 R419, 08 R238): a release at die scope of the whole group; no clause is fetched until it has completed. -/
def ifence (x : Ctx) (s : State) : Act :=
  let (id, s1) := s.fresh
  .done ((s1.startRelease { x.newOp id 0 .lease with lanes := 0xFFFFFFFF#32 } 3 none .ifence).onGroup x.gid
    (fun g => { g with fetchHold := true }))

/-- IFENCE. -/
def execIfence (d a b : Byte) : State → Host.Outcome State Fault Refusal :=
  issue { d := .unused, a := .unused, b := .unused, long := true, one := true, sync := true, mem := true } 0x71 d a b ifence

/-! ### Barriers (09 R245 to R248, 15 R420) -/

/-- BOUNDS of an index beyond the kernel's objects of a scope (09 R246). -/
def Ctx.testObject (x : Ctx) (s : State) : Option Trap :=
  if (s.recordOf x.g).bars.getD x.b 0 ≤ x.a then some ⟨6, maskOf x.L, 0x100 + x.b, x.a⟩ else none

/-- BOUNDS of a count beyond its field (09 R246). -/
def Ctx.testCount (x : Ctx) (n most : Nat) : Option Trap :=
  if most < n then some ⟨6, maskOf x.L, 0x100 + x.b, 0x80000000 + x.a⟩ else none

/-- SATX of an arrival (09 R247). -/
def Ctx.testSatx (x : Ctx) : Option Trap :=
  if modeSatTrap x.mode && x.g.ctl.satf then some ⟨9, x.sMask, x.b + 256 * x.a, 0⟩ else none

/-- The object a barrier instruction names. -/
def Ctx.object (x : Ctx) (s : State) : Nat := s.objectOf x.g x.b x.a

/-- ARRIVE and ARRIVEX (15 R420): the release tags its entries with the object; ALC is set to 0 (04 R115). -/
def Ctx.arrive (x : Ctx) (s : State) (requested : Nat) : Act :=
  match firstTrap [x.testObject s, x.testCount requested 0x7FFFFFFF, x.testSatx] with
  | some t => .trap t
  | none =>
    let key := x.object s
    let (id, s1) := s.fresh
    let s2 := s1.startRelease (x.newOp id 1 .lease) (x.b + 1) (some key) (.arrive key requested)
    .done (s2.onGroup x.gid (fun g => g.onCtl (fun c => { c with alc := 0#32 })))

/-- ARRIVE. -/
def execArrive (d a b : Byte) : State → Host.Outcome State Fault Refusal :=
  issue { d := .reg, a := .any, b := .scope, dWrite := true, long := true, one := true, sync := true, mem := true }
    0x90 d a b (fun x s => x.arrive s 0)

/-- ARRIVEX: the byte count of d is requested. -/
def execArrivex (d a b : Byte) : State → Host.Outcome State Fault Refusal :=
  issue { d := .reg, a := .any, b := .scope, dRead := true, dWrite := true, long := true, one := true, sync := true
          mem := true } 0x94 d a b (fun x s => x.arrive s (x.rd s .d x.low).toNat)

/-- WAITP: an acquire that waits for a phase (15 R420, 09 R243). -/
def waitPhase (x : Ctx) (s : State) : Act :=
  match x.testObject s with
  | some t => .trap t
  | none => .done (x.start s 0 (.acquire (x.b + 1) (.phase (x.object s) ((x.rd s .d x.low).toNat % 65536))))

/-- WAITP. -/
def execWaitp (d a b : Byte) : State → Host.Outcome State Fault Refusal :=
  issue { d := .reg, a := .any, b := .scope, dRead := true, long := true, one := true } 0x91 d a b waitPhase

/-- BARINIT: sets both expected counts (15 R420, 09 R244). -/
def barrierInit (x : Ctx) (s : State) : Act :=
  let arr := (x.reg s x.d x.low).toNat
  let bytes := (x.reg s (x.d + 1) x.low).toNat
  match firstTrap [x.testObject s, x.testCount arr 8388607, x.testCount bytes 0x7FFFFFFF] with
  | some t => .trap t
  | none => .done (x.start s 0 (.barinit (x.object s) arr bytes))

/-- BARINIT. -/
def execBarinit (d a b : Byte) : State → Host.Outcome State Fault Refusal :=
  issue { d := .pair, a := .any, b := .scope, dRead := true, long := true, one := true } 0x92 d a b barrierInit

/-- BARTEST: 1 and an acquire when the phase has completed, 0 otherwise (15 R420). -/
def barrierTest (x : Ctx) (s : State) : Act :=
  match x.testObject s with
  | some t => .trap t
  | none => .done (x.start s 1 (.bartest (x.b + 1) (x.object s) ((x.rd s .d x.low).toNat % 65536)))

/-- BARTEST. -/
def execBartest (d a b : Byte) : State → Host.Outcome State Fault Refusal :=
  issue { d := .reg, a := .any, b := .scope, dRead := true, dWrite := true, long := true, one := true }
    0x93 d a b barrierTest

/-! ### Tickets (09 R250 to R252, 15 R421) -/

/-- The dispenser a register of the lowest active lane names, on the group's die (09 R250). -/
def Ctx.dispenser (x : Ctx) (s : State) : Nat := (x.rd s .a x.low).toNat

/-- BOUNDS of a dispenser beyond the kernel's (09 R250). -/
def Ctx.testDispenser (x : Ctx) (s : State) : Option Trap :=
  if 32 * (s.recordOf x.g).bars.getD 2 0 ≤ x.dispenser s then some ⟨6, maskOf x.L, 0x105, x.dispenser s⟩ else none

/-- The number of a dispenser over the package: the die, the installation's first die object, and its own number. -/
def Ctx.ticketKey (x : Ctx) (s : State) : Nat :=
  let base := match s.inst? x.g.ctl.handle with | none => 0 | some i => i.dieBase
  dieOfCore x.g.core * 2 ^ 20 + 32 * base + x.dispenser s

/-- TKT (15 R421). -/
def ticketTake (x : Ctx) (s : State) : Act :=
  match x.testDispenser s with
  | some t => .trap t
  | none => .done (x.start s 1 (.tkt (x.ticketKey s) (!x.uni)))

/-- TKT. -/
def execTkt (d a b : Byte) : State → Host.Outcome State Fault Refusal :=
  issue { d := .reg, a := .reg, b := .unused, dWrite := true, long := true } 0x98 d a b ticketTake

/-- TWAIT: an acquire at die scope that waits for a ticket. -/
def ticketWait (x : Ctx) (s : State) : Act :=
  match x.testDispenser s with
  | some t => .trap t
  | none => .done (x.start s 0 (.acquire 3 (.ticket (x.ticketKey s) (x.rd s .d x.low))))

/-- TWAIT. -/
def execTwait (d a b : Byte) : State → Host.Outcome State Fault Refusal :=
  issue { d := .reg, a := .reg, b := .unused, dRead := true, long := true, one := true } 0x99 d a b ticketWait

/-- TSERVE: a release at die scope, and then the next ticket is served. -/
def ticketServe (x : Ctx) (s : State) : Act :=
  match x.testDispenser s with
  | some t => .trap t
  | none =>
    let (id, s1) := s.fresh
    .done (s1.startRelease (x.newOp id 0 .lease) 3 none (.serve (x.ticketKey s)))

/-- TSERVE. -/
def execTserve (d a b : Byte) : State → Host.Outcome State Fault Refusal :=
  issue { d := .unused, a := .reg, b := .unused, long := true, one := true, sync := true, mem := true } 0x9A d a b ticketServe

/-! ### Queue status (15 R422) -/

/-- The QSTAT word (15 Table 15.6). -/
def State.queueStatus (s : State) (g : Group) (q : Nat) : Word :=
  let count :=
    if q = 12 then g.ctl.laWords
    else if queueReads q then (g.queue q).length
    else s.queueRoom g q
  BitVec.ofNat 32 (queueDepth q * 65536 + count)

/-- QSTAT. -/
def execQstat (d a b : Byte) : State → Host.Outcome State Fault Refusal :=
  issue { d := .reg, a := .queue, b := .unused, dWrite := true, one := true } 0x9B d a b
    (laneEffect (fun x s _ => .plain ((s.queueStatus x.g x.a).setWidth 64)))

end Sys2Proof.Machine
end

