-- ==== Sys2Proof/Machine/Matrix.lean ====
section
/-!
DEFINITION. The matrix instructions (10 R265 to R277, R284, R293; 15 R423 to R426): 0xB0 to 0xB6. They check, claim and enter the
core's command stream; the engine's steps carry them out (MATRIX_COMMAND_START, MATRIX_COMMAND_END).
-/
namespace Sys2Proof.Machine

/-! ### The accumulator code and the checks (10 R265, R293, R274, R275) -/

/-- The tile of an accumulator code. -/
def Ctx.tile (x : Ctx) : Nat := x.d % 8
/-- The option bit: Z, or REL. -/
def Ctx.option (x : Ctx) : Bool := x.d.testBit 3
/-- The shape register of an accumulator code. -/
def Ctx.shapeNo (x : Ctx) : Nat := x.d / 16

/-- The shape checks (10 R293). -/
def Ctx.testShape (x : Ctx) (s : State) : Option Trap :=
  let sh := x.g.shape x.shapeNo
  let mode := shapeGet sh 12
  if shapeGet sh 0 != 1 || shapeGet sh 1 != 1 then some (x.shapeTrap x.shapeNo 1)
  else if decide (9 ≤ mode) || !(s.floorOf x.g).getLsbD mode || (modeSize mode) != (shapeGet sh 6, shapeGet sh 7) ||
      shapeGet sh 8 % unitLen (shapeGet sh 2) != 0 || decide (1024 < shapeGet sh 8) then
    some (x.shapeTrap x.shapeNo 2)
  else none

/-- The tiles a command claims or names: one, or the pair of a binary64 tile (10 R275). -/
def tilesOf (tile fmt : Nat) : List Nat := if wideTile fmt then [tile, tile + 1] else [tile]

/-- Who holds a tile: 0 for nobody, else the group's number plus one. -/
def Core.holder (k : Core) (t : Nat) : Nat := (Sparse.get (0, 0) k.tileOwner t).1

/-- The tile checks (10 R275): reasons 7 and 6. -/
def Ctx.testTile (x : Ctx) (s : State) (shape fmt : Nat) : Option Trap :=
  let k := s.core x.g.core
  let other (t : Nat) : Bool := k.holder t != 0 && k.holder t != x.gid + 1
  if wideTile fmt && x.tile % 2 == 1 then some (x.shapeTrap shape 7)
  else if other x.tile then some (x.shapeTrap shape 6)
  else if wideTile fmt && other (x.tile + 1) then some (x.shapeTrap shape 7)
  else none

/-- A command claims its tiles at issue; the number tells a claim from a release before it in the stream (10 R275). -/
def State.claimTiles (s : State) (g : Group) (tiles : List Nat) (number : Nat) : State :=
  s.onCore g.core (fun k => { k with
    tileOwner := tiles.foldl (fun m t => Sparse.set (0, 0) m t (g.gid + 1, number)) k.tileOwner })

/-- The reservation record a descriptor names, if the group holds it (10 R274). -/
def Core.obRec (k : Core) (gid n : Nat) : Option ObRec := k.obrecs.find? (fun o => o.number == n && o.owner == gid)

/-- Bytes a record must hold for an operand of G rows (10 R274). -/
def claimNeeds (sh : Word512) (o : ObRec) (rows : Nat) : Nat :=
  rows * ceilDiv (shapeGet sh 8) (unitLen (shapeGet sh 2)) * (unitBytes o.fmt + (if o.blk = 2 then 1 else 0))

/-- The record checks of MMA (10 R274): reasons 3, 4 and 5. -/
def Ctx.testRecords (x : Ctx) (s : State) (dA dB : Desc) : Option Trap :=
  let sh := x.g.shape x.shapeNo
  let k := s.core x.g.core
  match k.obRec x.gid dA.ob, k.obRec x.gid dB.ob with
  | some a, some b =>
    if a.fmt != b.fmt || a.fmt != shapeGet sh 2 then some (x.shapeTrap x.shapeNo 4)
    else if decide (64 * (a.len + 1) < claimNeeds sh a (shapeGet sh 6)) ||
        decide (64 * (b.len + 1) < claimNeeds sh b (shapeGet sh 7)) then some (x.shapeTrap x.shapeNo 5)
    else none
  | _, _ => some (x.shapeTrap x.shapeNo 3)

/-- MBZ bits of a descriptor (10 R269, R271): CORE too outside a quad-span workgroup, and every place field of a queue
operand. -/
def descMbz (quad : Bool) (v : Word64) : Nat :=
  let queue := wbit v 31
  let lo : Nat := 0x0FC00000 + (if quad && !queue then 0 else 0x00300000) + (if queue then 0x700FFFFF else 0)
  let hi : Nat := 0xF8 + (if queue then 0xFFFFFF00 else 0)
  (v &&& BitVec.ofNat 64 (lo + 2 ^ 32 * hi)).toNat

/-- BOUNDS of an operand's staged bytes (10 R272): the first row out of range. -/
def State.operandOut (s : State) (g : Group) (d : Desc) (o : ObRec) (rows : List Nat) (units : Nat) : Option Nat :=
  let limit := (s.recordOf g).spad * 65536
  if d.q then none
  else rows.find? (fun r => (List.range units).any (fun u => decide (limit < d.offset r u 0 + o.reach)))

/-! ### Entering the stream (10 R267, R268) -/

/-- The wait for an entry of q0 (10 R267). -/
def Ctx.streamFull (x : Ctx) (s : State) : Bool := decide (64 ≤ s.q0Used x.g)

/-- Enters a command: its core-scope release (10 R268) for MMA, ACCLD and ACCST, its operation, its place in the stream. -/
def Ctx.submit (x : Ctx) (s : State) (c : MatrixCommand) (releases : Bool) : State :=
  let (id, s1) := s.fresh
  let (rel, s2) := s1.fresh
  let s3 := if releases then
      s2.startRelease { x.newOp rel 0 .lease with flag := 16 } 1 none .matrix
    else s2
  let s4 : State := { s3 with ops := s3.ops ++ [x.newOp id 0 (.matrix c none)] }
  s4.onCore x.g.core (fun k =>
    { k with stream := k.stream ++ [{ number := id, gid := x.gid, op := id, command := c, release := rel }] })

/-- MMA (15 R423). -/
def matrixMultiply (x : Ctx) (s : State) : Act :=
  let vA := x.rdPair s .a x.low
  let vB := x.rdPair s .b x.low
  let quad := (s.recordOf x.g).span == 1
  let sh := x.g.shape x.shapeNo
  let dA := descOf vA
  let dB := descOf vB
  if descMbz quad vA != 0 then x.badValue 3 (descMbz quad vA)
  else if descMbz quad vB != 0 then x.badValue 3 (descMbz quad vB)
  else match firstTrap [x.testShape s, x.testRecords s dA dB, x.testTile s x.shapeNo (shapeGet sh 2)] with
  | some t => .trap t
  | none =>
    let k := s.core x.g.core
    let none_ : ObRec := ⟨0, 0, 0, 0, 0, 0, 0⟩
    let rA := (k.obRec x.gid dA.ob).getD none_
    let rB := (k.obRec x.gid dB.ob).getD none_
    match s.operandOut x.g dA rA (mmaRows x.g sh x.sMask) (stagedUnits sh),
        s.operandOut x.g dB rB (mmaCols sh) (stagedUnits sh) with
    | some r, _ => .trap ⟨6, maskOf x.L, 0x1000, r⟩
    | none, some r => .trap ⟨6, maskOf x.L, 0x1001, r⟩
    | none, none =>
      if x.streamFull s then .wait .queueFull (.queueRoom 0 1)
      else .done (x.submit (s.claimTiles x.g (tilesOf x.tile (shapeGet sh 2)) s.nextId)
        (.mma x.tile sh x.option vA vB rA rB x.sMask) true)

/-- The page of MMA, ACCLD, ACCST and ACCZ. -/
def matrixForm (a b : Kind) (mbz : Nat) (sync : Bool) : Form :=
  { d := .acc mbz, a := a, b := b, long := true, one := true, cycles := .one, sync := sync, mem := sync }

/-- MMA. -/
def execMma (d a b : Byte) : State → Host.Outcome State Fault Refusal :=
  issue (matrixForm .pair .pair 0 true) 0xB0 d a b matrixMultiply

/-! ### ACCLD and ACCST (10 R277, 15 R424) -/

/-- An element before its tests. -/
structure ElemProbe where
  lane  : Nat
  row   : Nat
  idx   : Nat
  raw   : Nat
  space : Space
  addr  : Nat
  ok    : Bool
deriving DecidableEq, Repr

/-- The elements an ACCLD or ACCST of this instruction moves. -/
def Ctx.elements (x : Ctx) (s : State) (r : BufRec) (sh : Word512) (origin stride : Nat) : List ElemProbe :=
  (movedElements x.g sh origin stride x.sMask).map (fun m =>
    let p := s.elementPlace x.g r (tileElem (shapeGet sh 2)) m.2.2
    ⟨rowLane x.g m.1, m.1, m.2.2, (r.addrOf m.2.2).1, p.1, p.2.1, p.2.2⟩)

/-- The lanes of some elements. -/
def lanesOfElems (es : List ElemProbe) : Word := maskOf (es.map (fun e => e.lane))

/-- The first element of the lowest lane. -/
def lowestElem (es : List ElemProbe) : Option ElemProbe :=
  es.foldl (fun best e => match best with | none => some e | some b => if e.lane < b.lane then some e else some b) none

/-- A trap of the lanes whose elements a test picks. -/
def elemTrap (cause : Nat) (es : List ElemProbe) (info0 info1 : ElemProbe → Nat) : Option Trap :=
  (lowestElem es).map (fun e => ⟨cause, lanesOfElems es, info0 e, info1 e⟩)

/-- The row-lines of some elements: one for each row and 128-byte line (10 R268, R280). -/
def rowLines (es : List ElemProbe) : Nat := ((es.map (fun e => (e.row, e.addr / 128))).eraseDups).length

/-- The tests of ACCLD and ACCST after the shape and tile checks (10 R277, R268). -/
def Ctx.testMoves (x : Ctx) (s : State) (r : BufRec) (size : Nat) (kind : AccessKind) (es : List ElemProbe) : Option Trap :=
  let inside := es.filter (fun e => e.ok)
  let space := s.spaceOf x.g r
  let badPage (e : ElemProbe) : Bool :=
    match space with
    | .virt h => (match s.translate h (e.addr / 128 * 128) kind with | .ok _ _ => false | _ => true)
    | _ => false
  let denied (e : ElemProbe) : Nat :=
    match space with
    | .virt h => (match s.translate h (e.addr / 128 * 128) kind with | .denied => 0x100 | _ => 0)
    | _ => 0
  firstTrap [
    x.testDirection s r x.b kind,
    if r.clamp then none else elemTrap 6 (es.filter (fun e => !e.ok)) (fun _ => x.b) (fun e => e.idx),
    if r.esize != (if size = 8 then 5 else 4) then some ⟨7, maskOf x.L, 2 ^ 63 + x.b, size⟩ else none,
    elemTrap 7 (inside.filter (fun e => e.raw % size != 0)) (fun e => e.raw) (fun _ => size),
    if !r.reserved && (s.recordOf x.g).engRate == 0 then some ⟨4, maskOf x.L, x.g.ctl.alc.toNat, rowLines inside⟩ else none,
    if r.reserved then none
      else elemTrap 5 (inside.filter badPage) (fun e => e.addr) (fun e => kind.info + denied e)]

/-- The region that some elements wait for (10 R277, 03 R76). -/
def State.soiledElem (s : State) (es : List ElemProbe) (kind : AccessKind) : Option Nat :=
  (es.find? (fun e => e.ok && s.soiled e.space (s.physOf e.space kind (e.addr / 128 * 128)))).map
    (fun e => regionOf (s.physOf e.space kind (e.addr / 128 * 128)))

/-- ACCLD and ACCST (15 R424). -/
def Ctx.moveTile (x : Ctx) (s : State) (store : Bool) : Act :=
  let image := Sparse.get 0#256 x.g.recs x.b
  let r := bufRec image
  let sh := x.g.shape x.shapeNo
  let fmt := shapeGet sh 2
  let v := x.rdPair s .a x.low
  let origin := wbits v 31 0
  let stride := wbits v 63 32
  let kind : AccessKind := if store then .write else .read
  match firstTrap [x.testLost s r x.b, x.testShape s, x.testTile s x.shapeNo fmt] with
  | some t => .trap t
  | none =>
    let es := x.elements s r sh origin stride
    match x.testMoves s r (tileElem fmt) kind es with
    | some t => .trap t
    | none =>
      match s.soiledElem es kind with
      | some n => .stall ⟨.translation, .region n⟩ (fun t => t.onMem (fun m => m.promote n))
      | none =>
        if x.streamFull s then .wait .queueFull (.queueRoom 0 1)
        else if store then .done (x.submit s (.store x.tile sh x.b image origin stride x.sMask x.option) true)
        else .done (x.submit (s.claimTiles x.g (tilesOf x.tile fmt) s.nextId)
          (.load x.tile sh x.b image origin stride x.sMask) true)

/-- ACCLD. -/
def execAccld (d a b : Byte) : State → Host.Outcome State Fault Refusal :=
  issue (matrixForm .pair .record 0 true) 0xB1 d a b (fun x s => x.moveTile s false)

/-- ACCST. -/
def execAccst (d a b : Byte) : State → Host.Outcome State Fault Refusal :=
  issue (matrixForm .pair .record 0 true) 0xB2 d a b (fun x s => x.moveTile s true)

/-- ACCZ: zeroes the rows of the lanes of S, or releases the tile (10 R277, 15 R424). -/
def zeroTile (x : Ctx) (s : State) : Act :=
  match x.testTile s 0 0 with
  | some t => .trap t
  | none =>
    if x.streamFull s then .wait .queueFull (.queueRoom 0 1)
    else
      let s1 := if x.option then s else s.claimTiles x.g [x.tile] s.nextId
      .done (x.submit s1 (.zero x.tile x.sMask x.option) false)

/-- ACCZ. -/
def execAccz (d a b : Byte) : State → Host.Outcome State Fault Refusal :=
  issue (matrixForm .unused .unused 0xF0 false) 0xB3 d a b zeroTile

/-! ### The operand buffer (10 R273, R274; 15 R425) -/

/-- The BLK codes a format accepts (10 Table 10.2). -/
def blkAccepted (fmt blk : Nat) : Bool :=
  if fmt ≤ 2 then blk == 1
  else if fmt ≤ 5 then blk == 2
  else if fmt ≤ 7 then blk == 0 || blk == 2
  else blk == 0

/-- What OBCLAIM answers and claims (10 R273). -/
def Core.claimBuffer (k : Core) (gid : Nat) (lo hi : Word) : Core × Word :=
  let len := wbits lo 27 16
  let base := wbits lo 11 0
  let fmt := wbits hi 31 28
  let blk := wbits hi 27 26
  let clash := k.obrecs.any (fun o => decide (o.base ≤ base + len) && decide (base ≤ o.base + o.len))
  match (List.range 8).find? (fun n => !(k.obrecs.any (fun o => o.number == n))) with
  | none => (k, 0xFFFFFFFF#32)
  | some n =>
    if 4095 < base + len || clash then (k, 0xFFFFFFFF#32)
    else if !blkAccepted fmt blk then (k, 0xFFFFFFFE#32)
    else ({ k with obrecs := k.obrecs ++ [⟨n, base, len, fmt, blk, wbits hi 25 16, gid⟩] }, BitVec.ofNat 32 n)

/-- OBCLAIM (15 R425); a shadow takes its leader's answer. -/
def claimOperand (x : Ctx) (s : State) : Act :=
  let lo := x.reg s x.a x.low
  let hi := x.reg s (x.a + 1) x.low
  match x.pairMbz lo hi 0xF000F000#32 0x0000FFFF#32 with
  | some a => a
  | none =>
    if x.g.ctl.shadow then .done (x.writeD s [(x.low, (x.popD.getD 0 0#32).setWidth 64)])
    else
      let c := (s.core x.g.core).claimBuffer x.gid lo hi
      let s1 := x.writeD (s.putCore x.g.core c.1) [(x.low, c.2.setWidth 64)]
      if x.g.ctl.leads then
        match s1.partner x.g with
        | none => .done s1
        | some h => .done (s1.putGroup { h with
            lvq := h.lvq ++ [⟨x.g.ctl.pc.toNat, x.g.ctl.slot, x.d, [(0, 0, c.2)]⟩] })
      else .done s1

/-- OBCLAIM. -/
def execObclaim (d a b : Byte) : State → Host.Outcome State Fault Refusal :=
  issue { d := .reg, a := .pair, b := .unused, dWrite := true, one := true, cycles := .one, viaLvq := true }
    0xB4 d a b claimOperand

/-- OBREL: frees a record of the group once no command names it; any other number does nothing (10 R274). -/
def releaseOperand (x : Ctx) (s : State) : Act :=
  let n := (x.rd s .a x.low).toNat
  match (s.core x.g.core).obRec x.gid n with
  | none => .done s
  | some o => .done (x.start s 0 (.obrel o.number))

/-- OBREL. -/
def execObrel (d a b : Byte) : State → Host.Outcome State Fault Refusal :=
  issue { d := .unused, a := .reg, b := .unused, long := true, one := true, cycles := .one } 0xB5 d a b releaseOperand

/-! ### PERTURB (10 R284, 15 R426) -/

/-- PERTURB. -/
def perturb (x : Ctx) (s : State) : Act :=
  let lo := x.reg s x.a x.low
  match x.pairMbz lo 0#32 0xFFFFC0C0#32 0#32 with
  | some a => a
  | none => .done (s.onCore x.g.core (fun k => { k with
      perturb := some ⟨x.tile, wbits lo 5 0, wbits lo 13 8, x.reg s (x.a + 1) x.low, x.g.ctl.handle⟩ }))

/-- PERTURB. -/
def execPerturb (d a b : Byte) : State → Host.Outcome State Fault Refusal :=
  issue { d := .acc 0xF8, a := .pair, b := .unused, priv := true, one := true, cycles := .one } 0xB6 d a b perturb

end Sys2Proof.Machine
end

