-- ==== Sys2Proof/Machine/Commit.lean ====
section
/-!
DEFINITION. Stores reach their homes and what waits for them (08 R226 to R233, 09 R241 to R252): STORE_COMMIT, RELEASE_COMPLETE,
ACQUIRE_COMPLETE, BARRIER_COUNT, BARRIER_PHASE_ADVANCE, BARRIER_WAKE and TSERVE_BROADCAST.
-/
namespace Sys2Proof.Machine

/-! ### STORE_COMMIT (08 R227, R230 to R232; 15 R413) -/

/-- The home of a store, as the core's memory unit tells homes apart: a slice, a core's SRAM, or the fabric. -/
def Commit.home (c : Commit) : Nat :=
  match c.space with
  | .virt _ => sliceOf c.phys
  | .sram => 1024 + coreOfSram c.block
  | .fabric _ _ => 2048

/-- The address of a store that tells its home. -/
def Commit.atHome (c : Commit) : Nat :=
  match c.space with
  | .virt _ => c.phys
  | _ => c.block

/-- Whether an earlier accepted store of the core to the same home still has to commit (08 R227). -/
def State.behind (s : State) (c : Commit) : Bool :=
  (s.commits.takeWhile (fun d => d.id != c.id)).any (fun d =>
    d.core == c.core && d.accepted && d.quantum.isNone && d.home == c.home)

/-- The core's memory unit accepts a store: it takes its place behind those accepted before it (08 R227). -/
def State.acceptCommit (s : State) (c : Commit) : State :=
  { s with commits := s.commits.filter (fun d => d.id != c.id) ++ [{ c with accepted := true }] }

/-- Takes stores out of flight: their homes have acknowledged them. -/
def State.dropCommits (s : State) (ids : List Nat) : State :=
  { s with commits := s.commits.filter (fun c => !ids.contains c.id) }

/-- The line of a window entry, or of a store, at its home. -/
def windowLine (space : Space) (block phys : Nat) : Nat :=
  match space with
  | .virt _ => phys / 128
  | _ => block / 128

/-- Whether a home has room for a window line (08 R231): 512 lines in a slice, 64 in a core's memory unit. -/
def State.windowRoom (s : State) (c : Commit) : Bool :=
  let there := s.mem.windows.filter (fun w =>
    match w.space, c.space with
    | .virt _, .virt _ => sliceOf w.phys == sliceOf c.phys
    | .sram, .sram => coreOfSram w.block == coreOfSram c.block
    | _, _ => false)
  let lines := distinct (there.map (fun w => windowLine w.space w.block w.phys))
  match c.space with
  | .virt _ => lines.contains (windowLine c.space c.block c.phys) || decide (lines.length < 512)
  | .sram => lines.contains (windowLine c.space c.block c.phys) || decide (lines.length < 64)
  | .fabric _ _ => true

/-- The stores that are written as one unit with a store: those of the same ACCST line of a lane (10 R277), else itself. -/
def State.commitUnit (s : State) (c : Commit) : List Commit :=
  match s.op? c.op with
  | some o =>
    (match o.kind with
    | .matrix _ _ => s.commits.filter (fun d =>
        d.op == c.op && d.lane == c.lane && d.space == c.space && d.block / 128 == c.block / 128)
    | _ => [c])
  | none => [c]

/-- The bits and data of a unit of stores over its 128-byte line. -/
def unitBits (us : List Commit) : Nat × Nat :=
  us.foldl (fun (m : Nat × Nat) c =>
    (m.1 ||| c.bits.toNat * 256 ^ (c.block % 128), m.2 ||| (c.bits &&& c.data).toNat * 256 ^ (c.block % 128))) (0, 0)

/-- Writes a unit of stores at its home and into the core's copy of the line (07 R206, R209); answers the lanes whose store
met a poisoned line (03 R80). -/
def State.writeUnit (s : State) (c : Commit) (us : List Commit) : State × List (Nat × Nat) :=
  match c.space with
  | .fabric h k => (us.foldl (fun t u => t.storeFar h k u.block u.bits u.data) s, [])
  | .sram =>
    let m := unitBits us
    ((s.writeHome .sram (c.block / 128 * 128) 128 m.1 m.2).1, [])
  | .virt h =>
    let m := unitBits us
    let w := s.writeHome c.space (c.phys / 128 * 128) 128 m.1 m.2
    if w.2 then (us.foldl (fun t u => t.onCore c.core (fun k => k.updateL1 h u.block u.bits u.data)) w.1, [])
    else (w.1, [(c.gid, c.lane)])

/-- An accepted store reaches its home: it commits, or its home holds it in a window for its quantum (08 R230). -/
def State.reachHome (s : State) (c : Commit) : State :=
  match c.quantum with
  | some q =>
    if s.windowRoom c then
      (s.dropCommits [c.id]).onMem (fun m => { m with windows := m.windows ++
        [⟨q.1, c.op, none, q.2, c.order, c.gid, c.lane, c.core, c.space, c.block, c.phys, c.bits, c.data⟩] })
    else s
  | none =>
    if s.behind c then s
    else
      let us := s.commitUnit c
      let w := (s.dropCommits (us.map (fun u => u.id))).writeUnit c us
      w.1.killLanes w.2

/-- STORE_COMMIT of the store with a number. -/
def State.storeCommit (s : State) (id : Nat) : State :=
  match s.commits.find? (fun c => c.id == id) with
  | none => s
  | some c =>
    if !c.accepted then
      if s.blocked c.gid c.lane c.order c.space c.block c.bits then s else s.acceptCommit c
    else if !c.served || s.lostFlit c.id c.block || !s.passes c.core c.space (c.atHome) then s
    else s.reachHome c

/-- STORE_COMMIT. -/
def execStoreCommit (s : State) : Host.Outcome State Fault Refusal := .next (s.tick.storeCommit s.turn.x)

/-! ### RELEASE_COMPLETE (08 R226; 15 R414, R418, R419; 09 R251) -/

/-- Whether an MMA has staged its scratchpad operands, and so has performed as a load (10 R268). -/
def State.staged (s : State) (gid op : Nat) (dA dB : Word64) : Bool :=
  ((descOf dA).q && (descOf dB).q) || s.groups.any (fun g => g.gid == gid &&
    (s.core g.core).stream.any (fun e => e.op == op && e.started))

/-- Whether an earlier operation still holds a release of a scope (08 R226 conditions 1 and 2). An ACCST's lines count as
sent by the lane's next release (10 R268): at core scope until the memory unit has accepted them. -/
def State.stillBefore (s : State) (scope id : Nat) : Bool :=
  match s.op? id with
  | none => false
  | some o =>
    match o.kind with
    | .matrix (.mma _ _ _ dA dB _ _ _) _ => !s.staged o.gid o.id dA dB
    | .matrix (.store ..) (some lines) => decide (2 ≤ scope) || !(s.notAccepted lines).isEmpty
    | .matrix (.zero ..) _ => false
    | .load _ _ _ _ lines _ _ _ => lines.any (fun l => l.bytes.isNone)
    | .atomic _ _ _ _ reqs _ _ _ => reqs.any (fun r => !r.done)
    | _ => true

/-- Whether a store a release sent still holds it (08 R226 condition 3): at core scope until it is accepted. -/
def State.stillSent (s : State) (scope : Nat) (id : Nat) : Bool :=
  s.commits.any (fun c => c.id == id && (decide (2 ≤ scope) || !c.accepted || c.quantum.isSome))

/-- Whether dirty far lines of an installation, or the flits that carry them, are still on their way (07 R209). -/
def State.farPending (s : State) (handle : Word) : Bool :=
  s.fab.far.any (fun l => l.handle == handle && l.dirty != 0#128) ||
    s.fab.waiting.any (fun w => w.1 == handle && w.2.2.kind == .store) ||
    s.fab.sent.any (fun t => t.1 == handle && t.2.2.kind == .store)

/-- The conditions of a release (08 R226). -/
def State.releaseReady (s : State) (handle : Word) (scope : Nat) (before entries : List Nat) : Bool :=
  !before.any (s.stillBefore scope) && !entries.any (s.stillSent scope) && (decide (scope < 5) || !s.farPending handle)

/-- Sends the entry an STL32 kept back, once the rest of its release has completed (15 R414). -/
def State.sendOwn (s : State) (o : OutOp) (g : Group) (scope : Nat) : State :=
  let own (e : PsbEntry) : Bool := e.held == some o.id
  let r := s.sendStores g o.id (fun _ => none) (psbStores (g.ctl.psb.filter own))
  let t := r.1.onGroup o.gid (fun g => g.onCtl (fun c => c.takeOut own))
  t.putOp { o with kind := .release scope [] (if scope ≤ 1 then t.notAccepted r.2 else r.2) (.storeOwn []) }

/-- Whether a copy engine command or transfer of a group is still to end (08 R238). -/
def State.transfersOf (s : State) (g : Group) : Bool :=
  !(g.queue 4).isEmpty || s.transfers.any (fun t => t.gid == g.gid)

/-- TSERVE reaches its dispenser (09 R251). -/
def State.serve (s : State) (dispenser : Nat) : State :=
  { s with tickets := Sparse.alter {} s.tickets dispenser (fun d => { d with serving := d.serving + 1 }) }

/-- What follows a release that has completed (08 Table 8.2). -/
def State.afterRelease (s : State) (o : OutOp) (g : Group) (scope : Nat) (next : ReleaseThen) : State :=
  match next with
  | .storeOwn [] => s.endOp o []
  | .storeOwn _ => s.sendOwn o g scope
  | .fence acquire => (if acquire then s.acquireEffect g.core g.ctl.handle scope else s).endOp o []
  | .arrive _ _ => s
  | .serve d => (s.serve d).endOp o []
  | .push _ _ => s.dropOp o.id
  | .launch _ => s.dropOp o.id
  | .exit => s.dropOp o.id
  | .matrix => s.dropOp o.id
  | .ifence =>
    if s.transfersOf g then s
    else ((s.onCore g.core (fun k => { k with icache := [] })).onGroup g.gid (fun g => { g with fetchHold := false })).endOp o []

/-- RELEASE_COMPLETE of an operation; at pod scope the far lines are written back first (07 R209). -/
def State.releaseComplete (s : State) (id : Nat) : State :=
  match s.op? id with
  | none => s
  | some o =>
    match o.kind, s.group? o.gid with
    | .release scope before entries next, some g =>
      let t := if 5 ≤ scope then s.flushFar g.ctl.handle else s
      if t.releaseReady g.ctl.handle scope before entries then t.afterRelease o g scope next else t
    | _, _ => s

/-- RELEASE_COMPLETE. -/
def execReleaseComplete (s : State) : Host.Outcome State Fault Refusal := .next (s.tick.releaseComplete s.turn.x)

/-! ### ACQUIRE_COMPLETE, BARRIER_WAKE, TSERVE_BROADCAST (08 R228; 09 R243, R252) -/

/-- Whether what an acquire waits for has come (09 R243, R251). -/
def State.waitOver (s : State) : AcquireWait → Bool
  | .phase o p => (s.bar o).completed p
  | .ticket d t => decide (((Sparse.get {} s.tickets d).serving - t).toNat < 2 ^ 31)

/-- An acquire completes: what its scope invalidates goes, the group no longer sleeps on it, and its flag falls (08 R228). -/
def State.completeAcquire (s : State) (o : OutOp) (g : Group) (scope : Nat) : State :=
  ((s.acquireEffect g.core g.ctl.handle scope).onGroup g.gid (fun g =>
    if g.gstate = .seated ∧ g.wait = .barrier then { g with wait := .none, waitCycles := 0 } else g)).endOp o []

/-- ACQUIRE_COMPLETE of an operation. -/
def State.acquireComplete (s : State) (id : Nat) : State :=
  match s.op? id with
  | none => s
  | some o =>
    match o.kind, s.group? o.gid with
    | .acquire scope wait, some g => if s.waitOver wait then s.completeAcquire o g scope else s
    | _, _ => s

/-- ACQUIRE_COMPLETE. -/
def execAcquireComplete (s : State) : Host.Outcome State Fault Refusal := .next (s.tick.acquireComplete s.turn.x)

/-- The operations of a group that wait for phases, or for tickets. -/
def State.waitsOf (s : State) (gid : Nat) (p : AcquireWait → Bool) : List Nat :=
  (s.ops.filter (fun o => o.gid == gid && (match o.kind with | .acquire _ w => p w | _ => false))).map (fun o => o.id)

/-- BARRIER_WAKE: the waiters of a group on phases that have completed wake (09 R243). -/
def execBarrierWake (s : State) : Host.Outcome State Fault Refusal :=
  .next ((s.waitsOf s.turn.x (fun w => match w with | .phase _ _ => true | _ => false)).foldl State.acquireComplete s.tick)

/-- TSERVE_BROADCAST: the groups of a core that sleep on a dispenser and now pass wake (09 R252). -/
def execTserveBroadcast (s : State) : Host.Outcome State Fault Refusal :=
  let gids := (s.groups.filter (fun g => g.core == s.turn.x)).map (fun g => g.gid)
  .next ((gids.flatMap (fun gid => s.waitsOf gid (fun w => match w with | .ticket d _ => d == s.turn.y | _ => false))).foldl
    State.acquireComplete s.tick)

/-! ### BARRIER_COUNT, BARRIER_PHASE_ADVANCE (09 R241, R242, R244; 08 R230; 02 R40) -/

/-- Whether an earlier barrier operation of the same group on the same object is outstanding (09 R244). -/
def State.objectBusy (s : State) (gid id key : Nat) : Bool :=
  s.ops.any (fun o => o.gid == gid && decide (o.id < id) &&
    (match o.kind with
    | .release _ _ _ (.arrive k _) => k == key
    | .barinit k _ _ => k == key
    | .bartest _ k _ => k == key
    | _ => false))

/-- Counts the arrival of an ARRIVE whose entries every home holds: its windows join the phase counted, the phase is
written to d, and its flag falls (15 R420). -/
def State.countArrive (s : State) (o : OutOp) (g : Group) (key requested : Nat) : State :=
  let phase := (s.bar key).counting
  let s1 := s.onMem (fun m => { m with windows := m.windows.map (fun w => if w.op == o.id then { w with phase := some phase } else w) })
  let c := s1.countArrival key g o.lanes requested
  (c.1.endOp o ((laneList o.lanes).map (fun t => (o.dest, t, BitVec.ofNat 32 c.2.2)))).killLanes c.2.1

/-- BARRIER_COUNT of an arrival. -/
def State.arrivalCount (s : State) (id : Nat) : State :=
  match s.op? id with
  | none => s
  | some o =>
    match o.kind, s.group? o.gid with
    | .release scope before entries (.arrive key requested), some g =>
      let t := if 5 ≤ scope then s.flushFar g.ctl.handle else s
      if t.releaseReady g.ctl.handle scope before entries && !t.objectBusy g.gid o.id key &&
          (t.bar key).room (laneList ((t.bar key).arrivalLanes g o.lanes)).length 0 requested then
        t.countArrive o g key requested
      else t
    | _, _ => s

/-- BARRIER_COUNT of landed bytes (02 R40, 07 R219). -/
def State.landedCount (s : State) (number : Nat) : State :=
  match s.landed.find? (fun l => l.number == number) with
  | none => s
  | some l =>
    if (s.bar l.object).room 0 l.bytes 0 then
      let c := ({ s with landed := s.landed.filter (fun k => k.number != number) }).countBar l.object 0 l.bytes 0
      c.1.killLanes c.2
    else s

/-- BARRIER_COUNT. -/
def execBarrierCount (source : CountSource) (s : State) : Host.Outcome State Fault Refusal :=
  match source with
  | .arrival op => .next (s.tick.arrivalCount op)
  | .landed n => .next (s.tick.landedCount n)
  | .peer unit index arrivals =>
    let key := barKey 4 unit index
    if (s.bar key).room arrivals 0 0 then
      let c := s.tick.countBar key arrivals 0 0
      .next (c.1.killLanes c.2)
    else .next s.tick

/-- BARRIER_PHASE_ADVANCE of an object (09 R241): every home has acknowledged the quantum, a pod object's far lines
included; the next phase starts with the killed groups' lanes (R249). -/
def State.phaseAdvance (s : State) (key : Nat) : State :=
  if !(s.bar key).cmt then s
  else if barScope key = 4 ∧ s.installs.any (fun i => s.farPending i.handle) then
    s.installs.foldl (fun t i => t.flushFar i.handle) s
  else
    let c := (s.onBar key (fun b => { b with phase := b.phase + 1, cmt := false })).startPhase key
    c.1.killLanes c.2

/-- BARRIER_PHASE_ADVANCE. -/
def execBarrierPhaseAdvance (s : State) : Host.Outcome State Fault Refusal :=
  .next (s.tick.phaseAdvance (barKey s.turn.x s.turn.y s.turn.z))

end Sys2Proof.Machine
end

