-- ==== Sys2Proof/Machine/Pool.lean ====
section
/-!
DEFINITION. A function's device-local pool (03 R89, R91; 07 R212): its free pages, taking and returning memory, and the
page tables that change with it (04 R105, R119; 13 R373 to R376).
-/
namespace Sys2Proof.Machine

/-- The device-memory page indices that an aperture covers (03 R89). -/
def Fn.aperture (f : Fn) (i page : Nat) : Bool :=
  let off := wbits (Sparse.get 0#64 f.apOff i) 63 16
  let len := (Sparse.get 0#32 f.apLen i).toNat
  decide (off ≤ page) && decide (page < off + len)

/-- The free 64 KiB pages of a function's pool, by physical page number: listed, not taken, in no aperture (03 R91). -/
def Fn.freePages (f : Fn) : List Nat :=
  ((f.pool.zipIdx).flatMap (fun (rk : Nat × Nat) =>
    (List.range 32).filterMap (fun i =>
      if f.poolUsed.contains (32 * rk.1 + i) || (List.range 4).any (fun a => f.aperture a (32 * rk.2 + i)) then none
      else some (32 * rk.1 + i))))

/-- The regions of a pool all of whose pages are free. -/
def Fn.freeRegions (f : Fn) : List Nat :=
  let free := f.freePages
  f.pool.filter (fun r => (pagesOfRegion r).all free.contains)

/-- Takes pages out of a pool. -/
def State.takePages (s : State) (fn : Nat) (pages : List Nat) : State :=
  s.onFn fn (fun f => { f with poolUsed := pages.foldl (fun l p => insertSorted p l) f.poolUsed })

/-- Returns pages to the pool they came from, marked unscrubbed (13 R375, 03 R75). -/
def State.returnPages (s : State) (fn : Nat) (pages : List Nat) : State :=
  (s.onFn fn (fun f => { f with poolUsed := f.poolUsed.filter (fun p => !pages.contains p) })).onMem (fun m =>
    pages.foldl (fun m p => m.soil [p] (p / 32)) m)

/-- One of a list of free units; which one is a free value (log 15). -/
def State.pick (s : State) (free : List Nat) : Option Nat :=
  if free.isEmpty then none else some (free.getD (Config.poolPick s.freeCtr % free.length) 0)

/-- A page of an address space that overlaps a range. -/
def Installation.covers (i : Installation) (va size : Nat) : Bool :=
  i.pages.any (fun p => overlaps p.va (p.va + p.size) va (va + size))

/-- Puts a page into the table, by rising virtual address. -/
def insertPage (p : Page) : List Page → List Page
  | [] => [p]
  | q :: qs => if p.va < q.va then p :: q :: qs else q :: insertPage p qs

/-- The pages of physical memory behind a mapping. -/
def PageTarget.pages (t : PageTarget) (size : Nat) : List Nat :=
  match t with
  | .plain a => (List.range (size / Config.pageBytes)).map (fun i => a / Config.pageBytes + i)
  | .stripe _ lists => lists.flatMap (fun l => l.map (· / Config.pageBytes))

/-- Adds a mapping of fresh memory of the pool to an address space; `none` when the pool is empty. -/
def State.mapFresh (s : State) (i : Installation) (va : Nat) (big : Bool) (w x uc pin : Bool) : Option State :=
  let f := s.fn i.fn
  match s.pick (if big then f.freeRegions else f.freePages) with
  | none => none
  | some n =>
    let pages := if big then pagesOfRegion n else [n]
    let page : Page := {
      va := va, size := if big then Config.regionBytes else Config.pageBytes
      target := .plain (if big then n * Config.regionBytes else n * Config.pageBytes)
      r := true, w := w, x := x, uc := uc, pin := pin, shr := false, pooled := true }
    some ((s.tick.takePages i.fn pages).onInst i.handle (fun i => { i with pages := insertPage page i.pages }))

/-- The bytes a page status is returned for: 64 KiB, 2 MiB, 1 GiB, 32 GiB (13 Table 13.11). -/
def pageSize (code : Nat) : Nat :=
  match code with
  | 0 => 2 ^ 16
  | 1 => 2 ^ 21
  | 2 => 2 ^ 30
  | _ => 2 ^ 35

/-- PGMAP (13 R374): the status, and the state with the page mapped. -/
def State.pageMap (s : State) (handle : Word) (code va : Nat) (w x uc : Bool) : State × Nat :=
  match s.inst? handle with
  | none => (s, 2)
  | some i =>
    if va % pageSize code != 0 then (s, 4)
    else if i.covers va (pageSize code) then (s, 1)
    else match s.mapFresh i va (code == 1) w x uc false with
      | none => (s, 2)
      | some s' => (s', 0)

/-- The pages that PGUNMAP tells apart by address and size: a reserved record's range is taken in 64 KiB pages (04 R105), so every
64 KiB page that holds a part of it is a pinned one. -/
def Installation.pageOfSize (i : Installation) (va size : Nat) : Option Page :=
  match i.pages.find? (fun p => p.va == va && p.size == size) with
  | some p => some p
  | none => i.pages.find? (fun p => p.pin && size == Config.pageBytes && decide (p.va < va + size) && decide (va < p.va + p.size))

/-- PGUNMAP (13 R375) up to the waits of its flag: the page leaves the table and the translation caches. The answer is the
status and, for status 0, the page that left. -/
def State.pageUnmap (s : State) (handle : Word) (code va : Nat) : State × Nat × Option Page :=
  match s.inst? handle with
  | none => (s, 1, none)
  | some i =>
    if va % pageSize code != 0 then (s, 4, none)
    else match i.pageOfSize va (pageSize code) with
      | none => (s, 1, none)
      | some p =>
        if p.pin then (s, 3, none)
        else
          let off (l : List TlbEntry) : List TlbEntry := l.filter (fun e => !(e.handle == handle && e.page == va))
          let s1 := s.onInst handle (fun i => { i with pages := i.pages.filter (fun q => q.va != va) })
          ({ s1 with
              cores := Sparse.mapAll {} s1.cores (fun _ k => { k with
                tlb := off k.tlb, l1 := k.l1.filter (fun l => !(l.handle == handle && decide (va ≤ l.addr) && decide (l.addr < va + p.size))) })
              dieTlb := Sparse.mapAll [] s1.dieTlb (fun _ l => off l) }, 0, some p)

end Sys2Proof.Machine
end

