-- ==== Sys2Proof/Machine/Complete.lean ====
section
/-!
DEFINITION. Loads, atomics and other long-latency operations end (15 R411, R416; 09 R253; 06 R167; 07 R209, R214): LOAD_DATA_RETURN,
FAR_LINE_FILL, ATOMIC_PERFORM and LONG_LATENCY_COMPLETE.
-/
namespace Sys2Proof.Machine

/-! ### Loads (15 R411, R412) -/

/-- The words a lane of a load receives from its bytes: one element of a packed record, zero-extended (07 R199), else the
bytes, extended by the form. -/
def loadWords (r : BufRec) (form : LoadForm) (bitPos : Nat) (bs : List Byte) : List Word :=
  match form with
  | .reg bytes signed words =>
    let v := natOfBytes bs
    if r.packed then
      let e := v / 2 ^ bitPos % 2 ^ r.width
      (List.range words).map (fun j => BitVec.ofNat 32 (e / 2 ^ (32 * j)))
    else if signed then [BitVec.ofInt 32 (signedOf bytes v)]
    else (List.range words).map (fun j => BitVec.ofNat 32 (v / 2 ^ (32 * j)))
  | .shape => []

/-- The value of a lane of a load, with whether a poisoned line gave it; a clamped lane reads zero (07 R198). -/
def laneValue (r : BufRec) (form : LoadForm) (lines : List LineAccess) (l : LaneAccess) : List Word × Bool :=
  if l.clamped then
    (match form with | .reg _ _ words => List.replicate words 0#32 | .shape => [], false)
  else
    let b := laneBytes lines l (r.span form.bytes l.bitPos)
    (loadWords r form l.bitPos b.1, b.2)

/-- The writes of words to registers from d on in a lane. -/
def laneWrites (d t : Nat) (ws : List Word) : List (Nat × Nat × Word) := ws.zipIdx.map (fun w => (d + w.2, t, w.1))

/-- A load whose lines have all been read: its lanes are written, or die of a poisoned line (06 R186), and an LDA32's acquire
completes (15 R412). -/
def State.finishLoad (s : State) (o : OutOp) (r : BufRec) (form : LoadForm) (lines : List LineAccess)
    (lanes : List LaneAccess) (acquire : Option Nat) (uniform : Bool) : State :=
  let vals := lanes.map (fun l => (l.lane, laneValue r form lines l))
  let outs : List (Nat × List Word × Bool) :=
    if uniform then
      match vals with
      | [] => []
      | v :: _ => (laneList o.lanes).map (fun t => (t, v.2))
    else vals
  let good := outs.filter (fun v => !v.2.2)
  let dead := outs.filter (fun v => v.2.2)
  let s1 := match acquire, s.group? o.gid with
    | some scope, some g => s.acquireEffect g.core g.ctl.handle scope
    | _, _ => s
  (s1.endOp o (good.flatMap (fun v => laneWrites o.dest v.1 v.2.1))).killLanes (dead.map (fun v => (o.gid, v.1)))

/-- Replaces the element at a place of a list. -/
def setAt {α : Type} (xs : List α) (i : Nat) (x : α) : List α := xs.set i x

/-- A line of a load has been read: the load ends when it was the last; an LDSHAPE's clause, which stalls in place, takes its
bytes itself. -/
def State.lineRead (s : State) (o : OutOp) (i : Nat) (bytes : List Byte) (poison : Bool) : State :=
  match o.kind with
  | .load form space image hint lines lanes acquire uniform =>
    match lines[i]? with
    | none => s
    | some l =>
      let ls := setAt lines i { l with bytes := some bytes, poison := poison }
      let o' := { o with kind := .load form space image hint ls lanes acquire uniform }
      if form == .shape || ls.any (fun k => k.bytes.isNone) then s.putOp o'
      else s.finishLoad o' (bufRec image) form ls lanes acquire uniform
  | _ => s

/-- Whether a load's lines may be found and placed in the L1 (15 R411, 07 R215): global allowance lines of a cacheable page. -/
def State.l1Takes (s : State) (r : BufRec) (space : Space) (line : Nat) : Bool :=
  match space with
  | .virt h => !r.reserved && (match s.page? h line with | none => false | some p => !p.uc)
  | _ => false

/-- Refreshes the core's copy of a line that has been read at its home, so that no later load of the core takes an older
byte (08 R232). -/
def Core.refreshL1 (k : Core) (handle : Word) (line : Nat) (bytes : List Byte) : Core :=
  { k with l1 := k.l1.map (fun l => if l.handle == handle && l.addr == line then { l with bytes := bytes } else l) }

/-- The bytes of a line as a load of a core sees them: those of its source with the core's own commits in flight on top, but
for the later stores the load itself holds back (08 R227, 15 R409). -/
def State.seenBytes (s : State) (o : OutOp) (core : Nat) (space : Space) (line : Nat) (source : List Byte) : List Byte :=
  s.coreBytes core space line (fun c => o.holdsStore c.gid c.lane c.order c.space c.block c.bits) source

/-- Reads a line at its home: a slice fills its L2 copy; a global allowance line is placed in the L1 unless its hint or its
page forbids it (07 R206, R215; 05 R144). -/
def State.readAtHome (s : State) (o : OutOp) (g : Group) (i : Nat) (r : BufRec) (space : Space) (hint : Nat) (wide : Bool)
    (l : LineAccess) : State :=
  let home := s.homeBytes space (match space with | .virt _ => l.phys | _ => l.addr) 128
  match space with
  | .virt h =>
    let poison := s.mem.poisoned l.phys
    let s1 := s.touchL2 l.phys
    let takes := s.l1Takes r space l.addr
    let s2 := if takes then s1.victimHit g.core h l.addr else s1
    let s3 := s2.onCore g.core (fun k => k.refreshL1 h l.addr home)
    let s4 := if takes && hint != 3 && !wide && !poison then
        s3.onCore g.core (fun k => k.fillL1 ⟨l.addr, h, 0, home, g.gid, s.freeCtr, hint⟩)
      else s3
    s4.lineRead o i (s.seenBytes o g.core space l.addr home) poison
  | _ => s.lineRead o i (s.seenBytes o g.core space l.addr home) false

/-- LOAD_DATA_RETURN of a line of a load (15 R411). -/
def State.loadReturn (s : State) (id i : Nat) : State :=
  match s.op? id with
  | none => s
  | some o =>
    match o.kind, s.group? o.gid with
    | .load _ space image hint lines _ acquire _, some g =>
      match lines[i]? with
      | none => s
      | some l =>
        if l.bytes.isSome || !l.served || s.lostFlit o.id l.addr then s
        else
          let r := bufRec image
          let wide := match acquire with | some n => decide (2 ≤ n) | none => false
          match space with
          | .fabric h k =>
            match s.fab.farLine? h k l.addr with
            | none => s
            | some f =>
              if f.valid == BitVec.allOnes 128 && s.passes g.core space l.addr then s.lineRead o i (s.seenBytes o g.core space l.addr f.bytes) false else s
          | .virt h =>
            match (if s.l1Takes r space l.addr && hint != 3 && !wide then (s.core g.core).l1Line? h l.addr else none) with
            | some c =>
              (s.onCore g.core (fun k => { k with l1 := k.l1.map (fun m =>
                if m.handle == h && m.addr == c.addr then { m with stamp := s.freeCtr } else m) })).lineRead o i
                  (s.seenBytes o g.core space l.addr c.bytes) false
            | none => if s.passes g.core space l.phys then s.readAtHome o g i r space hint wide l else s
          | .sram => s.readAtHome o g i r space hint wide l
    | _, _ => s

/-- LOAD_DATA_RETURN. -/
def execLoadDataReturn (s : State) : Host.Outcome State Fault Refusal := .next (s.tick.loadReturn s.turn.x s.turn.y)

/-! ### FAR_LINE_FILL (07 R209, R213, R214) -/

/-- The id of the package (02 R20). -/
def Fabric.self (f : Fabric) : Nat := f.row * 64 + f.column

/-- The target package of a fabric address (02 R25). -/
def targetOf (addr : Nat) : Nat := bitsOf addr 63 52

/-- Sends a request to a peer for a part of an operation, once. -/
def State.askPeer (s : State) (handle : Word) (id part addr : Nat) (key : Word) (kind : FlitKind) (data : List Byte) : State :=
  if s.fab.asked.any (fun a => a.1 == id && a.2.1 == part) then s
  else
    let (n, t) := s.fresh
    let flit : Flit := ⟨s.fab.self, BitVec.ofNat 64 addr, false, kind, key, 0#128, data, n⟩
    t.onFab (fun f => { f with
      waiting := f.waiting ++ [(handle, targetOf addr, flit)], asked := f.asked ++ [(id, part, BitVec.ofNat 32 n)] })

/-- Whether a part of an operation has asked a peer, and the state without the request. -/
def State.answered (s : State) (id part : Nat) : Option State :=
  if s.fab.asked.any (fun a => a.1 == id && a.2.1 == part) then
    some (s.onFab (fun f => { f with asked := f.asked.filter (fun a => !(a.1 == id && a.2.1 == part)) }))
  else none

/-- Bytes of a line that a peer returned, padded to the line. -/
def padLine (bs : List Byte) (n : Nat) : List Byte := (List.range n).map (fun i => bs.getD i 0#8)

/-- A line a peer has returned is installed in the far ways, the bytes stored there meanwhile staying (07 R209). -/
def State.installFar (s : State) (h k : Word) (addr : Nat) (bs : List Byte) : State :=
  let old := (s.fab.farLine? h k addr).getD (s.newFar h k addr)
  let merged := (List.range 128).map (fun i => if old.valid.getLsbD i then old.bytes.getD i 0#8 else bs.getD i 0#8)
  s.putFar (s.farWays h) { old with bytes := merged, valid := BitVec.allOnes 128, stamp := s.freeCtr }

/-- FAR_LINE_FILL of a line of a load: the request leaves, or its answer comes back. With no far ways the lanes take the
answer itself; a refused request gives zero (R214). -/
def State.farFill (s : State) (id i : Nat) (answer : RemoteAnswer) : State :=
  match s.op? id with
  | none => s
  | some o =>
    match o.kind, s.group? o.gid with
    | .load _ (.fabric h k) _ _ lines _ _ _, some g =>
      match lines[i]? with
      | none => s
      | some l =>
        if l.bytes.isSome then s
        else match answer with
        | .none =>
          (match s.fab.farLine? h k l.addr with
          | some f => if f.valid == BitVec.allOnes 128 then s else s.askPeer h id i l.addr k .load []
          | none => s.askPeer h id i l.addr k .load [])
        | .refused =>
          (match s.answered id i with
          | none => s
          | some t => t.lineRead o i (List.replicate 128 0#8) false)
        | .bytes bs =>
          (match s.answered id i with
          | none => s
          | some t =>
            if t.farWays h = 0 then t.lineRead o i (t.seenBytes o g.core (.fabric h k) l.addr (padLine bs 128)) false
            else t.installFar h k l.addr bs)
    | _, _ => s

/-- FAR_LINE_FILL. -/
def execFarLineFill (op line : Nat) (answer : RemoteAnswer) (s : State) : Host.Outcome State Fault Refusal :=
  .next (s.tick.farFill op line answer)

/-! ### ATOMIC_PERFORM (09 R253 to R255; 15 R416, R417) -/

/-- An atomic whose requests have all performed: old values are written by the returning forms, zero for a clamped lane
(07 R198), and the flag falls; the lanes that met a poisoned line die (15 R417). -/
def State.finishAtomic (s : State) (o : OutOp) (size : Nat) (reqs : List AtomRequest) (returns uniform : Bool) : State :=
  let olds := reqs.flatMap (fun r => r.olds)
  let dead := if uniform then (if reqs.any (fun r => r.died) then laneList o.lanes else [])
    else reqs.flatMap (fun r => if r.died then r.lanes.map (fun l => l.lane) else [])
  let valueOf (t : Nat) : Word64 :=
    if uniform then ((olds.head?).map (fun v => v.2)).getD 0#64
    else ((olds.find? (fun v => v.1 == t)).map (fun v => v.2)).getD 0#64
  let words (v : Word64) : List Word := (List.range (size / 4)).map (fun j => v.extractLsb' (32 * j) 32)
  let writes := if returns then
      ((laneList o.lanes).filter (fun t => !dead.contains t)).flatMap (fun t => laneWrites o.dest t (words (valueOf t)))
    else []
  (s.endOp o writes).killLanes (dead.map (fun t => (o.gid, t)))

/-- A request of an atomic has been answered. -/
def State.requestDone (s : State) (o : OutOp) (i : Nat) (r : AtomRequest) : State :=
  match o.kind with
  | .atomic op size space image reqs returns uniform rnd =>
    let rs := setAt reqs i r
    let o' := { o with kind := .atomic op size space image rs returns uniform rnd }
    if rs.any (fun q => !q.done) then s.putOp o' else s.finishAtomic o' size rs returns uniform
  | _ => s

/-- The old values of a request from the value at its home. -/
def AtomRequest.withOld (r : AtomRequest) (op : AtomOp) (size rnd v : Nat) : AtomRequest :=
  { r with done := true, olds := (performAtomic op size rnd v r.lanes).2.map (fun l => (l.1, BitVec.ofNat 64 l.2)) }

/-- The flit of a remote atomic: a compare-and-swap carries every pair of its lanes, any other operation the fold of its
operands (09 R253). -/
def AtomRequest.flit (r : AtomRequest) (op : AtomOp) (size rnd : Nat) : FlitKind × List Byte :=
  match r.lanes with
  | [] => (.atomic op size rnd 0#64 0#64, [])
  | l :: ls =>
    match op with
    | .cas => (.atomic op size rnd l.operand l.compare,
        r.lanes.flatMap (fun l => bytesOfNat 8 l.compare.toNat ++ bytesOfNat 8 l.operand.toNat))
    | _ => (.atomic op size rnd (BitVec.ofNat 64 (ls.foldl (fun f l => applyAtomic op size rnd f l.operand.toNat) l.operand.toNat))
        0#64, [])

/-- A request performs at a home on this package (08 R234). -/
def State.performHere (s : State) (o : OutOp) (i : Nat) (op : AtomOp) (size rnd : Nat) (space : Space) (r : AtomRequest) : State :=
  if (match space with | .virt _ => s.mem.poisoned r.phys | _ => false) then s.requestDone o i { r with done := true, died := true }
  else
    let v := natOfBytes (s.homeBytes space r.phys size)
    let after := (performAtomic op size rnd v r.lanes).1
    (s.writeHome space r.phys size (2 ^ (8 * size) - 1) after).1.requestDone o i (r.withOld op size rnd v)

/-- ATOMIC_PERFORM of a request (08 R234; 07 R209, R214). -/
def State.atomicPerform (s : State) (id i : Nat) (answer : RemoteAnswer) : State :=
  match s.op? id with
  | none => s
  | some o =>
    match o.kind with
    | .atomic op size space _ reqs _ _ rnd =>
      match reqs[i]? with
      | none => s
      | some r =>
        if r.done then s
        else match space with
        | .fabric h k =>
          (match answer with
          | .none => s.askPeer h id i r.addr k (r.flit op size rnd).1 (r.flit op size rnd).2
          | .refused =>
            (match s.answered id i with
            | none => s
            | some t => t.requestDone o i { r with done := true, olds := r.lanes.map (fun l => (l.lane, 0#64)) })
          | .bytes bs =>
            (match s.answered id i with
            | none => s
            | some t => t.requestDone o i (r.withOld op size rnd (natOfBytes (padLine bs size)))))
        | _ => if s.lostFlit o.id r.addr || !s.passes (s.coreOf o.gid) space r.phys then s else s.performHere o i op size rnd space r
    | _ => s

/-- ATOMIC_PERFORM. -/
def execAtomicPerform (op request : Nat) (answer : RemoteAnswer) (s : State) : Host.Outcome State Fault Refusal :=
  .next (s.tick.atomicPerform op request answer)

/-! ### LONG_LATENCY_COMPLETE (06 R167) -/

/-- Raises exceptions by lane, and SATF (11 R308). -/
def Control.raiseList (c : Control) (exc : List (Nat × BitVec 5)) (sat : Bool) : Control :=
  let c' := exc.foldl (fun c e => c.raise e.1 e.2) c
  { c' with satf := c'.satf || sat }

/-- The values a TKT hands out: NEXT for every lane, or a ticket of its own for each (09 R251). -/
def ticketList (lanes : Word) (each : Bool) (next : Word) : List (Nat × Word) :=
  (laneList lanes).zipIdx.map (fun l => (l.1, if each then next + BitVec.ofNat 32 l.2 else next))

/-- A TKT reaches its dispenser. -/
def State.takeTickets (s : State) (o : OutOp) (d : Nat) (each : Bool) : State :=
  let disp : Dispenser := Sparse.get {} s.tickets d
  let n := if each then (laneList o.lanes).length else 1
  ({ s with tickets := Sparse.set {} s.tickets d { disp with next := disp.next + BitVec.ofNat 32 n } }).endOp o
    ((ticketList o.lanes each disp.next).map (fun (v : Nat × Word) => (o.dest, v.1, v.2)))

/-- A tile that a command releases is nobody's again, unless a later command of the group has claimed it since (10 R275). -/
def Core.freeTile (k : Core) (gid number t : Nat) : Core :=
  let h := Sparse.get (0, 0) k.tileOwner t
  if h.1 = gid + 1 ∧ h.2 < number then { k with tileOwner := Sparse.set (0, 0) k.tileOwner t (0, 0) } else k

/-- Releases the tiles of an ACCST with REL whose lines have all been acknowledged (10 R275, R277). -/
def State.releaseTiles (s : State) (o : OutOp) (c : MatrixCommand) : State :=
  match c, s.group? o.gid with
  | .store tile sh _ _ _ _ _ true, some g =>
    s.onCore g.core (fun k => (tilesOf tile (shapeGet sh 2)).foldl (fun k t => k.freeTile o.gid o.id t) k)
  | _, _ => s

/-- Whether an access that was translated through a page has still to perform at its home (13 R375). -/
def State.pageInUse (s : State) (handle : Word) (va size : Nat) (pages : List Nat) : Bool :=
  let on (phys : Nat) : Bool := pages.contains (phys / Config.pageBytes)
  let meets (r : Space × Nat × Nat) : Bool := r.1 == .virt handle && overlaps va (va + size) r.2.1 r.2.2
  s.ops.any (fun o => match o.kind with
    | .load _ (.virt _) _ _ lines _ _ _ => lines.any (fun l => l.bytes.isNone && on l.phys)
    | .atomic _ _ (.virt _) _ reqs _ _ _ => reqs.any (fun r => !r.done && on r.phys)
    | .matrix c _ => (match s.group? o.gid with
        | none => false
        | some g => (s.storeRanges g c).any meets ||
            (s.entryReads g ⟨0, g.gid, o.id, c, none, 0, false, [], []⟩).any (fun r => meets (r.1, r.2.1, r.2.2.1)))
    | _ => false) ||
  s.commits.any (fun c => (match c.space with | .virt _ => true | _ => false) && on c.phys) ||
  s.mem.windows.any (fun w => (match w.space with | .virt _ => true | _ => false) && on w.phys) ||
  s.transfers.any (fun t => t.handle == handle && t.held.any (fun p => p.va == va && p.size == size))

/-- A shadow's operation takes its leader's values; when the leader has no such operation, that is a mismatch
(06 R191). -/
def State.shadowTakes (s : State) (o : OutOp) (clause slot : Nat) : State :=
  match s.group? o.gid with
  | none => s
  | some g =>
    let tag (c t d : Nat) : Bool := c == clause && t == slot && d == o.dest
    match g.lvq.find? (fun l => tag l.clause l.slot l.dest) with
    | some l => (s.putGroup { g with lvq := g.lvq.erase l }).endOp o l.values
    | none =>
      match s.partner g with
      | none => s.endOp o []
      | some h =>
        if s.ops.any (fun p => p.gid == h.gid && tag p.clause p.slot p.dest && p.shadowed) then s else s.mismatch g

/-- LONG_LATENCY_COMPLETE of an operation. Loads, atomics, releases, acquires, arrivals and lease requests end in steps of
their own, but for one that has no request to wait for. -/
def State.longComplete (s : State) (id : Nat) : State :=
  match s.op? id with
  | none => s
  | some o =>
    match o.kind with
    | .value writes exc sat => (s.onGroup o.gid (fun g => g.onCtl (fun c => c.raiseList exc sat))).endOp o writes
    | .result writes => s.endOp o writes
    | .load form _ image _ lines lanes acquire uniform =>
      if lines.isEmpty && form != .shape then s.finishLoad o (bufRec image) form [] lanes acquire uniform else s
    | .atomic _ size _ _ reqs returns uniform _ => if reqs.isEmpty then s.finishAtomic o size [] returns uniform else s
    | .bartest scope key phase =>
      if s.objectBusy o.gid o.id key then s
      else
        let hit := (s.bar key).completed phase
        let s1 := match hit, s.group? o.gid with
          | true, some g => s.acquireEffect g.core g.ctl.handle scope
          | _, _ => s
        s1.endOp o ((laneList o.lanes).map (fun t => (o.dest, t, if hit then 1#32 else 0#32)))
    | .barinit key arr bytes =>
      if s.objectBusy o.gid o.id key then s
      else
        let c := (s.onBar key (fun b => { b with expArr := arr, expBytes := bytes })).tryComplete key
        (c.1.endOp o []).killLanes c.2
    | .tkt d each => s.takeTickets o d each
    | .obrel n =>
      (match s.group? o.gid with
      | none => s.dropOp o.id
      | some g =>
        if (s.core g.core).stream.any (fun e => e.gid == g.gid && decide (e.number < o.id) && (match e.command with
            | .mma _ _ _ _ _ a b _ => a.number == n || b.number == n
            | _ => false)) then s
        else (s.onCore g.core (fun k => { k with obrecs := k.obrecs.filter (fun r => !(r.number == n && r.owner == g.gid)) })).endOp o [])
    | .pageOut fn va size pages writes =>
      (match s.group? o.gid with
      | none => s.dropOp o.id
      | some g =>
        if s.pageInUse g.ctl.handle va size pages then s else (s.returnPages fn pages).endOp o writes)
    | .matrix c (some lines) =>
      if lines.any (fun n => s.commits.any (fun c => c.id == n)) then s
      else ((s.releaseTiles o c).endOp o [])
    | .matrix _ none => s
    | .shadow clause slot => s.shadowTakes o clause slot
    | .release .. => s
    | .acquire .. => s
    | .lease => s

/-- LONG_LATENCY_COMPLETE. -/
def execLongLatencyComplete (s : State) : Host.Outcome State Fault Refusal := .next (s.tick.longComplete s.turn.x)

end Sys2Proof.Machine
end

