-- ==== Sys2Proof/Machine/Engine.lean ====
section
/-!
DEFINITION. The matrix engine (10 R262 to R264, R267 to R284, R291): starting and ending commands, markers, summation,
perturbation, self-test and fencing.
-/
namespace Sys2Proof.Machine

/-! ### Modes and capabilities (10 R262, R263) -/

/-- The sub-arrays, 4i + j, of the block of a mode whose top-left is (i, j). -/
def blockArrays (mode i j : Nat) : List Nat :=
  (List.range ((modeSize mode).1 / 16)).flatMap (fun a => (List.range ((modeSize mode).2 / 16)).map (fun b => 4 * (i + a) + (j + b)))

/-- The block a core runs a mode in: aligned, without a fenced sub-array, lowest (i, j) in row-major order (10 R263). -/
def blockOf (fenced : List Nat) (mode : Nat) : Option (Nat × Nat) :=
  let m := (modeSize mode).1 / 16
  let n := (modeSize mode).2 / 16
  ((List.range 16).map (fun p => (p / 4, p % 4))).find? (fun p =>
    p.1 % max 1 m == 0 && p.2 % max 1 n == 0 && (blockArrays mode p.1 p.2).all (fun a => !fenced.contains a))

/-- Whether a core supports a mode. -/
def Core.supports (k : Core) (mode : Nat) : Bool := (blockOf k.fenced mode).isSome

/-- The capability of a core: bit k for mode k (10 R263). -/
def Core.capability (k : Core) : BitVec 9 :=
  BitVec.ofNat 9 ((List.range 9).foldl (fun n m => if k.supports m then n + 2 ^ m else n) 0)

/-- Cap(d): the AND of the capabilities of a die's cores (10 R263). -/
def State.dieCap (s : State) (die : Nat) : BitVec 9 :=
  (List.range Config.coresPerDie).foldl (fun m i => m &&& (s.core (Config.coresPerDie * die + i)).capability) (BitVec.allOnes 9)

/-! ### Operand values (10 R264; 11 R298, R302) -/

/-- The element format of a float operand that is no Facet block. -/
def operandFloat (fmt : Nat) : FloatFmt :=
  match fmt with
  | 3 => e2m1
  | 4 => e2m3
  | 5 => e3m2
  | 6 => e4m3
  | 7 => e5m2
  | 8 => bf16
  | 9 => f16
  | 10 => f32
  | _ => f64

/-- A value under an E8M0 scale; 0xFF makes it a NaN (11 R298). -/
def scaleValue (v : FloatVal) (scale : Nat) : FloatVal :=
  if scale = 255 then .nan false
  else match v with
  | .fin neg m e => .fin neg m (e + scale - 127)
  | w => w

/-- Element j of a packed unit of w-bit elements. -/
def packedElem (raw w j : Nat) : Nat := raw / 2 ^ (w * j) % 2 ^ w

/-- The values of a K unit of a float format, from its element bytes and scale byte. -/
def unitValues (fmt blk : Nat) (bytes : List Byte) (scale : Nat) : List FloatVal :=
  let raw := natOfBytes bytes
  (List.range (unitLen fmt)).map (fun j =>
    if fmt ≤ 2 then
      match facetElement (facetWidth fmt) raw j with
      | none => .nan false
      | some e => .fin e.1 e.2.1 e.2.2
    else
      let f := operandFloat fmt
      let v := f.decode (packedElem raw f.width j)
      if blk = 2 then scaleValue v scale else v)

/-- The raw patterns of a K unit of a format whose elements are whole bytes or integers. -/
def unitRaw (fmt : Nat) (bytes : List Byte) : List Nat :=
  let w := match fmt with | 10 => 32 | 11 => 64 | 14 => 4 | 15 => 16 | _ => 8
  (List.range (unitLen fmt)).map (packedElem (natOfBytes bytes) w)

/-- The integers of a K unit of an integer format. -/
def unitInts (fmt : Nat) (bytes : List Byte) : List Int :=
  let half : Nat := match fmt with | 14 => 8 | 15 => 32768 | _ => 128
  (unitRaw fmt bytes).map (fun (n : Nat) =>
    if fmt = 13 then (n : Int) else if half ≤ n then (n : Int) - 2 * half else (n : Int))

/-! ### Summation (10 R278, R279) -/

/-- The product of two elements, exactly; a NaN for 0 × ∞ or a NaN element. -/
def macProduct (a b : FloatVal) : FloatVal :=
  if a.isNan || b.isNan then .nan false
  else match productOf a b with
  | none => .nan false
  | some p => p

/-- The rounding of the engine: to nearest even, a finite overflow replaced by the largest finite value (10 R278, R279). -/
def engineEnv : FloatEnv := ⟨0, true, false⟩

/-- An exact sum rounded once into a format; a sum of zeros is −0 only when every term is (11 R306). -/
def exactSum (f : FloatFmt) (terms : List FloatVal) : Nat × Bool :=
  let infs := terms.filterMap (fun t => match t with | .inf n => some n | _ => none)
  if terms.any FloatVal.isNan then (f.nan.getD 0, false)
  else match infs with
  | n :: ns => if ns.all (· == n) then (f.infinity n, false) else (f.nan.getD 0, false)
  | [] =>
    let fins := terms.filterMap (fun t => match t with | .fin n m e => some (n, m, e) | _ => none)
    let live := fins.filter (fun t => t.2.1 != 0)
    match live with
    | [] => (f.signed (!fins.isEmpty && fins.all (fun t => t.1)) 0, false)
    | l :: ls =>
      let e := ls.foldl (fun e t => min e t.2.2) l.2.2
      let v := live.foldl (fun (v : Int) t => v + scaled t.1 t.2.1 t.2.2 e) 0
      if v = 0 then (f.signed false 0, false)
      else
        let o := f.deliver engineEnv (decide (v < 0)) v.natAbs e
        (o.bits, o.sat)

/-- The groups of 16 consecutive elements of a list. -/
def sixteens {α : Type} (n : Nat) (xs : List α) : List (List α) :=
  (List.range (ceilDiv n 16)).map (fun i => (xs.drop (16 * i)).take (min 16 (n - 16 * i)))

/-- An output element of formats 0 to 9: one rounding for each group of 16 products (10 R278). -/
def dotGroups (k acc : Nat) (xs ys : List FloatVal) : Nat × Bool :=
  (sixteens k (xs.zip ys)).foldl (fun (a : Nat × Bool) g =>
    let r := exactSum f32 (f32.decode a.1 :: g.map (fun p => macProduct p.1 p.2))
    (r.1, a.2 || r.2)) (acc, false)

/-- A fused step, a NaN becoming the default NaN (10 R279). -/
def fusedStep (f : FloatFmt) (acc x y : Nat) : Nat × Bool :=
  let o := f.fma engineEnv false false x y acc
  (if (f.decode o.bits).isNan then f.nan.getD 0 else o.bits, o.sat)

/-- An output element of binary32 and binary64: a fused multiply-add at each step (10 R278). -/
def dotFused (f : FloatFmt) (k acc : Nat) (xs ys : List Nat) : Nat × Bool :=
  ((xs.zip ys).take k).foldl (fun (a : Nat × Bool) p =>
    let r := fusedStep f a.1 p.1 p.2
    (r.1, a.2 || r.2)) (acc, false)

/-- INT32 saturation. -/
def satInt32 (x : Int) : Int × Bool := (IntType.mk 32 true).sat x

/-- A word as a signed number. -/
def intOfWord (n : Nat) : Int := signedOf 4 n

/-- An output element of the integer formats: saturated once for each group of 16 products (10 R278). -/
def dotInts (k acc : Nat) (xs ys : List Int) : Nat × Bool :=
  let r := (sixteens k (xs.zip ys)).foldl (fun (a : Int × Bool) g =>
    let v := satInt32 (a.1 + g.foldl (fun (t : Int) p => t + p.1 * p.2) 0)
    (v.1, a.2 || v.2)) (intOfWord acc, false)
  ((BitVec.ofInt 32 r.1).toNat, r.2)

/-- A perturbation added to an element (10 R284). -/
def perturbed (fmt acc : Nat) (value : Word) : Nat × Bool :=
  let add (f : FloatFmt) (v : Nat) : Nat × Bool :=
    let o := f.add engineEnv false acc v
    (if (f.decode o.bits).isNan then f.nan.getD 0 else o.bits, o.sat)
  if fmt ≤ 10 then add f32 value.toNat
  else if fmt = 11 then add f64 (f32.toIeee f64 engineEnv value.toNat).bits
  else
    let v := satInt32 (intOfWord acc + intOfWord value.toNat)
    ((BitVec.ofInt 32 v.1).toNat, v.2)

/-! ### Tiles (10 R275) -/

/-- The keys of the words of an element: one, or two of a binary64 pair. -/
def accKeys (wide : Bool) (tile r c : Nat) : List Nat :=
  if wide then
    let k := (tile + c / 32) * 4096 + 64 * r + 2 * (c % 32)
    [k, k + 1]
  else [tile * 4096 + 64 * r + c]

/-- The value of an element. -/
def Core.element (k : Core) (wide : Bool) (tile r c : Nat) : Nat :=
  natOfWords ((accKeys wide tile r c).map (Sparse.get 0#32 k.acc))

/-- Whether an element is marked uncorrectable. -/
def Core.elementBad (k : Core) (wide : Bool) (tile r c : Nat) : Bool := (accKeys wide tile r c).any k.accErr.contains

/-- Writes an element; `by_` is the sub-array that computed it, if one did (10 R282). -/
def Core.putElement (k : Core) (wide : Bool) (tile r c v : Nat) (by_ : Option Nat) : Core :=
  let keys := accKeys wide tile r c
  { k with
    acc := (keys.zipIdx).foldl (fun m kj => Sparse.set 0#32 m kj.1 (BitVec.ofNat 32 (v / 2 ^ (32 * kj.2)))) k.acc
    accErr := k.accErr.filter (fun e => !keys.contains e)
    accTest := k.accTest.filter (fun e => !keys.contains (e / 16)) ++
      (match by_ with | none => [] | some a => keys.map (fun e => 16 * e + a)) }

/-! ### Staging (10 R270, R271) -/

/-- Bytes that one K unit takes in the staged operand. -/
def Desc.stride (d : Desc) (o : ObRec) : Nat :=
  let n := unitBytes o.fmt + (if o.blk = 2 then 1 else 0)
  if d.q then ceilDiv n 4 * 4 else n

/-- Reads a scratchpad operand as loads of its group (10 R268, R270). -/
def State.stageScratch (s : State) (g : Group) (d : Desc) (o : ObRec) (rows : List Nat) (units : Nat) : List Byte :=
  let read (a n : Nat) : List Byte := s.coreBytes g.core .sram a (fun _ => false) (s.homeBytes .sram a n)
  rows.flatMap (fun r => (List.range units).flatMap (fun u =>
    read (s.operandAddr g d r u 0) (unitBytes o.fmt) ++
      (if o.blk = 2 then read (s.operandAddr g d r u o.soff) 1 else [])))

/-- How many bytes an operand stages. -/
def Desc.total (d : Desc) (o : ObRec) (rows : List Nat) (units : Nat) : Nat := rows.length * units * d.stride o

/-- Stages what it can of an operand: all of a scratchpad one, the words its queue holds of a queue one. -/
def State.stageOne (s : State) (g : Group) (d : Desc) (o : ObRec) (rows : List Nat) (units q : Nat) (have_ : List Byte) :
    State × List Byte :=
  if d.q then
    match s.group? g.gid with
    | none => (s, have_)
    | some h =>
      let ws := (h.queue q).take ((d.total o rows units - have_.length) / 4)
      (s.putGroup (h.setQueue q ((h.queue q).drop ws.length)), have_ ++ ws.flatMap (fun w => bytesOfNat 4 w.toNat))
  else (s, if have_.isEmpty then s.stageScratch g d o rows units else have_)

/-- The bytes of a staged K unit. -/
def stagedUnit (d : Desc) (o : ObRec) (units : Nat) (bytes : List Byte) (i u : Nat) : List Byte :=
  (bytes.drop ((i * units + u) * d.stride o)).take (unitBytes o.fmt + (if o.blk = 2 then 1 else 0))

/-- The element values of a staged row of a float format. -/
def stagedFloats (d : Desc) (o : ObRec) (units : Nat) (bytes : List Byte) (i : Nat) : List FloatVal :=
  (List.range units).flatMap (fun u =>
    let b := stagedUnit d o units bytes i u
    unitValues o.fmt o.blk (b.take (unitBytes o.fmt)) (b.getD (unitBytes o.fmt) 0#8).toNat)

/-- The patterns of a staged row. -/
def stagedRaw (d : Desc) (o : ObRec) (units : Nat) (bytes : List Byte) (i : Nat) : List Nat :=
  (List.range units).flatMap (fun u => unitRaw o.fmt (stagedUnit d o units bytes i u))

/-- The integers of a staged row. -/
def stagedInts (d : Desc) (o : ObRec) (units : Nat) (bytes : List Byte) (i : Nat) : List Int :=
  (List.range units).flatMap (fun u => unitInts o.fmt (stagedUnit d o units bytes i u))

/-! ### MATRIX_COMMAND_START (10 R267, R268, R280, R282) -/

/-- The shape a command runs under. -/
def MatrixCommand.shape? : MatrixCommand → Option Word512
  | .mma _ sh .. => some sh
  | .load _ sh .. => some sh
  | .store _ sh .. => some sh
  | .zero .. => none

/-- Whether a core can run a command at all (10 R282). -/
def Core.canRun (k : Core) (c : MatrixCommand) : Bool :=
  match c.shape? with
  | none => true
  | some sh => k.supports (shapeGet sh 12)

/-- The numbers of the reservation records an MMA names. -/
def MatrixCommand.records : MatrixCommand → List Nat
  | .mma _ _ _ _ _ a b _ => [a.number, b.number]
  | _ => []

/-- Whether a command is an MMA. -/
def MatrixCommand.isMma : MatrixCommand → Bool
  | .mma .. => true
  | _ => false

/-- The entry that may start: the first command of the stream, or an MMA behind a started MMA that shares no record with
it (10 R280). -/
def Core.nextStart (k : Core) : Option StreamEntry :=
  match k.stream.filter (fun e => e.marker.isNone) with
  | [] => none
  | e :: rest =>
    if !e.started then some e
    else match rest with
    | [] => none
    | f :: _ =>
      if e.command.isMma && f.command.isMma && !f.started && f.command.records.all (fun n => !e.command.records.contains n) then some f
      else none

/-- Puts a stream entry back. -/
def Core.putEntry (k : Core) (e : StreamEntry) : Core :=
  { k with stream := replaceFirst (fun f => f.number == e.number) e k.stream }

/-- Whether the firewall keeps a command from something it reads (03 R67). -/
def State.entryShut (s : State) (core : Nat) (g : Group) (e : StreamEntry) : Bool :=
  (s.entryReads g e).any (fun r => match r.1 with
    | .virt h => (match s.page? h r.2.1 with
      | none => false
      | some p => !s.passes core r.1 (p.phys r.2.1))
    | _ => false)

/-- Starts, or goes on starting, a command: it waits for its release and for owned ranges (10 R268); an MMA stages. -/
def State.startEntry (s : State) (core : Nat) (g : Group) (e : StreamEntry) : State :=
  let waits := (s.op? e.release).isSome || (s.entryReads g e).any (fun r => !(s.owners r.1 r.2.1 r.2.2.1).isEmpty)
  if waits || s.entryShut core g e || !(s.core core).canRun e.command then s
  else
    match e.command with
    | .mma _ sh _ dA dB rA rB lanes =>
      let units := stagedUnits sh
      let rows := mmaRows g sh lanes
      let cols := mmaCols sh
      let a := s.stageOne g (descOf dA) rA rows units 1 e.stagedA
      let b := a.1.stageOne g (descOf dB) rB cols units 2 e.stagedB
      let full := decide ((descOf dA).total rA rows units ≤ a.2.length) && decide ((descOf dB).total rB cols units ≤ b.2.length)
      b.1.onCore core (fun k => k.putEntry { e with stagedA := a.2, stagedB := b.2, started := full })
    | _ => s.onCore core (fun k => k.putEntry { e with started := true })

/-- MATRIX_COMMAND_START on a core. -/
def State.matrixStart (s : State) (core : Nat) : State :=
  match (s.core core).nextStart with
  | none => s
  | some e =>
    match s.group? e.gid with
    | none => s
    | some g => s.startEntry core g e

/-- MATRIX_COMMAND_START. -/
def execMatrixCommandStart (s : State) : Host.Outcome State Fault Refusal := .next (s.tick.matrixStart s.turn.x)

/-! ### MATRIX_COMMAND_END: MMA (10 R278, R279, R284, R291) -/

/-- One output element of an MMA: row and column as staged. -/
def mmaElement (sh : Word512) (z : Bool) (dA dB : Desc) (rA rB : ObRec) (A B : List Byte) (acc i j : Nat) : Nat × Bool :=
  let fmt := shapeGet sh 2
  let units := stagedUnits sh
  let start := if z then 0 else acc
  if fmt ≤ 9 then dotGroups (validK sh) start (stagedFloats dA rA units A i) (stagedFloats dB rB units B j)
  else if fmt ≤ 11 then
    dotFused (operandFloat fmt) (validK sh) start (stagedRaw dA rA units A i) (stagedRaw dB rB units B j)
  else dotInts (validK sh) start (stagedInts dA rA units A i) (stagedInts dB rB units B j)

/-- The lanes of a list of rows that a test of a row's elements picks. -/
def lanesWhere (g : Group) (rows cols : List Nat) (p : Nat → Nat → Bool) : List Nat :=
  (distinct ((rows.filter (fun r => cols.any (p r))).map (rowLane g)))

/-- The sub-array that computes an element in the block a core runs a mode in. -/
def Core.arrayOf (k : Core) (mode r c : Nat) : Option Nat :=
  (blockOf k.fenced mode).map (fun b => 4 * (b.1 + r / 16) + (b.2 + c / 16))

/-- An MMA's result in the tile: every element it writes, the perturbation if it is for one of them, and SATF. -/
def Core.multiply (k : Core) (g : Group) (tile : Nat) (sh : Word512) (z : Bool) (dA dB : Desc) (rA rB : ObRec)
    (A B : List Byte) (rows : List (Nat × Nat)) (cols : List (Nat × Nat)) : Core × Bool :=
  let fmt := shapeGet sh 2
  let wide := wideTile fmt
  rows.foldl (fun (acc : Core × Bool) ri => cols.foldl (fun (acc : Core × Bool) cj =>
    let r := ri.1
    let c := cj.1
    let v := mmaElement sh z dA dB rA rB A B (k.element wide tile r c) ri.2 cj.2
    let hit := match acc.1.perturb with
      | some p => p.tile == tile && p.row == r && p.col == c && p.handle == g.ctl.handle
      | none => false
    let value := match acc.1.perturb with | some p => p.value | none => 0#32
    let w := if hit then perturbed fmt v.1 value else (v.1, false)
    let k' := acc.1.putElement wide tile r c w.1 (k.arrayOf (shapeGet sh 12) r c)
    (if hit then { k' with perturb := none } else k', acc.2 || v.2 || w.2)) acc) (k, false)

/-- Takes a command's entry out of its stream. -/
def Core.dropEntry (k : Core) (number : Nat) : Core := { k with stream := k.stream.filter (fun e => e.number != number) }

/-- Ends a command: its entry leaves the stream, lanes that consumed a marked value die, its flag falls. -/
def State.endCommand (s : State) (core : Nat) (e : StreamEntry) (dead : List Nat) : State :=
  let s1 := s.onCore core (fun k => k.dropEntry e.number)
  (match s1.op? e.op with | none => s1 | some o => s1.endOp o []).killLanes (dead.map (fun t => (e.gid, t)))

/-- The rows of a list whose lanes have not died and are not in a list. -/
def liveRows (g : Group) (rows : List Nat) (dead : List Nat) : List Nat :=
  rows.filter (fun r => !g.ctl.dead.getLsbD (rowLane g r) && !dead.contains (rowLane g r))

/-- MATRIX_COMMAND_END of an MMA. -/
def State.endMma (s : State) (core : Nat) (g : Group) (e : StreamEntry) (tile : Nat) (sh : Word512) (z : Bool)
    (dA dB : Desc) (rA rB : ObRec) (lanes : Word) : State :=
  let k := s.core core
  let rows := mmaRows g sh lanes
  let cols := mmaCols sh
  let dead := if z then [] else lanesWhere g rows cols (fun r c => k.elementBad (wideTile (shapeGet sh 2)) tile r c)
  let kept := liveRows g rows dead
  let m := k.multiply g tile sh z dA dB rA rB e.stagedA e.stagedB (rows.zipIdx.filter (fun r => kept.contains r.1)) cols.zipIdx
  let s1 := s.putCore core m.1
  let s2 := if m.2 then s1.onGroup g.gid (fun g => g.onCtl (fun c => { c with satf := true })) else s1
  s2.endCommand core e dead

/-! ### MATRIX_COMMAND_END: ACCLD, ACCST, ACCZ (10 R277; 15 R424) -/

/-- Counts slots that an instance served for lines an engine moved (04 R112, R123; log 20). -/
def State.useSlots (s : State) (g : Group) (slot : Nat) (write : Bool) (n : Nat) : State :=
  s.onInst g.ctl.handle (fun i =>
    match i.insts.find? (fun k => k.kernel == g.kernel && k.slot == slot && k.core == g.core && k.write == write) with
    | none => i
    | some k => { i with insts := replaceFirst (fun j => j.kernel == k.kernel && j.slot == k.slot && j.core == k.core &&
        j.write == k.write && j.channel == k.channel) { k with used := k.used + n } i.insts })

/-- Reads an element of a record for an engine, with whether its line is poisoned; an element out of bounds reads zero. -/
def State.readElement (s : State) (g : Group) (r : BufRec) (size idx : Nat) : Nat × Bool :=
  let p := s.elementPlace g r size idx
  if !p.2.2 then (0, false)
  else
    match p.1 with
    | .virt h =>
      (match s.translate h (p.2.1 / 128 * 128) .read with
      | .ok phys _ =>
        let a := phys + p.2.1 % 128
        (natOfBytes (s.coreBytes g.core p.1 p.2.1 (fun _ => false) (s.homeBytes p.1 a size)), s.mem.poisoned a)
      | _ => (0, false))
    | sp => (natOfBytes (s.coreBytes g.core sp p.2.1 (fun _ => false) (s.homeBytes sp p.2.1 size)), false)

/-- MATRIX_COMMAND_END of an ACCLD: lanes that take a poisoned line die with their rows unchanged (06 R186). -/
def State.endLoad (s : State) (core : Nat) (g : Group) (e : StreamEntry) (tile : Nat) (sh : Word512) (slot : Nat)
    (image : Word256) (origin stride : Nat) (lanes : Word) : State :=
  let wide := wideTile (shapeGet sh 2)
  let r := bufRec image
  let vals := (movedElements g sh origin stride lanes).map (fun m => (m.1, m.2.1, s.readElement g r (tileElem (shapeGet sh 2)) m.2.2))
  let dead := distinct ((vals.filter (fun v => v.2.2.2)).map (fun v => rowLane g v.1))
  let kept := vals.filter (fun v => (liveRows g [v.1] dead).contains v.1)
  let s1 := s.onCore core (fun k => kept.foldl (fun k v => k.putElement wide tile v.1 v.2.1 v.2.2.1 none) k)
  let s2 := if r.reserved then s1.useSlots g slot false (vals.map (fun v => v.1)).eraseDups.length else s1
  s2.endCommand core e dead

/-- The stores an ACCST hands over for a row: one for each 16-byte block its elements touch, in the lane that owns the
row (10 R268). -/
def State.rowStores (s : State) (core : Nat) (g : Group) (e : StreamEntry) (slot size : Nat)
    (vals : List (Space × Nat × Nat)) (lane : Nat) : State × List Nat :=
  let blocks := distinct (vals.map (fun v => v.2.1 / 16))
  blocks.foldl (fun (acc : State × List Nat) b =>
    let mine := vals.filter (fun v => v.2.1 / 16 == b)
    let data := mine.foldl (fun (d : BitVec 128) v => d ||| inBlock v.2.2 v.2.1 (16 * b)) 0#128
    let bits := mine.foldl (fun (d : BitVec 128) v => d ||| inBlock (2 ^ (8 * size) - 1) v.2.1 (16 * b)) 0#128
    let space := (mine.head?.map (fun v => v.1)).getD .sram
    let phys := match space with
      | .virt h => (match acc.1.translate h (16 * b) .write with | .ok p _ => some p | _ => none)
      | _ => some (16 * b)
    match phys with
    | none => acc
    | some p =>
      let (id, t) := acc.1.fresh
      ({ t with commits := t.commits ++ [{ id := id, gid := g.gid, lane := lane, core := core, space := space, block := 16 * b
                                           phys := p, bits := bits, data := data, reserved := false, op := e.op
                                           accepted := !t.blocked g.gid lane e.op space (16 * b) bits, order := e.op
                                           slot := slot }] },
        acc.2 ++ [id])) (s, [])

/-- MATRIX_COMMAND_END of an ACCST: its lines enter the memory unit; with REL the tile is zeroed for its next owner, and is
free once the lines have been acknowledged (10 R275, R277). -/
def State.endStore (s : State) (core : Nat) (g : Group) (e : StreamEntry) (tile : Nat) (sh : Word512) (slot : Nat)
    (image : Word256) (origin stride : Nat) (lanes : Word) (free : Bool) : State :=
  let fmt := shapeGet sh 2
  let wide := wideTile fmt
  let size := tileElem fmt
  let r := bufRec image
  let k := s.core core
  let moved := movedElements g sh origin stride lanes
  let dead := distinct ((moved.filter (fun m => k.elementBad wide tile m.1 m.2.1)).map (fun m => rowLane g m.1))
  let rows := liveRows g (moved.map (fun m => m.1)).eraseDups dead
  let out := rows.foldl (fun (acc : State × List Nat) row =>
    let vals := (moved.filter (fun m => m.1 == row)).filterMap (fun m =>
      let p := s.elementPlace g r size m.2.2
      if p.2.2 then some (p.1, p.2.1, k.element wide tile m.1 m.2.1) else none)
    let t := acc.1.rowStores core g e slot size vals (rowLane g row)
    (t.1, acc.2 ++ t.2)) (s, [])
  let s1 := if r.reserved then out.1.useSlots g slot true rows.length else out.1
  let s2 := if free then s1.onCore core (fun k => (tilesOf tile fmt).foldl Core.clearTile k) else s1
  let s3 := (s2.onCore core (fun k => k.dropEntry e.number))
  let s4 := match s3.op? e.op with
    | none => s3
    | some o => s3.putOp { o with kind := .matrix e.command (some out.2) }
  s4.killLanes (dead.map (fun t => (g.gid, t)))

/-- MATRIX_COMMAND_END of an ACCZ (10 R277). -/
def State.endZero (s : State) (core : Nat) (g : Group) (e : StreamEntry) (tile : Nat) (lanes : Word) (free : Bool) : State :=
  let s1 := if free then s.onCore core (fun k => (k.clearTile tile).freeTile g.gid e.op tile)
    else
      s.onCore core (fun k => (liveRows g (rowsOf g lanes 64) []).foldl (fun k r =>
        (List.range 64).foldl (fun k c => k.putElement false tile r c 0 none) k) k)
  s1.endCommand core e []

/-- MATRIX_COMMAND_END on a core: the first command of the stream, once it has started. -/
def State.matrixEnd (s : State) (core : Nat) : State :=
  match (s.core core).stream.filter (fun e => e.marker.isNone) with
  | [] => s
  | e :: _ =>
    match s.group? e.gid with
    | none => s
    | some g =>
      if !e.started then s
      else match e.command with
      | .mma tile sh z dA dB rA rB lanes => s.endMma core g e tile sh z (descOf dA) (descOf dB) rA rB lanes
      | .load tile sh slot image origin stride lanes => s.endLoad core g e tile sh slot image origin stride lanes
      | .store tile sh slot image origin stride lanes free => s.endStore core g e tile sh slot image origin stride lanes free
      | .zero tile lanes free => s.endZero core g e tile lanes free

/-- MATRIX_COMMAND_END. -/
def execMatrixCommandEnd (s : State) : Host.Outcome State Fault Refusal := .next (s.tick.matrixEnd s.turn.x)

/-! ### MATRIX_MARKER (10 R267) -/

/-- The marker of a group that may move to q3: nothing of the group stands before it in the stream, and every command the
group issued before it has completed. -/
def State.markerReady (s : State) (g : Group) : Option (Nat × Word) :=
  match (s.core g.core).stream.find? (fun e => e.gid == g.gid) with
  | none => none
  | some e =>
    match e.marker with
    | none => none
    | some w =>
      if s.ops.any (fun o => o.gid == g.gid && decide (o.id < e.number) && (match o.kind with | .matrix _ _ => true | _ => false)) ||
          decide (queueDepth 3 ≤ (g.queue 3).length) then none
      else some (e.number, w)

/-- MATRIX_MARKER. -/
def execMatrixMarker (s : State) : Host.Outcome State Fault Refusal :=
  match s.group? s.turn.x with
  | none => .next s.tick
  | some g =>
    match s.markerReady g with
    | none => .next s.tick
    | some m => .next ((s.tick.onCore g.core (fun k => k.dropEntry m.1)).pushWords g.gid 3 [m.2])

/-! ### MATRIX_SELF_TEST (10 R281, R282) -/

/-- Fences sub-arrays of a core: what they computed since their last passing test is marked uncorrectable, the fencing is
recorded, and event 0x35 is raised for each (10 R282). -/
def State.fence (s : State) (core : Nat) (arrays : List Nat) : State :=
  let fresh := (distinct arrays).filter (fun a => decide (a < 16) && !(s.core core).fenced.contains a)
  let s1 := s.onCore core (fun k => { k with
    fenced := fresh.foldl (fun l a => insertSorted a l) k.fenced
    accErr := distinct (k.accErr ++ (k.accTest.filter (fun e => fresh.contains (e % 16))).map (· / 16)) })
  fresh.foldl (fun t a =>
    (t.onPkg (fun p => { p with fencing := p.fencing ++ [(dieOfCore core, core, a)] })).event 0 0x35 0 (dieOfCore core) core a) s1

/-- MATRIX_SELF_TEST: between two commands; a passing sub-array's elements are good, a failing one is fenced. -/
def execMatrixSelfTest (core : Nat) (failing : List Nat) (s : State) : Host.Outcome State Fault Refusal :=
  if (s.core core).stream.any (fun e => e.marker.isNone && e.started) then .next s.tick
  else
    let t := s.tick.fence core failing
    .next (t.onCore core (fun k => { k with accTest := [], mxtest := k.mxtest + 1 }))

end Sys2Proof.Machine
end

