-- ==== Sys2Proof/Machine/Copy.lean ====
section
/-!
DEFINITION. The copy engine (07 R216 to R223; 04 R117; 08 R236): COPY_COMMAND, FILL_COMMAND, COPY_UNKNOWN_KIND,
COPY_CHUNK_COMPLETE and COPY_TRANSFER_END.
-/
namespace Sys2Proof.Machine

/-! ### Taking a command (07 R216, R217, R220) -/

/-- Whether the release of the push that put a queue's head word there has completed (07 R220, 08 R236). -/
def State.headReleased (s : State) (gid q : Nat) : Bool :=
  s.ops.all (fun o => !(o.gid == gid && (match o.kind with | .release _ _ _ (.push p 0) => p == q | _ => false)))

/-- Pops the head word of an engine's command queue; the pushes behind it move up. -/
def State.popHead (s : State) (gid q : Nat) : State :=
  let t := s.onGroup gid (fun g => g.setQueue q ((g.queue q).drop 1))
  { t with ops := t.ops.map (fun o =>
      match o.kind with
      | .release scope before entries (.push p n) =>
        if o.gid == gid && p == q then { o with kind := .release scope before entries (.push p (n - 1)) } else o
      | _ => o) }

/-- The parameter words a kind pops (07 R216, 02 R44). -/
def paramsOf (kind : Nat) : Nat := if kind = 1 ∨ kind = 2 then 4 else if kind = 9 then 2 else 0

/-- The command word at the head of a group's q4, once the engine may take it: its release has completed, its parameters are
in q5, and no unfinished transfer of the group holds its bitmap (07 R220). -/
def State.copyHead (s : State) (g : Group) : Option Word :=
  match g.queue 4 with
  | [] => none
  | w :: _ =>
    let kind := wbits w 31 28
    if !s.headReleased g.gid 4 || decide ((g.queue 5).length < paramsOf kind) then none
    else if (kind == 1 || kind == 2) && s.transfers.any (fun t => t.gid == g.gid && t.kind != 9 &&
        wbits t.word 11 10 == wbits w 11 10) then none
    else some w

/-- Takes a command and its parameters off the queues. -/
def State.popCommand (s : State) (gid kind : Nat) : State :=
  (s.popHead gid 4).onGroup gid (fun g => g.setQueue 5 ((g.queue 5).drop (paramsOf kind)))

/-- A command word with a result in bits [27:24]. -/
def withResult (w : Word) (result : Nat) : Word := setBits w 24 4 result

/-- Whether the status queues of a group have room; a retired group's words are discarded (07 R222). -/
def Group.statusRoom (g : Group) (six seven : Nat) : Bool :=
  g.gstate == .retired || (decide ((g.queue 6).length + six ≤ queueDepth 6) && decide ((g.queue 7).length + seven ≤ queueDepth 7))

/-- Pushes a status word to q6 and words to q7. -/
def State.copyStatus (s : State) (gid : Nat) (w : Word) (result : Nat) (more : List Word) : State :=
  (s.pushWords gid 6 [withResult w result]).pushWords gid 7 more

/-- A range that a command may not use: an offset not a multiple of 128, an empty range, or bytes past its end (07 R217). -/
def badRange (r : BufRec) (off count : Nat) : Bool :=
  off % 128 != 0 || r.range == 0 || decide (r.range < off + count)

/-- The faults of a barrier word: MBZ bits, or with bit 31 a scope or an index that is not the kernel's (07 R216, R217). -/
def badBarrier (k : KernelRec) (w : Word) : Bool :=
  wbits w 27 8 != 0 || (wbit w 31 && (decide (4 < wbits w 30 28) || decide (k.bars.getD (wbits w 30 28) 0 ≤ wbits w 7 0)))

/-- Whether a command is rejected (07 R217). -/
def State.copyRejects (s : State) (g : Group) (w : Word) (src dst : BufRec) (srcOff dstOff count : Nat) (barrier : Word) : Bool :=
  let k := s.recordOf g
  let copy := wbits w 31 28 == 1
  wbits w 27 24 != 0 || wbit w 8 || count == 0 || count % 128 != 0 || decide (2 ^ 26 < count) ||
    badRange dst dstOff count || (copy && (badRange src srcOff count || src.remote)) || badBarrier k barrier ||
    (k.engRate == 0 && (!dst.reserved || (copy && !src.reserved)))

/-! ### Starting a transfer (07 R219, R221) -/

/-- A byte range of a record for a group: its space and addresses. -/
def State.runOf (s : State) (g : Group) (r : BufRec) (off count : Nat) : Space × Nat × Nat :=
  let p := s.place g r (r.base + off) 1
  (p.1, p.2.1, p.2.1 + count)

/-- Whether a transfer of a kind would wait to start: an owned range overlaps its source or destination, a table of owned
ranges is full, or stores of the core to its destination are still on their way (07 R221, 08 R227). -/
def State.transferWaits (s : State) (g : Group) (t : Transfer) : Bool :=
  let part (h : Word) : Option Nat := (s.inst? h).map (fun i => i.part)
  let owning := s.transfers.filter (fun u => u.kind != 9)
  let src := s.runOf g (bufRec t.src) t.srcOff t.count
  let dst := s.runOf g (bufRec t.dst) t.dstOff t.count
  (t.kind != 2 && !(s.owners src.1 src.2.1 src.2.2).isEmpty) ||
    (t.kind != 9 && (!(s.owners dst.1 dst.2.1 dst.2.2).isEmpty ||
      decide (32 ≤ (owning.filter (fun u => u.core == t.core)).length) ||
      decide (256 ≤ (owning.filter (fun u => part u.handle == part t.handle)).length) ||
      s.commits.any (fun c => c.core == t.core && c.space == dst.1 && overlaps dst.2.1 dst.2.2 c.block (c.block + 16))))

/-- Chunks of a transfer (07 R219). -/
def chunksOf (count : Nat) : Nat := ceilDiv count 4096

/-- The bitmap a transfer marks. -/
def Transfer.map (t : Transfer) : Nat := wbits t.word 11 10

/-- A bitmap of a group. -/
def Group.bitmap (g : Group) (m : Nat) : Nat := g.bitmaps.getD m 0

/-- Replaces a bitmap of a group. -/
def Group.setBitmap (g : Group) (m v : Nat) : Group :=
  { g with bitmaps := ((List.range 4).map (fun i => g.bitmaps.getD i 0)).set m v }

/-- Starts a transfer: without RESTART the bits of its chunks are cleared first (07 R219). -/
def State.startTransfer (s : State) (t : Transfer) : State :=
  let n := chunksOf t.count
  let s1 := if wbit t.word 9 then s
    else s.onGroup t.gid (fun g => g.setBitmap t.map (g.bitmap t.map / 2 ^ n * 2 ^ n))
  { s1 with transfers := s1.transfers ++ [t] }

/-- COPY_COMMAND and FILL_COMMAND: the command of a kind at the head of a group's q4 is taken; it is rejected, or its transfer
starts (07 R216 to R221). -/
def State.copyTake (s : State) (gid kind : Nat) : State :=
  match s.group? gid with
  | none => s
  | some g =>
    match s.copyHead g with
    | none => s
    | some w =>
      if wbits w 31 28 != kind then s
      else
        let p := (g.queue 5).take 4
        let at_ (i : Nat) : Nat := (p.getD i 0#32).toNat
        let copy := kind == 1
        let srcOff := if copy then at_ 0 else 0
        let dstOff := if copy then at_ 1 else at_ 0
        let count := if copy then at_ 2 else at_ 1
        let barrier := p.getD 3 0#32
        let src := Sparse.get 0#256 g.recs (wbits w 23 18)
        let dst := Sparse.get 0#256 g.recs (wbits w 17 12)
        if s.copyRejects g w (bufRec src) (bufRec dst) srcOff dstOff count barrier then
          if g.statusRoom 1 1 then (s.popCommand gid kind).copyStatus gid w 2 [0#32] else s
        else
          let (id, s1) := s.fresh
          let t : Transfer := {
            id := id, core := g.core, gid := gid, handle := g.ctl.handle, kind := kind, word := w
            src := if copy then src else 0#256
            dst := dst, srcOff := srcOff, dstOff := dstOff, count := count
            pattern := p.getD 2 0#32
            object := if wbit barrier 31 then some (s.objectOf g (wbits barrier 30 28) (wbits barrier 7 0)) else none
            next := 0, flying := [], again := [], held := [], stopped := none }
          if s.transferWaits g t then s else (s1.popCommand gid kind).startTransfer t

/-- COPY_COMMAND. -/
def execCopyCommand (s : State) : Host.Outcome State Fault Refusal := .next (s.tick.copyTake s.turn.x 1)

/-- FILL_COMMAND. -/
def execFillCommand (s : State) : Host.Outcome State Fault Refusal := .next (s.tick.copyTake s.turn.x 2)

/-- COPY_UNKNOWN_KIND: a command of another kind pops no parameter and ends with result 2 (07 R216). -/
def execCopyUnknownKind (s : State) : Host.Outcome State Fault Refusal :=
  match s.group? s.turn.x with
  | none => .next s.tick
  | some g =>
    match s.copyHead g with
    | none => .next s.tick
    | some w =>
      if paramsOf (wbits w 31 28) == 0 && g.statusRoom 1 0 then .next ((s.tick.popCommand g.gid 0).copyStatus g.gid w 2 [])
      else .next s.tick

/-! ### Moving lines (07 R217 to R219; 08 R236) -/

/-- The page a transfer moves a byte through: a translation it holds, or the table's (07 R219). -/
def State.transferPage (s : State) (t : Transfer) (va : Nat) (k : AccessKind) : Option Page :=
  match t.held.find? (fun p => decide (p.va ≤ va) && decide (va < p.va + p.size) && p.permits k) with
  | some p => some p
  | none => match s.translate t.handle va k with | .ok _ p => some p | _ => none

/-- The region of a byte of a page that has not been scrubbed (03 R76). -/
def State.soiledAt (s : State) (pg : Option Page) (va : Nat) : Option Nat :=
  match pg with
  | none => none
  | some p => if s.mem.clean (p.phys va) then none else some (regionOf (p.phys va))

/-- Whether a core's requests reach a byte of a page (03 R67). -/
def State.pageOpen (s : State) (core : Nat) (pg : Option Page) (va : Nat) : Bool :=
  match pg with
  | none => true
  | some p => s.crossing (dieOfCore core) (sliceOf (p.phys va) / 64)

/-- A byte of a transfer's source: its value, whether its line is poisoned, the page it came through, and its region when
that has not been scrubbed; `closed` says that the firewall keeps the engine from its home (03 R67). -/
structure SourceByte where
  byte   : Byte
  poison : Bool := false
  page   : Option Page := none
  soiled : Option Nat := none
  closed : Bool := false
deriving DecidableEq, Repr

/-- Reads a byte of a transfer's source through the core's memory unit (08 R236), or answers the address that does not
translate. -/
def State.sourceByte (s : State) (g : Group) (t : Transfer) (i : Nat) : Except Nat SourceByte :=
  if t.kind = 2 then .ok { byte := t.pattern.extractLsb' (8 * ((t.dstOff + i) % 4)) 8 }
  else
    let a := (bufRec t.src).byteAddr (t.srcOff + i)
    let p := s.place g (bufRec t.src) a 1
    let seen (sp : Space) (v phys : Nat) : Byte := (s.coreBytes t.core sp v (fun _ => false) [s.homeByte sp phys]).headD 0#8
    match p.1 with
    | .virt h =>
      (match s.transferPage t a .read with
      | none => .error a
      | some pg => .ok { byte := seen (.virt h) a (pg.phys a), poison := s.mem.poisoned (pg.phys a), page := some pg
                         soiled := s.soiledAt (some pg) a, closed := !s.passes t.core (.virt h) (pg.phys a) })
    | sp => .ok { byte := if p.2.2 then seen sp p.2.1 p.2.1 else Config.spadOutside s.freeCtr a }

/-- Source bytes by their places in a transfer, or the first address that does not translate. -/
def State.sourceBytes (s : State) (g : Group) (t : Transfer) : List Nat → Except Nat (List SourceByte)
  | [] => .ok []
  | i :: is =>
    match s.sourceByte g t i with
    | .error a => .error a
    | .ok b =>
      match s.sourceBytes g t is with
      | .error a => .error a
      | .ok bs => .ok (b :: bs)

/-- Adds pages to the ones a transfer holds. -/
def holdPages (held : List Page) (more : List Page) : List Page :=
  more.foldl (fun l p => if l.contains p then l else l ++ [p]) held

/-- The bytes of a destination line: byte addresses from lo up to hi, and for each its place in the transfer (07 R217, R218;
a swizzle undoes itself). -/
def Transfer.lineBytes (t : Transfer) (lo hi : Nat) : List (Nat × Nat) :=
  let r := bufRec t.dst
  (List.range (hi - lo)).map (fun j =>
    let rel := lo + j - r.base
    (lo + j, swizzle r.swz (rel / 4 * 4) + rel % 4 - t.dstOff))

/-- Writes the bytes of one line of a destination as one unit (07 R218, 08 R237), poisoned when a source line was
(07 R222). -/
def State.writeLine (s : State) (g : Group) (t : Transfer) (page : Option Page) (lo : Nat) (bs : List Byte) (poison : Bool) : State :=
  let r := bufRec t.dst
  let p := s.place g r lo 1
  let bits (a : Nat) : Nat := (2 ^ (8 * bs.length) - 1) * 256 ^ (a % 128)
  let data (a : Nat) : Nat := natOfBytes bs * 256 ^ (a % 128)
  match p.1, page with
  | .virt h, some pg =>
    let phys := pg.phys (lo / 128 * 128)
    let w := s.writeHome (.virt h) phys 128 (bits lo) (data lo)
    if poison then w.1.onMem (fun m => { m with poison := insertSorted (phys / 128 * 128) m.poison }) else w.1
  | .virt _, none => s
  | .sram, _ => if p.2.2 then (s.writeHome .sram (p.2.1 / 128 * 128) 128 (bits p.2.1) (data p.2.1)).1 else s
  | .fabric h k, _ =>
    (List.range 8).foldl (fun u i => u.storeFar h k (lo / 128 * 128 + 16 * i) (BitVec.ofNat 128 (bits lo / 256 ^ (16 * i)))
      (BitVec.ofNat 128 (data lo / 256 ^ (16 * i)))) s

/-- A transfer that stops: no further line leaves (07 R222). -/
def State.stopTransfer (s : State) (t : Transfer) (result va : Nat) (dest : Bool) : State :=
  { s with transfers := replaceFirst (fun u => u.id == t.id) { t with stopped := some (result, va, dest) } s.transfers }

/-- What sending one line comes to. -/
inductive LineSent where
  | sent (s : State) (t : Transfer)
  | stopped (s : State)
  | waits (region : Nat)
  | shut

/-- Sends the line of a destination that starts at an address, over the bytes of a chunk (07 R218, R219, R222): its source
bytes are read, its page is translated at the first line within it, and its home writes it. -/
def State.sendLine (s : State) (g : Group) (t : Transfer) (lo hi : Nat) : LineSent :=
  match s.sourceBytes g t ((t.lineBytes lo hi).map (fun m => m.2)) with
  | .error a => .stopped (s.stopTransfer t 4 a false)
  | .ok bs =>
    let virt := match (s.place g (bufRec t.dst) lo 1).1 with | .virt _ => true | _ => false
    let page := if virt then s.transferPage t lo .write else none
    if virt && page.isNone then .stopped (s.stopTransfer t 4 lo true)
    else
      if bs.any (fun b => b.closed) || !s.pageOpen t.core page lo then .shut
      else match (s.soiledAt page lo :: bs.map (fun b => b.soiled)).findSome? id with
      | some r => .waits r
      | none =>
        let held := holdPages t.held (bs.filterMap (fun b => b.page) ++ page.toList)
        .sent (s.writeLine g t page lo (bs.map (fun b => b.byte)) (bs.any (fun b => b.poison))) { t with held := held }

/-- Sends the lines of a chunk, ascending (07 R219). -/
def State.sendLines (s : State) (g : Group) (t : Transfer) : List (Nat × Nat) → LineSent
  | [] => .sent s t
  | l :: ls =>
    match s.sendLine g t l.1 l.2 with
    | .sent s' t' => s'.sendLines g t' ls
    | r => r

/-- The destination bytes of a chunk. -/
def Transfer.chunk (t : Transfer) (k : Nat) : Nat × Nat :=
  let lo := (bufRec t.dst).base + t.dstOff + 4096 * k
  (lo, min (lo + 4096) ((bufRec t.dst).base + t.dstOff + t.count))

/-- The lines of a chunk: each as the bytes of it that the chunk covers. -/
def Transfer.chunkLines (t : Transfer) (k : Nat) : List (Nat × Nat) :=
  let c := t.chunk k
  (linesOf c.1 (c.2 - c.1)).map (fun l => (max l c.1, min (l + 128) c.2))

/-- Whether a page still has lines of a transfer within it that are unsent or unacknowledged (07 R219). -/
def Transfer.needs (t : Transfer) (bitmap : Nat) (p : Page) : Bool :=
  let src := (bufRec t.src).base + t.srcOff
  let dst := (bufRec t.dst).base + t.dstOff
  (List.range (chunksOf t.count)).any (fun k =>
    (t.flying.contains k || (t.stopped.isNone && decide (t.next ≤ k) && !bitmap.testBit k)) &&
      (overlaps p.va (p.va + p.size) (t.chunk k).1 (t.chunk k).2 ||
        (t.kind == 1 && overlaps p.va (p.va + p.size) (src + ((t.chunk k).1 - dst)) (src + ((t.chunk k).2 - dst)))))

/-- Puts a transfer back without the translations it no longer needs. -/
def State.putTransfer (s : State) (t : Transfer) : State :=
  let bitmap := match s.group? t.gid with | none => 0 | some g => g.bitmap t.map
  { s with transfers := replaceFirst (fun u => u.id == t.id) { t with held := t.held.filter (t.needs bitmap) } s.transfers }

/-- The next chunk that a transfer has to send: those whose bits are set are skipped (07 R219). -/
def Transfer.nextChunk (t : Transfer) (bitmap : Nat) : Option Nat :=
  (List.range (chunksOf t.count)).find? (fun k => decide (t.next ≤ k) && !bitmap.testBit k)

/-- Whether a record that a transfer uses is lost (04 R121). -/
def State.transferLost (s : State) (g : Group) (t : Transfer) : Bool :=
  let lost (image : Word256) (slot : Nat) : Bool := (bufRec image).reserved && s.recordLost g slot
  lost t.dst (wbits t.word 17 12) || (t.kind == 1 && lost t.src (wbits t.word 23 18))

/-- Counts the slots that the lines of a chunk used in the instances of reserved records. -/
def State.chunkSlots (s : State) (g : Group) (t : Transfer) (lines : Nat) : State :=
  let s1 := if (bufRec t.dst).reserved then s.useSlots g (wbits t.word 17 12) true lines else s
  if t.kind = 1 ∧ (bufRec t.src).reserved then s1.useSlots g (wbits t.word 23 18) false lines else s1

/-- Sends the next chunk of a transfer, when fewer than 32 are in flight (07 R219). A transfer whose reservation is lost
stops with result 1. The lines of a chunk that a fault cuts short stay written (R222). -/
def State.sendChunk (s : State) (t : Transfer) (g : Group) (k : Nat) : State :=
  if decide (32 ≤ t.flying.length) then s
  else if s.transferLost g t then s.stopTransfer t 1 0 false
  else
    match s.sendLines g { t with next := k + 1, flying := t.flying ++ [k] } (t.chunkLines k) with
    | .sent s' t' => (s'.chunkSlots g t (t.chunkLines k).length).putTransfer t'
    | .stopped s' =>
      { s' with transfers := s'.transfers.map (fun u => if u.id == t.id then { u with flying := u.flying.filter (· != k) } else u) }
    | .waits r => s.onMem (fun m => m.promote r)
    | .shut => s

/-- A chunk completes: every home has acknowledged its lines; its bit is set and its bytes go to the barrier (07 R219). -/
def State.endChunk (s : State) (t : Transfer) (k : Nat) : State :=
  let s1 := s.onGroup t.gid (fun g => g.setBitmap t.map (g.bitmap t.map ||| 2 ^ k))
  let s2 := s1.putTransfer { t with flying := t.flying.filter (· != k) }
  match t.object with
  | none => s2
  | some o =>
    let (n, s3) := s2.fresh
    { s3 with landed := s3.landed ++ [⟨n, o, (t.chunk k).2 - (t.chunk k).1⟩] }

/-- COPY_CHUNK_COMPLETE of a chunk of a transfer: a chunk in flight completes; else, when it is the next, its lines leave. -/
def State.chunkComplete (s : State) (id k : Nat) : State :=
  match s.transfers.find? (fun t => t.id == id) with
  | none => s
  | some t =>
    match s.group? t.gid with
    | none => s
    | some g =>
      if t.kind == 9 then s
      else if t.flying.contains k then s.endChunk t k
      else if t.stopped.isNone && t.nextChunk (g.bitmap t.map) == some k then s.sendChunk t g k
      else s

/-- COPY_CHUNK_COMPLETE. -/
def execCopyChunkComplete (s : State) : Host.Outcome State Fault Refusal := .next (s.tick.chunkComplete s.turn.x s.turn.y)

/-! ### COPY_TRANSFER_END (07 R221, R222) -/

/-- The words a transfer pushes to q7: the set bits among its chunks', and for a translation fault the address. -/
def Transfer.q7 (t : Transfer) (bitmap : Nat) : List Word :=
  let set := ((List.range (chunksOf t.count)).filter (fun k => bitmap.testBit k)).length
  BitVec.ofNat 32 set :: (match t.stopped with
    | some (4, va, dest) => [BitVec.ofNat 32 va, BitVec.ofNat 32 (bitsOf va 56 32 + if dest then 2 ^ 31 else 0)]
    | _ => [])

/-- COPY_TRANSFER_END of a transfer: with its chunks done, or stopped with none in flight, it pushes its status, its range is
free, and the range's lines leave the L1 of its core. -/
def State.transferEnd (s : State) (id : Nat) : State :=
  match s.transfers.find? (fun t => t.id == id) with
  | none => s
  | some t =>
    match s.group? t.gid with
    | none => s
    | some g =>
      let more := t.q7 (g.bitmap t.map)
      if t.kind == 9 || !t.flying.isEmpty || (t.stopped.isNone && (t.nextChunk (g.bitmap t.map)).isSome) ||
          !g.statusRoom 1 more.length then s
      else
        let s1 := { s with transfers := s.transfers.filter (fun u => u.id != id) }
        (s1.onCore t.core (fun k => k.dropL1Range t.handle t.reach.1 t.reach.2)).copyStatus t.gid t.word
          (match t.stopped with | some (r, _, _) => r | none => 0) more

/-- COPY_TRANSFER_END. -/
def execCopyTransferEnd (s : State) : Host.Outcome State Fault Refusal := .next (s.tick.transferEnd s.turn.x)

end Sys2Proof.Machine
end

