-- ==== Sys2Proof/Machine/Lease.lean ====
section
/-!
DEFINITION. The lease instructions (15 R428 to R431; 02 R28 to R34, R42, R48): 0x9C to 0x9F. Each sends a request that the lease
controller applies at the next frame boundary (LEASE_CONTROLLER_APPLY).
-/
namespace Sys2Proof.Machine

/-- The place of an issuer in the order of 02 R28: die, quad and core (the package core number), rail, seat. -/
def issuerRank (core seat : Nat) : Nat := core * 65536 + railOfSeat seat * 256 + seat

/-- Whether an installation has a lease pool on the package. -/
def State.hasPool (s : State) (handle : Word) : Bool := s.fab.pools.any (fun p => p.handle == handle)

/-- Sends a lease request of a group. -/
def Ctx.sendLease (x : Ctx) (s : State) (kind : LeaseKind) (dest count : Word) (op : Nat) : State :=
  s.onFab (fun f => { f with requests := f.requests ++
    [⟨kind, x.gid, issuerRank x.g.core (x.g.seat.getD 0), x.g.ctl.handle, dest, count, op, s.pkg.frame⟩] })

/-- RESV_LOST of a lost stream (02 R48), then LEASE without a pool (15 R429). -/
def Ctx.testLease (x : Ctx) (s : State) (dest : Word) : Option Trap :=
  match s.lostStream x.g with
  | some n => some ⟨0x10, maskOf x.L, 0x100 + n, 0⟩
  | none => if s.hasPool x.g.ctl.handle then none else some ⟨0x0B, maskOf x.L, 2, wbits dest 11 0⟩

/-- LEASE and UNLEASE (15 R428, R429): the request leaves at once; a shadow sends none (06 R191). -/
def Ctx.leaseCount (x : Ctx) (s : State) (kind : LeaseKind) : Act :=
  let dest := x.rd s .a x.low
  match x.testLease s dest with
  | some t => .trap t
  | none =>
    if x.g.ctl.shadow then .done s
    else if 64 ≤ x.g.leaseOut + (x.g.queue 10).length then .wait .queueFull .leaseRoom
    else .done ((x.sendLease s kind dest (x.rd s .b x.low) 0).onGroup x.gid (fun g => { g with leaseOut := g.leaseOut + 1 }))

/-- The page of LEASE and UNLEASE. -/
def leaseForm : Form := { d := .unused, a := .reg, b := .reg, one := true }

/-- LEASE. -/
def execLease (d a b : Byte) : State → Host.Outcome State Fault Refusal :=
  issue leaseForm 0x9C d a b (fun x s => x.leaseCount s .lease)

/-- UNLEASE. -/
def execUnlease (d a b : Byte) : State → Host.Outcome State Fault Refusal :=
  issue leaseForm 0x9D d a b (fun x s => x.leaseCount s .unlease)

/-- LEASEQ (15 R430): an operation whose pair is written when the request is applied. -/
def leaseQuery (x : Ctx) (s : State) : Act :=
  let dest := x.rd s .a x.low
  match x.testLease s dest with
  | some t => .trap t
  | none =>
    if 64 ≤ x.g.leaseOut + (x.g.queue 10).length then .wait .queueFull .leaseRoom
    else .done ((x.sendLease (x.start s 2 .lease) .leaseq dest 0#32 s.nextId).onGroup x.gid
      (fun g => { g with leaseOut := g.leaseOut + 1 }))

/-- LEASEQ. -/
def execLeaseq (d a b : Byte) : State → Host.Outcome State Fault Refusal :=
  issue { d := .pair, a := .reg, b := .unused, dWrite := true, long := true, one := true } 0x9E d a b leaseQuery

/-- SLOTSET (15 R431, 12 R318): an operation whose status is written when the entry is. -/
def slotSet (x : Ctx) (s : State) : Act :=
  let sel := x.reg s x.a x.low
  let entry := x.reg s (x.a + 1) x.low
  match x.pairMbz sel entry 0xFFC0F0C0#32 0x300000FF#32 with
  | some a => a
  | none => .done (x.sendLease (x.start s 1 .lease) (.slotset entry sel) 0#32 0#32 s.nextId)

/-- SLOTSET. -/
def execSlotset (d a b : Byte) : State → Host.Outcome State Fault Refusal :=
  issue { d := .reg, a := .pair, b := .unused, dWrite := true, long := true, one := true, priv := true } 0x9F d a b slotSet

end Sys2Proof.Machine
end

