-- ==== Sys2Proof/Machine/Channels.lean ====
section
/-!
DEFINITION. Transmit channels (02 R20 to R37, R42, R43, R46 to R49): the rotation and the slot table, the lease controller, failures,
re-placement and repair: LEASE_CONTROLLER_APPLY, GUARD_ELAPSED, DRAIN_COMPLETE, TURN_BOUNDARY, ROTCFG_WRITE,
ROTCFG_TAKE_EFFECT, LASER_FAILURE, PORT_FAILURE, STREAM_REPLACEMENT, CHANNEL_REPAIR, POOL_ALLOTMENT and
FABRIC_EVENT_DELIVER. A channel's number is port × 16 + laser, and a slot-table entry's is channel × 64 + turn.
-/
namespace Sys2Proof.Machine

/-! ### Planes and reach (02 R20 to R24) -/

/-- The number of a channel. -/
def chanOf (port laser : Nat) : Nat := 16 * port + laser

/-- The number of a slot-table entry (02 R33). -/
def slotOf (chan turn : Nat) : Nat := 64 * chan + turn

/-- Whether the plane of a port reaches a package: a row port its own row, a column port its own column (02 R20). -/
def Fabric.reaches (f : Fabric) (port dest : Nat) : Bool :=
  decide (dest < 4096) && dest != f.self &&
    (if port < 18 then dest / 64 == f.row else decide (port < 36) && dest % 64 == f.column)

/-- Whether a destination is direct (02 R24). -/
def Fabric.direct (f : Fabric) (dest : Nat) : Bool := f.reaches 0 dest || f.reaches 18 dest

/-- The package that the first hop to a destination goes to (02 R24). -/
def Fabric.firstHop (f : Fabric) (dest : Nat) : Nat := if f.direct dest then dest else f.row * 64 + dest % 64

/-- Relay lasers of a column-plane port (02 R41, Table 2.4). -/
def Fabric.relayLasers (f : Fabric) (port : Nat) : Nat :=
  if port < 18 then 0 else wbits f.relayCfg (2 * ((port - 18) % 9) + 1) (2 * ((port - 18) % 9))

/-- Whether a channel may belong to a pool: no relay laser and not the collective laser (02 R27, R41, R51). -/
def Fabric.poolable (f : Fabric) (chan : Nat) : Bool :=
  decide (chan < 576) && chan % 16 != 15 && decide (f.relayLasers (chan / 16) ≤ chan % 16)

/-! ### The rotation (02 R31, R32) -/

/-- Turns of a rotation. -/
def rotTurns (w : Word) : Nat := wbits w 31 26 + 1
/-- Frames of a turn. -/
def rotLength (w : Word) : Nat := wbits w 25 16
/-- Guard frames of a turn. -/
def rotGuard (w : Word) : Nat := wbits w 15 12

/-- Whether a ROTCFG value is valid (02 R32). -/
def rotValid (w : Word) : Bool :=
  decide (2 ≤ rotLength w) && rotGuard w != 0 && decide (rotGuard w < rotLength w) && wbits w 11 0 == 0

/-- The turn of a frame. -/
def turnAt (w : Word) (frame : Nat) : Nat := frame / max 1 (rotLength w) % rotTurns w

/-- Whether a frame is a guard frame. -/
def guardAt (w : Word) (frame : Nat) : Bool := decide (frame % max 1 (rotLength w) < rotGuard w)

/-- Whether the package may send slotted data: its ROTCFG agrees with the reference's (02 R32). -/
def Fabric.rotAgrees (f : Fabric) : Bool := match f.rotRef with | none => true | some w => w == f.rotcfg

/-! ### Channels and entries (02 R28, R33) -/

/-- A channel, if it is in a pool. -/
def Fabric.chan? (f : Fabric) (chan : Nat) : Option Channel :=
  match Sparse.get (none : Option Channel) (f.channels.map (fun e => (e.1, some e.2))) chan with
  | some c => some c
  | none => none

/-- Replaces a channel. -/
def Fabric.putChan (f : Fabric) (chan : Nat) (c : Channel) : Fabric :=
  { f with channels := (f.channels.filter (fun e => decide (e.1 < chan))) ++ [(chan, c)] ++
      f.channels.filter (fun e => decide (chan < e.1)) }

/-- Takes a channel out of its pool. -/
def Fabric.dropChan (f : Fabric) (chan : Nat) : Fabric := { f with channels := f.channels.filter (fun e => e.1 != chan) }

/-- A slot-table entry. -/
def Fabric.entry (f : Fabric) (chan turn : Nat) : Word := Sparse.get 0#32 f.slots (slotOf chan turn)

/-- The destination of an entry. -/
def entryDest (e : Word) : Nat := wbits e 27 16

/-- An entry of a pool (02 Table 2.3). -/
def makeEntry (garnet : Bool) (dest pool : Nat) : Word :=
  BitVec.ofNat 32 (2 ^ 31 + (if garnet then 2 ^ 30 else 0) + dest % 4096 * 2 ^ 16 + pool % 256 * 2 ^ 8)

/-- The destination a channel's entry gives a turn, if the entry applies there (02 R33). -/
def Fabric.turnDest (f : Fabric) (chan turn : Nat) : Option Nat :=
  let e := f.entry chan turn
  if wbit e 31 && decide (turn < rotTurns f.rotcfg) && (f.chan? chan).any (fun c => c.state == .slotted) then some (entryDest e)
  else none

/-- The turns of the rotation. -/
def Fabric.turns (f : Fabric) : List Nat := List.range (rotTurns f.rotcfg)

/-- Whether a channel is SLOTTED to a destination in some turn. -/
def Fabric.slottedTo (f : Fabric) (chan dest : Nat) : Bool := f.turns.any (fun t => f.turnDest chan t == some dest)

/-- Whether a state ties a channel to its destination (02 R29, R33). -/
def ChannelState.tuned (c : ChannelState) : Bool := c == .standing || c == .tuning || c == .draining

/-- The channels of a port. -/
def Fabric.ofPort (f : Fabric) (port : Nat) : List (Nat × Channel) := f.channels.filter (fun e => e.1 / 16 == port)

/-- Whether a port is tuned to a destination in a turn, leaving a channel out (02 R33). -/
def Fabric.portTunedIn (f : Fabric) (port turn dest but : Nat) : Bool :=
  (f.ofPort port).any (fun e => (e.2.state.tuned && e.2.dest == dest) || (e.1 != but && f.turnDest e.1 turn == some dest))

/-- Whether any channel of a port is tuned to a destination in any turn (02 R29). -/
def Fabric.portHolds (f : Fabric) (port dest : Nat) : Bool :=
  (f.ofPort port).any (fun e => (e.2.state.tuned && e.2.dest == dest) || f.slottedTo e.1 dest)

/-- The channels of a pool. -/
def Fabric.ofPool (f : Fabric) (pool : Nat) : List (Nat × Channel) := f.channels.filter (fun e => e.2.pool == pool)

/-- Whether a destination keeps a turn in a pool (02 R35). -/
def Fabric.hasTurn (f : Fabric) (pool dest : Nat) : Bool :=
  (f.ofPool pool).any (fun e => (e.2.state == .standing && e.2.dest == dest) || f.slottedTo e.1 dest)

/-- The pool of an installation. -/
def Fabric.pool? (f : Fabric) (handle : Word) : Option Pool := f.pools.find? (fun p => p.handle == handle)

/-- Replaces a pool. -/
def Fabric.putPool (f : Fabric) (p : Pool) : Fabric := { f with pools := replaceFirst (fun q => q.number == p.number) p f.pools }

/-- Whether a fabric stream of an installation depends on a channel (02 R30). -/
def Installation.streamOn (i : Installation) (chan : Nat) : Bool :=
  i.streams.any (fun st => st.fab.kind == 0 && !st.lost && chanOf st.port st.laser == chan)

/-- Whether an installation holds a lease pool, a fabric stream or a remote record (02 R43). -/
def State.usesFabric (s : State) (i : Installation) : Bool :=
  i.pool.isSome || !i.streams.isEmpty || i.kernels.any (fun k => k.decls.any (fun d => (bufRec d.image).remote)) ||
    s.groups.any (fun g => g.ctl.handle == i.handle && g.recs.any (fun e => (bufRec e.2).remote))

/-- Raises an event that concerns the whole package: to every installation that uses the fabric, or to the host alone when
none does (02 R32, R43). -/
def State.fabricEventAll (s : State) (w : Word) : State :=
  match (s.installs.filter s.usesFabric).map (fun i => i.handle) with
  | [] => s.fabricHostEvent w
  | hs => hs.foldl (fun t h => t.fabricEvent h w) s

/-- Raises an event of a pool's installation, or to the host alone when the channel is in no pool. -/
def State.channelEvent (s : State) (chan : Nat) (w : Word) : State :=
  match s.fab.chan? chan with
  | none => s.fabricHostEvent w
  | some c =>
    match s.fab.pools.find? (fun p => p.number == c.pool) with
    | none => s.fabricHostEvent w
    | some p => s.fabricEvent p.handle w

/-! ### The lease controller (02 R28 to R30, R42; 15 R428 to R431) -/

/-- A lease result word (02 Table 2.5). -/
def leaseWord (op status count dest : Nat) : Word :=
  BitVec.ofNat 32 (op * 2 ^ 28 + status * 2 ^ 24 + count % 256 * 2 ^ 16 + dest % 4096)

/-- Whether a destination passes the tests of R29. -/
def Fabric.leasable (f : Fabric) (p : Pool) (dest : Nat) : Bool :=
  dest != f.self && f.direct dest && f.present.contains dest && p.dests.contains dest

/-- Grants channels of a pool to a destination on the ports of a list (02 R29); answers how many. -/
def Fabric.grant (f : Fabric) (pool dest count : Nat) : List Nat → Fabric × Nat
  | [] => (f, 0)
  | p :: ps =>
    if count = 0 then (f, 0)
    else
      match (if f.reaches p dest && !f.portHolds p dest then (f.ofPort p).find? (fun e => e.2.pool == pool && e.2.state == .free)
        else none) with
      | none => f.grant pool dest count ps
      | some e =>
        let r := (f.putChan e.1 { e.2 with state := .tuning, dest := dest, guard := rotGuard f.rotcfg }).grant pool dest (count - 1) ps
        (r.1, r.2 + 1)

/-- The STANDING channels of a pool to a destination that UNLEASE may drain, highest port first (02 R30). -/
def State.drainable (s : State) (pool dest : Nat) : List Nat :=
  ((s.fab.ofPool pool).filter (fun e => e.2.state == .standing && e.2.dest == dest &&
    !s.installs.any (fun i => i.streamOn e.1))).map (fun e => e.1) |>.reverse

/-- Drains channels: one with an empty queue becomes FREE at once (02 R30). -/
def Fabric.drain (f : Fabric) (chans : List Nat) : Fabric :=
  chans.foldl (fun f n =>
    match f.chan? n with
    | none => f
    | some c => f.putChan n { c with state := if c.queue.isEmpty then .free else .draining }) f

/-- Channels of a pool in some states. -/
def Fabric.countState (f : Fabric) (pool : Nat) (p : ChannelState → Bool) : Nat :=
  ((f.ofPool pool).filter (fun e => p e.2.state)).length

/-- Channels of a pool held to a destination (15 Table 15.8). -/
def Fabric.heldTo (f : Fabric) (pool dest : Nat) : Nat :=
  ((f.ofPool pool).filter (fun e => ((e.2.state == .standing || e.2.state == .tuning) && e.2.dest == dest) ||
    f.slottedTo e.1 dest)).length

/-- The pair LEASEQ writes (15 Table 15.8). -/
def Fabric.leasePair (f : Fabric) (pool held : Nat) : Word × Word :=
  (BitVec.ofNat 32 (f.countState pool (· == .slotted) * 2 ^ 20 + f.countState pool ChannelState.tuned * 2 ^ 10 +
      f.countState pool (· == .free)),
    BitVec.ofNat 32 (held * 2 ^ 10 + f.countState pool (· == .revoked)))

/-- Pushes a request's result word to q10 of its group. -/
def State.leaseResult (s : State) (r : LeaseReq) (op status count : Nat) : State :=
  s.pushWords r.gid 10 [leaseWord op status count (wbits r.dest 11 0)]

/-- Ends the operation a request completes, with one value for each register in every lane. -/
def State.leaseEnd (s : State) (op : Nat) (ws : List Word) : State :=
  match s.op? op with
  | none => s
  | some o => s.endOp o ((laneList o.lanes).flatMap (fun t => laneWrites o.dest t ws))

/-- The status of a slot-table write (15 Table 15.10), the first of 5, 2, 3, 1 and 4 that applies. -/
def Fabric.slotStatus (f : Fabric) (p : Pool) (entry sel : Word) : Nat :=
  let port := wbits sel 5 0
  let turn := wbits sel 21 16
  let chan := chanOf port (wbits sel 11 8)
  let dest := entryDest entry
  let old := f.entry chan turn
  let valid := wbit entry 31
  match f.chan? chan with
  | none => 5
  | some c =>
    if 36 ≤ port || c.pool != p.number || !(c.state == .free || c.state == .slotted) then 5
    else if wbit old 30 then 2
    else if valid && !(p.dests.contains dest && f.reaches port dest) then 3
    else if valid && f.portTunedIn port turn dest chan then 1
    else
      let now : Word := if valid then makeEntry false dest p.number else 0#32
      let f' := ({ f with slots := Sparse.set 0#32 f.slots (slotOf chan turn) now }).putChan chan
        { c with state := if valid then .slotted else c.state }
      if p.dests.any (fun d => f.hasTurn p.number d && !f'.hasTurn p.number d) then 4 else 0

/-- Writes a slot-table entry that has passed its checks: the channel moves between FREE and SLOTTED (02 Table 2.1). -/
def Fabric.writeEntry (f : Fabric) (pool : Nat) (entry sel : Word) : Fabric :=
  let chan := chanOf (wbits sel 5 0) (wbits sel 11 8)
  let kept := (entry &&& 0x8FFF0000#32) ||| BitVec.ofNat 32 (pool % 256 * 256)
  let f1 := { f with slots := Sparse.set 0#32 f.slots (slotOf chan (wbits sel 21 16)) kept }
  match f1.chan? chan with
  | none => f1
  | some c =>
    let any := (List.range 64).any (fun t => wbit (f1.entry chan t) 31)
    f1.putChan chan { c with state := if any then .slotted else .free }

/-- Applies one lease request (02 R28 to R30, R42, R48; 15 R428, R430, R431). -/
def State.applyLease (s : State) (r : LeaseReq) : State :=
  let dest := r.dest.toNat
  let lost := match s.inst? r.handle with | none => true | some i => i.streamLost
  let bad (p : Pool) : Bool := decide (4096 ≤ dest) || !s.fab.leasable p dest
  let badCount := decide (r.count.toNat = 0) || decide (18 < r.count.toNat)
  match s.fab.pool? r.handle with
  | none => s
  | some p =>
    match r.kind with
    | .lease =>
      if lost then s.leaseResult r 1 4 0
      else if bad p || badCount then s.leaseResult r 1 3 0
      else if !p.starved.isEmpty then s.leaseResult r 1 2 0
      else
        let g := s.fab.grant p.number dest r.count.toNat (List.range 36)
        (s.onFab (fun _ => g.1)).leaseResult r 1 (if g.2 = r.count.toNat then 0 else if 0 < g.2 then 1 else 2) g.2
    | .unlease =>
      if lost then s.leaseResult r 2 4 0
      else if bad p || badCount then s.leaseResult r 2 3 0
      else
        let n := (s.drainable p.number dest).take r.count.toNat
        (s.onFab (fun f => f.drain n)).leaseResult r 2 (if n.length = r.count.toNat then 0 else if 0 < n.length then 1 else 2)
          n.length
    | .leaseq =>
      let held := if lost || bad p then 0 else s.fab.heldTo p.number dest
      let pair := s.fab.leasePair p.number held
      (s.leaseEnd r.op [pair.1, pair.2]).leaseResult r 3 (if lost then 4 else if bad p then 3 else 0) held
    | .slotset entry sel =>
      let status := s.fab.slotStatus p entry sel
      let s1 := if status = 0 then s.onFab (fun f =>
          (f.writeEntry p.number entry sel).putPool { p with starved := if wbit entry 31 then p.starved else [] }) else s
      s1.leaseEnd r.op [BitVec.ofNat 32 status]

/-- Puts a request in its place: ascending issuer, and within one issuer in issue order (02 R28). -/
def insertLease (r : LeaseReq) : List LeaseReq → List LeaseReq
  | [] => [r]
  | q :: qs => if r.rank ≤ q.rank then r :: q :: qs else q :: insertLease r qs

/-- Requests in the controller's order. -/
def sortLeases : List LeaseReq → List LeaseReq
  | [] => []
  | r :: rs => insertLease r (sortLeases rs)

/-- LEASE_CONTROLLER_APPLY: every request of the earlier frames, once a frame boundary has passed (02 R28). A request of an
installation without a pool completes its operation with status 5 (SLOTSET), since no channel is in its pool. -/
def State.leaseApply (s : State) : State :=
  let due := s.fab.requests.filter (fun r => decide (r.frame < s.pkg.frame))
  let s1 := s.onFab (fun f => { f with requests := f.requests.filter (fun r => !decide (r.frame < s.pkg.frame)) })
  (sortLeases due).foldl (fun t r =>
    let t1 := match r.kind with
      | .slotset _ _ => t
      | _ => t.onGroup r.gid (fun g => { g with leaseOut := g.leaseOut - 1 })
    match t1.fab.pool? r.handle, r.kind with
    | none, .slotset _ _ => t1.leaseEnd r.op [5#32]
    | _, _ => t1.applyLease r) s1

/-- LEASE_CONTROLLER_APPLY. -/
def execLeaseControllerApply (s : State) : Host.Outcome State Fault Refusal := .next s.tick.leaseApply

/-- GUARD_ELAPSED of a channel: its guard frames have passed (02 Table 2.1). -/
def execGuardElapsed (s : State) : Host.Outcome State Fault Refusal :=
  let n := chanOf s.turn.x s.turn.y
  match s.fab.chan? n with
  | none => .next s
  | some c =>
    if c.state == .tuning && c.guard == 0 then .next (s.onFab (fun f => f.putChan n { c with state := .standing })) else .next s

/-- DRAIN_COMPLETE of a channel: its queue is empty (02 Table 2.1). -/
def execDrainComplete (s : State) : Host.Outcome State Fault Refusal :=
  let n := chanOf s.turn.x s.turn.y
  match s.fab.chan? n with
  | none => .next s
  | some c =>
    if c.state == .draining && c.queue.isEmpty then .next (s.onFab (fun f => f.putChan n { c with state := .free })) else .next s

/-! ### The rotation moves (02 R31, R32, R37) -/

/-- Whether a receiver has paused this package's allowance flits on a port (02 R39). -/
def Fabric.paused (f : Fabric) (port dest : Nat) : Bool :=
  let p : Port := Sparse.get {} f.ports port
  let source := if port < 18 then dest % 64 else dest / 64
  let mine := if port < 18 then f.column else f.row
  let mask : BitVec 64 := Sparse.get 0#64 p.pauseSeen source
  mask.getLsbD mine

/-- TURN_BOUNDARY of a channel: in the guard frames of a turn a SLOTTED channel sends what its queue still holds for the
destination it was tuned to, but for paused allowance flits, and retunes to the turn's destination (02 R37, R39). -/
def execTurnBoundary (s : State) : Host.Outcome State Fault Refusal :=
  let n := chanOf s.turn.x s.turn.y
  match s.fab.chan? n with
  | none => .next s
  | some c =>
    match s.fab.turnDest n (turnAt s.fab.rotcfg s.pkg.frame) with
    | none => .next s
    | some d =>
      if guardAt s.fab.rotcfg s.pkg.frame && c.dest != d then
        let stays (q : Nat × Flit) : Bool := q.1 != c.dest || (!q.2.reserved && s.fab.paused s.turn.x q.1)
        .next (s.onFab (fun f => f.putChan n { c with dest := d, queue := c.queue.filter stays }))
      else .next s

/-- Notes that the rotation in force differs from the reference's, or that it agrees again; the event is raised when the
difference begins (02 R32). -/
def State.rotCheck (s : State) (before : Bool) : State :=
  if before && !s.fab.rotAgrees then s.fabricEventAll (fabricWord 5 0 0 0) else s

/-- A write to ROTCFG (02 R32). -/
def State.rotWrite (s : State) (w : Word) : State :=
  if rotValid w then s.onFab (fun f => { f with rotNext := some w }) else s.fabricHostEvent (fabricWord 5 0 0 0)

/-- ROTCFG_WRITE. -/
def execRotcfgWrite (value : Word) (s : State) : Host.Outcome State Fault Refusal := .next (s.rotWrite value)

/-- ROTCFG_TAKE_EFFECT: at a frame that starts a rotation of the new length (02 R32). -/
def execRotcfgTakeEffect (s : State) : Host.Outcome State Fault Refusal :=
  match s.fab.rotNext with
  | none => .next s
  | some w =>
    if s.pkg.frame % (rotTurns w * rotLength w) = 0 then
      .next ((s.onFab (fun f => { f with rotcfg := w, rotNext := none })).rotCheck s.fab.rotAgrees)
    else .next s

/-! ### Failures (02 R46, R49) -/

/-- How many (channel, turn) entries of a pool a destination holds. -/
def Fabric.entriesOf (f : Fabric) (pool dest : Nat) : Nat :=
  ((f.ofPool pool).flatMap (fun e => f.turns.filter (fun t => f.turnDest e.1 t == some dest))).length

/-- Whether a destination of a pool keeps a turn without one of its entries (02 R35). -/
def Fabric.canSpare (f : Fabric) (pool dest : Nat) : Bool :=
  decide (2 ≤ f.entriesOf pool dest) || (f.ofPool pool).any (fun e => e.2.state == .standing && e.2.dest == dest)

/-- The usable entries of a pool that a starved destination may take: (channel, turn, destination), in a turn where the port is
not tuned to it already; entries of Garnet are never taken, nor the only turn of a destination (02 R49, R33, R35; log 71). -/
def Fabric.donors (f : Fabric) (pool starved : Nat) : List (Nat × Nat × Nat) :=
  (f.ofPool pool).flatMap (fun e => f.turns.filterMap (fun t =>
    match f.turnDest e.1 t with
    | none => none
    | some d =>
      if d != starved && !wbit (f.entry e.1 t) 30 && f.canSpare pool d && f.reaches (e.1 / 16) starved && !f.portTunedIn (e.1 / 16) t starved e.1
      then some (e.1, t, d) else none))

/-- The entry taken for a starved destination: from the destination with the most entries, the lowest package on ties, its
entry of the highest turn and then the highest port (02 R49). -/
def Fabric.takeFrom (f : Fabric) (pool starved : Nat) : Option (Nat × Nat) :=
  let ds := f.donors pool starved
  let donor := ds.foldl (fun (best : Option Nat) d =>
    match best with
    | none => some d.2.2
    | some b =>
      let nb := f.entriesOf pool b
      let nd := f.entriesOf pool d.2.2
      if nb < nd ∨ (nb = nd ∧ d.2.2 < b) then some d.2.2 else some b) none
  match donor with
  | none => none
  | some b =>
    (ds.filter (fun d => d.2.2 == b)).foldl (fun (best : Option (Nat × Nat)) d =>
      match best with
      | none => some (d.1, d.2.1)
      | some e => if e.2 < d.2.1 ∨ (e.2 = d.2.1 ∧ e.1 < d.1) then some (d.1, d.2.1) else some e) none

/-- Restores R35 for the destinations of a pool that a revocation has left without a turn (02 R49). -/
def Fabric.restore (f : Fabric) (p : Pool) (dests : List Nat) : Fabric :=
  dests.foldl (fun f d =>
    if f.hasTurn p.number d then f
    else
      match f.takeFrom p.number d with
      | some e => { f with slots := Sparse.set 0#32 f.slots (slotOf e.1 e.2) (makeEntry false d p.number) }
      | none =>
        match f.pools.find? (fun q => q.number == p.number) with
        | none => f
        | some q => f.putPool { q with starved := insertSorted d q.starved }) f

/-- Revokes a channel: its queue is discarded, and what its installation's destinations lose is restored (02 R46, R49). -/
def Fabric.revoke (f : Fabric) (chan : Nat) : Fabric :=
  match f.chan? chan with
  | none => f
  | some c =>
    let f1 := { (f.putChan chan { c with state := .revoked, queue := [], guard := 0 }) with
      revoked := if f.revoked.contains chan then f.revoked else f.revoked ++ [chan] }
    match f1.pools.find? (fun p => p.number == c.pool) with
    | none => f1
    | some p => f1.restore p (p.dests.filter (f.hasTurn p.number))

/-- LASER_FAILURE of a channel: event 1 (02 R46). -/
def execLaserFailure (s : State) : Host.Outcome State Fault Refusal :=
  let n := chanOf s.turn.x s.turn.y
  if 36 ≤ s.turn.x ∨ 16 ≤ s.turn.y then .next s
  else
    let dest := ((s.fab.chan? n).map (fun c => if c.state.tuned || c.state == .slotted then c.dest else 0)).getD 0
    .next ((s.onFab (fun f => f.revoke n)).channelEvent n (fabricWord 1 s.turn.x s.turn.y dest))

/-- PORT_FAILURE of a port: its channels and its receive side are out of service, and event 2 goes to the installations whose
pools hold its channels (02 R46). -/
def execPortFailure (s : State) : Host.Outcome State Fault Refusal :=
  let p := s.turn.x
  if 36 ≤ p then .next s
  else
    let handles := ((s.fab.ofPort p).filterMap (fun e => (s.fab.pools.find? (fun q => q.number == e.2.pool)).map (fun q => q.handle))).eraseDups
    let s1 := s.onFab (fun f =>
      let f1 := ((f.ofPort p).map (fun e => e.1)).foldl Fabric.revoke f
      { f1 with ports := Sparse.alter {} f1.ports p (fun q => { q with failed := true, ingress := [], relay := [] }) })
    match handles with
    | [] => .next (s1.fabricHostEvent (fabricWord 2 p 0 0))
    | hs => .next (hs.foldl (fun t h => t.fabricEvent h (fabricWord 2 p 0 0)) s1)

/-- CHANNEL_REPAIR of a channel: FREE, with no valid entry left (02 Table 2.1); its port's receive side serves again. -/
def execChannelRepair (s : State) : Host.Outcome State Fault Refusal :=
  let n := chanOf s.turn.x s.turn.y
  match s.fab.chan? n with
  | none => .next s
  | some c =>
    if c.state == .revoked then
      .next (s.onFab (fun f => { (f.putChan n { c with state := .free, dest := 0 }) with
        slots := Sparse.keep (fun k => k / 64 != n) f.slots
        revoked := f.revoked.filter (· != n)
        ports := Sparse.alter {} f.ports s.turn.x (fun q => { q with failed := false }) }))
    else .next s

/-! ### STREAM_REPLACEMENT (02 R47) -/

/-- The turns a stream record names. -/
def FabRec.turnList (f : FabRec) : List Nat := (List.range 64).filter (fun t => wbit f.turns t)

/-- Whether a channel of a pool may take the turns of a stream (02 R33, R47). -/
def Fabric.canTake (f : Fabric) (pool chan dest : Nat) (turns : List Nat) (slotted : Bool) : Bool :=
  match f.chan? chan with
  | none => false
  | some c =>
    c.pool == pool && (c.state == .free || (slotted && c.state == .slotted)) && f.reaches (chan / 16) dest &&
      turns.all (fun t => !f.portTunedIn (chan / 16) t dest chan &&
        (!wbit (f.entry chan t) 31 || entryDest (f.entry chan t) == dest))

/-- Writes the entries of a stream on a channel, with G = 1 (02 R34). -/
def Fabric.placeStream (f : Fabric) (pool chan dest : Nat) (turns : List Nat) : Fabric :=
  let f1 := { f with slots := turns.foldl (fun m t => Sparse.set 0#32 m (slotOf chan t) (makeEntry true dest pool)) f.slots }
  match f1.chan? chan with
  | none => f1
  | some c => f1.putChan chan { c with state := .slotted }

/-- Clears the entries of a stream on a channel. -/
def Fabric.clearStream (f : Fabric) (chan : Nat) (turns : List Nat) : Fabric :=
  { f with slots := turns.foldl (fun m t => Sparse.set 0#32 m (slotOf chan t) 0#32) f.slots }

/-- The transfers of a stream of an installation. -/
def Transfer.onStream (t : Transfer) (handle : Word) (stream : Nat) : Bool :=
  t.kind == 9 && t.handle == handle && wbits t.word 23 16 == stream

/-- Re-places one stream whose channel is revoked: event 4 and its unacknowledged lines go again; or it is lost: event 3, and
its transfers end with result 1 (02 R47). -/
def State.replaceStream (s : State) (handle : Word) (st : Stream) : State :=
  match s.inst? handle with
  | none => s
  | some i =>
    let old := chanOf st.port st.laser
    let turns := st.fab.turnList
    let pool := i.pool.getD 256
    let put (t : State) (st' : Stream) : State := t.onInst handle (fun i => { i with
      streams := i.streams.map (fun u => if u == st then st' else u), streamLost := i.streamLost || st'.lost })
    match ((s.fab.ofPool pool).map (fun e => e.1)).find? (fun n => s.fab.canTake pool n st.dest turns false) with
    | some n =>
      let s1 := s.onFab (fun f => (f.clearStream old turns).placeStream pool n st.dest turns)
      let s2 := put s1 { st with port := n / 16, laser := n % 16 }
      ({ s2 with transfers := s2.transfers.map (fun (t : Transfer) =>
          if t.onStream handle st.fab.stream then { t with again := t.flying } else t) }).fabricEvent handle
        (fabricWord 4 (n / 16) (n % 16) st.dest)
    | none =>
      let s1 := put s { st with lost := true }
      ({ s1 with transfers := s1.transfers.map (fun (t : Transfer) =>
          if t.onStream handle st.fab.stream then { t with stopped := some (1, 0, false), flying := [], again := [] } else t) }).fabricEvent
        handle (fabricWord 3 st.port st.laser st.dest)

/-- STREAM_REPLACEMENT: each reserved stream on a channel revoked since the last one (02 R47). -/
def execStreamReplacement (s : State) : Host.Outcome State Fault Refusal :=
  let hit := s.installs.flatMap (fun i => (i.streams.filter (fun st =>
    st.fab.kind == 0 && !st.lost && s.fab.revoked.contains (chanOf st.port st.laser))).map (fun st => (i.handle, st)))
  .next ((hit.foldl (fun t p => t.replaceStream p.1 p.2) s).onFab (fun f => { f with revoked := [] }))

/-! ### POOL_ALLOTMENT, FABRIC_EVENT_DELIVER (02 R27, R35, R43) -/

/-- The lowest pool number that no pool holds (02 R27). -/
def Fabric.freePool (f : Fabric) : Option Nat := (List.range 256).find? (fun n => !f.pools.any (fun p => p.number == n))

/-- Gives an installation a pool (02 R27). -/
def State.makePool (s : State) (handle : Word) : State :=
  match s.fab.pool? handle, s.fab.freePool with
  | none, some n => (s.onFab (fun f => { f with pools := f.pools ++ [⟨n, handle, [], []⟩] })).onInst handle (fun i => { i with pool := some n })
  | _, _ => s

/-- Sets the destination list of a pool: those named and those of the installation's send streams (02 R27); a list longer than
channels × turns is not taken, and event 5 reports it (R35). -/
def State.setDests (s : State) (handle : Word) (dests : List Nat) : State :=
  match s.fab.pool? handle with
  | none => s
  | some p =>
    let own := match s.inst? handle with
      | none => []
      | some i => (i.streams.filter (fun st => st.fab.kind == 0)).map (fun st => st.dest)
    let all := distinct (dests.filter (fun d => decide (d < 4096)) ++ own)
    if (s.fab.ofPool p.number).length * rotTurns s.fab.rotcfg < all.length then s.fabricEvent handle (fabricWord 5 0 0 0)
    else s.onFab (fun f => f.putPool { p with dests := all, starved := p.starved.filter all.contains })

/-- Adds the destinations of the send streams that Garnet has placed to the pool's list (02 R27). -/
def State.addDests (s : State) (handle : Word) : State :=
  match s.fab.pool? handle with
  | none => s
  | some p => s.setDests handle p.dests

/-- Allots channels and destinations to a pool (02 R27, R35): channels outside every pool join it FREE; a FREE channel that the
list no longer names leaves. -/
def State.allot (s : State) (handle : Word) (chans dests : List Nat) : State :=
  match s.fab.pool? handle with
  | none => s
  | some p =>
    let f1 := ((s.fab.ofPool p.number).filter (fun e => e.2.state == .free && !chans.contains e.1)).foldl (fun f e => f.dropChan e.1) s.fab
    let f2 := (chans.filter (fun n => f1.poolable n && (f1.chan? n).isNone)).foldl (fun f n => f.putChan n { pool := p.number }) f1
    (s.onFab (fun _ => f2)).setDests handle dests

/-- POOL_ALLOTMENT (02 R27): to an installation's pool, which it is given if it has none; a handle that no installation has
names the function whose next installation the allotment is kept for (log 21). -/
def execPoolAllotment (handle : Word) (channels destinations : List Nat) (s : State) : Host.Outcome State Fault Refusal :=
  match s.inst? handle with
  | some _ => .next ((s.makePool handle).allot handle channels destinations)
  | none => .next (s.onFab (fun f => { f with pending := Sparse.set ([], []) f.pending handle.toNat (channels, destinations) }))

/-- The seated group that the next event word goes to: lowest core, then lowest seat, with room in q11 (02 R43). -/
def State.eventGroup (s : State) (handle : Word) : Option Group :=
  (s.groups.filter (fun g => g.ctl.handle == handle && g.gstate == .seated && decide ((g.queue 11).length < queueDepth 11))).foldl
    (fun (best : Option Group) g =>
      match best with
      | none => some g
      | some b => if g.core < b.core ∨ (g.core = b.core ∧ g.seat.getD 0 < b.seat.getD 0) then some g else some b) none

/-- FABRIC_EVENT_DELIVER: the oldest word moves to q11, with bit 15 when words were dropped before it (02 R43). -/
def execFabricEventDeliver (handle : Word) (s : State) : Host.Outcome State Fault Refusal :=
  match s.inst? handle, s.eventGroup handle with
  | some i, some g =>
    match i.events with
    | [] => .next s
    | w :: ws =>
      let word := if i.evLost then w ||| 0x8000#32 else w
      .next ((s.onInst handle (fun i => { i with events := ws, evLost := false })).pushWords g.gid 11 [word])
  | _, _ => .next s

end Sys2Proof.Machine
end

