-- ==== Sys2Proof/Machine/Context.lean ====
section
/-!
DEFINITION. Privileged context access and page control (13 R367 to R376): a context block as bytes (06 Tables 6.1, 6.2,
6.4), reading and writing it, CTXRD, CTXWR, CTXCTL, PGMAP and PGUNMAP.
-/
namespace Sys2Proof.Machine

/-! ### The context block as words (06 Tables 6.1, 6.2, 6.4) -/

/-- STAT (06 Table 6.2). -/
def Control.stat (c : Control) : Nat :=
  c.satf.toNat + 2 * c.sovf.toNat + 4 * c.resumeWait.toNat + 8 * c.handler.toNat + 16 * c.suspended.toNat +
    32 * c.paired.toNat + 64 * c.shadow.toNat + 128 * c.trapPend.toNat + 256 * c.sdrop.toNat

/-- A word of the trap record (06 Table 6.4). -/
def TrapRec.word_ (r : TrapRec) (i : Nat) : Word :=
  match i with
  | 0 => r.flags ++ r.slot ++ r.cause
  | 1 => r.laneMask
  | 2 => loWord r.clause
  | 3 => hiWord r.clause
  | 4 => loWord r.info0
  | 5 => hiWord r.info0
  | 6 => loWord r.info1
  | 7 => hiWord r.info1
  | 8 => loWord r.frame
  | 9 => hiWord r.frame
  | 10 => r.word
  | _ => 0#32

/-- Replaces the low or the high word of a pair. -/
def setHalf (x : Word64) (high : Bool) (w : Word) : Word64 := if high then pair (loWord x) w else pair w (hiWord x)

/-- Writes a word of the trap record. -/
def TrapRec.setWord (r : TrapRec) (i : Nat) (w : Word) : TrapRec :=
  match i with
  | 0 => { r with cause := w.extractLsb' 0 16, slot := w.extractLsb' 16 8, flags := w.extractLsb' 24 8 }
  | 1 => { r with laneMask := w }
  | 2 => { r with clause := setHalf r.clause false w }
  | 3 => { r with clause := setHalf r.clause true w }
  | 4 => { r with info0 := setHalf r.info0 false w }
  | 5 => { r with info0 := setHalf r.info0 true w }
  | 6 => { r with info1 := setHalf r.info1 false w }
  | 7 => { r with info1 := setHalf r.info1 true w }
  | 8 => { r with frame := setHalf r.frame false w }
  | 9 => { r with frame := setHalf r.frame true w }
  | 10 => { r with word := w }
  | _ => r

/-- WDCOUNT as a context read sees it: the frames counted, and a free number of cycles (log 3). -/
def State.watchdogValue (s : State) (g : Group) : Word64 := BitVec.ofNat 64 (s.cycles g.ctl.wdCount.toNat)

/-- A word of the control area (06 Table 6.2), by byte offset from 0x7800. -/
def State.controlWord (s : State) (g : Group) (off : Nat) : Word :=
  let c := g.ctl
  let num (n : Nat) : Word := BitVec.ofNat 32 n
  if off = 0x00 then loWord c.pc
  else if off = 0x04 then hiWord c.pc
  else if off = 0x08 then num (c.slot % 256 + 256 * (c.litPos % 256) + 65536 * c.stat)
  else if off = 0x0C then c.mode
  else if off = 0x10 then c.exist
  else if off = 0x14 then c.exec
  else if off = 0x18 then c.dead
  else if off = 0x1C then c.deadSrc
  else if 0x20 ≤ off ∧ off < 0x38 then
    num (s.flagCount g.gid ((off - 0x20) / 2) + 65536 * s.flagCount g.gid ((off - 0x20) / 2 + 1))
  else if off = 0x38 then num (s.flagCount g.gid 15)
  else if off = 0x3C then c.alc
  else if off = 0x40 then loWord (s.watchdogValue g)
  else if off = 0x44 then hiWord (s.watchdogValue g)
  else if off = 0x48 then c.handle
  else if off = 0x4C then c.group
  else if off = 0x50 then c.saveMode
  else if off = 0x54 then c.saveExec
  else if 0x80 ≤ off ∧ off < 0x100 then (c.fpstat.getD ((off - 0x80) / 4) 0#5).setWidth 32
  else if 0x100 ≤ off ∧ off < 0x180 then c.launchBuf.getD ((off - 0x100) / 4) 0#32
  else if off = 0x180 then num c.laWords
  else if 0x200 ≤ off ∧ off < 0x240 then c.trapRec.word_ ((off - 0x200) / 4)
  else if off = 0x240 then num (c.psbHead % 128 + 65536 * ((c.psbHead + c.psb.length) % 128))
  else if off = 0x244 then num (c.psb.length + 65536 * c.psbScope)
  else 0#32

/-- A word of a pending-store entry (06 R157). -/
def PsbEntry.word_ (e : PsbEntry) (i : Nat) : Word :=
  match i with
  | 0 => BitVec.ofNat 32 e.block
  | 1 => BitVec.ofNat 32 (e.block / 2 ^ 32)
  | 2 => BitVec.ofNat 32 (e.lane + 256 * e.slot.toNat + 65536 * e.mask.toNat)
  | 3 => 0#32
  | n => e.data.extractLsb' (32 * (n - 4)) 32

/-- A word of the pending-store segment: place p holds the (p − head) mod 128-th entry (06 R157). -/
def Control.psbWord (c : Control) (off : Nat) : Word :=
  match c.psb[(off / 32 + 128 - c.psbHead % 128) % 128]? with
  | none => 0#32
  | some e => e.word_ (off % 32 / 4)

/-- A word of a group's context block (06 Table 6.1), by byte offset. The lines of a shadow's load-value queue have no
layout in the spec: they read as free values (log 16). -/
def State.blockWord (s : State) (g : Group) (off : Nat) : Word :=
  if off < 0x7800 then
    if s.hazard g.gid (off / 128) (off % 128 / 4) then Config.unpredictable s.freeCtr (off / 128) (off % 128 / 4)
    else s.lineWord g (off / 128) (off % 128 / 4)
  else if off < 0x8000 then s.controlWord g (off - 0x7800)
  else if off < 0x8400 then
    (Sparse.get 0#512 g.shapes ((off - 0x8000) / 64)).extractLsb' (8 * (off % 64)) 32
  else if 0x9000 ≤ off ∧ off < 0xB000 then
    BitVec.ofNat 32 (g.bitmaps.getD ((off - 0x9000) / 2048) 0 >>> (8 * (off % 2048)))
  else if 0xB000 ≤ off ∧ off < 0xF000 then
    if g.ctl.shadow then Config.unpredictable s.freeCtr off 0 else 0#32
  else if 0xF000 ≤ off then g.ctl.psbWord (off - 0xF000)
  else 0#32

/-- The lane a word of the block belongs to: a register line's or FPSTAT's (13 R369). -/
def laneOfOffset (off : Nat) : Option Nat :=
  if off < 0x7800 then some (off % 128 / 4)
  else if 0x7880 ≤ off ∧ off < 0x7900 then some ((off - 0x7880) / 4)
  else none

/-! ### Writing the block (13 R370) -/

/-- A write of a word of the control area; fields marked RO, reserved bytes and the bits of STAT the device keeps stay,
and in the own group PC, SLOT, LITPOS, STAT and EXEC stay. -/
def Control.writeWord (c : Control) (own : Bool) (off : Nat) (w : Word) : Control :=
  if off = 0x00 then if own then c else { c with pc := setHalf c.pc false w }
  else if off = 0x04 then if own then c else { c with pc := setHalf c.pc true w }
  else if off = 0x08 then
    if own then c
    else { c with
      slot := wbits w 7 0, litPos := wbits w 15 8
      satf := wbit w 16, sovf := wbit w 17, resumeWait := wbit w 18, sdrop := wbit w 24 }
  else if off = 0x0C then { c with mode := w }
  else if off = 0x14 then if own then c else { c with exec := w }
  else if off = 0x1C then { c with deadSrc := w }
  else if off = 0x3C then { c with alc := w }
  else if off = 0x40 then { c with wdCount := setHalf c.wdCount false w }
  else if off = 0x44 then { c with wdCount := setHalf c.wdCount true w }
  else if off = 0x50 then { c with saveMode := w }
  else if off = 0x54 then { c with saveExec := w }
  else if 0x80 ≤ off ∧ off < 0x100 then
    { c with fpstat := c.fpstat.setIfInBounds ((off - 0x80) / 4) (w.extractLsb' 0 5) }
  else if 0x100 ≤ off ∧ off < 0x180 then { c with launchBuf := c.launchBuf.setIfInBounds ((off - 0x100) / 4) w }
  else if off = 0x180 then { c with laWords := wbits w 4 0 }
  else if 0x200 ≤ off ∧ off < 0x240 then { c with trapRec := c.trapRec.setWord ((off - 0x200) / 4) w }
  else c

/-- Whether a write of a control word changes where a group resumes: its fetched clause is fetched again. -/
def movesPc (own : Bool) (off : Nat) : Bool := !own && decide (off < 0x0C)

/-- Replaces 32 bits of a number from a bit on. -/
def setWordAt (x : Nat) (bit : Nat) (w : Word) : Nat := x - (x >>> bit) % 2 ^ 32 * 2 ^ bit + w.toNat * 2 ^ bit

/-- A write of a word of a group's context block (13 R370). A write to a register that an outstanding operation will
write leaves one of the two values (06 R168). -/
def State.writeBlock (s : State) (gid : Nat) (own : Bool) (off : Nat) (w : Word) : State :=
  if off < 0x7800 then
    let s' := s.putReg gid (off / 128) (off % 128 / 4) w
    { s' with ops := s'.ops.map (fun o =>
        if o.gid == gid && !o.handler && o.writes (off / 128) (off % 128 / 4) then
          { o with clobbered := (off / 128, off % 128 / 4) :: o.clobbered } else o) }
  else s.onGroup gid (fun g =>
    if off < 0x8000 then
      let g' := g.onCtl (fun c => c.writeWord own (off - 0x7800) w)
      if movesPc own (off - 0x7800) then { g' with clause := none, stalled := none } else g'
    else if off < 0x8400 then
      { g with shapes := Sparse.alter 0#512 g.shapes ((off - 0x8000) / 64) (fun x =>
          BitVec.ofNat 512 (setWordAt x.toNat (8 * (off % 64)) w)) }
    else if 0x9000 ≤ off ∧ off < 0xB000 then
      let k := (off - 0x9000) / 2048
      let maps := (List.range 4).map (fun i => g.bitmaps.getD i 0)
      { g with bitmaps := maps.set k (setWordAt (maps.getD k 0) (8 * (off % 2048)) w) }
    else g)

/-! ### The target of a context instruction (13 R367, R368, R372) -/

/-- What a selector and an offset name: a trap, the own group or another one. -/
inductive Selected where
  | trap (t : Trap)
  | own
  | other (gid : Nat)

/-- Reads a selector and an offset (13 R367). -/
def Ctx.select (x : Ctx) (s : State) (sel off : Word) : Selected :=
  let lo := sel &&& 0xFFFF0000#32
  let hi := off &&& 0xFFFF0000#32
  let mask := maskOf x.L
  let n := wbits sel 15 0
  let groups := match s.launch? x.g.launch with | none => 0 | some l => l.groups
  if lo ||| hi != 0#32 then .trap { cause := 3, mask := mask, info0 := x.word, info1 := lo.toNat + 2 ^ 32 * hi.toNat }
  else if n = 0xFFFF then .own
  else if groups ≤ n then .trap { cause := 6, mask := mask, info0 := 0x2000, info1 := n }
  else
    match s.groups.find? (fun h => h.launch == x.g.launch && h.workgroup == x.g.workgroup && h.localNo == n && !h.ctl.shadow) with
    | none => .own
    | some h => if h.gid == x.gid then .own else .other h.gid

/-- Whether a clause of a group is under way: then a suspension waits for its end (06 R182). -/
def State.underWay (s : State) (g : Group) : Bool :=
  match g.seat with
  | none => false
  | some seat => (s.rail g.core (railOfSeat seat)).clauseOf == some g.gid

/-- A handler suspends a group; it takes effect at once unless a clause is under way (06 R182). -/
def State.suspend (s : State) (by_ gid : Nat) : State :=
  match s.group? gid with
  | none => s
  | some g =>
    if g.gstate = .retired then s
    else
      let by' := if g.suspendBy.contains by_ then g.suspendBy else g.suspendBy ++ [by_]
      let g' := { g with suspendBy := by' }
      s.putGroup (if s.underWay g then g' else g'.onCtl (fun c => { c with suspended := true }))

/-- A handler withdraws its suspension of a group (13 R371). -/
def State.unsuspend (s : State) (by_ gid : Nat) : State :=
  s.onGroup gid (fun g =>
    let left := g.suspendBy.filter (· != by_)
    { g with suspendBy := left, ctl := { g.ctl with suspended := g.ctl.suspended && !left.isEmpty } })

/-- The checks of a context offset (13 R369, R370): alignment, then a dead lane named alone. -/
def Ctx.offsetTrap (x : Ctx) (h : Group) (line : Bool) (off : Nat) : Option Trap :=
  let size := if line then 128 else 4
  if off % size != 0 then some { cause := 7, mask := maskOf x.L, info0 := off, info1 := size }
  else if line then none
  else match laneOfOffset off with
    | none => none
    | some u => if h.ctl.dead.getLsbD u then some { cause := 0x0C, mask := maskOf x.L, info0 := u } else none

/-- A group's seat table entry (05 Table 5.3); its age is its cycles since seating (log 3). -/
def State.seatEntry (s : State) (g : Group) : Word64 :=
  if g.seat.isNone then 0#64
  else
    let wait := match g.wait with | .none => 0 | .register => 1 | .barrier => 2
    let place := (s.groups.filter (fun h => h.core == g.core && h.gstate != .retired && h.older g)).length
    BitVec.ofNat 64 (2 ^ 63 + wait * 2 ^ 60 + min 65535 g.lls * 2 ^ 44 + min 4095 (s.cycles g.age) * 2 ^ 32 + place)

/-- The word of a context block that a read gives: a retired group's comes from its block in memory, a line's word of a
dead lane reads 0 (13 R368, R369). -/
def State.contextRead (s : State) (h : Group) (line : Bool) (off : Nat) : Word :=
  let dead := match laneOfOffset off with | none => false | some u => line && h.ctl.dead.getLsbD u
  if dead then 0#32 else if h.gstate = .retired then s.contextWord h off else s.blockWord h off

/-- The lanes that read a marked word of a register line through CTXRD (06 R161). -/
def Group.markedWord (h : Group) (off : Nat) : Bool :=
  decide (off < 0x7800) && h.regErr.contains (32 * (off / 128) + off % 128 / 4)

/-- CTXRD's effect on a group it may read. -/
def readContext (x : Ctx) (s : State) (h : Group) (off : Nat) : Act :=
  if x.b = 2 then .done (x.start s 2 (.value (x.writesOf [(x.low, s.seatEntry h)]) [] false))
  else match x.offsetTrap h (x.b == 1) off with
  | some t => .trap t
  | none =>
    let at_ (t : Nat) : Nat := if x.b = 1 then off + 4 * t else off
    let good := x.S.filter (fun t => !h.markedWord (at_ t))
    let bad := x.S.filter (fun t => h.markedWord (at_ t))
    let writes := good.map (fun t => (x.d, t, s.contextRead h (x.b == 1) (at_ t)))
    .done ((x.start s 1 (.value writes [] false)).killLanes (bad.map (fun t => (x.gid, t))))

/-- Carries on once the group a context instruction names is suspended (13 R368). -/
def Ctx.onTarget (x : Ctx) (s : State) (gid : Nat) (k : State → Group → Act) : Act :=
  match s.group? gid with
  | none => .done s
  | some h =>
    if h.gstate = .retired then k s h
    else
      let s' := s.suspend x.gid gid
      match s'.group? gid with
      | none => .done s
      | some h' =>
        if h'.ctl.suspended then k s' h'
        else .stall ⟨.barrier, .suspended gid⟩ (fun s => s.suspend x.gid gid)

/-- CTXRD (13 R367 to R369). -/
def execCtxrd (d a b : Byte) (s : State) : Host.Outcome State Fault Refusal :=
  issue { d := if b = 2#8 then .pair else .reg, a := .pair, b := .code [(0, 2)], dWrite := true, long := true, one := true
          priv := true, cycles := .one } 0x05#8 d a b (fun x s =>
    let v := x.rdPair s .a x.low
    let off := wbits (hiWord v) 15 0
    match x.select s (loWord v) (hiWord v) with
    | .trap t => .trap t
    | .own => readContext x s x.g off
    | .other gid =>
      match (s.group? gid).bind (fun h => if x.b = 2 then none else x.offsetTrap h (x.b == 1) off) with
      | some t => .trap t
      | none => x.onTarget s gid (fun s h => readContext x s h off)) s

/-- CTXWR's effect on a group it may write: one word, or the words of the lanes of S that are not dead in the target. -/
def writeContext (x : Ctx) (s : State) (h : Group) (own : Bool) (off : Nat) : Act :=
  match x.offsetTrap h (x.b == 1) off with
  | some t => .trap t
  | none =>
    if h.gstate = .retired then .done s
    else if x.b = 0 then .done (s.writeBlock h.gid own off (x.rd s .d x.low))
    else
      let put (s' : State) (t : Nat) : State :=
        let at_ := off + 4 * t
        let dead := match laneOfOffset at_ with | none => false | some u => h.ctl.dead.getLsbD u
        if dead then s' else s'.writeBlock h.gid own at_ (if 240 ≤ x.d then x.rd s .d x.low else x.reg s x.d t)
      .done (x.S.foldl put s)

/-- CTXWR (13 R367, R368, R370). -/
def execCtxwr (d a b : Byte) (s : State) : Host.Outcome State Fault Refusal :=
  issue { d := .reg, a := .pair, b := .code [(0, 1)], dRead := true, one := true, priv := true, cycles := .one } 0x06#8 d a b
    (fun x s =>
      let v := x.rdPair s .a x.low
      let off := wbits (hiWord v) 15 0
      match x.select s (loWord v) (hiWord v) with
      | .trap t => .trap t
      | .own => writeContext x s x.g true off
      | .other gid =>
        match (s.group? gid).bind (fun h => x.offsetTrap h (x.b == 1) off) with
        | some t => .trap t
        | none => x.onTarget s gid (fun s h => writeContext x s h false off)) s

/-- CTXCTL (13 R371). -/
def execCtxctl (d a b : Byte) (s : State) : Host.Outcome State Fault Refusal :=
  issue { plainForm with a := .reg, b := .code [(0, 2)], priv := true } 0x07#8 d a b (fun x s =>
    match x.select s (x.rd s .a x.low) 0#32 with
    | .trap t => .trap t
    | .own => if x.b = 2 then .gone (s.killGroup x.gid) else .done s
    | .other gid =>
      match x.b with
      | 0 => .done (s.suspend x.gid gid)
      | 1 => .done (s.unsuspend x.gid gid)
      | _ => .done (s.killGroup gid)) s

/-! ### Page control (13 R373 to R376) -/

/-- The virtual address of a page operand (13 Table 13.12). -/
def pageAddress (v : Word64) : Nat := wbits v 56 0

/-- The page of PGMAP and PGUNMAP. -/
def pageForm (codes : Nat) : Form :=
  { d := .reg, a := .pair, b := .code [(0, codes)], dWrite := true, long := true, one := true, priv := true, cycles := .one }

/-- PGMAP (13 R374). -/
def execPgmap (d a b : Byte) (s : State) : Host.Outcome State Fault Refusal :=
  issue (pageForm 1) 0x0E#8 d a b (fun x s =>
    let v := x.rdPair s .a x.low
    let mbz := v &&& 0x1E00000000000000#64
    if mbz != 0#64 then x.badValue 3 mbz.toNat
    else
      let (s', status) := s.pageMap x.g.ctl.handle x.b (pageAddress v) (wbit v 61) (wbit v 62) (wbit v 63)
      .done (x.start s' 1 (.value (x.writesOf [(x.low, BitVec.ofNat 64 status)]) [] false))) s

/-- PGUNMAP (13 R375): its flag waits for the accesses that went through the mapping. -/
def execPgunmap (d a b : Byte) (s : State) : Host.Outcome State Fault Refusal :=
  issue (pageForm 3) 0x0F#8 d a b (fun x s =>
    let v := x.rdPair s .a x.low
    let mbz := v &&& 0xFE00000000000000#64
    if mbz != 0#64 then x.badValue 3 mbz.toNat
    else
      let r := s.pageUnmap x.g.ctl.handle x.b (pageAddress v)
      let writes := x.writesOf [(x.low, BitVec.ofNat 64 r.2.1)]
      match r.2.2 with
      | none => .done (x.start r.1 1 (.value writes [] false))
      | some p =>
        let pages := if p.pooled then p.target.pages p.size else []
        .done (x.start r.1 1 (.pageOut x.g.fn p.va p.size pages writes))) s

end Sys2Proof.Machine
end

