-- ==== Sys2Proof/Machine/Keccak.lean ====
section
/-!
DEFINITION. SHAKE256 with a 256-bit output, as the program hash, the code-hash list and the measurements use it (03 R81, R84,
12 R332). The spec names the function and not its steps; they are those of NIST FIPS 202 (PRESUMED, log 35).
-/
namespace Sys2Proof.Machine

/-- The rotation of each lane, lane x + 5y at its place. -/
def keccakRot : List Nat :=
  [0, 1, 62, 28, 27, 36, 44, 6, 55, 20, 3, 10, 43, 25, 39, 41, 45, 15, 21, 8, 18, 2, 61, 56, 14]

/-- The round constants. -/
def keccakRound : List Word64 :=
  [0x0000000000000001#64, 0x0000000000008082#64, 0x800000000000808A#64, 0x8000000080008000#64,
   0x000000000000808B#64, 0x0000000080000001#64, 0x8000000080008081#64, 0x8000000000008009#64,
   0x000000000000008A#64, 0x0000000000000088#64, 0x0000000080008009#64, 0x000000008000000A#64] ++
  [0x000000008000808B#64, 0x800000000000008B#64, 0x8000000000008089#64, 0x8000000000008003#64,
   0x8000000000008002#64, 0x8000000000000080#64, 0x000000000000800A#64, 0x800000008000000A#64,
   0x8000000080008081#64, 0x8000000000008080#64, 0x0000000080000001#64, 0x8000000080008008#64]

/-- A lane of the state. -/
def keccakLane (a : List Word64) (x y : Nat) : Word64 := a.getD (x % 5 + 5 * (y % 5)) 0#64

/-- A state from its lanes. -/
def keccakMake (f : Nat → Nat → Word64) : List Word64 := (List.range 25).map (fun i => f (i % 5) (i / 5))

/-- One round. -/
def keccakStep (a : List Word64) (rc : Word64) : List Word64 :=
  let c := (List.range 5).map (fun x => (List.range 5).foldl (fun v y => v ^^^ keccakLane a x y) 0#64)
  let d := (List.range 5).map (fun x => c.getD ((x + 4) % 5) 0#64 ^^^ (c.getD ((x + 1) % 5) 0#64).rotateLeft 1)
  let t := keccakMake (fun x y => keccakLane a x y ^^^ d.getD x 0#64)
  let r := (t.zip keccakRot).map (fun (p : Word64 × Nat) => p.1.rotateLeft p.2)
  let b := keccakMake (fun x y => keccakLane r (x + 3 * y) x)
  (keccakMake (fun x y => keccakLane b x y ^^^ (~~~keccakLane b (x + 1) y &&& keccakLane b (x + 2) y))).zipIdx.map
    (fun (p : Word64 × Nat) => if p.2 = 0 then p.1 ^^^ rc else p.1)

/-- The permutation. -/
def keccakF (a : List Word64) : List Word64 := keccakRound.foldl keccakStep a

/-- Bytes of a block: 1,088 bits. -/
def shakeRate : Nat := 136

/-- Takes a block into the state. -/
def keccakAbsorb (a : List Word64) (block : List Byte) : List Word64 :=
  keccakF (a.zipIdx.map (fun (p : Word64 × Nat) =>
    p.1 ^^^ BitVec.ofNat 64 (natOfBytes ((block.drop (8 * p.2)).take 8))))

/-- Absorbs padded bytes block by block; the fuel is their number. -/
def keccakBlocks : Nat → List Word64 → List Byte → List Word64
  | 0, a, _ => a
  | n + 1, a, bs => if bs.isEmpty then a else keccakBlocks n (keccakAbsorb a (bs.take shakeRate)) (bs.drop shakeRate)

/-- The padding of SHAKE: 0x1F, zeros, and 0x80 in the last byte of the block. -/
def shakePad (n : Nat) : List Byte :=
  let gap := shakeRate - n % shakeRate
  if gap = 1 then [0x9F#8] else [0x1F#8] ++ List.replicate (gap - 2) 0#8 ++ [0x80#8]

/-- SHAKE256 with 256 bits of output, byte 0 in the low bits. -/
def shake256 (bs : List Byte) : Word256 :=
  let padded := bs ++ shakePad bs.length
  let a := keccakBlocks padded.length (List.replicate 25 0#64) padded
  a.getD 3 0#64 ++ a.getD 2 0#64 ++ a.getD 1 0#64 ++ a.getD 0 0#64

end Sys2Proof.Machine
end

