-- ==== Sys2Proof/Machine/Penhetre.lean ====
section
/-!
DEFINITION. Penhetre images as Garnet reads them (12 R329 to R340, 04 R102 to R104, R111): the header and section table, the
version gate, the section rules, the manifest's records with their checks in the order of R338, and the resource codes with
their text forms (04 R107, R338).
-/
namespace Sys2Proof.Machine

/-! ### Resource codes (04 R107, Table 4.5) -/

/-- A binary resource code. -/
def resCode (unit index1 index2 port : Nat) : Nat := unit * 2 ^ 27 + index1 % 2048 * 2 ^ 16 + index2 % 4096 * 16 + port % 16

/-- UNIT of a code. -/
def resUnit (code : Nat) : Nat := code / 2 ^ 27
/-- INDEX1 of a code. -/
def resIndex1 (code : Nat) : Nat := bitsOf code 26 16
/-- INDEX2 of a code. -/
def resIndex2 (code : Nat) : Nat := bitsOf code 15 4
/-- PORT of a code. -/
def resPort (code : Nat) : Nat := bitsOf code 3 0

/-- The ASCII bytes of a text. -/
def ascii (t : String) : List Byte := t.toList.map (fun c => BitVec.ofNat 8 c.toNat)

/-- The decimal digits of a number below 10,000. -/
def decimal (n : Nat) : List Byte :=
  let d (k : Nat) : Byte := BitVec.ofNat 8 (48 + k % 10)
  if n < 10 then [d n] else if n < 100 then [d (n / 10), d n] else if n < 1000 then [d (n / 100), d (n / 10), d n]
  else [d (n / 1000), d (n / 100), d (n / 10), d n]

/-- A text form: a name and its indices, parted by dots. -/
def dotted (name : String) (parts : List (List Byte)) : List Byte :=
  parts.foldl (fun t p => t ++ [0x2E#8] ++ p) (ascii name)

/-- The text form of a resource code (04 Table 4.5; R111; 12 R338). -/
def resName (code : Nat) : List Byte :=
  let i1 := resIndex1 code
  let i2 := resIndex2 code
  let rw : List Byte := ascii (["rd", "wr", "pin"].getD (resPort code) "")
  let dir : List Byte := ascii (["n", "e", "s", "w"].getD (resPort code) "")
  let die : List Byte := if i1 = 0x7FF then ascii "B" else decimal (i1 / 16)
  match resUnit code with
  | 1 => dotted "HBM" [decimal i1, rw]
  | 2 => dotted "L2S" [decimal i1, rw]
  | 3 => dotted "NOC" [die, decimal i2, dir]
  | 4 => dotted "D2D" [decimal (i1 / 16), decimal (i1 % 16), ascii (["up", "dn"].getD (resPort code) "")]
  | 5 => dotted "SPB" [decimal i1, decimal i2, rw]
  | 6 => if i1 = 0x7FF then ascii "FAB.pool" else dotted "FAB" [decimal i1, decimal i2]
  | 7 => dotted "ING" [decimal i1]
  | 8 => dotted "SEAT" [decimal i1]
  | 9 => dotted "SPAD" [decimal i1]
  | 10 => dotted "ALW" [decimal i1]
  | 11 => dotted "BAR" [decimal i1, decimal i2]
  | 12 => dotted "PIN" [decimal i1]
  | 13 => ascii "HASH"
  | _ =>
    if i1 = 0x7FF then dotted "MAN" [ascii "note", decimal i2]
    else if i1 = 0x7FE then dotted "MAN" [ascii "exp", decimal i2]
    else if i1 = 0x7FD then dotted "MAN" [ascii "sec", decimal i2]
    else if i1 = 0x7FC then ascii "MAN.hdr.0"
    else if i2 = 0xFFF then dotted "MAN" [decimal i1, ascii "kern"]
    else dotted "MAN" [decimal i1, decimal i2]

/-- What a refusal reports (04 Table 4.7). -/
structure Refused where
  code     : Nat
  kernel   : Nat := 0xFFFF
  record   : Nat := 0xFFFF
  first    : Nat := 0
  last     : Nat := 0
  demand   : Nat := 0
  capacity : Nat := 0
  held     : Nat := 0
deriving DecidableEq, Repr

/-! ### The file (12 R329 to R331) -/

/-- A little-endian field of n bytes at an offset. -/
def fieldAt (bs : List Byte) (off n : Nat) : Nat := natOfBytes ((bs.drop off).take n)

/-- Whether a run of bytes is zero; bytes beyond the end read as zero. -/
def zeroAt (bs : List Byte) (off n : Nat) : Bool := ((bs.drop off).take n).all (· == 0#8)

/-- An entry of the section table (12 Table 12.7). -/
structure Section where
  kind   : Nat
  flags  : Nat
  offset : Nat
  size   : Nat
  vaddr  : Nat
deriving DecidableEq, Repr

/-- An image that Garnet could read: the bytes below LOADEND and the section table. -/
structure Image where
  loaded   : List Byte
  sections : List Section
deriving DecidableEq, Repr

/-- Reads an entry of the section table. -/
def sectionAt (bs : List Byte) (off : Nat) : Section :=
  ⟨fieldAt bs off 2, fieldAt bs (off + 2) 2, fieldAt bs (off + 8) 8, fieldAt bs (off + 16) 8, fieldAt bs (off + 24) 8⟩

/-- The bytes of the file a section's contents take. -/
def Section.run (s : Section) : Nat × Nat := if s.kind = 4 then (0, 0) else (s.offset, s.offset + s.size)

/-- Whether two runs of bytes share one. -/
def runsMeet (a b : Nat × Nat) : Bool := decide (a.1 < b.2) && decide (b.1 < a.2) && decide (a.1 < a.2) && decide (b.1 < b.2)

/-- Whether no two runs of a list meet. -/
def runsApart : List (Nat × Nat) → Bool
  | [] => true
  | r :: rs => rs.all (fun q => !runsMeet r q) && runsApart rs

/-- The contents of a section. -/
def Image.contents (i : Image) (s : Section) : List Byte := if s.kind = 4 then [] else (i.loaded.drop s.offset).take s.size

/-- Steps 1 to 5 of R331 over the first bytes of a file of a given length; `none` is STATUS 2. -/
def readImage (bs : List Byte) (len : Nat) : Option Image :=
  let loadEnd := fieldAt bs 24 8
  let count := fieldAt bs 8 4
  let table := fieldAt bs 16 8
  let magic := decide (bs.take 4 = [0x50#8, 0x4E#8, 0x48#8, 0x1A#8])
  let header := magic && fieldAt bs 4 2 == 1 && fieldAt bs 6 2 == 2 && zeroAt bs 12 4 && zeroAt bs 36 28
  if decide (64 ≤ loadEnd) && decide (loadEnd ≤ len) && header && decide (1 ≤ count) && decide (count ≤ 1024) &&
      table % 8 == 0 && decide (64 ≤ table) && decide (table + 32 * count ≤ loadEnd) then
    let secs := (List.range count).map (fun k => sectionAt bs (table + 32 * k))
    let runs := secs.map Section.run
    let low (s : Section) : Bool := s.kind == 1 || s.kind == 2 || s.kind == 3 || s.kind == 5 || s.kind == 6
    if runs.all (fun r => decide (r.2 ≤ len)) && runsApart ((table, table + 32 * count) :: runs) &&
        secs.all (fun s => !low s || decide (s.run.2 ≤ loadEnd)) then some ⟨bs.take loadEnd, secs⟩
    else none
  else none

/-- The program hash (12 R332). -/
def Image.hash (i : Image) : Word256 := shake256 i.loaded

/-! ### The version gate (12 R339, R340) -/

/-- Splits a NOTE section into entries (type, payload); the answer says whether they fill it. The fuel is its length. -/
def noteEntries : Nat → List Byte → List (Nat × List Byte) × Bool
  | 0, bs => ([], bs.isEmpty)
  | n + 1, bs =>
    if bs.isEmpty then ([], true)
    else
      let len := fieldAt bs 2 2
      let whole := 4 + (len + 3) / 4 * 4
      if bs.length < 4 ∨ bs.length < whole ∨ !zeroAt bs (4 + len) (whole - 4 - len) then ([], false)
      else
        let (es, ok) := noteEntries n (bs.drop whole)
        ((fieldAt bs 0 2, (bs.drop 4).take len) :: es, ok)

/-- A refusal that names a note entry. -/
def noteRefusal (n mingen : Nat) : Refused :=
  { code := resCode 14 0x7FF n 0, record := n, demand := mingen, capacity := 1 }

/-- The version gate (12 R340). -/
def Image.gate (i : Image) : Option Refused :=
  match i.sections.find? (fun s => s.kind == 6) with
  | none => some (noteRefusal 0 0)
  | some sec =>
    let bytes := i.contents sec
    let (es, ok) := noteEntries bytes.length bytes
    let at_ := (es.zipIdx).filter (fun (e : (Nat × List Byte) × Nat) => e.1.1 == 1)
    if !ok then some (noteRefusal es.length 0)
    else match at_ with
      | [(e, n)] =>
        let p := e.2
        if p.length != 16 then some (noteRefusal n 0)
        else if fieldAt p 0 1 != Config.generation || fieldAt p 8 8 != Config.features || fieldAt p 2 2 / 2 != 0 then
          some (noteRefusal n (fieldAt p 0 1))
        else none
      | [] => some (noteRefusal 0 0)
      | (_, n) :: _ => some (noteRefusal n 0)

/-! ### Section rules (12 R333, Table 12.8) -/

/-- The addresses a mapped section takes, rounded up to 64 KiB. -/
def Section.span (s : Section) : Nat × Nat := (s.vaddr, s.vaddr + ceilDiv s.size 65536 * 65536)

/-- Whether a section is mapped. -/
def Section.mapped (s : Section) : Bool := s.kind == 1 || s.kind == 3 || s.kind == 4

/-- Whether section n breaks a rule. -/
def Image.badSection (i : Image) (s : Section) (n : Nat) : Bool :=
  let later := decide (s.kind = 1 ∨ s.kind = 2 ∨ s.kind = 6) && (i.sections.take n).any (fun t => t.kind == s.kind)
  let meets := s.mapped && (i.sections.zipIdx).any (fun (t : Section × Nat) => t.2 != n && t.1.mapped && runsMeet s.span t.1.span)
  let place := if s.mapped then s.vaddr % 65536 != 0 || decide (2 ^ 57 ≤ s.vaddr) else s.vaddr != 0
  let high := decide (s.kind = 7 ∨ s.kind = 8 ∨ s.kind = 10) && s.size != 0 && decide (s.offset < i.loaded.length)
  decide (s.kind = 0) || decide (10 < s.kind) || s.kind == 9 || decide (8 ≤ s.flags) || (s.kind == 1 && s.flags % 2 == 0) ||
    (s.kind == 1 && s.flags / 4 % 2 == 0) || later || meets || place || high

/-- The section rules: the first section that breaks one, or 0 when a required section is absent (12 R338). -/
def Image.sectionRules (i : Image) : Option Refused :=
  let refuse (n : Nat) : Refused := { code := resCode 14 0x7FD n 0, record := n }
  if !([1, 2, 6].all (fun k => i.sections.any (fun s => s.kind == k))) then some (refuse 0)
  else
    ((i.sections.zipIdx).find? (fun (s : Section × Nat) => i.badSection s.1 s.2)).map (fun s => refuse s.2)

/-! ### The manifest (12 R335, R336; 04 R102 to R104) -/

/-- Reads a kernel record. -/
def kernelRecAt (m : List Byte) (o : Nat) : KernelRec where
  entry := fieldAt m o 4
  trapEntry := fieldAt m (o + 4) 4
  span := fieldAt m (o + 8) 1
  nDecl := fieldAt m (o + 9) 1
  nFab := fieldAt m (o + 10) 1
  nShape := fieldAt m (o + 11) 1
  groups := fieldAt m (o + 12) 2
  regs := fieldAt m (o + 14) 2
  maxWg := fieldAt m (o + 16) 4
  allow := fieldAt m (o + 20) 1
  spad := fieldAt m (o + 21) 1
  flags := fieldAt m (o + 22) 1
  engRate := fieldAt m (o + 23) 1
  bars := (List.range 5).map (fun k => fieldAt m (o + 24 + k) 1)

/-- Reads a declaration record. -/
def declAt (m : List Byte) (o : Nat) : Decl where
  image := BitVec.ofNat 256 (fieldAt m o 32)
  slot := fieldAt m (o + 32) 1
  dir := fieldAt m (o + 33) 1
  reside := fieldAt m (o + 34) 1
  rate := fieldAt m (o + 36) 2
  width := fieldAt m (o + 38) 2
  chan := fieldAt m (o + 40) 2
  init := fieldAt m (o + 42) 2
  banks := BitVec.ofNat 32 (fieldAt m (o + 44) 4)

/-- Reads a fabric stream record. -/
def fabRecAt (m : List Byte) (o : Nat) : FabRec where
  stream := fieldAt m o 1
  kind := fieldAt m (o + 1) 1
  destMode := fieldAt m (o + 2) 1
  srcSlot := fieldAt m (o + 3) 1
  dest := fieldAt m (o + 4) 2
  rate := fieldAt m (o + 6) 2
  turns := BitVec.ofNat 64 (fieldAt m (o + 8) 8)
  port := fieldAt m (o + 16) 1
  laser := fieldAt m (o + 17) 1
  window := fieldAt m (o + 18) 1

/-- An export record (12 Table 12.9). -/
structure Export where
  window : Nat
  kernel : Nat
  slot   : Nat
  perm   : Nat
  bar    : Nat
deriving DecidableEq, Repr

/-- The bytes of a kernel record with the records that follow it. -/
def KernelRec.bytes (k : KernelRec) : Nat := 64 + 64 * k.nDecl + 32 * k.nFab + 64 * k.nShape

/-- The offsets of the kernel records of a manifest, and the offset of its export records. -/
def kernelOffsets (m : List Byte) : Nat → Nat → List Nat × Nat
  | 0, o => ([], o)
  | n + 1, o =>
    let (os, e) := kernelOffsets m n (o + (kernelRecAt m o).bytes)
    (o :: os, e)

/-- The manifest's header and size (12 R335). -/
def manifestFits (m : List Byte) : Bool :=
  let kernels := fieldAt m 2 2
  let exports := fieldAt m 4 2
  decide (16 ≤ m.length) && fieldAt m 0 2 == 1 && decide (1 ≤ kernels) && decide (kernels ≤ 64) && decide (exports ≤ 256) &&
    zeroAt m 6 10 && m.length == (kernelOffsets m kernels 16).2 + 16 * exports

/-- Whether a kernel record is in range (04 Table 4.2; 12 R333). -/
def kernelRecOk (m : List Byte) (o : Nat) (text : Nat) : Bool :=
  let k := kernelRecAt m o
  k.entry % 4 == 0 && decide (k.entry < text) &&
    (k.trapEntry == 0xFFFFFFFF || (k.trapEntry % 4 == 0 && decide (k.trapEntry < text))) &&
    decide (k.span ≤ 1) && decide (k.nDecl ≤ 64) && decide (k.nFab ≤ 64) && decide (k.nShape ≤ 16) &&
    decide (1 ≤ k.groups) && decide (k.groups ≤ (if k.span = 0 then 256 else 1024)) && decide (1 ≤ k.regs) &&
    decide (k.regs ≤ 240) && decide (1 ≤ k.maxWg) && decide (k.maxWg ≤ 2 ^ 24) && decide (k.allow ≤ 64) &&
    decide (k.spad ≤ 15) && decide (k.flags < 2) && zeroAt m (o + 29) 35

/-- Whether a stripe's width is a power of two from 1 to 64. -/
def widthOk (w : Nat) : Bool := [1, 2, 4, 8, 16, 32, 64].contains w

/-- Whether a declaration record is in range and consistent (04 R103, R105, Table 4.3; 07 R195; 12 R333), for the channels of
the partition. -/
def declOk (i : Image) (m : List Byte) (o : Nat) (channels : List Nat) : Bool :=
  let d := declAt m o
  let r := bufRec d.image
  let fields := decide (d.slot < 64) && zeroAt m (o + 35) 1 && zeroAt m (o + 48) 16 && widthOk d.width &&
    (d.chan == 0xFFFF || decide (d.chan + d.width ≤ 512)) && imageValid d.image
  let classed :=
    if r.reserved then
      r.stream == d.slot && decide (1 ≤ d.dir) && decide (d.dir ≤ 3) && decide (d.reside ≤ 2) && decide (1 ≤ d.rate) &&
        decide (d.rate ≤ 375) && (d.reside == 2) == (r.space != 0) && (d.reside != 2 || d.banks != 0#32) &&
        (d.reside == 2 || d.chan == 0xFFFF || (List.range d.width).all (fun j => channels.contains (d.chan + j)))
    else r.stream == 0 && d.dir == 0 && d.reside == 0 && d.rate == 0
  let start := d.init == 0xFFFF ||
    (match i.sections[d.init]? with
    | none => false
    | some s => s.kind == 5 && decide (s.size ≤ r.range) && !r.remote && r.space == 0)
  fields && classed && start

/-- Whether a fabric stream record is in range (04 Table 4.4); its source slot names a declaration of the kernel. -/
def fabRecOk (m : List Byte) (o : Nat) (slots : List Nat) : Bool :=
  let f := fabRecAt m o
  decide (f.stream < 64) && decide (f.kind ≤ 1) && decide (f.destMode ≤ 2) && slots.contains f.srcSlot &&
    decide (f.dest < (if f.destMode = 0 then 4096 else 64)) && decide (1 ≤ f.rate) && decide (f.rate ≤ 65) &&
    (f.port == 0xFF || decide (f.port < 36)) && (f.laser == 0xFF || decide (f.laser < 16)) && zeroAt m (o + 19) 13

/-- The bits a shape request image may set: CLASS, FMT, RM, RN, RK, RV (12 R336, 10 Table 10.6). -/
def shapeMask : Nat := 0xF + 0xF * 2 ^ 8 + 0xFFFF * 2 ^ 32 + 0xFFFF * 2 ^ 48 + 0xFFFF * 2 ^ 64 + 0xFFFF * 2 ^ 192

/-- Whether a shape request image is allowed (12 R336). -/
def shapeRequestOk (x : Nat) : Bool := (x &&& shapeMask) == x && decide (x % 16 < 3)

/-- A kernel as its manifest gives it, before placement. -/
structure KernelSpec where
  record : KernelRec
  decls  : List Decl
  fabs   : List FabRec
  shapes : List Word512
deriving DecidableEq, Repr

/-- The offsets of a kernel's declarations, fabric streams and shape requests. -/
def recordOffsets (k : KernelRec) (o : Nat) : List Nat × List Nat × List Nat :=
  let d := o + 64
  let f := d + 64 * k.nDecl
  let s := f + 32 * k.nFab
  ((List.range k.nDecl).map (fun n => d + 64 * n), (List.range k.nFab).map (fun n => f + 32 * n),
    (List.range k.nShape).map (fun n => s + 64 * n))

/-- Reads a kernel. -/
def kernelSpecAt (m : List Byte) (o : Nat) : KernelSpec :=
  let k := kernelRecAt m o
  let (ds, fs, ss) := recordOffsets k o
  ⟨k, ds.map (declAt m), fs.map (fabRecAt m), ss.map (fun p => BitVec.ofNat 512 (fieldAt m p 64))⟩

/-- The first record of a kernel that is out of range, in the numbering of R111: `none` when the kernel is sound, the kernel
record itself as 0xFFF. A window of a receive stream that another installation holds is refused with its record (log 36). -/
def badRecord (i : Image) (m : List Byte) (o : Nat) (text : Nat) (channels held : List Nat) : Option Nat :=
  let k := kernelRecAt m o
  let (ds, fs, ss) := recordOffsets k o
  let slots := ds.map (fun p => (declAt m p).slot)
  let streams := fs.map (fun p => (fabRecAt m p).stream)
  if !kernelRecOk m o text then some 0xFFF
  else
    let decl (n p : Nat) : Bool := !declOk i m p channels || (slots.take n).contains (declAt m p).slot
    let fab (n p : Nat) : Bool := !fabRecOk m p slots || (streams.take n).contains (fabRecAt m p).stream ||
      ((fabRecAt m p).kind == 1 && held.contains (fabRecAt m p).window)
    match (ds.zipIdx).find? (fun (p : Nat × Nat) => decl p.2 p.1) with
    | some p => some p.2
    | none =>
      match (fs.zipIdx).find? (fun (p : Nat × Nat) => fab p.2 p.1) with
      | some p => some (k.nDecl + p.2)
      | none =>
        ((ss.zipIdx).find? (fun (p : Nat × Nat) => !shapeRequestOk (fieldAt m p.1 64))).map (fun p => k.nDecl + k.nFab + p.2)

/-- Reads an export record. -/
def exportAt (m : List Byte) (o : Nat) : Export :=
  ⟨fieldAt m o 1, fieldAt m (o + 1) 1, fieldAt m (o + 2) 1, fieldAt m (o + 3) 1, fieldAt m (o + 4) 1⟩

/-- The record image an export or a receive stream names as its window. -/
def windowImage (ks : List KernelSpec) (kernel slot : Nat) : Option Word256 :=
  match ks[kernel]? with
  | none => none
  | some k => (k.decls.find? (fun d => d.slot == slot)).map (fun d => d.image)

/-- Whether an export record is refused (12 R337). -/
def exportBad (ks : List KernelSpec) (m : List Byte) (o : Nat) (taken : List Nat) : Bool :=
  let e := exportAt m o
  let pkgBars := (ks.map (fun k => k.record.bars.getD 3 0)).foldl max 0
  match windowImage ks e.kernel e.slot with
  | none => true
  | some x =>
    let r := bufRec x
    r.remote || r.reserved || r.space != 0 || decide (8 ≤ e.perm) || !zeroAt m (o + 5) 11 ||
      (e.bar != 0xFF && decide (pkgBars ≤ e.bar)) || taken.contains e.window

/-- A manifest that passed every check. -/
structure Manifest where
  kernels : List KernelSpec
  exports : List Export
deriving DecidableEq, Repr

/-- The first refusal of the manifest's checks, or the manifest (12 R338). `channels` are the partition's channels, `held` the
windows other installations hold. -/
def Image.manifest (i : Image) (channels held : List Nat) : Except Refused Manifest :=
  match i.gate with
  | some r => .error r
  | none =>
    match i.sectionRules with
    | some r => .error r
    | none =>
      let m := ((i.sections.find? (fun s => s.kind == 2)).map i.contents).getD []
      let text := ((i.sections.find? (fun s => s.kind == 1)).map (fun s => s.size)).getD 0
      if !manifestFits m then .error { code := resCode 14 0x7FC 0 0, record := 0 }
      else
        let (os, exps) := kernelOffsets m (fieldAt m 2 2) 16
        let bad := (os.zipIdx).filterMap (fun (p : Nat × Nat) => (badRecord i m p.1 text channels held).map (fun n => (p.2, n)))
        match bad with
        | (k, n) :: _ => .error { code := resCode 14 k n 0, kernel := k, record := if n = 0xFFF then 0xFFFF else n }
        | [] =>
          let ks := os.map (kernelSpecAt m)
          let own := ks.flatMap (fun k => (k.fabs.filter (fun f => f.kind == 1)).map (fun f => f.window))
          let eo := (List.range (fieldAt m 4 2)).map (fun n => exps + 16 * n)
          let earlier (n : Nat) : List Nat := (eo.take n).map (fun o => (exportAt m o).window)
          match (eo.zipIdx).find? (fun (p : Nat × Nat) => exportBad ks m p.1 (held ++ own ++ earlier p.2)) with
          | some p => .error { code := resCode 14 0x7FE p.2 0, record := p.2 }
          | none => .ok ⟨ks, eo.map (exportAt m)⟩

end Sys2Proof.Machine
end

