-- ==== Sys2Proof/Machine/Garnet.lean ====
section
/-!
DEFINITION. What Garnet counts: the static resources of cores and the placement of workgroups (05 R126 to R129), the slots of
slotted resources (04 R106 to R110, R434), the memory behind reserved records (R105), and fabric streams (R435, R436, 02 R41).
-/
namespace Sys2Proof.Machine

/-! ### Static resources (05 Tables 5.1, 5.2) -/

/-- What is taken on a core or quad. -/
structure Use where
  seat : Nat := 0
  spad : Nat := 0
  alw  : Nat := 0
  bar  : Nat := 0
deriving DecidableEq, Repr

/-- The sum of two uses. -/
def Use.add (a b : Use) : Use := ⟨a.seat + b.seat, a.spad + b.spad, a.alw + b.alw, a.bar + b.bar⟩

/-- Whether a kernel runs in paired mode (04 Table 4.2). -/
def KernelRec.paired (k : KernelRec) : Bool := k.flags % 2 == 1

/-- Group claims of a workgroup on core j of its entry (05 Table 5.2). -/
def KernelRec.claims (k : KernelRec) (j : Nat) : Nat :=
  (if k.span = 0 then k.groups else ceilDiv (k.groups - j) 4) * (if k.paired then 2 else 1)

/-- The cores of an entry of the core list, with their place in it. -/
def entryCores (span entry : Nat) : List (Nat × Nat) :=
  if span = 0 then [(entry, 0)] else (List.range 4).map (fun j => (entry + j, j))

/-- What a workgroup takes on core j of its entry. -/
def KernelRec.use (k : KernelRec) (j : Nat) : Use :=
  ⟨k.claims j, k.spad, k.claims j * k.allow, k.bars.getD 0 0⟩

/-- Whether an entry holds a core. -/
def entryHolds (span entry core : Nat) : Bool := (entryCores span entry).any (fun p => p.1 == core)

/-- The placed kernels of the package, with their positions. -/
def State.placedKernels (s : State) : List (KernelRec × List Position) :=
  s.installs.flatMap (fun i => i.kernels.map (fun k => (k.record, k.positions)))

/-- What placed kernels take on a core. -/
def useOn (ks : List (KernelRec × List Position)) (core : Nat) : Use :=
  ks.foldl (fun u k =>
    k.2.foldl (fun u p =>
      match (entryCores k.1.span p.core).find? (fun c => c.1 == core) with
      | none => u
      | some c => u.add (k.1.use c.2)) u) {}

/-- The quad objects placed kernels take on a quad. -/
def quadUse (ks : List (KernelRec × List Position)) (quad : Nat) : Nat :=
  ks.foldl (fun n k => k.2.foldl (fun n p => if quadOfCore p.core = quad then n + k.1.bars.getD 1 0 else n) n) 0

/-- What a run of Place has taken beside the placed kernels: by core, and quad objects by quad. -/
structure Levels where
  cores : Sparse Use := []
  quads : Sparse Nat := []
deriving DecidableEq, Repr

/-- The first static resource that is short for one more workgroup at an entry, in the order of Table 5.2. -/
def shortOf (ks : List (KernelRec × List Position)) (lv : Levels) (k : KernelRec) (entry : Nat) : Option Refused :=
  let cores := entryCores k.span entry
  let test (unit cap : Nat) (f : Use → Nat) : Option Refused :=
    let short (c : Nat × Nat) : Bool :=
      let held := f (useOn ks c.1) + f (Sparse.get {} lv.cores c.1)
      decide (0 < f (k.use c.2)) && decide (cap < held + f (k.use c.2))
    (cores.find? short).map (fun c =>
      { code := if unit = 11 then resCode 11 0 c.1 0 else resCode unit c.1 0 0
        demand := f (k.use c.2), capacity := cap, held := f (useOn ks c.1) + f (Sparse.get {} lv.cores c.1) })
  let quad := quadOfCore entry
  let quadHeld := quadUse ks quad + Sparse.get 0 lv.quads quad
  let quadNeed := k.bars.getD 1 0
  match test 8 4096 (·.seat) with
  | some r => some r
  | none => match test 9 15 (·.spad) with
    | some r => some r
    | none => match test 10 4096 (·.alw) with
      | some r => some r
      | none => match test 11 256 (·.bar) with
        | some r => some r
        | none =>
          if 0 < quadNeed ∧ 64 < quadHeld + quadNeed then
            some { code := resCode 11 1 quad 0, demand := quadNeed, capacity := 64, held := quadHeld }
          else none

/-- Takes one more workgroup at an entry. -/
def Levels.take (lv : Levels) (k : KernelRec) (entry : Nat) : Levels where
  cores := (entryCores k.span entry).foldl (fun m c => Sparse.alter {} m c.1 (fun u => u.add (k.use c.2))) lv.cores
  quads := Sparse.alter 0 lv.quads (quadOfCore entry) (· + k.bars.getD 1 0)

/-- One turn of Place over the list: the levels after it and the entries chosen, at most `left` of them. -/
def placeTurn (ks : List (KernelRec × List Position)) (k : KernelRec) : Levels → Nat → List Nat → Levels × List Nat
  | lv, _, [] => (lv, [])
  | lv, left, e :: es =>
    if left = 0 then (lv, [])
    else match shortOf ks lv k e with
      | some _ => placeTurn ks k lv left es
      | none =>
        let (lv', chosen) := placeTurn ks k (lv.take k e) (left - 1) es
        (lv', e :: chosen)

/-- Place (05 R129): the position list, or the first resource short at the first entry of the list. The fuel is MAXWG, since
every turn but the last places a workgroup. -/
def placeOver (ks : List (KernelRec × List Position)) (k : KernelRec) (entries : List Nat) :
    Nat → Levels → Nat → Except Refused (List Nat)
  | 0, _, _ => .ok []
  | n + 1, lv, left =>
    if left = 0 then .ok []
    else
      let (lv', chosen) := placeTurn ks k lv left entries
      if chosen.isEmpty then
        match entries with
        | [] => .error { code := resCode 8 0 0 0, demand := k.claims 0 }
        | e :: _ => .error ((shortOf ks lv k e).getD { code := resCode 8 e 0 0 })
      else match placeOver ks k entries n lv' (left - chosen.length) with
        | .error r => .error r
        | .ok rest => .ok (chosen ++ rest)

/-- The core list of a partition without some dies: cores, or quads for a quad-span kernel (05 R129). -/
def coreList (dies : List Nat) (span : Nat) : List Nat :=
  if span = 0 then dies.flatMap (fun d => (List.range Config.coresPerDie).map (fun c => Config.coresPerDie * d + c))
  else dies.flatMap (fun d => (List.range 16).map (fun q => Config.coresPerDie * d + 4 * q))

/-- The first place for a run of n numbers that meets none of some runs. -/
def firstFit (taken : List (Nat × Nat)) (n : Nat) : Nat :=
  if n = 0 then 0
  else
    let ends := 0 :: taken.map (fun r => r.2)
    let fits (b : Nat) : Bool := taken.all (fun r => !runsMeet r (b, b + n))
    (ends.filter fits).foldl min ((ends.filter fits).headD 0)

/-- The position a workgroup takes at an entry beside placed ones: consecutive units and objects, the lowest that are free on
every core of the entry (04 R204; 05 R127; log 17). -/
def newPosition (ks : List (KernelRec × List Position)) (k : KernelRec) (entry : Nat) : Position :=
  let cores := (entryCores k.span entry).map (fun c => c.1)
  let near := ks.flatMap (fun q => (q.2.filter (fun p => cores.any (entryHolds q.1.span p.core))).map (fun p => (q.1, p)))
  let quad := ks.flatMap (fun q => (q.2.filter (fun p => quadOfCore p.core == quadOfCore entry)).map (fun p => (q.1, p)))
  { core := entry
    spadUnit := firstFit (near.map (fun q => (q.2.spadUnit, q.2.spadUnit + q.1.spad))) k.spad
    barCore := firstFit (near.map (fun q => (q.2.barCore, q.2.barCore + q.1.bars.getD 0 0))) (k.bars.getD 0 0)
    barQuad := firstFit (quad.map (fun q => (q.2.barQuad, q.2.barQuad + q.1.bars.getD 1 0))) (k.bars.getD 1 0) }

/-- The positions of a kernel for the entries Place chose. -/
def newPositions (ks : List (KernelRec × List Position)) (k : KernelRec) : List Position → List Nat → List Position
  | done, [] => done
  | done, e :: es => newPositions ks k (done ++ [newPosition ((k, done) :: ks) k e]) es

/-- Places every kernel of an image in turn (04 R110). -/
def placeAll (ks : List (KernelRec × List Position)) (dies : List Nat) :
    Nat → List KernelRec → Except Refused (List (List Position))
  | _, [] => .ok []
  | n, k :: rest =>
    match placeOver ks k (coreList dies k.span) (k.maxWg + 1) {} k.maxWg with
    | .error r => .error { r with kernel := n }
    | .ok es =>
      let ps := newPositions ks k [] es
      match placeAll (ks ++ [(k, ps)]) dies (n + 1) rest with
      | .error r => .error r
      | .ok pss => .ok (ps :: pss)

/-! ### Slots (04 R108, R110, R434) -/

/-- A line slot of an HBM port (01 R19). -/
def lineSlot (s : Nat) : Bool := decide (s % 5 ≤ 2)

/-- The slots of a resource that a reservation may take, ascending. -/
def slotsOf (code : Nat) : List Nat := if resUnit code = 1 then (List.range 500).filter lineSlot else List.range 500

/-- The slots of a resource that reservations may hold together (04 Table 4.6). -/
def reservable (code ashare : Nat) : Nat :=
  let n := match resUnit code with | 1 => 300 | 6 => 87 | 7 => 1400 | _ => 500
  let ctx := match resUnit code with | 1 => 12 | 2 => 20 | _ => 0
  n - ctx - n * ashare / 8

/-- What an admission has taken so far: slots by resource and slot, and the slots of receive streams with their turns. -/
structure Taken where
  slots    : List (Nat × Nat) := []
  receives : List (Nat × Nat × Word64) := []
deriving DecidableEq, Repr

/-- What the installations of the package hold. -/
def State.takenSlots (s : State) : Taken where
  slots := s.garnet.held.map (fun e => (e.1 / 512, e.1 % 512))
  receives := s.installs.flatMap (fun i => i.receives)

/-- Slots of a resource that are held in some of the turns of a mask; an instance holds its slots in every turn. -/
def Taken.held (t : Taken) (code : Nat) (turns : Word64) : Nat :=
  (t.slots.filter (fun p => p.1 == code)).length + (t.receives.filter (fun r => r.1 == code && r.2.2 &&& turns != 0#64)).length

/-- Whether a slot of a resource is free in the turns of a mask. -/
def Taken.free (t : Taken) (code slot : Nat) (turns : Word64) : Bool :=
  (slotsOf code).contains slot && !t.slots.contains (code, slot) &&
    !t.receives.any (fun r => r.1 == code && r.2.1 == slot && r.2.2 &&& turns != 0#64)

/-- Every turn. -/
def allTurns : Word64 := BitVec.allOnes 64

/-- The window of slots m of n (04 R110, R434). -/
def slotWindow (code n m : Nat) : List Nat :=
  let all := slotsOf code
  let lo := m * all.length / n
  (all.drop lo).take ((m + 1) * all.length / n - lo)

/-- The slots an instance takes on its path: resources with offsets, anchor first, for n slots from the m-th on; or the refusal. -/
def takeSlots (t : Taken) (path : List (Nat × Nat)) (turns : Word64) (n ashare : Nat) :
    Nat → Nat → Except Refused (List Nat × Taken)
  | 0, _ => .ok ([], t)
  | left + 1, m =>
    let anchor := (path.headD (0, 0)).1
    let window := slotWindow anchor n m
    let freeOn (p : Nat × Nat) (s : Nat) : Bool := t.free p.1 ((s + p.2) % 500) turns
    match window.find? (fun s => path.all (fun p => freeOn p s)) with
    | none =>
      let busy (p : Nat × Nat) : Nat := (window.filter (fun s => !freeOn p s)).length
      let worst := path.foldl (fun (b : Nat × Nat) p => if busy b < busy p then p else b) (path.headD (0, 0))
      .error { code := worst.1, first := window.headD 0, last := window.getLastD 0, demand := n
               capacity := reservable worst.1 ashare, held := t.held worst.1 turns }
    | some s =>
      let t' : Taken :=
        if turns = allTurns then { t with slots := path.map (fun p => (p.1, (s + p.2) % 500)) ++ t.slots }
        else { t with receives := path.map (fun p => (p.1, (s + p.2) % 500, turns)) ++ t.receives }
      match takeSlots t' path turns n ashare left (m + 1) with
      | .error r => .error r
      | .ok (ss, u) => .ok (s :: ss, u)

/-- The share check of a path (04 R110): the first resource that cannot hold n more slots, or one that is out of use
(01 R17). -/
def shareCheck (t : Taken) (unusable : List Nat) (path : List (Nat × Nat)) (turns : Word64) (n ashare : Nat) : Option Refused :=
  let last (code : Nat) : Nat := (slotsOf code).getLastD 499
  match path.find? (fun p => unusable.contains p.1) with
  | some p => some { code := p.1, last := last p.1, demand := n }
  | none =>
    (path.find? (fun p => decide (reservable p.1 ashare < t.held p.1 turns + n))).map (fun p =>
      let all := slotsOf p.1
      let j := reservable p.1 ashare - t.held p.1 turns
      { code := p.1, first := all.getD (j * all.length / n) 0, last := last p.1, demand := n
        capacity := reservable p.1 ashare, held := t.held p.1 turns })

/-- The path of an instance: its anchor, and the L2 port 100 slots behind an HBM read or in the slot of an HBM write
(04 R110, R113; log 39). -/
def pathOf (d : Decl) (core channel : Nat) (write : Bool) : List (Nat × Nat) :=
  let port := if write then 1 else 0
  match d.reside with
  | 0 => [(resCode 1 channel 0 port, 0), (resCode 2 channel 0 port, if write then 0 else 100)]
  | 1 => [(resCode 2 channel 0 port, 0)]
  | _ => ((List.range 32).filter (fun b => wbit d.banks b)).map (fun b => (resCode 5 core b port, 0))

/-- Slots per frame that an instance takes on each resource (04 R106). -/
def Decl.slots (d : Decl) : Nat := ceilDiv d.rate (max 1 d.width)

/-- Latency from leaving to result (04 R113). -/
def Decl.latency (d : Decl) (write : Bool) (n : Nat) : Nat :=
  match d.reside with
  | 0 => if write then n + 8 else 2 * n + 220
  | 1 => if write then n + 8 else 2 * n + 12
  | _ => 4

/-- An instance as it is to be placed: kernel, its number in the kernel's records, core, direction, channel. -/
structure Want where
  kernel  : Nat
  record  : Nat
  decl    : Decl
  core    : Nat
  write   : Bool
  channel : Nat
deriving DecidableEq, Repr

/-- Puts a declaration with its number into the order of its slots. -/
def insertDecl (x : Decl × Nat) : List (Decl × Nat) → List (Decl × Nat)
  | [] => [x]
  | y :: ys => if x.1.slot < y.1.slot then x :: y :: ys else y :: insertDecl x ys

/-- The reserved declarations of a kernel in the order of their slots. -/
def reservedDecls (ds : List Decl) : List (Decl × Nat) :=
  ((ds.zipIdx).filter (fun (d : Decl × Nat) => (bufRec d.1.image).reserved)).foldl (fun l d => insertDecl d l) []

/-- The cores that hold a workgroup's groups of a kernel, ascending. -/
def kernelCores (k : KernelRec) (ps : List Position) : List Nat :=
  (ps.flatMap (fun p => ((entryCores k.span p.core).filter (fun c => decide (0 < k.claims c.2))).map (fun c => c.1))).foldl
    (fun l c => insertSorted c l) []

/-- The instances of a kernel on some cores, in the order of Admit (04 R106, R110); `chan` gives the first channel of a record. -/
def wantsOf (kernel : Nat) (ds : List Decl) (chan : Nat → Nat) (cores : List Nat) : List Want :=
  (reservedDecls ds).flatMap (fun d => cores.flatMap (fun c =>
    ([false, true].filter (fun w => if w then d.1.dir / 2 % 2 == 1 else d.1.dir % 2 == 1)).flatMap (fun w =>
      (if d.1.reside = 2 then [0] else (List.range d.1.width).map (fun j => chan d.2 + j)).map (fun ch =>
        ⟨kernel, d.2, d.1, c, w, ch⟩))))

/-- Assigns the slots of an instance. A hop of a network whose routes the spec does not give may refuse it (log 40). -/
def Want.place (w : Want) (t : Taken) (unusable : List Nat) (ashare draw : Nat) : Except Refused (Inst × Taken) :=
  let path := pathOf w.decl w.core w.channel w.write
  let n := w.decl.slots
  let here (r : Refused) : Refused := { r with kernel := w.kernel, record := w.record }
  match shareCheck t unusable path allTurns n ashare with
  | some r => .error (here r)
  | none =>
    match Config.hopRefuses draw w.core with
    | some c => .error (here { code := resCode (3 + c % 2) (c / 2) (c / 4096) (c / 2 ^ 24), last := 499, demand := n })
    | none =>
      match takeSlots t path allTurns n ashare n 0 with
      | .error r => .error (here r)
      | .ok (slots, t') =>
        .ok ({ kernel := w.kernel, slot := w.decl.slot, core := w.core, write := w.write, channel := w.channel
               anchor := (path.headD (0, 0)).1
               slots := slots, waiting := [], used := 0, donated := 0, late := 0, align := 0, lost := false }, t')

/-- Assigns the slots of instances in order. -/
def placeWants (unusable : List Nat) (ashare draw : Nat) : Taken → List Want → Except Refused (List Inst × Taken)
  | t, [] => .ok ([], t)
  | t, w :: ws =>
    match w.place t unusable ashare (draw + ws.length) with
    | .error r => .error r
    | .ok (i, t') =>
      match placeWants unusable ashare draw t' ws with
      | .error r => .error r
      | .ok (is, u) => .ok (i :: is, u)

/-- The resources and slots an instance holds. -/
def Inst.holds (n : Inst) (d : Decl) : List (Nat × Nat) :=
  n.slots.flatMap (fun s => (pathOf d n.core n.channel n.write).map (fun p => (p.1, (s + p.2) % 500)))

/-! ### The memory behind reserved records (04 R105) -/

/-- Lines that a record's byte range touches. -/
def BufRec.lines (r : BufRec) : Nat := ceilDiv (r.base % 128 + r.range) 128

/-- 64 KiB pages that a record takes in each channel of its stripe. -/
def Decl.pagesPerChannel (d : Decl) : Nat := ceilDiv (ceilDiv (bufRec d.image).lines (max 1 d.width)) 512

/-- The free pages of a pool in a channel. -/
def Fn.freeIn (f : Fn) (channel : Nat) : List Nat := f.freePages.filter (fun p => p * Config.pageBytes / Config.channelBytes == channel)

/-- The first channel of a record: its own, or the lowest of the partition whose stripe lies in the partition, holds no
mapped-out channel, and for whose stripe the pool suffices (04 R105). -/
def firstChannel (f : Fn) (channels mappedOut : List Nat) (d : Decl) : Nat :=
  if d.chan != 0xFFFF then d.chan
  else
    let stripe (c : Nat) : List Nat := (List.range d.width).map (fun j => c + j)
    let meets (c : Nat) : Bool := (stripe c).all (fun x => channels.contains x && !mappedOut.contains x &&
      decide (d.pagesPerChannel ≤ (f.freeIn x).length))
    match channels.find? meets with
    | some c => c
    | none => channels.headD 0

/-- The channels of a partition, ascending (01 R9). -/
def Partition.channels (p : Partition) : List Nat :=
  if p.valid then p.dies.flatMap (fun d => (List.range 64).map (fun i => 64 * d + i)) else []

/-- Takes n free pages of a channel from a pool; each choice is a free value (log 15). `none` when the pool runs out. -/
def State.takeIn (s : State) (fn channel : Nat) : Nat → State × Option (List Nat)
  | 0 => (s, some [])
  | n + 1 =>
    match s.pick ((s.fn fn).freeIn channel) with
    | none => (s, none)
    | some p =>
      let (t, ps) := (s.tick.takePages fn [p]).takeIn fn channel n
      (t, ps.map (fun l => p :: l))

/-- Takes the pages of a stripe; the pages of each channel in turn. -/
def State.takeStripe (s : State) (fn n : Nat) : List Nat → State × Option (List (List Nat))
  | [] => (s, some [])
  | c :: cs =>
    match s.takeIn fn c n with
    | (t, none) => (t, none)
    | (t, some ps) =>
      let (u, rest) := t.takeStripe fn n cs
      (u, rest.map (fun l => ps :: l))

/-- Puts a page into the table of an installation. -/
def State.addPage (s : State) (handle : Word) (p : Page) : State :=
  s.onInst handle (fun i => { i with pages := insertPage p i.pages })

/-- Maps fresh, scrubbed pages of the pool over a range of an address space, keeping pages that are mapped already; the answer
says whether the pool sufficed. The number counts 64 KiB pages. -/
def State.mapRange (s : State) (handle : Word) (fn : Nat) (r w x pin : Bool) (va : Nat) : Nat → State × Bool
  | 0 => (s, true)
  | n + 1 =>
    if (s.page? handle va).isSome then s.mapRange handle fn r w x pin (va + Config.pageBytes) n
    else match s.pick (s.fn fn).freePages with
      | none => (s, false)
      | some p =>
        let page : Page := {
          va := va, size := Config.pageBytes, target := .plain (p * Config.pageBytes)
          r := r, w := w, x := x, uc := false, pin := pin, shr := false, pooled := true }
        ((((s.tick.takePages fn [p]).onMem (fun m => (m.scrub (p / 32)))).addPage handle page)).mapRange handle fn r w x pin
          (va + Config.pageBytes) n

/-- Writes bytes at virtual addresses of an installation, as Garnet does when it fills pages. -/
def State.fillBytes (s : State) (handle : Word) (va : Nat) : List Byte → State
  | [] => s
  | b :: bs =>
    (match s.page? handle va with
    | none => s
    | some p => s.onMem (fun m => { m with bytes := Memory.write m.bytes (p.phys va) b })).fillBytes handle (va + 1) bs

/-! ### Fabric streams (04 R435, R436; 02 R33, R34, R41) -/

/-- The package a stream record names. -/
def Fabric.streamDest (f : Fabric) (r : FabRec) : Nat :=
  match r.destMode with
  | 0 => r.dest
  | 1 => f.row * 64 + (f.column ^^^ r.dest)
  | _ => (f.row ^^^ r.dest) * 64 + f.column

/-- The line slots of a channel that streams placed on it hold in a turn. -/
def streamLoad (sts : List Stream) (chan turn : Nat) : Nat :=
  sts.foldl (fun n st => if st.fab.kind = 0 ∧ !st.lost ∧ chanOf st.port st.laser = chan ∧ wbit st.fab.turns turn then n + st.fab.rate else n) 0

/-- The lowest and the highest turn a stream record names. -/
def FabRec.turnSpan (r : FabRec) : Nat × Nat := (r.turnList.headD 0, r.turnList.getLastD 0)

/-- Whether a channel of a pool takes a send stream (04 R435). -/
def Fabric.takesStream (f : Fabric) (pool chan dest ashare : Nat) (sts : List Stream) (r : FabRec) : Bool :=
  f.canTake pool chan dest r.turnList true &&
    r.turnList.all (fun t => decide (streamLoad sts chan t + r.rate ≤ reservable (resCode 6 (chan / 16) (chan % 16) 0) ashare))

/-- Places a send stream: its channel, or the refusal (04 R435, 02 R41). -/
def Fabric.placeSend (f : Fabric) (pool ashare : Nat) (sts : List Stream) (r : FabRec) : Except Refused (Nat × Nat) :=
  let dest := f.streamDest r
  let chans := (f.ofPool pool).map (fun e => e.1)
  let (lo, hi) := r.turnSpan
  let refuse (port laser : Nat) : Refused :=
    { code := resCode 6 port laser 0, first := lo, last := hi, demand := r.rate
      capacity := reservable (resCode 6 port laser 0) ashare
      held := r.turnList.foldl (fun n t => max n (streamLoad sts (chanOf port laser) t)) 0 }
  let column := dest % 64 == f.column && dest != f.self
  let firstPort := if column then ((chans.map (· / 16)).find? (18 ≤ ·)).getD 18 else ((chans.map (· / 16)).find? (· < 18)).getD 0
  let given := r.port != 0xFF && r.laser != 0xFF
  let tried := chans.filter (fun n => f.reaches (n / 16) dest && (r.port == 0xFF || n / 16 == r.port) &&
    (r.laser == 0xFF || n % 16 == r.laser))
  if !f.direct dest || !f.present.contains dest then
    .error (if given then refuse r.port r.laser else refuse firstPort 0)
  else match tried.find? (fun n => f.takesStream pool n dest ashare sts r) with
    | some n => .ok (dest, n)
    | none =>
      .error (if given then refuse r.port r.laser
        else match tried with
          | n :: _ => refuse (n / 16) (n % 16)
          | [] => refuse firstPort 0)

/-- The port on which a receive stream's data arrive (04 R436). -/
def Fabric.receivePort (f : Fabric) (r : FabRec) : Nat :=
  if r.port != 0xFF then r.port else if f.streamDest r / 64 == f.row then 0 else 18

/-- The lines of a receive stream that a port drains in a turn. -/
def ingressLoad (sts : List Stream) (port turn : Nat) : Nat :=
  sts.foldl (fun n st => if st.fab.kind = 1 ∧ st.port = port ∧ wbit st.fab.turns turn then n + st.fab.rate else n) 0

/-- The home slices that hold a line of a window. -/
def State.windowSlices (s : State) (handle : Word) (r : BufRec) : List Nat :=
  ((List.range r.lines).filterMap (fun j => (s.page? handle (r.base / 128 * 128 + 128 * j)).map (fun p =>
    sliceOf (p.phys (r.base / 128 * 128 + 128 * j))))).foldl (fun l c => insertSorted c l) []

/-- Holds the slots of a receive stream at the slices of its window, slice by slice. -/
def takeReceive (unusable : List Nat) (ashare n : Nat) (turns : Word64) : Taken → List Nat → Except Refused Taken
  | t, [] => .ok t
  | t, c :: cs =>
    let path := [(resCode 2 c 0 1, 0)]
    match shareCheck t unusable path turns n ashare with
    | some r => .error r
    | none =>
      match takeSlots t path turns n ashare n 0 with
      | .error r => .error r
      | .ok (_, t') => takeReceive unusable ashare n turns t' cs

end Sys2Proof.Machine
end

