-- ==== Sys2Proof/Machine/Rails.lean ====
section
/-!
DEFINITION. How a rail chooses (05 R142, R143; 06 R179): the register lines a clause names, when a group is ready or what
holds it, CLAUSE_START, the default handler (06 R181), TRAP_ENTRY, SUSPENSION_EFFECT and WATCHDOG_EXPIRY (05 R148).
-/
namespace Sys2Proof.Machine

/-! ### The register lines a clause names (05 R142, 06 R159) -/

/-- The kinds of the register fields d, a and b of an opcode, by the opcode tables of 13 to 15; `other` stands for a field
that names no register. -/
def namedKinds (op d b : Nat) : Kind × Kind × Kind :=
  let o : Kind := .unused
  if op == 0x05 then (if b == 2 then .pair else .reg, .pair, o)
  else if op == 0x06 then (.reg, .pair, o)
  else if op == 0x0D || op == 0x4A then (.pair, o, o)
  else if op == 0x0E || op == 0x0F || op == 0xB4 || op == 0x9F then (.reg, .pair, o)
  else if op == 0x07 || op == 0x0C || op == 0x11 || op == 0x13 || op == 0x14 || op == 0x17 || op == 0x1B || op == 0x4C ||
      op == 0x9A || op == 0xB5 || op == 0xBB then (o, .reg, o)
  else if op == 0x0A || op == 0x0B || op == 0x16 || op == 0x18 || op == 0x41 || op == 0x42 || op == 0x43 || op == 0x4B ||
      op == 0x90 || op == 0x91 || op == 0x93 || op == 0x94 || op == 0x9B || op == 0xBC then (.reg, o, o)
  else if op == 0x12 || op == 0x40 || op == 0x6E || op == 0x98 || op == 0x99 then (.reg, .reg, o)
  else if op == 0x49 then (.pair, .pair, o)
  else if op == 0x92 then (.pair, o, o)
  else if op == 0x9C || op == 0x9D then (o, .reg, .reg)
  else if op == 0x9E then (.pair, .reg, o)
  else if op == 0x72 then
    (if b < 128 then .cvt (b % 32) else .typed, if b < 128 then .typed else .cvt (b % 32), o)
  else if (0x2C ≤ op ∧ op ≤ 0x31) ∨ op == 0x6A ∨ op == 0x77 then (.typed, .typed, .reg)
  else if (0x38 ≤ op ∧ op ≤ 0x3D) ∨ (0x64 ≤ op ∧ op ≤ 0x67) ∨ op == 0x79 then (.reg, .typed, .typed)
  else if op == 0x6F ∨ op == 0x73 ∨ op == 0x75 then (.reg, .typed, o)
  else if op == 0x74 then (.typed, .reg, o)
  else if op == 0x26 ∨ op == 0x27 ∨ (0x2B ≤ op ∧ op ≤ 0x2B) ∨ (0x32 ≤ op ∧ op ≤ 0x34) ∨ (0x44 ≤ op ∧ op ≤ 0x48) ∨
      (0x59 ≤ op ∧ op ≤ 0x59) ∨ (0x5E ≤ op ∧ op ≤ 0x62) ∨ op == 0x68 ∨ op == 0x69 ∨ (0x6B ≤ op ∧ op ≤ 0x6D) ∨
      op == 0x76 ∨ op == 0x78 ∨ op == 0x7A then (.typed, .typed, o)
  else if (0x20 ≤ op ∧ op ≤ 0x3E) ∨ (0x50 ≤ op ∧ op ≤ 0x5D) ∨ op == 0x63 then (.typed, .typed, .typed)
  else if (0x80 ≤ op ∧ op ≤ 0x85) ∨ (0x88 ≤ op ∧ op ≤ 0x8B) then (.reg, .reg, o)
  else if op == 0x86 ∨ op == 0x8C then (.pair, .reg, o)
  else if op == 0x87 ∨ op == 0x8D then (.quad, .reg, o)
  else if op == 0x8E then (o, .eight, o)
  else if op == 0x8F then (.eight, o, o)
  else if op == 0xA0 ∨ op == 0xA4 ∨ op == 0xA9 then (.pair, .reg, o)
  else if op == 0xA1 then (.quad, .reg, o)
  else if (0xA2 ≤ op ∧ op ≤ 0xAE) ∨ op == 0x95 ∨ op == 0x96 ∨ op == 0xB9 ∨ op == 0xBA then
    (if op == 0xB9 ∨ op == 0xBA then (o, .reg, o) else (.reg, .reg, o))
  else if op == 0xB0 then (o, .pair, .pair)
  else if op == 0xB1 ∨ op == 0xB2 ∨ op == 0xB6 ∨ op == 0xB8 then (o, .pair, o)
  else (o, o, o)

/-- The register lines a word names: those of its register fields that lie below REGS, but a queue has none, and in a handler
0 to 7 name the window. -/
def wordLines (mode : Word) (handler : Bool) (regs : Nat) (w : Word) : List Nat :=
  let d := wbits w 23 16
  let a := wbits w 15 8
  let b := wbits w 7 0
  let k := namedKinds (opOf w) d b
  let lines (kd : Kind) (v : Nat) : List Nat :=
    (List.range (kd.under (modeType mode)).span).filterMap (fun i =>
      if v + i < regs && !(handler && decide (v + i < 8)) then some (v + i) else none)
  lines k.1 d ++ lines k.2.1 a ++ lines k.2.2 b

/-- The register lines a clause names, ascending. -/
def clauseLines (mode : Word) (handler : Bool) (regs : Nat) (c : FetchedClause) : List Nat :=
  distinct (c.words.flatMap (wordLines mode handler regs))
where
  /-- Distinct numbers, ascending. -/
  distinct (ns : List Nat) : List Nat := ns.foldl (fun l n => insertSorted n l) []

/-- The register lines a group's clause names. -/
def State.linesFor (s : State) (g : Group) (c : FetchedClause) : List Nat :=
  clauseLines g.ctl.mode g.ctl.handler (s.recordOf g).regs c

/-- Whether every line a clause names is resident (06 R159). -/
def State.linesResident (s : State) (g : Group) (c : FetchedClause) : Bool :=
  (s.linesFor g c).all (fun j => (s.core g.core).resident g.gid j)

/-- The lines of a group that are locked: those its started clause names, until it completes (06 R159). -/
def State.locked (s : State) (g : Group) : List Nat :=
  match g.clause with
  | none => []
  | some c => s.linesFor g c

/-- The locked lines of a bank of a core (06 R159). -/
def State.lockedIn (s : State) (core bank : Nat) : Nat :=
  (s.groups.filter (fun g => g.core == core && g.gstate != .retired)).foldl (fun n g =>
    n + ((s.locked g).filter (fun j => bankOf (s.fn g.fn).banks j == bank)).length) 0

/-- Whether a clause's start keeps every bank at or below 576 locked lines (06 R159). -/
def State.locksFit (s : State) (g : Group) (c : FetchedClause) : Bool :=
  (List.range 8).all (fun b =>
    let own := ((s.linesFor g c).filter (fun j => bankOf (s.fn g.fn).banks j == b)).length
    own == 0 || decide (s.lockedIn g.core b + own ≤ Config.bankLocks))

/-! ### The throttle (05 R146) -/

/-- A memory instruction: loads, stores, atomics, reductions, LDSHAPE, STSHAPE (15 R407). -/
def isMemory (op : Nat) : Bool :=
  (decide (0x80 ≤ op) && decide (op ≤ 0x8D)) || op == 0x95 || op == 0x96 || (decide (0xA0 ≤ op) && decide (op ≤ 0xAE)) ||
    op == 0xB9 || op == 0xBA

/-- Whether a clause holds a memory instruction through an allowance record (05 R142). -/
def Group.throttled (g : Group) (c : FetchedClause) : Bool :=
  c.words.any (fun w => isMemory (opOf w) && !(bufRec (Sparse.get 0#256 g.recs (wbits w 7 0))).reserved)

/-- Whether the throttle permits a group: handler clauses always (05 R143, R146). -/
def State.eligible (s : State) (g : Group) : Bool :=
  g.ctl.handler ||
    match (s.core g.core).eligible with
    | none => true
    | some gids => gids.contains g.gid

/-! ### Whether a hold has ended (05 R143) -/

/-- Whether what a stalled group waits for has come. -/
def State.holdOver (s : State) (g : Group) : Hold → Bool
  | .queueWords q n => decide (n ≤ (g.queue q).length)
  | .queueRoom q n => decide (n ≤ s.queueRoom g q)
  | .flags mask => s.flagsClear g.gid mask
  | .flagRoom f => decide (s.flagCount g.gid f < 63)
  | .ops ids => !s.ops.any (fun o => ids.contains o.id)
  | .commits ids => !s.commits.any (fun c => ids.contains c.id)
  | .data id =>
    match s.op? id with
    | some ⟨_, _, _, _, _, _, _, _, _, _, .load _ _ _ _ lines _ _ _⟩ => lines.all (fun l => l.bytes.isSome)
    | _ => true
  | .transfers ids => !s.transfers.any (fun t => ids.contains t.id)
  | .region n => decide (n < s.mem.bootSwept) && !(pagesOfRegion n).any s.mem.unscrubbed.contains
  | .psbRoom n =>
    decide (n ≤ g.ctl.psbFree) ||
      (match psbStores (g.ctl.psb.filter (fun e => e.held.isNone)) with
      | [] => false
      | st :: _ => s.mayOverflow g st.entry)
  | .leaseRoom => decide (g.leaseOut + (g.queue 10).length < 64)
  | .suspended gid =>
    match s.group? gid with
    | none => true
    | some h => h.ctl.suspended || h.gstate == .retired
  | .partner =>
    match s.partner g with
    | none => true
    | some h =>
      if g.ctl.shadow then h.ctl.trapPend && g.ctl.pc == h.ctl.pc && g.ctl.slot == h.ctl.slot
      else g.ctl.pc == h.ctl.pc && g.ctl.slot == h.ctl.slot && (h.stalled.map (fun st => st.hold)) == some .partner
  | .lvqRoom =>
    match s.partner g with
    | none => true
    | some h => decide (h.lvq.length < 128)
  | .windowFree =>
    match g.seat with
    | none => false
    | some seat => (s.rail g.core (railOfSeat seat)).handler.isNone

/-! ### Whether a group is ready (05 R142) -/

/-- What a rail finds at a group: it starts a clause, resumes one where it stalled or where a handler returned, traps at its
header, is in the default handler, or waits for a cause. -/
inductive Ready where
  | start (c : FetchedClause)
  | resume
  | trap (t : Trap) (word : Word)
  | byDefault
  | wait (c : StallCause)

/-- Whether a group is held whatever its clause: its tenant gated or out (03 R68, R69), a suspension that stands (06 R182), a
trap that waits (R176), the withdrawal of its die (10 R283), an IFENCE (15 R419), or a context-page fault (06 R164). -/
def State.held (s : State) (g : Group) : Option StallCause :=
  let fault := s.faults.any (fun (d : Nat × List (Nat × Nat)) => d.2.any (fun f => f.1 == g.gid))
  let mate := match s.partner g with | none => false | some h => h.ctl.suspended
  let leaves := match s.inst? g.ctl.handle with
    | none => false
    | some i => i.withdrawing.contains (dieOfCore g.core) && (g.clause.isNone || g.stalled.isSome)
  if s.gated g || !s.resident g || leaves then some .barrier
  else if g.ctl.suspended || mate || !g.suspendBy.isEmpty || g.ctl.trapPend then some .barrier
  else if fault then some .translation
  else if g.fetchHold && g.clause.isNone then some .flagWait
  else none

/-- Whether a shadow may start its clause: its leader has completed it, or waits for the shadow in it, at a release or at a
trap (06 R191 to R193). -/
def State.shadowMay (s : State) (g : Group) : Bool :=
  if !g.ctl.shadow then true
  else match s.partner g with
    | none => true
    | some h =>
      decide (g.done < h.done) ||
        (g.done == h.done && ((h.stalled.map (fun st => st.hold)) == some .partner || h.ctl.trapPend))

/-- Whether the firewall lets a group's core fetch from an address (03 R67). -/
def State.fetchOpen (s : State) (g : Group) (va : Nat) : Bool :=
  match s.page? g.ctl.handle va with
  | none => true
  | some p => s.passes g.core (.virt g.ctl.handle) (p.phys va)

/-- The watchdog limit of a group's partition, in cycles (05 R148, Table 5.7). -/
def State.watchdogLimit (s : State) (g : Group) : Nat :=
  wbits (s.part (match s.inst? g.ctl.handle with | none => 0 | some i => i.part)).wdCfg 31 16 * 65536

/-- WDCOUNT as WDOG reports it: a group that stalls traps in the cycle in which its count reaches the limit; a later trap finds a
count that no frame fixes (05 R148; log 3). -/
def State.watchdogCount (s : State) (g : Group) (now : Bool) : Nat :=
  let limit := s.watchdogLimit g
  if now && decide (g.ctl.wdCount.toNat ≤ limit) then limit else max limit (s.cycles g.ctl.wdCount.toNat)

/-- What a group finds at a clause boundary (05 R142; 12 R320, R325; 06 R185, R180). -/
def State.atHeader (s : State) (g : Group) : Ready :=
  let active := s.activeMask g
  let pc := g.ctl.pc.toNat
  if !(s.fetchOpen g pc && s.fetchOpen g (pc + 124)) then .wait .translation
  else
  match s.fetchWord g.core g.ctl.handle pc with
  | .error a => if g.wdDue then .trap ⟨0x0D, active, s.watchdogCount g false, 0⟩ 0#32 else .trap ⟨5, active, a, 1⟩ 0#32
  | .ok w =>
    let hd := headerOf w
    let bad (f : Nat) : Bool := f == 12 || f == 13 || f == 14
    if g.wdDue then .trap ⟨0x0D, active, s.watchdogCount g false, 0⟩ w
    else if opOf w = 1 then .trap ⟨0x0E, active, 0, 0⟩ w
    else if !isHeader w || bad hd.setA || bad hd.setB then .trap ⟨1, active, w.toNat, 5⟩ w
    else
      match s.fetchClause g.core g.ctl.handle pc with
      | .error a => .trap ⟨5, active, a, 1⟩ w
      | .ok c =>
        if !g.ctl.resumeWait && !s.flagsClear g.gid (hd.wait.setWidth 13) then .wait .flagWait
        else if !s.linesResident g c || !s.locksFit g c then .wait .registerMiss
        else if g.throttled c && !s.eligible g then .wait .throttle
        else .start { c with longs := longsBefore c.words g.ctl.slot }

/-- What a rail finds at a seated group. -/
def State.readiness (s : State) (g : Group) : Ready :=
  match s.held g with
  | some c => .wait c
  | none =>
    match g.clause, g.stalled with
    | some c, some st =>
      if !s.holdOver g st.hold then .wait st.cause
      else if !s.linesResident g c then .wait .registerMiss
      else .resume
    | some c, none => if s.linesResident g c then .resume else .wait .registerMiss
    | none, _ =>
      if g.ctl.handler && (s.recordOf g).trapEntry == 0xFFFFFFFF then .byDefault
      else if !s.shadowMay g then .wait .barrier
      else s.atHeader g

/-- Whether a rail may take a group. -/
def Ready.go : Ready → Bool
  | .wait _ => false
  | _ => true

/-- Whether a group waits in a barrier or ticket wait (05 Table 5.3). -/
def State.sleeping (s : State) (gid : Nat) : Bool :=
  s.ops.any (fun o => o.gid == gid && (match o.kind with | .acquire .. => true | _ => false))

/-- The wait a seat table entry shows for a group that is not ready (05 Table 5.3). -/
def State.waitOf (s : State) (g : Group) : SeatWait :=
  match s.readiness g with
  | .wait .registerMiss => .register
  | .wait c =>
    if (c == .flagWait || c == .barrier) && s.sleeping g.gid && !g.ctl.suspended && !g.ctl.trapPend then .barrier else .none
  | _ => .none

/-- Notes the waits of the groups of a rail. -/
def State.noteWaits (s : State) (c r : Nat) : State :=
  (s.onRailGroups c r).foldl (fun t g =>
    let w := s.waitOf g
    t.onGroup g.gid (fun h =>
      if h.wait = w then h else { h with wait := w, waitCycles := if h.wait = .none then 0 else h.waitCycles })) s

/-! ### CLAUSE_START (05 R142, R143; 06 R179) -/

/-- The groups of a rail that it may take, the one a YIELD holds back left out while another is ready (13 R361). -/
def State.takers (s : State) (c r : Nat) : List Group :=
  let all := (s.onRailGroups c r).filter (fun g => (s.readiness g).go)
  let others := all.filter (fun g => !((s.rail c r).yielded == some g.gid && g.clause.isNone))
  if others.isEmpty then all else others

/-- The group a rail takes: the oldest whose handler's clause is ready, else the oldest that is ready (06 R179). -/
def State.taker (s : State) (c r : Nat) : Option Group :=
  match oldestOf ((s.takers c r).filter (fun g => g.ctl.handler)) with
  | some g => some g
  | none => oldestOf (s.takers c r)

/-- The partition's default handler acts on the cause of a group (06 R181). -/
def State.defaultHandler (s : State) (g : Group) : State :=
  let tr := g.ctl.trapRec
  let kill (t : State) : State :=
    (t.event g.fn 0x3B g.fn g.ctl.handle.toNat g.ctl.group.toNat
      (tr.cause.toNat + tr.slot.toNat * 65536 + tr.laneMask.toNat * 2 ^ 32)).killGroup g.gid
  let header := wbit tr.flags 1
  if tr.cause == 5#16 && !header && !wbit tr.info1 8 then
    let (t, status) := s.pageMap g.ctl.handle 0 (tr.info0.toNat / 65536 * 65536) true false false
    if status ≤ 1 then t.trapReturn g false else kill t
  else kill s

/-- In a pair the watchdog's trap falls on both, with the leader's lanes (log 25). -/
def State.putWatchdog (s : State) (g : Group) (mask : Word) : State :=
  let s' := s.putGroup g
  match s'.partner g with
  | none => s'
  | some h => (s'.leaveRail h).putGroup { h with
      clause := none, stalled := none
      ctl := { h.ctl with trapPend := true, trapRec := { h.ctl.trapRec with cause := 0x0D#16, laneMask := mask } } }

/-- A rail takes a group; a clause that starts again without its waits clears RESUMEWAIT (06 R180). -/
def State.takeGroup (s : State) (c r : Nat) (g : Group) : State :=
  let clear (t : State) : State := t.onRail c r (fun rl =>
    { rl with yielded := if rl.yielded = some g.gid then none else rl.yielded })
  let free (t : State) : State := t.onRail c r (fun rl => { rl with yielded := none })
  match s.readiness g with
  | .wait _ => s
  | .resume => (s.putGroup { g with stalled := none }).onRail c r (fun rl => { rl with clauseOf := some g.gid })
  | .trap t w =>
    let lead := match s.partner g with | none => true | some h => !(g.ctl.shadow && !h.ctl.trapPend)
    let g' := { g with wdDue := false }
    if lead then (clear (if g.wdDue then s.putWatchdog g' t.mask else s.putGroup g')).raiseTrap g' t 0 true false w
    else s.mismatch g
  | .byDefault => free (s.defaultHandler g)
  | .start cl =>
    let differs := match s.partner g with
      | none => false
      | some h => g.ctl.shadow && h.ctl.trapPend && g.ctl.pc == h.ctl.pc && wbit h.ctl.trapRec.flags 1
    if differs then s.mismatch g
    else if cl.words.length ≤ g.ctl.slot then free (s.endClause { g with clause := some cl })
    else free ((s.putGroup { g with clause := some cl, stalled := none, ctl := { g.ctl with resumeWait := false } }).onRail c r (fun rl =>
      { rl with clauseOf := some g.gid }))

/-- CLAUSE_START of a rail: at a clause boundary it takes a group, if one is ready. -/
def execClauseStart (s : State) : Host.Outcome State Fault Refusal :=
  let c := s.turn.x
  let r := s.turn.y
  let t := s.tick.noteWaits c r
  if (t.rail c r).clauseOf.isSome then .next t
  else match t.taker c r with
    | none => .next t
    | some g => .next (t.takeGroup c r g)

/-! ### TRAP_ENTRY, SUSPENSION_EFFECT, WATCHDOG_EXPIRY -/

/-- TRAP_ENTRY of a rail (06 R176, R179). -/
def execTrapEntry (s : State) : Host.Outcome State Fault Refusal := .next (s.tick.enterOldest s.turn.x s.turn.y)

/-- SUSPENSION_EFFECT of a group (06 R182). -/
def execSuspensionEffect (s : State) : Host.Outcome State Fault Refusal :=
  match s.group? s.turn.x with
  | none => .next s
  | some g =>
    if g.suspendBy.isEmpty || s.underWay g || g.gstate == .retired then .next s
    else .next (s.putGroup (g.onCtl (fun c => { c with suspended := true })))

/-- Whether a group's watchdog count may have reached the limit (05 R148): the frames counted, and less than one frame
besides (log 3). The count stands still while the tenant or the die is gated, while the group is suspended, and while a trap
of its waits. -/
def State.watchdogDue (s : State) (g : Group) : Bool :=
  let limit := s.watchdogLimit g
  limit != 0 && decide (limit < g.ctl.wdCount.toNat + Config.frameCycles) && g.gstate != .retired && !s.gated g &&
    !g.ctl.suspended && !g.ctl.trapPend

/-- The trap of an expiry: at the instruction the group is stalled on, or at its next clause header (05 R148). -/
def State.watchdogTrap (s : State) (g : Group) : State :=
  match g.clause, g.stalled with
  | some c, some _ =>
    let uni := (headerOf c.header).uni.getLsbD g.ctl.slot
    let lanes := s.activeMask g
    let mask := if uni then maskOf ((laneList lanes).take 1) else lanes
    let t : Trap := ⟨0x0D, mask, s.watchdogCount g true, 0⟩
    let word := c.words.getD g.ctl.slot 0#32
    (s.putWatchdog g mask).raiseTrap g t g.ctl.slot false uni word
  | _, _ => s.putGroup { g with wdDue := true }

/-- WATCHDOG_EXPIRY of a group: it traps WDOG, or is killed in its handler; an unseated group becomes READY, before every
other (05 R148, Table 5.4). -/
def execWatchdogExpiry (s : State) : Host.Outcome State Fault Refusal :=
  match s.group? s.turn.x with
  | none => .next s
  | some g =>
    if g.ctl.shadow || !s.watchdogDue g then .next s
    else if g.ctl.handler then .next (s.tick.killGroup g.gid)
    else if g.gstate = .seated then .next (s.tick.watchdogTrap g)
    else
      let up (h : Group) : Group := { h with gstate := .ready, wait := .none, urgent := true }
      let t := match s.partner g with | none => s.tick | some h => s.tick.putGroup (up h)
      .next ((t.putGroup (up g)).watchdogTrap (up g))

end Sys2Proof.Machine
end

