-- ==== Sys2Proof/Machine/Slots.lean ====
section
/-!
DEFINITION. Reserved requests at their slots: RESERVED_REQUEST_DEPART and SLOT_SERVICE (04 R112, R113, R123); and the far ways
of a partition: L2FAR_WRITE and L2FAR_TAKE_EFFECT (07 R208).
-/
namespace Sys2Proof.Machine

/-! ### Reserved requests (04 R112, R113) -/

/-- Whether an instance serves a request of a record slot of a kernel on a core: its direction, and its channel where the record
is striped over channels. -/
def Inst.serves (n : Inst) (kernel slot core : Nat) (write : Bool) (space : Space) (phys : Nat) : Bool :=
  n.kernel == kernel && n.slot == slot && n.core == core && n.write == write && !n.lost &&
    (match space with
    | .virt _ => n.channel == sliceOf phys
    | _ => true)

/-- Queues a request at its instance. -/
def State.enqueue (s : State) (g : Group) (slot : Nat) (write : Bool) (space : Space) (phys id line : Nat) : State :=
  s.onInst g.ctl.handle (fun i => { i with insts := i.insts.map (fun n =>
    if n.serves g.kernel slot g.core write space phys then { n with waiting := n.waiting ++ [(id, line)] } else n) })

/-- Whether some instance serves a request. -/
def State.servable (s : State) (g : Group) (slot : Nat) (write : Bool) (space : Space) (phys : Nat) : Bool :=
  match s.inst? g.ctl.handle with
  | none => false
  | some i => i.insts.any (fun n => n.serves g.kernel slot g.core write space phys)

/-- Changes a line of a load. -/
def OutOp.onLine (o : OutOp) (addr : Nat) (f : LineAccess → LineAccess) : OutOp :=
  match o.kind with
  | .load form sp image hint lines lanes acq uni =>
    { o with kind := .load form sp image hint (lines.map (fun l => if l.addr == addr then f l else l)) lanes acq uni }
  | _ => o

/-- A line of a load, and its space. -/
def OutOp.line? (o : OutOp) (addr : Nat) : Option (Space × LineAccess) :=
  match o.kind with
  | .load _ sp _ _ lines _ _ _ => (lines.find? (fun l => l.addr == addr)).map (fun l => (sp, l))
  | _ => none

/-- A load's line leaves its core; one whose instance is gone is served at once (log 28). -/
def State.departLine (s : State) (o : OutOp) (g : Group) (sp : Space) (l : LineAccess) : State :=
  if s.servable g l.slot false sp l.phys then
    (s.putOp (o.onLine l.addr (fun l => { l with left := true }))).enqueue g l.slot false sp l.phys o.id l.addr
  else s.putOp (o.onLine l.addr (fun l => { l with left := true, served := true }))

/-- Changes a commit. -/
def State.onCommit (s : State) (id : Nat) (f : Commit → Commit) : State :=
  { s with commits := s.commits.map (fun c => if c.id == id then f c else c) }

/-- A store leaves its core. -/
def State.departStore (s : State) (c : Commit) (g : Group) : State :=
  if s.servable g c.slot true c.space c.phys then
    (s.onCommit c.id (fun c => { c with left := true })).enqueue g c.slot true c.space c.phys c.id c.block
  else s.onCommit c.id (fun c => { c with left := true, served := true })

/-- RESERVED_REQUEST_DEPART of a line of a load, or of a store, by the number of the operation or the commit (04 R113). -/
def execReservedRequestDepart (s : State) : Host.Outcome State Fault Refusal :=
  match s.op? s.turn.x with
  | some o =>
    match o.line? s.turn.y, s.group? o.gid with
    | some (sp, l), some g => if l.left then .next s else .next (s.tick.departLine o g sp l)
    | _, _ => .next s
  | none =>
    match s.commits.find? (fun c => c.id == s.turn.x) with
    | none => .next s
    | some c =>
      match s.group? c.gid with
      | none => .next s
      | some g => if c.left || !c.accepted then .next s else .next (s.tick.departStore c g)

/-- A request is served at its anchor. -/
def State.serveRequest (s : State) (id line : Nat) : State :=
  match s.op? id with
  | some o => s.putOp (o.onLine line (fun l => { l with served := true }))
  | none => s.onCommit id (fun c => { c with served := true })

/-- The counts of a slot that no reserved request takes: a context request, an allowance request, or none is there to serve
(04 R112, R123). -/
def ResourceCount.spare (c : ResourceCount) (use : Nat) : ResourceCount :=
  match use with
  | 1 => { c with ctx := c.ctx + 1 }
  | 2 => { c with alw := c.alw + 1 }
  | _ => { c with idle := c.idle + 1 }

/-- Changes the counts of a resource. -/
def State.onCount (s : State) (code : Nat) (f : ResourceCount → ResourceCount) : State :=
  { s with garnet := { s.garnet with counts := Sparse.alter {} s.garnet.counts code f } }

/-- SLOT_SERVICE of a resource and slot; the third number of the turn says what takes a slot that its owner leaves, and at a
resource that is not the anchor whether a request of the owner passes (3); 4 more says that the request served arrived after the
slot it was meant for (R123). -/
def execSlotService (s : State) : Host.Outcome State Fault Refusal :=
  let code := s.turn.x
  let slot := s.turn.y
  let mine (n : Inst) : Bool := n.anchor == code && n.slots.contains slot && !n.lost
  match s.installs.find? (fun i => decide (i.effective ≤ s.pkg.frame) && i.insts.any mine) with
  | none =>
    let held := Sparse.get 0#32 s.garnet.held (512 * code + slot) != 0#32
    .next (s.onCount code (fun c =>
      if !held then c.spare (s.turn.z % 4)
      else if s.turn.z % 4 = 3 then { c with used := c.used + 1 } else { (c.spare (s.turn.z % 4)) with donated := c.donated + 1 }))
  | some i =>
    match i.insts.find? mine with
    | none => .next s
    | some n =>
      let put (m : Inst) : State := s.putInst { i with insts := i.insts.map (fun k => if mine k then m else k) }
      match n.waiting with
      | [] =>
        .next ((put { n with donated := n.donated + 1 }).onCount code (fun c =>
          { (c.spare (s.turn.z % 4)) with donated := c.donated + 1 }))
      | w :: ws =>
        .next (((put { n with waiting := ws, used := n.used + 1, late := n.late + s.turn.z / 4 }).onCount code (fun c =>
          { c with used := c.used + 1 })).serveRequest w.1 w.2)

/-! ### The far ways (07 R208) -/

/-- L2FAR_WRITE: a write that sets a bit that must be zero is ignored; another applies at the next frame boundary. -/
def execL2farWrite (partition : Nat) (value : Word) (s : State) : Host.Outcome State Fault Refusal :=
  if wbits value 31 4 != 0 || decide (8 ≤ partition) then .next s
  else .next (s.onPart partition (fun p => { p with l2far := value }))

/-- The far lines of a partition that share a slice and a set with a line. -/
def Fabric.farSet (f : Fabric) (l : FarLine) : List FarLine :=
  f.far.filter (fun m => m.slice == l.slice && Config.l2Set m.addr == Config.l2Set l.addr)

/-- Whether two far lines are one. -/
def FarLine.same (a b : FarLine) : Bool := a.handle == b.handle && a.key == b.key && a.addr == b.addr

/-- The far lines of one set that lie in the ways that FAR gives up: which of them do is a free value (log 29), at most as many
as the ways that change, and the rest fit the ways that stay. -/
def State.farLeaving (s : State) (set : List FarLine) (before after : Nat) : List FarLine :=
  let marked := (set.zipIdx.filter (fun m => Config.farLeaves (s.freeCtr + m.2))).map (fun m => m.1)
  let chosen := marked.take (before - after)
  let rest := set.filter (fun m => !chosen.any m.same)
  chosen ++ rest.take (rest.length - after)

/-- L2FAR_TAKE_EFFECT: the far lines in the ways that change are written back and invalidated, and FAR applies. -/
def execL2farTakeEffect (partition : Nat) (s : State) : Host.Outcome State Fault Refusal :=
  let p := s.part partition
  let after := min 8 (wbits p.l2far 3 0)
  if p.farNow = after then .next s
  else
    let mine := s.fab.far.filter (fun l => p.dies.contains (l.slice / 64))
    let leaving := mine.filter (fun l => (s.farLeaving (s.fab.farSet l) p.farNow after).any l.same)
    let t := leaving.foldl (fun t l => t.writeBackFar l) s.tick
    .next ((t.onFab (fun f => { f with far := f.far.filter (fun l => !leaving.any l.same) })).onPart partition
      (fun p => { p with farNow := after }))

end Sys2Proof.Machine
end

