-- ==== Sys2Proof/Machine/Spinel.lean ====
section
/-!
DEFINITION. Spinel collectives (09 R256 to R260, 02 R50 to R54): SPINEL_COMMAND, COLLECTIVE_START, COLLECTIVE_STEP,
COLLECTIVE_END, PACKAGE_LEAVES_POD, and what a change of the participants does.
-/
namespace Sys2Proof.Machine

/-! ### SPINEL_COMMAND (09 R257, R258) -/

/-- The scope bit of a command: 0 pkg, 1 pod. -/
def spinScope (w : Word) : Nat := wbits w 19 19

/-- Whether a command is rejected (09 R258). -/
def State.spinRejects (s : State) (g : Group) (w : Word) (src dst : BufRec) (srcOff dstOff count : Nat) (barrier : Word) : Bool :=
  let op := wbits w 27 24
  let fmt := wbits w 23 20
  wbits w 31 28 != 1 || decide (5 < op) || (decide (3 ≤ op) && decide (4 ≤ fmt)) || decide (7 < fmt) || wbit w 18 ||
    count == 0 || count % 128 != 0 || decide (2 ^ 26 < count) || badRange src srcOff count || badRange dst dstOff count ||
    src.remote || src.space != 0 || dst.remote || dst.space != 0 || badBarrier (s.recordOf g) barrier

/-- The status word of a command (09 Table 9.6). -/
def spinStatus (w : Word) (result : Nat) (unchecked : Bool) : Word :=
  BitVec.ofNat 32 (wbits w 31 28 * 2 ^ 28 + result % 16 * 2 ^ 24 + wbits w 23 20 * 2 ^ 20 + wbits w 19 19 * 2 ^ 19 +
    (if unchecked then 2 ^ 18 else 0) + wbits w 5 0)

/-- The number the next command of a die takes at a scope (09 R256). -/
def Installation.nextSpin (i : Installation) (die scope : Nat) : Nat := Sparse.get 0 i.spinNumber (2 * die + scope)

/-- The five words at the head of a group's q8, once Spinel may take them: their release has completed. -/
def State.spinHead (s : State) (g : Group) : Option (List Word) :=
  let ws := (g.queue 8).take 5
  if ws.length < 5 || !s.headReleased g.gid 8 then none else some ws

/-- Takes the command at the head of a group's q8: it is rejected, or takes its number at its scope (09 R256 to R258). A
rejected command takes none (log 32). -/
def State.spinTake (s : State) (gid : Nat) : State :=
  match s.group? gid with
  | none => s
  | some g =>
    match s.spinHead g, s.inst? g.ctl.handle with
    | some ws, some i =>
      let w := ws.getD 0 0#32
      let n (k : Nat) : Nat := (ws.getD k 0#32).toNat
      let barrier := ws.getD 4 0#32
      let src := Sparse.get 0#256 g.recs (wbits w 17 12)
      let dst := Sparse.get 0#256 g.recs (wbits w 11 6)
      let popped := (List.range 5).foldl (fun t _ => t.popHead gid 8) s
      if s.spinRejects g w (bufRec src) (bufRec dst) (n 1) (n 2) (n 3) barrier then
        if (g.queue 9).length < queueDepth 9 then popped.pushWords gid 9 [spinStatus w 2 false] else s
      else
        let die := dieOfCore g.core
        let scope := spinScope w
        let number := i.nextSpin die scope
        let c : SpinCommand := {
          die := die, gid := gid, handle := g.ctl.handle, number := number, word := w, src := src, dst := dst
          srcOff := n 1, dstOff := n 2, count := n 3, barrier := barrier }
        let t := popped.onInst g.ctl.handle (fun i => { i with
          spinNumber := Sparse.set 0 i.spinNumber (2 * die + scope) (number + 1) })
        { t with spin := t.spin ++ [c] }
    | _, _ => s

/-- SPINEL_COMMAND of the group whose q8 holds it. -/
def execSpinelCommand (s : State) : Host.Outcome State Fault Refusal := .next (s.tick.spinTake s.turn.x)

/-! ### COLLECTIVE_START (09 R258, R260) -/

/-- The dies of this package that take part in an installation's collectives (09 R256, 10 R283). -/
def State.spinDies (s : State) (i : Installation) : List Nat :=
  (s.part i.part).dies.filter (fun d => !i.withdrawn.contains d)

/-- The commands of a collective that this package holds, in die order. -/
def State.spinCommands (s : State) (handle : Word) (scope number : Nat) (dies : List Nat) : List SpinCommand :=
  dies.flatMap (fun d => s.spin.filter (fun c =>
    c.handle == handle && spinScope c.word == scope && c.number == number && c.die == d))

/-- Whether two commands agree (09 R258). -/
def SpinCommand.agrees (a b : SpinCommand) : Bool :=
  wbits a.word 31 19 == wbits b.word 31 19 && a.count == b.count

/-- COLLECTIVE_START: the commands of every participating die have arrived; commands that differ end it with result 3. That the
other packages' commands have arrived is the event's own word (log 33). -/
def execCollectiveStart (handle : Word) (scope number : Nat) (s : State) : Host.Outcome State Fault Refusal :=
  match s.inst? handle with
  | none => .next s
  | some i =>
    let dies := s.spinDies i
    let cs := s.spinCommands handle scope number dies
    match cs with
    | [] => .next s
    | c :: rest =>
      if cs.length != dies.length then .next s
      else
        let result := if rest.all c.agrees then none else some 3
        .next { s with
          spin := s.spin.filter (fun d => !cs.contains d)
          collect := s.collect ++ [⟨handle, scope, number, cs, 0, false, false, result⟩] }

/-! ### COLLECTIVE_STEP (02 R50 to R54) -/

/-- Bytes of an element of a format. -/
def spinSize (fmt : Nat) : Nat :=
  match fmt with
  | 0 => 4
  | 1 => 4
  | 2 => 8
  | 3 => 8
  | 4 => 4
  | 5 => 8
  | _ => 2

/-- The elements of a chunk. -/
def spinElems (fmt : Nat) (bs : List Byte) : List Nat :=
  (List.range (128 / spinSize fmt)).map (fun i => natOfBytes ((bs.drop (i * spinSize fmt)).take (spinSize fmt)))

/-- The bytes of elements. -/
def spinBytes (fmt : Nat) (es : List Nat) : List Byte := es.flatMap (fun e => bytesOfNat (spinSize fmt) e)

/-- Two elements reduced (09 R258, 02 R50): integers wrap modulo 2^w; float adds round to nearest even, and float minimum and
maximum propagate NaNs. -/
def spinCombine (fmt op a b : Nat) : Nat :=
  let size := spinSize fmt
  if fmt < 4 then
    match op with
    | 0 => (a + b) % 2 ^ (8 * size)
    | 1 => if fmt % 2 = 1 then min a b else if signedOf size a ≤ signedOf size b then a else b
    | 2 => if fmt % 2 = 1 then max a b else if signedOf size a ≤ signedOf size b then b else a
    | 3 => a &&& b
    | 4 => a ||| b
    | _ => a ^^^ b
  else
    match op with
    | 0 => ((floatType fmt).add ⟨0, false, false⟩ false a b).bits
    | 1 => ((floatType fmt).extreme false false a b).bits
    | _ => ((floatType fmt).extreme true false a b).bits

/-- Reduces chunks left to right. -/
def spinFold (fmt op : Nat) : List (List Nat) → List Nat
  | [] => []
  | c :: cs => cs.foldl (fun acc d => (acc.zip d).map (fun p => spinCombine fmt op p.1 p.2)) c

/-- The linear checksum of integer elements (02 R52). -/
def intChecksum (fmt : Nat) (es : List Nat) : Nat :=
  (es.foldl (fun (n : Int) (e : Nat) => n + (if fmt % 2 = 1 then (e : Int) else signedOf (spinSize fmt) e)) 0).emod (2 ^ 64) |>.toNat

/-- A value of a format in binary64, which holds it exactly. -/
def toBinary64 (fmt x : Nat) : Nat :=
  match (floatType fmt).decode x with
  | .nan _ => f64.nan.getD 0
  | .inf neg => f64.infinity neg
  | .fin neg m e => (f64.deliver ⟨0, false, false⟩ neg m e).bits

/-- A sum in binary64, in ascending order (02 R53). -/
def sum64 (xs : List Nat) : Nat := xs.foldl (fun a x => (f64.add ⟨0, false, false⟩ false a x).bits) 0

/-- A binary64 value times 2^1200, when it is finite. -/
def scaled64 (x : Nat) : Option Int :=
  match f64.decode x with
  | .fin neg m e => some ((if neg then -1 else 1) * (m : Int) * 2 ^ (1200 + e).toNat)
  | _ => none

/-- The unit roundoff of a format times 2^53 (02 R53). -/
def roundoff53 (fmt : Nat) : Nat :=
  match fmt with
  | 4 => 2 ^ 29
  | 5 => 1
  | 6 => 2 ^ 42
  | _ => 2 ^ 45

/-- What a check of a chunk says. -/
inductive ChunkCheck where
  | accept | unchecked | fail
deriving DecidableEq, Repr

/-- The check of a reduced chunk (02 R52, R53), over the participants' elements and their reduction. The checksums are sums, so
they check the adds (log 34). -/
def spinCheck (fmt op : Nat) (parts : List (List Nat)) (reduced : List Nat) : ChunkCheck :=
  if op ≠ 0 then .accept
  else if fmt < 4 then
    if (parts.foldl (fun n es => n + intChecksum fmt es) 0) % 2 ^ 64 = intChecksum fmt reduced then .accept else .fail
  else
    let wide (es : List Nat) : List Nat := es.map (toBinary64 fmt)
    let mag (x : Nat) : Nat := x % 2 ^ 63
    let sRed := sum64 (parts.map (fun es => sum64 (wide es)))
    let mRed := sum64 (parts.map (fun es => sum64 ((wide es).map mag)))
    let own := sum64 (wide reduced)
    match scaled64 mRed with
    | none => .unchecked
    | some m =>
      match scaled64 sRed, scaled64 own with
      | some a, some b =>
        let n := reduced.length
        let p := parts.length
        let left : Int := ((b - a).natAbs : Int) * 8 * 2 ^ 53
        let right : Int := 9 * (((p - 1) * roundoff53 fmt + (n + p) : Nat) : Int) * m +
          (n : Int) * 2 ^ (1200 + (floatType fmt).quantum).toNat * 8 * 2 ^ 53
        if left ≤ right then .accept else .fail
      | _, _ => .fail

/-- A command as a transfer of its group, for reading and writing through the records it names. -/
def SpinCommand.transfer (c : SpinCommand) (core : Nat) : Transfer where
  id := 0
  core := core
  gid := c.gid
  handle := c.handle
  kind := 1
  word := c.word
  src := c.src
  dst := c.dst
  srcOff := c.srcOff
  dstOff := c.dstOff
  count := c.count
  pattern := 0#32
  object := none
  next := 0
  flying := []
  again := []
  held := []
  stopped := none

/-- A chunk of a command's source; a byte that no page maps reads as a free value (log 30). -/
def State.spinSource (s : State) (g : Group) (c : SpinCommand) (k : Nat) : List Byte :=
  let t := c.transfer g.core
  (List.range 128).map (fun i =>
    match s.sourceByte g t (128 * k + i) with
    | .ok b => b.byte
    | .error a => Config.spadOutside s.freeCtr a)

/-- Whether a chunk of a command touches a page that is still to be scrubbed, or lies behind a closed crossing (03 R67). -/
def State.spinWaits (s : State) (g : Group) (c : SpinCommand) (k : Nat) : Bool :=
  let t := c.transfer g.core
  (List.range 128).any (fun i =>
    (match s.sourceByte g t (128 * k + i) with | .ok b => b.soiled.isSome || b.closed | .error _ => false) ||
      (let a := (bufRec c.dst).base + c.dstOff + 128 * k + i
       match s.transferPage t a .write with | some p => !s.mem.clean (p.phys a) || !s.pageOpen t.core (some p) a | none => false))

/-- Writes a chunk of the result to a command's destination, and counts its bytes on the barrier word's object (09 R259); a
byte that no page takes is dropped (log 30). -/
def State.spinWrite (s : State) (g : Group) (c : SpinCommand) (k : Nat) (bs : List Byte) : State :=
  let t := c.transfer g.core
  let lo := (bufRec c.dst).base + c.dstOff + 128 * k
  let put (u : State) (l : Nat) : State :=
    let a := max l lo
    let b := min (l + 128) (lo + 128)
    let line := (t.lineBytes a b).map (fun m => bs.getD (m.2 % 128) 0#8)
    u.writeLine g t (u.transferPage t a .write) a line false
  let s1 := (linesOf lo 128).foldl put s
  if wbit c.barrier 31 then
    let (n, s2) := s1.fresh
    { s2 with landed := s2.landed ++
        [⟨n, s2.objectOf g (wbits c.barrier 30 28) (wbits c.barrier 7 0), 128⟩] }
  else s1

/-- The packages of the pod that share this one's row, and its place among them in ascending column. -/
def Fabric.rowMates (f : Fabric) : List Nat :=
  (List.range 64).filter (fun c => f.present.contains (f.row * 64 + c) && c != f.column)

/-- The other rows of the pod that hold a package. -/
def Fabric.otherRows (f : Fabric) : List Nat :=
  (List.range 64).filter (fun r => r != f.row && (List.range 64).any (fun c => f.present.contains (r * 64 + c)))

/-- Puts an item into a list at a place. -/
def insertAt {α : Type} (xs : List α) (i : Nat) (x : α) : List α := xs.take i ++ [x] ++ xs.drop i

/-- The reduction over the pod (02 R50): this package's fold in its place among its row's, then its row's in its place among
the rows. -/
def Fabric.podFold (f : Fabric) (fmt op : Nat) (mine : List Nat) (parts : List (List Nat)) : List Nat :=
  let cols := f.rowMates
  let rows := f.otherRows
  let row := spinFold fmt op (insertAt (parts.take cols.length) (cols.filter (· < f.column)).length mine)
  spinFold fmt op (insertAt (parts.drop cols.length) (rows.filter (· < f.row)).length row)

/-- The port of a row or a column stage whose collective laser Spinel tunes (02 R51): the lowest that works (log 31). -/
def Fabric.collectivePort (f : Fabric) (column : Bool) : Option Nat :=
  ((List.range 18).map (fun p => if column then p + 18 else p)).find? (fun p => !(Sparse.get {} f.ports p).failed)

/-- Tunes the collective laser of a port to a package, unless another laser of the port serves it now (02 R51). -/
def State.tuneCollective (s : State) (column : Bool) (dest : Nat) : State :=
  match s.fab.collectivePort column with
  | none => s
  | some p =>
    if s.fab.portTunedIn p (turnAt s.fab.rotcfg s.pkg.frame) dest 576 then s
    else s.onFab (fun f => { f with ports := Sparse.alter {} f.ports p (fun q => { q with collective := some dest }) })

/-- Changes a collective that has not ended. -/
def State.onCollective (s : State) (c : Collective) (f : Collective → Collective) : State :=
  { s with collect := replaceFirst (fun d => d == c) (f c) s.collect }

/-- The chunk of a collective formed and checked: how it goes on. -/
def State.collectStep (s : State) (c : Collective) (remote : PeerChunk) : State :=
  let w := (c.commands.map (fun d => d.word)).headD 0#32
  let fmt := wbits w 23 20
  let op := wbits w 27 24
  let gs := c.commands.filterMap (fun d => (s.group? d.gid).map (fun g => (d, g)))
  if gs.any (fun p => s.spinWaits p.2 p.1 c.chunk) then s
  else
    let parts := gs.map (fun p => spinElems fmt (s.spinSource p.2 p.1 c.chunk))
    let mine := spinFold fmt op parts
    let pod := c.scope == 1
    let peers := if pod then s.fab.rowMates.length + s.fab.otherRows.length else 0
    let lost := pod && decide (0 < peers) && (remote.parts.length != peers ||
      (!s.fab.rowMates.isEmpty && (s.fab.collectivePort false).isNone) ||
      (!s.fab.otherRows.isEmpty && (s.fab.collectivePort true).isNone))
    if lost then s.onCollective c (fun c => { c with result := some 4 })
    else
      let check := spinCheck fmt op parts mine
      let good := check != .fail && (!pod || peers == 0 || remote.checkOk)
      if !good then s.onCollective c (fun c => if c.resent then { c with result := some 1 } else { c with resent := true })
      else
        let result := if pod then s.fab.podFold fmt op mine (remote.parts.map (spinElems fmt)) else mine
        let s1 := if pod ∧ 0 < peers then
            let t := if s.fab.rowMates.isEmpty then s else s.tuneCollective false (s.fab.row * 64 + c.chunk % 64)
            if s.fab.otherRows.isEmpty then t else t.tuneCollective true (c.chunk % 64 * 64 + s.fab.column)
          else s
        let s2 := s1.onCollective c (fun c => { c with
          chunk := c.chunk + 1, resent := false
          unchecked := c.unchecked || check == .unchecked || (pod && remote.unchecked) })
        gs.foldl (fun t p => t.spinWrite p.2 p.1 c.chunk (spinBytes fmt result)) s2

/-- The collective a scope and number name that has a chunk to do. -/
def State.openCollective (s : State) (handle : Word) (scope number : Nat) : Option Collective :=
  s.collect.find? (fun c => c.handle == handle && c.scope == scope && c.number == number && c.result.isNone &&
    c.commands.any (fun d => decide (128 * c.chunk < d.count)))

/-- COLLECTIVE_STEP: one chunk of a collective, with what the other packages of a pod give. -/
def execCollectiveStep (handle : Word) (scope number : Nat) (remote : PeerChunk) (s : State) : Host.Outcome State Fault Refusal :=
  match s.openCollective handle scope number with
  | none => .next s
  | some c => .next (s.tick.collectStep c remote)

/-! ### COLLECTIVE_END (09 R259) -/

/-- The collective a scope and number name that has come to its end. -/
def State.endedCollective (s : State) (handle : Word) (scope number : Nat) : Option Collective :=
  s.collect.find? (fun c => c.handle == handle && c.scope == scope && c.number == number &&
    (c.result.isSome || c.commands.all (fun d => decide (d.count ≤ 128 * c.chunk))))

/-- Reports one command of an ended collective: its status word to q9, and an event when the result is not 0. -/
def State.spinReport (s : State) (c : Collective) (d : SpinCommand) : State :=
  let result := c.result.getD 0
  let w := spinStatus d.word result c.unchecked
  let s1 := s.pushWords d.gid 9 [w]
  if result = 0 then s1
  else
    let fn := match s.inst? c.handle with | none => 0 | some i => i.fn
    let say (t : State) (q : Nat) : State := t.event q 0x39 fn c.handle.toNat w.toNat d.die
    if fn = 0 then say s1 0 else say (say s1 0) fn

/-- COLLECTIVE_END: once every pusher's q9 has room. -/
def execCollectiveEnd (handle : Word) (scope number : Nat) (s : State) : Host.Outcome State Fault Refusal :=
  match s.endedCollective handle scope number with
  | none => .next s
  | some c =>
    let full := c.commands.any (fun d => match s.group? d.gid with
      | none => false
      | some g => g.gstate != .retired && decide (queueDepth 9 ≤ (g.queue 9).length))
    if full then .next s
    else .next (c.commands.foldl (fun t d => t.spinReport c d) { s with collect := s.collect.erase c })

/-! ### When the participants change (09 R260) -/

/-- Ends every collective of an installation at some scopes with result 5, the unmatched commands among them; the remaining
participants count from 0 again. -/
def State.withdrawCollectives (s : State) (handle : Word) (scopes : List Nat) (gone : Nat → Bool) : State :=
  let hit (h : Word) (scope : Nat) : Bool := h == handle && scopes.contains scope
  let mine := s.spin.filter (fun c => hit c.handle (spinScope c.word))
  let unmatched := (mine.filter (fun c => !gone c.die)).map (fun c =>
    (⟨c.handle, spinScope c.word, c.number, [c], 0, false, false, some 5⟩ : Collective))
  let t := s.onInst handle (fun i => { i with spinNumber := i.spinNumber.filter (fun e => !scopes.contains (e.1 % 2)) })
  { t with
    spin := s.spin.filter (fun c => !hit c.handle (spinScope c.word))
    collect := (s.collect.map (fun c =>
      if hit c.handle c.scope then
        { c with result := some (c.result.getD 5), commands := c.commands.filter (fun d => !gone d.die) }
      else c)) ++ unmatched }

/-- PACKAGE_LEAVES_POD: the package is no longer present, and the pod-scope collectives end with result 5. -/
def execPackageLeavesPod (package : Nat) (s : State) : Host.Outcome State Fault Refusal :=
  if !s.fab.present.contains package then .next s
  else
    let t := s.onFab (fun f => { f with present := f.present.filter (· != package) })
    .next (t.installs.foldl (fun u i => u.withdrawCollectives i.handle [1] (fun _ => false)) t)

end Sys2Proof.Machine
end

