-- ==== Sys2Proof/Machine/Removal.lean ====
section
/-!
DEFINITION. What ends with an installation: its slots, pages, scratchpad, import entries, lease pool and event buffer (04 R101, 02
R27, R28, R43; 07 R203, R213), the work that is dropped with it (03 R58, R93), and resets of cores and partitions (01 Table
1.3).
-/
namespace Sys2Proof.Machine

/-! ### What an installation holds -/

/-- Takes an installation's channels out of its pool, their queues discarded, and frees the pool number (02 R27, Table 2.1). -/
def Fabric.freePoolOf (f : Fabric) (handle : Word) : Fabric :=
  let mine := (f.pools.filter (fun p => p.handle == handle)).map (fun p => p.number)
  let chans := (f.channels.filter (fun e => mine.contains e.2.pool)).map (fun e => e.1)
  { f with
    channels := f.channels.filter (fun e => !mine.contains e.2.pool)
    slots := Sparse.keep (fun k => !chans.contains (k / 64)) f.slots
    pools := f.pools.filter (fun p => p.handle != handle)
    requests := f.requests.filter (fun r => r.handle != handle)
    revoked := f.revoked.filter (fun n => !chans.contains n)
    sent := f.sent.filter (fun t => t.1 != handle)
    waiting := f.waiting.filter (fun t => t.1 != handle)
    far := f.far.filter (fun l => l.handle != handle)
    imports := f.imports.filter (fun e => e.2.handle != handle) }

/-- Frees the scratchpad units that positions hold on a core (07 R203): the unit numbers of an installation's kernels. -/
def Core.freeUnits (k : Core) (units : List Nat) : Core :=
  { k with spadUnits := k.spadUnits.filter (fun e => !units.contains (e.2 - 1)) }

/-- The scratchpad unit numbers an installation holds on a core. -/
def Installation.unitsOn (i : Installation) (core : Nat) : List Nat :=
  i.kernels.flatMap (fun k => (k.positions.filter (fun p => entryHolds k.record.span p.core core)).flatMap (fun p =>
    (List.range k.record.spad).map (fun u => p.spadUnit + u)))

/-- Drops what a core caches for an installation. -/
def Core.forget (k : Core) (handle : Word) : Core :=
  { k with
    l1 := k.l1.filter (fun l => l.handle != handle)
    tlb := k.tlb.filter (fun e => e.handle != handle)
    icache := k.icache.filter (fun e => e.1 / 2 ^ 57 != handle.toNat)
    victims := k.victims.filter (fun v => v.handle != handle) }

/-- Physical lines pinned for reserved L2-resident records of an installation (04 R105). -/
def Installation.pinnedPages (i : Installation) : List Nat :=
  (i.pages.filter (fun p => p.pin)).flatMap (fun p => p.target.pages p.size)

/-- Frees an installation: its slots, its pages, its units, its pool and events, and its place in the tables (04 R101). -/
def State.freeInstall (s : State) (i : Installation) : State :=
  let pages := i.pages.flatMap (fun p => if p.pooled then p.target.pages p.size else [])
  let pinned := i.pinnedPages
  let s1 := s.returnPages i.fn pages
  { s1 with
    installs := s1.installs.filter (fun j => j.handle != i.handle)
    garnet := { s1.garnet with held := s1.garnet.held.filter (fun e => e.2 != i.handle) }
    fab := s1.fab.freePoolOf i.handle
    cores := Sparse.mapAll {} s1.cores (fun c k => (k.forget i.handle).freeUnits (i.unitsOn c))
    dieTlb := Sparse.mapAll [] s1.dieTlb (fun _ l => l.filter (fun e => e.handle != i.handle))
    mem := { s1.mem with l2 := s1.mem.l2.filter (fun l => !(l.pinned && pinned.contains (l.addr / Config.pageBytes))) } }

/-! ### Dropping work (03 R58, R93) -/

/-- Drops every operation, store, transfer and command of some installations. -/
def State.dropWork (s : State) (gone : Word → Bool) : State :=
  let gids := (s.groups.filter (fun g => gone g.ctl.handle)).map (fun g => g.gid)
  { s with
    ops := s.ops.filter (fun o => !gids.contains o.gid)
    commits := s.commits.filter (fun c => !gids.contains c.gid)
    transfers := s.transfers.filter (fun t => !gone t.handle)
    spin := s.spin.filter (fun c => !gone c.handle)
    collect := s.collect.filter (fun c => !gone c.handle)
    faults := Sparse.mapAll [] s.faults (fun _ l => l.filter (fun e => !gids.contains e.1))
    mem := { s.mem with windows := s.mem.windows.filter (fun w => !gids.contains w.gid) } }

/-- Kills every live group of some installations. -/
def State.killAll (s : State) (gone : Word → Bool) : State :=
  ((s.groups.filter (fun g => gone g.ctl.handle && g.gstate != .retired)).map (fun g => g.gid)).foldl State.killGroup s

/-- Ends the launches of some installations with a status, their groups killed (03 R64, R93). -/
def State.endLaunches (s : State) (gone : Word → Bool) (status : Nat) : State :=
  ({ s with launches := s.launches.map (fun l =>
      if gone l.handle && !l.complete then { l with status := max l.status status } else l) } : State).killAll gone

/-- Removes installations at once, with everything they do. -/
def State.removeAll (s : State) (gone : Installation → Bool) : State :=
  let is := s.installs.filter gone
  let hit (h : Word) : Bool := is.any (fun i => i.handle == h)
  is.foldl State.freeInstall ((s.endLaunches hit 3).dropWork hit)

/-! ### Resets of cores and partitions (01 Table 1.3, 03 R93) -/

/-- A core after its reset: the fencing stays, as its records do. -/
def Core.afterReset (k : Core) : Core := { ({} : Core) with fenced := k.fenced }

/-- Resets the cores of some dies. -/
def State.resetCores (s : State) (dies : List Nat) : State :=
  { s with
    cores := Sparse.mapAll {} s.cores (fun c k => if dies.contains (dieOfCore c) then k.afterReset else k)
    dieTlb := s.dieTlb.filter (fun e => !dies.contains e.1)
    faults := s.faults.filter (fun e => !dies.contains e.1) }

/-- Whether a barrier object belongs to some dies: core, quad and die objects do. -/
def objectOn (dies : List Nat) (key : Nat) : Bool :=
  match barScope key with
  | 0 => dies.contains (barUnit key / Config.coresPerDie)
  | 1 => dies.contains (barUnit key / 16)
  | 2 => dies.contains (barUnit key)
  | _ => false

/-- The tenants of a partition. -/
def State.tenantsOf (s : State) (p : Nat) : List Nat :=
  (List.range 257).filter (fun v => decide (1 ≤ v) && (s.fn v).enabled && (s.fn v).part == p)

/-- The reset of a partition (03 R93): every tenant is gated, its installations are removed with their leases, barrier objects and
dispensers, and cores and engines are reset; key bindings and memory stay. -/
def State.resetPartition (s : State) (p : Nat) : State :=
  let dies := (s.part p).dies
  let s1 := (s.tenantsOf p).foldl (fun t v => t.onFn v (fun f => { f with vfctl := f.vfctl ||| 0x8000#32 })) s
  let s2 := (s1.removeAll (fun i => i.part == p)).resetCores dies
  { s2 with
    bars := s2.bars.filter (fun e => !objectOn dies e.1)
    tickets := s2.tickets.filter (fun e => !dies.contains (e.1 / 2 ^ 20)) }

/-! ### The end of a key (03 R73, R90) -/

/-- Destroys a key: what its regions hold is lost, so they read as regions still to be scrubbed until they are bound again
(log 41). -/
def DeviceMem.destroyKey (m : DeviceMem) (key : Nat) : DeviceMem :=
  let regions := (m.regionKey.filter (fun e => e.2 == key)).map (fun e => e.1)
  { m with
    keyLive := m.keyLive.filter (· != key)
    unscrubbed := (regions.flatMap pagesOfRegion).foldl (fun l p => insertSorted p l) m.unscrubbed
    toScrub := m.toScrub.filter (fun r => !regions.contains r) }

/-- Disables a virtual function (03 R58, R64): its launches end with status 3, its queued launches are discarded, its
installations removed and its key destroyed. -/
def State.disableFn (s : State) (v : Nat) : State :=
  let s1 := s.removeAll (fun i => i.fn == v)
  (s1.onFn v (fun f => { f with
    leaving := 0, devQueue := [], instCmd := f.instCmd &&& 0xDFFFFFFF#32
    queues := Sparse.mapAll {} f.queues (fun _ q => { q with cfg := q.cfg &&& 0x7FFFFFFF#32, held := false }) })).onMem
    (fun m => m.destroyKey v)

end Sys2Proof.Machine
end

