-- ==== Sys2Proof/Machine/Seats.lean ====
section
/-!
DEFINITION. Workgroups, seats and the Mantle: WORKGROUP_START (05 R124 to R131, 06 R156), GROUP_SEAT, GROUP_UNSEAT and
GROUP_WAKE (05 R138 to R140), LLS_HALVING and THROTTLE_EVALUATION (R145), REGISTER_LINE_INSTALL (06 R158 to R161),
FAULT_SERVICE (R164, R165) and MANTLE_SCRUB (R162).
-/
namespace Sys2Proof.Machine

/-! ### WORKGROUP_START -/

/-- Whether the workgroup with a sequence number of a kernel has retired (05 R131). -/
def State.sequenceRetired (s : State) (handle : Word) (kernel seq : Nat) : Bool :=
  match s.launches.find? (fun l => l.handle == handle && l.kernel == kernel && decide (l.first ≤ seq) &&
      decide (seq < l.first + l.wgCount)) with
  | none => true
  | some l => l.retired.contains (seq - l.first) || l.complete

/-- The granted width of a group: the GV of the lowest-numbered granted register of class 2, or 32 (10 R287). -/
def grantedWidth (shapes : List Word512) : Nat :=
  match shapes.find? (fun sh => shapeGet sh 0 == 2 && shapeGet sh 1 == 1) with
  | none => 32
  | some sh => shapeGet sh 14

/-- The core of a local group of a workgroup at a position (05 R125). -/
def coreOfLocal (span : Nat) (p : Position) (l : Nat) : Nat := if span = 0 then p.core else p.core + l % 4

/-- A fresh group of a workgroup (06 R156, R151; 04 R103; 03 R63). -/
def newGroup (gid : Nat) (i : Installation) (k : Kernel) (l : Launch) (p : Position) (wg n : Nat) (shadow : Bool) : Group :=
  let shapes := k.shapes.map (fun sh => grantShape sh i.floor)
  let exist : Word := if grantedWidth shapes = 16 then 0xFFFF#32 else 0xFFFFFFFF#32
  let paired := wbit (BitVec.ofNat 8 k.record.flags) 0
  { gid := gid, launch := l.id, workgroup := wg, sequence := l.first + wg, localNo := n, kernel := l.kernel, fn := i.fn
    core := coreOfLocal k.record.span p n, place := p
    ctl := {
      pc := BitVec.ofNat 64 (i.textBase + k.record.entry)
      exist := exist, exec := exist, handle := l.handle, group := BitVec.ofNat 32 (wg * l.groups + n)
      paired := paired && !shadow, shadow := shadow }
    regs := (l.args.zipIdx).foldl (fun m a =>
      (List.range 32).foldl (fun m t => Sparse.set 0#32 m (32 * a.2 + t) a.1) m) []
    recs := k.decls.foldl (fun m d => Sparse.set 0#256 m d.slot d.image) []
    shapes := (shapes.zipIdx).foldl (fun m sh => Sparse.set 0#512 m sh.2 sh.1) [] }

/-- The objects of a position that are reset before a workgroup starts there (05 R127). -/
def positionObjects (k : Kernel) (p : Position) : List Nat :=
  let cores := if k.record.span = 0 then [p.core] else (List.range 4).map (fun j => p.core + j)
  cores.flatMap (fun c => (List.range (k.record.bars.getD 0 0)).map (fun i => barKey 0 c (p.barCore + i))) ++
    (List.range (k.record.bars.getD 1 0)).map (fun i => barKey 1 (quadOfCore p.core) (p.barQuad + i))

/-- Adds the groups of a workgroup: in a paired kernel each leader and its shadow (06 R190). -/
def State.addGroups (s : State) (i : Installation) (k : Kernel) (l : Launch) (p : Position) (wg : Nat) : List Nat → State
  | [] => s
  | n :: ns =>
    let one (t : State) (shadow : Bool) : State :=
      let (gid, t') := t.fresh
      { t' with groups := t'.groups ++ [newGroup gid i k l p wg n shadow] }
    let s1 := one s false
    let s2 := if wbit (BitVec.ofNat 8 k.record.flags) 0 then one s1 true else s1
    s2.addGroups i k l p wg ns

/-- Whether a workgroup of a kernel runs at a position (05 R131). -/
def State.occupied (s : State) (handle : Word) (kernel : Nat) (p : Position) : Bool :=
  s.groups.any (fun g => g.ctl.handle == handle && g.kernel == kernel && g.place == p && g.gstate != .retired)

/-- The position a workgroup takes: its own in the list, or after a die was withdrawn any free one of the same core
(05 R130, R131; 10 R283). -/
def State.positionFor (s : State) (handle : Word) (kernel : Nat) (k : Kernel) (seq : Nat) : Option Position :=
  match k.positions[seq % max 1 k.record.maxWg]? with
  | none => none
  | some p => (p :: k.positions.filter (fun q => q.core == p.core)).find? (fun q => !s.occupied handle kernel q)

/-- Starts a workgroup at its position: its objects are reset, its groups enter the activation queues READY, and each core
performs the acquire of the launch (05 R127, R131, R136). -/
def State.startWorkgroup (s : State) (i : Installation) (k : Kernel) (l : Launch) (p : Position) (wg : Nat) : State :=
  let s1 := (positionObjects k p).foldl (fun t key => t.onBar key (fun _ => {})) s
  let s2 := s1.putLaunch { l with started := insertSorted wg l.started }
  let cores := if k.record.span = 0 then [p.core] else (List.range 4).map (fun j => p.core + j)
  let s3 := cores.foldl (fun t c => t.acquireEffect c l.handle 4) s2
  s3.addGroups i k l p wg (List.range l.groups)

/-- WORKGROUP_START of a workgroup of a launch: once its predecessor at the position has retired (05 R131). -/
def execWorkgroupStart (s : State) : Host.Outcome State Fault Refusal :=
  let wg := s.turn.y
  match s.launch? s.turn.x with
  | none => .next s
  | some l =>
    match s.inst? l.handle with
    | none => .next s
    | some i =>
      match i.kernel? l.kernel with
      | none => .next s
      | some k =>
        let maxWg := max 1 k.record.maxWg
        let seq := l.first + wg
        if l.complete || l.status == 3 || decide (l.wgCount ≤ wg) || l.started.contains wg || !i.withdrawing.isEmpty ||
            !(seq < maxWg || s.sequenceRetired l.handle l.kernel (seq - maxWg)) then .next s
        else
          match s.positionFor l.handle l.kernel k seq with
          | none => .next s
          | some p => .next (s.tick.startWorkgroup i k l p wg)

/-! ### GROUP_SEAT, GROUP_UNSEAT, GROUP_WAKE (05 R138 to R140) -/

/-- Seats of a core that tenants may take: seat 255 of the lowest core of a die is the fault-service group's (06 R164). -/
def State.freeSeats (s : State) (core : Nat) : List Nat :=
  let taken := (s.groups.filter (fun g => g.core == core)).filterMap (fun g => g.seat)
  (List.range Config.seats).filter (fun n => !taken.contains n && !(n == 255 && core % Config.coresPerDie == 0))

/-- Whether a group may be seated: READY, its tenant resident and not gated (05 R140). -/
def State.seatable (s : State) (g : Group) : Bool := g.gstate == .ready && s.resident g && !s.gated g

/-- The order of seating: an expired watchdog first, then oldest first (05 R139, R140). -/
def seatBefore (a b : Group) : Bool := (a.urgent && !b.urgent) || (a.urgent == b.urgent && a.older b)

/-- Puts a group into an ordered list. -/
def insertGroup (g : Group) : List Group → List Group
  | [] => [g]
  | h :: hs => if seatBefore g h then g :: h :: hs else h :: insertGroup g hs

/-- Takes a seat: AGE and LLS start at 0, a group that joins a set of eligible groups with room becomes eligible (05 R144,
R146), and a handler takes the rail's window with it (log 26). -/
def State.takeSeat (s : State) (g : Group) (seat : Nat) : State :=
  let g' := { g with
    gstate := .seated, seat := some seat, wait := .none, waitCycles := 0, age := 0, lls := 0, urgent := false, window := []
    counters := { g.counters with seatings := g.counters.seatings + 1 } }
  let s1 := (s.putGroup g').onCore g.core (fun k => { k with
    eligible := k.eligible.map (fun l => if l.length < k.eligibleK then l ++ [g.gid] else l) })
  if g.ctl.handler then
    s1.onRail g.core (railOfSeat seat) (fun r => { r with handler := some g.gid, window := g.window })
  else s1

/-- The seats a group and its partner take: the lowest free one, with a shadow's on the rail 32 further (06 R190; log 27). -/
def State.seatFor (s : State) (g : Group) : Option (Nat × Option Nat) :=
  let free := s.freeSeats g.core
  let fits (h : Group) (n : Nat) : Bool := !h.ctl.handler || (s.rail h.core (railOfSeat n)).handler.isNone
  match s.partner g with
  | none => (free.find? (fits g)).map (fun n => (n, none))
  | some h =>
    if h.gstate = .retired then (free.find? (fits g)).map (fun n => (n, none))
    else if !s.seatable h then none
    else
      let mate (n : Nat) : Option Nat := free.find? (fun m => railOfSeat m == (railOfSeat n + 32) % 64 && m != n)
      match free.find? (fun n => fits g n && (mate n).isSome) with
      | none => none
      | some n => some (n, mate n)

/-- Seats groups in order while seats are free. -/
def State.seatAll (s : State) : List Group → State
  | [] => s
  | g :: gs =>
    match s.seatFor g with
    | none => s.seatAll gs
    | some (n, none) => (s.takeSeat g n).seatAll gs
    | some (n, some m) =>
      (match s.partner g with
      | none => s.takeSeat g n
      | some h => (s.takeSeat g n).takeSeat h m).seatAll gs

/-- GROUP_SEAT of a core (05 R140). -/
def execGroupSeat (s : State) : Host.Outcome State Fault Refusal :=
  let gs := (s.groups.filter (fun g => g.core == s.turn.x && s.seatable g && !g.ctl.shadow)).foldl
    (fun l g => insertGroup g l) []
  .next (s.tick.seatAll gs)

/-- A group leaves its seat, its LLS 0, and leaves the eligible set (05 R140, R144, R146). -/
def State.leaveSeat (s : State) (g : Group) : State :=
  let window := match g.seat with
    | none => []
    | some seat => if g.ctl.handler then (s.rail g.core (railOfSeat seat)).window else []
  ((((s.leaveRail g).freeWindow g).putGroup { g with
      gstate := if g.wait = .none then .ready else .waiting
      seat := none, lls := 0, age := 0, window := window
      counters := { g.counters with unseats := g.counters.unseats + 1 } }).onCore g.core (fun k => { k with
        eligible := k.eligible.map (fun l => l.filter (· != g.gid)) }))

/-- A group leaves its seat with its partner, and a trap of the rail that waited may enter (06 R179, R190). -/
def State.unseat (s : State) (g : Group) : State :=
  let s1 := s.leaveSeat g
  let s2 := match s1.partner g with
    | none => s1
    | some h => if h.gstate = .seated then s1.leaveSeat h else s1
  match g.seat with
  | none => s2
  | some seat => s2.enterOldest g.core (railOfSeat seat)

/-- GROUP_UNSEAT of a group: its wait may have exceeded T, by the frames counted (05 R140; log 3). -/
def execGroupUnseat (s : State) : Host.Outcome State Fault Refusal :=
  match s.group? s.turn.x with
  | none => .next s
  | some g =>
    let act := (s.part (match s.inst? g.ctl.handle with | none => 0 | some i => i.part)).actCfg
    let t := max 256 (wbits act 31 16)
    if g.gstate = .seated ∧ g.wait ≠ .none ∧ wbit act 15 ∧ t < g.waitCycles + Config.frameCycles ∧ !s.gated g ∧
        !s.underWay g then
      .next (s.tick.unseat g)
    else .next s

/-- GROUP_WAKE of a group: what it waited for has come (05 R140). -/
def execGroupWake (s : State) : Host.Outcome State Fault Refusal :=
  match s.group? s.turn.x with
  | none => .next s
  | some g =>
    if g.gstate = .waiting ∧ s.waitOf g = .none then .next (s.putGroup { g with gstate := .ready, wait := .none, waitCycles := 0 })
    else .next s

/-! ### The throttle's clocks (05 R145) -/

/-- LLS_HALVING of a core. -/
def execLlsHalving (s : State) : Host.Outcome State Fault Refusal :=
  .next { s with groups := s.groups.map (fun g =>
    if g.core == s.turn.x && g.gstate == .seated then { g with lls := g.lls / 2 } else g) }

/-- Whether a seated group comes before another in the order of eligibility: lower LLS, then lower seat. -/
def lowerScore (a b : Group) : Bool :=
  decide (a.lls < b.lls) || (a.lls == b.lls && decide (a.seat.getD 0 < b.seat.getD 0))

/-- Puts a group into the order of eligibility. -/
def insertScore (g : Group) : List Group → List Group
  | [] => [g]
  | h :: hs => if lowerScore g h then g :: h :: hs else h :: insertScore g hs

/-- K and the eligible groups of a core (05 R145). -/
def State.evaluate (s : State) (core thresh : Nat) : Nat × List Nat :=
  let seated := s.groups.filter (fun g => g.core == core && g.gstate == .seated)
  let total := seated.foldl (fun n g => n + g.lls) 0
  let k := max 1 (seated.length - total / max 1 thresh)
  (k, ((seated.foldl (fun l g => insertScore g l) []).take k).map (fun g => g.gid))

/-- THROTTLE_EVALUATION of a core: with TEN = 0 every seated group is eligible (05 R146). -/
def execThrottleEvaluation (s : State) : Host.Outcome State Fault Refusal :=
  match s.partOfDie (dieOfCore s.turn.x) with
  | none => .next s
  | some p =>
    let cfg := (s.part p).llsCfg
    if !wbit cfg 15 then .next (s.onCore s.turn.x (fun k => { k with eligible := none }))
    else
      let r := s.evaluate s.turn.x (wbits cfg 31 16)
      .next (s.onCore s.turn.x (fun k => { k with eligible := some r.2, eligibleK := r.1 }))

/-! ### REGISTER_LINE_INSTALL (06 R158 to R161, R164) -/

/-- A context-page fault of a group: queued at its die, and the group is held until it is served (06 R164). -/
def State.contextFault (s : State) (g : Group) (va : Nat) : State :=
  let page := va / Config.pageBytes * Config.pageBytes
  { s with faults := Sparse.alter [] s.faults (dieOfCore g.core) (fun l =>
      if l.contains (g.gid, page) then l else l ++ [(g.gid, page)]) }

/-- The home of a register line in its context page, or what stops an access to it: a fault, a page that is still to be
scrubbed (03 R76), or a crossing that the firewall keeps closed (03 R67). -/
inductive ContextLine where
  | at_ (phys : Nat)
  | fault (va : Nat)
  | dirty (region : Nat)
  | closed

/-- Finds a register line in its context page. -/
def State.contextLine (s : State) (g : Group) (j : Nat) (k : AccessKind) : ContextLine :=
  let va := s.contextBase g + 128 * j
  match s.translate g.ctl.handle va k with
  | .ok p _ =>
    if !s.passes g.core (.virt g.ctl.handle) p then .closed
    else if s.mem.clean p then .at_ p else .dirty (regionOf p)
  | _ => .fault va

/-- The words of a register line as one number. -/
def Group.lineNumber (g : Group) (j : Nat) : Nat :=
  (List.range 32).foldl (fun n t => n + (Sparse.get 0#32 g.regs (32 * j + t)).toNat * 2 ^ (32 * t)) 0

/-- Whether a word of a register line is marked. -/
def Group.lineMarked (g : Group) (j : Nat) : Bool := g.regErr.any (fun e => e / 32 == j)

/-- Writes a line back to its context page; a line with a marked word goes as poisoned (06 R161). -/
def State.writeBackLine (s : State) (g : Group) (j phys : Nat) : State :=
  let s1 := ((s.onMem (fun m => { m with poison := m.poison.filter (· != phys / 128 * 128) })).writeHome
    (.virt g.ctl.handle) phys 128 (2 ^ 1024 - 1) (g.lineNumber j)).1
  let s2 := if g.lineMarked j then s1.onMem (fun m => { m with poison := insertSorted (phys / 128 * 128) m.poison }) else s1
  s2.onGroup g.gid (fun g => { g with backed := j :: g.backed.filter (fun b => b != j && b != 256 + j) })

/-- Takes a line out of a core's Mantle. -/
def Core.dropLine (k : Core) (gid j : Nat) : Core :=
  { k with mantle := k.mantle.filter (fun m => !(m.gid == gid && m.line == j)) }

/-- The least recently used line of some. -/
def oldestLine (ls : List MantleLine) : Option MantleLine :=
  ls.foldl (fun best m => match best with | none => some m | some b => if m.stamp < b.stamp then some m else some b) none

/-- The line a full bank gives up (06 R160): a clean one of an unseated group, a dirty one of an unseated group, an unlocked
one of a seated group. -/
def State.victimLine (s : State) (core bank : Nat) : Option MantleLine :=
  let ls := (s.core core).mantle.filter (fun m => m.bank == bank)
  let owner (m : MantleLine) : Option Group := s.group? m.gid
  let seated (m : MantleLine) : Bool := match owner m with | none => false | some g => g.gstate == .seated
  let locked (m : MantleLine) : Bool := match owner m with | none => false | some g => (s.locked g).contains m.line
  let open_ := ls.filter (fun m => !locked m)
  match oldestLine (open_.filter (fun m => !seated m && !m.dirty)) with
  | some m => some m
  | none =>
    match oldestLine (open_.filter (fun m => !seated m)) with
    | some m => some m
    | none => oldestLine open_

/-- Makes room in a full bank: a dirty victim is written back first (06 R160, R161). The answer says whether there is room
now. -/
def State.makeRoom (s : State) (core bank : Nat) : State × Bool :=
  if ((s.core core).mantle.filter (fun m => m.bank == bank)).length < Config.bankLines then (s, true)
  else match s.victimLine core bank with
    | none => (s, false)
    | some v =>
      let drop (t : State) : State := t.onCore core (fun k => k.dropLine v.gid v.line)
      match s.group? v.gid with
      | none => (drop s, true)
      | some h =>
        if !v.dirty || h.gstate == .retired then (drop s, true)
        else match s.contextLine h v.line .write with
          | .fault va => (s.contextFault h va, false)
          | .dirty r => (s.onMem (fun m => m.promote r), false)
          | .closed => (s, false)
          | .at_ p => (drop (s.writeBackLine h v.line p), true)

/-- Puts a line of a group into the Mantle: a line that was written back comes from its context page, with its marks; any
other one the device holds, a fresh one as zeros (06 R156, R161). -/
def State.fillLine (s : State) (g : Group) (j bank : Nat) : State :=
  let entry (dirty : Bool) (t : State) : State :=
    t.onCore g.core (fun k => { k with mantle := k.mantle ++ [⟨g.gid, j, bank, dirty, s.freeCtr⟩] })
  if g.backed.contains j then
    match s.contextLine g j .read with
    | .fault va => s.contextFault g va
    | .dirty r => s.onMem (fun m => m.promote r)
    | .closed => s
    | .at_ p =>
      let word (t : Nat) : Word := BitVec.ofNat 32 (natOfBytes (Memory.readBytes s.mem.bytes (p + 4 * t) 4))
      let marks := if s.mem.poisoned p && !g.lineMarked j then (List.range 32).map (fun t => 32 * j + t) else []
      entry false (s.putGroup { g with
        regs := (List.range 32).foldl (fun m t => Sparse.set 0#32 m (32 * j + t) (word t)) g.regs
        regErr := g.regErr ++ marks })
  else entry (g.backed.contains (256 + j) || g.lineNumber j != 0) s

/-- The register lines a group needs for its next issue, or has asked for. -/
def State.neededLines (s : State) (g : Group) : List Nat :=
  match g.clause with
  | some c => s.linesFor g c
  | none =>
    match s.fetchClause g.core g.ctl.handle g.ctl.pc.toNat with
    | .error _ => []
    | .ok c => s.linesFor g c

/-- REGISTER_LINE_INSTALL of a group and line. -/
def execRegisterLineInstall (s : State) : Host.Outcome State Fault Refusal :=
  match s.group? s.turn.x with
  | none => .next s
  | some g =>
    let j := s.turn.y
    let banks := (s.fn g.fn).banks
    if g.gstate == .retired || (banks == 0 && g.fn != 0) || (s.core g.core).resident g.gid j || !(s.neededLines g).contains j then .next s
    else
      let bank := bankOf banks j
      let r := s.tick.makeRoom g.core bank
      if r.2 then
        match r.1.group? g.gid with
        | none => .next r.1
        | some g' => .next (r.1.fillLine g' j bank)
      else .next r.1

/-! ### FAULT_SERVICE (06 R164, R165), MANTLE_SCRUB (R162) -/

/-- Serves the oldest context-page fault of a die: the page is mapped from the tenant's pool, and every group that waits for
it goes on; or the group is killed. -/
def State.serveFault (s : State) (die : Nat) : State :=
  match Sparse.get [] s.faults die with
  | [] => s
  | f :: fs =>
    let served (t : State) (p : Nat × Nat → Bool) : State :=
      { t with faults := Sparse.alter [] t.faults die (fun l => l.filter (fun e => !p e)) }
    match s.group? f.1 with
    | none => { s with faults := Sparse.set [] s.faults die fs }
    | some g =>
      let mate (e : Nat × Nat) : Bool := e.2 == f.2 && (match s.group? e.1 with
        | none => true
        | some h => h.ctl.handle == g.ctl.handle)
      if g.gstate = .retired then { s with faults := Sparse.set [] s.faults die fs }
      else match s.page? g.ctl.handle f.2 with
        | some p => if p.permits .write then served s mate
            else { s with faults := Sparse.set [] s.faults die fs }.killGroup g.gid
        | none =>
          match s.inst? g.ctl.handle with
          | none => { s with faults := Sparse.set [] s.faults die fs }
          | some i =>
            match s.mapFresh i f.2 false true false false false with
            | none => { s with faults := Sparse.set [] s.faults die fs }.killGroup g.gid
            | some t => served t mate

/-- FAULT_SERVICE of a die. -/
def execFaultService (s : State) : Host.Outcome State Fault Refusal := .next (s.tick.serveFault s.turn.x)

/-- MANTLE_SCRUB of a core: the single-bit errors it corrects, which the world puts there, are counted (06 R162). -/
def execMantleScrub (s : State) : Host.Outcome State Fault Refusal :=
  .next (s.onCore s.turn.x (fun k => { k with mcorr := k.mcorr + s.turn.y }))

end Sys2Proof.Machine
end

