-- ==== Sys2Proof/Machine/Install.lean ====
section
/-!
DEFINITION. Garnet's requests: INSTALL (04 R98 to R100, R110, R111; 12 R331 to R340), REMOVE and REMOVE_TAKE_EFFECT (04 R101),
RESERVATION_REPLACEMENT (R120, R121) and DIE_WITHDRAWAL (10 R283).
-/
namespace Sys2Proof.Machine

/-! ### A function's device memory (03 R89) -/

/-- The physical address of a byte of a function's device memory. -/
def Fn.devAddr (f : Fn) (off : Nat) : Option Nat :=
  (f.pool[off / Config.regionBytes]?).map (fun r => r * Config.regionBytes + off % Config.regionBytes)

/-- Waits for a region to be scrubbed, if it is not clean yet: it is scrubbed first (03 R76). -/
def State.awaitPhys (s : State) (phys : Nat) : State := if s.mem.clean phys then s else s.onMem (fun m => m.scrub (regionOf phys))

/-- Waits for the regions of a run of a function's device memory. -/
def State.awaitDev (s : State) (v off n : Nat) : State :=
  (List.range ((off % Config.regionBytes + n + Config.regionBytes - 1) / Config.regionBytes)).foldl (fun t k =>
    match (t.fn v).devAddr (off + k * Config.regionBytes) with
    | none => t
    | some p => t.awaitPhys p) s

/-- Reads bytes of a function's device memory; a byte beyond the listed regions is none. -/
def State.readDev (s : State) (v off : Nat) : Nat → Option (List Byte)
  | 0 => some []
  | n + 1 =>
    match (s.fn v).devAddr off, s.readDev v (off + 1) n with
    | some p, some bs => if s.mem.poisoned p then none else some (Memory.read s.mem.bytes p :: bs)
    | _, _ => none

/-- Writes bytes of a function's device memory; those beyond the listed regions are dropped. -/
def State.writeDev (s : State) (v off : Nat) : List Byte → State
  | [] => s
  | b :: bs =>
    (match (s.fn v).devAddr off with
    | none => s
    | some p => s.onMem (fun m => { m with bytes := Memory.write m.bytes p b })).writeDev v (off + 1) bs

/-! ### The report (04 R111, Table 4.7) -/

/-- The bytes of a report's header. -/
def reportHeader (status : Nat) (handle : Word) (r : Refused) (name : List Byte) : List Byte :=
  bytesOfNat 4 status ++ bytesOfNat 4 handle.toNat ++ bytesOfNat 4 r.code ++ bytesOfNat 2 r.kernel ++ bytesOfNat 2 r.record ++
    bytesOfNat 2 r.first ++ bytesOfNat 2 r.last ++ bytesOfNat 4 r.demand ++ bytesOfNat 4 r.capacity ++ bytesOfNat 4 r.held ++
    (name ++ List.replicate 32 0#8).take 32

/-- The entry of an instance. -/
def reportEntry (ks : List Kernel) (n : Inst) : List Byte :=
  let transit := if resUnit n.anchor = 5 then 0 else Config.transit n.core n.channel
  let latency := match (ks[n.kernel]?).bind (fun k => k.decls.find? (fun d => d.slot == n.slot)) with
    | none => 0
    | some d => d.latency n.write transit
  bytesOfNat 1 n.kernel ++ bytesOfNat 1 n.slot ++ bytesOfNat 2 n.core ++ bytesOfNat 4 n.anchor ++ bytesOfNat 2 transit ++
    bytesOfNat 2 latency ++ bytesOfNat 2 (n.slots.headD 0) ++ bytesOfNat 2 n.slots.length

/-- Ends an install or remove request: the report is written, then DONE is set and VECTOR raised (04 R99). -/
def State.finishRequest (s : State) (v : Nat) (report : List Byte) : State :=
  let f := s.fn v
  let t := (s.awaitDev v (f.instRpt.toNat / 256 * 256) report.length).writeDev v (f.instRpt.toNat / 256 * 256) report
  (t.onFn v (fun f => { f with instCmd := (f.instCmd &&& 0xDFFFFFFF#32) ||| 0x10000000#32 })).onHost (fun h =>
    { h with vectors := h.vectors ++ [(v, wbits f.instCmd 27 24)] })

/-! ### Admission (04 R110) -/

/-- Whether a function's code-hash list holds a hash; the list lies in key-0 memory (03 R81). -/
def State.hashListed (s : State) (v : Nat) (hash : Word256) : Bool :=
  let f := s.fn v
  let base := f.chlBase.toNat / 4096 * 4096
  (List.range (min 4096 (wbits f.chlCount 12 0))).any (fun n =>
    s.mem.keyOf (base + 32 * n) == 0 && natOfBytes (Memory.readBytes s.mem.bytes (base + 32 * n) 32) == hash.toNat)

/-- The next handle: the device's choice, non-zero and given to no installation since the last host reset (04 R100). -/
def Garnet.nextHandle (g : Garnet) : Word :=
  let h := Config.handleOf g.handles.length
  if h != 0#32 && !g.handles.contains h then h
  else (((List.range (g.handles.length + 1)).map (fun n => BitVec.ofNat 32 (n + 1))).find? (fun w => !g.handles.contains w)).getD 1#32

/-- An admission under way: the state with the pages held aside, and the refusal that has ended it. -/
structure Admission where
  state   : State
  refused : Option Refused := none

/-- Goes on with an admission unless a refusal has ended it. -/
def Admission.andThen (a : Admission) (f : State → Admission) : Admission :=
  match a.refused with
  | none => f a.state
  | some _ => a

/-- The refusal for a pool that is too small. -/
def pinRefusal (part : Nat) : Refused := { code := resCode 12 part 0 0 }

/-- 64 KiB pages of a range that starts on a page. -/
def pageCount (n : Nat) : Nat := ceilDiv n Config.pageBytes

/-- Maps and fills one section (12 R334). -/
def State.mapSection (s : State) (i : Installation) (img : Image) (sec : Section) : Admission :=
  if !sec.mapped then ⟨s, none⟩
  else
    let r := s.mapRange i.handle i.fn (sec.flags % 2 == 1) (sec.flags / 2 % 2 == 1) (sec.flags / 4 % 2 == 1) false sec.vaddr
      (pageCount sec.size)
    if r.2 then ⟨r.1.fillBytes i.handle sec.vaddr (img.contents sec), none⟩ else ⟨r.1, some (pinRefusal i.part)⟩

/-- Lines of a slice that reservations pin (04 R105). -/
def DeviceMem.pinnedLines (m : DeviceMem) (slice : Nat) : Nat := (m.l2.filter (fun l => l.slice == slice && l.pinned)).length

/-- Pins the lines of an L2-resident record in their slices (04 R105). -/
def State.pinLines (s : State) (page : Page) (lines : Nat) : State :=
  (List.range lines).foldl (fun t j =>
    let a := page.phys (page.va + 128 * j)
    t.onMem (fun m => { m with
      l2 := m.l2.filter (fun l => l.addr != a) ++ [⟨sliceOf a, a, m.keyOf a, true, s.freeCtr⟩] })) s

/-- Takes and maps the memory of a reserved record: a stripe over its channels, scrubbed and pinned (04 R105, 03 R77). -/
def State.mapReserved (s : State) (i : Installation) (kernel record : Nat) (d : Decl) : Admission :=
  let part := s.part i.part
  let c0 := firstChannel (s.fn i.fn) part.channels s.pkg.mappedOut d
  let stripe := (List.range d.width).map (fun j => c0 + j)
  let r := bufRec d.image
  let first := ((pathOf d 0 c0 (d.dir % 2 == 0)).headD (0, 0)).1
  match stripe.find? (fun c => s.pkg.mappedOut.contains c) with
  | some c => ⟨s, some { code := resCode (resUnit first) c 0 (resPort first), kernel := kernel, record := record
                         last := (slotsOf first).getLastD 499, demand := d.slots }⟩
  | none =>
    let load (c : Nat) : Nat := (List.range r.lines).countP (fun j => c0 + j % max 1 d.width == c)
    match (if d.reside = 1 then stripe.find? (fun c => decide (3072 < s.mem.pinnedLines c + load c)) else none) with
    | some c => ⟨s, some { code := resCode 2 c 0 2, kernel := kernel, record := record, demand := load c, capacity := 3072
                           held := s.mem.pinnedLines c }⟩
    | none =>
      match s.takeStripe i.fn d.pagesPerChannel stripe with
      | (t, none) => ⟨t, some (pinRefusal i.part)⟩
      | (t, some pages) =>
        let regions := (pages.flatMap (fun l => l.map (fun p => p / 32))).foldl (fun l n => insertSorted n l) []
        let page : Page := {
          va := r.base / 128 * 128, size := 128 * r.lines
          target := .stripe d.width (pages.map (fun l => l.map (fun p => p * Config.pageBytes)))
          r := true, w := true, x := false, uc := false, pin := true, shr := false, pooled := true }
        let u := (t.onMem (fun m => regions.foldl DeviceMem.scrub m)).addPage i.handle page
        ⟨if d.reside = 1 then u.pinLines page r.lines else u, none⟩

/-- The pinning step for one declaration (04 R105; 12 R334). -/
def State.mapDecl (s : State) (i : Installation) (img : Image) (kernel record : Nat) (d : Decl) : Admission :=
  let r := bufRec d.image
  let content := match img.sections[d.init]? with
    | some sec => if d.init = 0xFFFF then none else some (img.contents sec)
    | none => none
  let mapped : Admission :=
    if r.reserved then if d.reside = 2 then ⟨s, none⟩ else s.mapReserved i kernel record d
    else match content with
      | none => ⟨s, none⟩
      | some bs =>
        let lo := r.base / Config.pageBytes * Config.pageBytes
        let m := s.mapRange i.handle i.fn true true false false lo (pageCount (r.base - lo + bs.length))
        ⟨m.1, if m.2 then none else some (pinRefusal i.part)⟩
  mapped.andThen (fun t => ⟨match content with | none => t | some bs => t.fillBytes i.handle r.base bs, none⟩)

/-- The pinning step of Admit. -/
def State.pinAll (s : State) (i : Installation) (img : Image) (m : Manifest) : Admission :=
  let a := img.sections.foldl (fun (a : Admission) sec => a.andThen (fun t => t.mapSection i img sec)) ⟨s, none⟩
  (m.kernels.zipIdx).foldl (fun (a : Admission) (k : KernelSpec × Nat) =>
    (k.1.decls.zipIdx).foldl (fun (a : Admission) (d : Decl × Nat) => a.andThen (fun t => t.mapDecl i img k.2 d.2 d.1)) a) a

/-- The first channel of every reserved record, as its pages were taken. -/
def State.channelOf (s : State) (i : Installation) (d : Decl) : Nat :=
  match s.page? i.handle (bufRec d.image).base with
  | none => d.chan
  | some p => sliceOf (p.phys p.va)

/-- Every instance of an installation, in the order of Admit. -/
def State.wants (s : State) (i : Installation) : List Want :=
  (i.kernels.zipIdx).flatMap (fun (k : Kernel × Nat) =>
    wantsOf k.2 k.1.decls (fun n => ((k.1.decls[n]?).map (s.channelOf i)).getD 0) (kernelCores k.1.record k.1.positions))

/-- Places one fabric stream: a send on a channel of the pool, a receive at its port and slices (04 R435, R436). -/
def State.placeFab (s : State) (i : Installation) (ashare : Nat) (kernel record : Nat) (r : FabRec)
    (acc : List Stream × Taken) : State × Except Refused (List Stream × Taken) :=
  let here (e : Refused) : Refused := { e with kernel := kernel, record := record }
  if r.kind = 0 then
    match s.fab.placeSend (i.pool.getD 256) ashare acc.1 r with
    | .error e => (s, .error (here e))
    | .ok (dest, chan) =>
      (s.onFab (fun f => f.placeStream (i.pool.getD 256) chan dest r.turnList),
        .ok (acc.1 ++ [⟨kernel, r, dest, chan / 16, chan % 16, false⟩], acc.2))
  else
    let port := s.fab.receivePort r
    let others := s.installs.flatMap (fun j => j.streams) ++ acc.1
    let worst := r.turnList.foldl (fun n t => max n (ingressLoad others port t)) 0
    let cap := reservable (resCode 7 port 0 0) ashare
    if cap < worst + r.rate then
      (s, .error (here { code := resCode 7 port 0 0, first := r.turnSpan.1, last := r.turnSpan.2, demand := r.rate
                         capacity := cap, held := worst }))
    else
      match (i.kernels[kernel]?).bind (fun k => k.decls.find? (fun d => d.slot == r.srcSlot)) with
      | none => (s, .ok acc)
      | some d =>
        let b := bufRec d.image
        let lo := b.base / Config.pageBytes * Config.pageBytes
        let m := s.mapRange i.handle i.fn true true false true lo (pageCount (b.base - lo + b.range))
        if !m.2 then (m.1, .error (here (pinRefusal i.part)))
        else
          let t := m.1.onInst i.handle (fun i => { i with pages := i.pages.map (fun p =>
            if overlaps p.va (p.va + p.size) b.base (b.base + b.range) then { p with pin := true } else p) })
          let slices := t.windowSlices i.handle b
          (t, match takeReceive t.garnet.unusable ashare (ceilDiv r.rate (max 1 slices.length)) r.turns acc.2 slices with
            | .error e => .error (here e)
            | .ok u => .ok (acc.1 ++ [⟨kernel, r, t.fab.streamDest r, port, 0, false⟩], u))

/-- Places the fabric streams of an installation. -/
def State.placeFabs (s : State) (i : Installation) (ashare : Nat) :
    List (Nat × Nat × FabRec) → List Stream × Taken → State × Except Refused (List Stream × Taken)
  | [], acc => (s, .ok acc)
  | (k, n, r) :: rest, acc =>
    match s.placeFab i ashare k n r acc with
    | (t, .error e) => (t, .error e)
    | (t, .ok acc') => t.placeFabs i ashare rest acc'

/-- Whether an image uses the fabric: streams, or remote records (02 R27, R43). -/
def Manifest.fabric (m : Manifest) : Bool :=
  m.kernels.any (fun k => !k.fabs.isEmpty || k.decls.any (fun d => (bufRec d.image).remote))

/-- Die, pkg or pod objects that an installation takes at a scope: the largest count of its kernels (05 R126, 09 R250). -/
def Installation.objects (i : Installation) (scope : Nat) : Nat :=
  (i.kernels.map (fun k => k.record.bars.getD scope 0)).foldl max 0

/-- The first objects an installation takes at a scope above quad, beside the installations that share the unit; or the
refusal (05 Table 5.1). -/
def State.placeObjects (s : State) (i : Installation) (scope cap : Nat) (shares : Installation → Bool)
    (base : Installation → Nat) : Except Refused Nat :=
  let others := s.installs.filter (fun j => j.handle != i.handle && shares j)
  let held := others.foldl (fun n j => n + j.objects scope) 0
  let unit := if scope = 2 then (s.part i.part).dies.headD 0 else 0
  if 0 < i.objects scope ∧ cap < held + i.objects scope then
    .error { code := resCode 11 scope unit 0, demand := i.objects scope, capacity := cap, held := held }
  else .ok (firstFit (others.map (fun j => (base j, base j + j.objects scope))) (i.objects scope))

/-- The object and ticket keys that an installation is given at commit, all reset (05 R127, 09 R250). -/
def State.resetObjects (s : State) (i : Installation) : State :=
  let dies := (s.part i.part).dies
  let keys := dies.flatMap (fun d => (List.range (i.objects 2)).map (fun n => barKey 2 d (i.dieBase + n))) ++
    (List.range (i.objects 3)).map (fun n => barKey 3 0 (i.pkgBase + n)) ++
    (List.range (i.objects 4)).map (fun n => barKey 4 0 (i.podBase + n))
  let disp := dies.flatMap (fun d => (List.range (32 * i.objects 2)).map (fun n => d * 2 ^ 20 + 32 * i.dieBase + n))
  { s with
    bars := s.bars.filter (fun e => !keys.contains e.1)
    tickets := s.tickets.filter (fun e => !disp.contains e.1) }

/-- Gives a core the physical units of a run of unit numbers: the lowest free ones (07 R203). -/
def Core.takeUnits (k : Core) : List Nat → Core
  | [] => k
  | u :: us =>
    match (List.range 15).find? (fun n => Sparse.get 0 k.spadUnits n == 0) with
    | none => k
    | some n => ({ k with spadUnits := Sparse.set 0 k.spadUnits n (u + 1)
                          l1 := k.l1.filter (fun l => l.way != 15 - n) }).takeUnits us

/-- Gives a position its scratchpad units on each of its cores, zeroed (07 R203, R204). -/
def State.giveUnits (s : State) (k : KernelRec) (p : Position) : State :=
  (entryCores k.span p.core).foldl (fun t c =>
    (t.onCore c.1 (fun q => q.takeUnits ((List.range k.spad).map (fun u => p.spadUnit + u)))).onMem (fun m => { m with
      sram := Memory.clear m.sram (spadAddr c.1 p.spadUnit 0) (k.spad * 65536) })) s

/-- The import entry of a window (07 R213, Table 7.5). -/
def windowEntry (handle : Word) (image : Word256) (perm bar : Nat) : ImportEntry :=
  let r := bufRec image
  { handle := handle, length := r.range, valid := true, perm := perm, bar := bar, key := r.key, base := r.base % 2 ^ 57 }

/-- The import entries of an image: its receive streams, which may be written, and its export records (07 R213, 12 R337; log
42). -/
def Manifest.entries (m : Manifest) (handle : Word) : List (Nat × ImportEntry) :=
  (m.kernels.zipIdx).flatMap (fun (k : KernelSpec × Nat) => (k.1.fabs.filter (fun f => f.kind == 1)).filterMap (fun f =>
    (windowImage m.kernels k.2 f.srcSlot).map (fun x => (f.window, windowEntry handle x 2 0xFF)))) ++
  m.exports.filterMap (fun e => (windowImage m.kernels e.kernel e.slot).map (fun x => (e.window, windowEntry handle x e.perm e.bar)))

/-- Gives back what an admission held aside: its pages lose their contents and return to the pool unscrubbed (04 R100). -/
def State.undoAdmission (s before : State) (v : Nat) : State :=
  let pages := (s.fn v).poolUsed.filter (fun p => !(before.fn v).poolUsed.contains p)
  let t := (s.onMem (fun m => pages.foldl DeviceMem.zeroPage { m with l2 := before.mem.l2 })).returnPages v pages
  { t with installs := before.installs, fab := before.fab, garnet := before.garnet }

/-- The rest of Admit once the pages are pinned: slots, fabric, objects, and the commit (04 R100, R110). -/
def State.admitSlots (s : State) (handle : Word) (m : Manifest) : Admission :=
  match s.inst? handle with
  | none => ⟨s, none⟩
  | some i =>
    let ashare := (s.part i.part).ashare
    let start := s.takenSlots
    match placeWants s.garnet.unusable ashare s.freeCtr start (s.wants i) with
    | .error r => ⟨s, some r⟩
    | .ok (insts, taken) =>
      let fabs := (m.kernels.zipIdx).flatMap (fun (k : KernelSpec × Nat) =>
        (k.1.fabs.zipIdx).map (fun (f : FabRec × Nat) => (k.2, k.1.record.nDecl + f.2, f.1)))
      match s.placeFabs i ashare fabs ([], taken) with
      | (t, .error r) => ⟨t, some r⟩
      | (t, .ok (streams, taken')) =>
        let inPart (j : Installation) : Bool := j.part == i.part
        match t.placeObjects i 2 32 inPart (fun j => j.dieBase), t.placeObjects i 3 32 (fun _ => true) (fun j => j.pkgBase),
            t.placeObjects i 4 16 (fun _ => true) (fun j => j.podBase) with
        | .error r, _, _ => ⟨t, some r⟩
        | _, .error r, _ => ⟨t, some r⟩
        | _, _, .error r => ⟨t, some r⟩
        | .ok db, .ok pb, .ok qb =>
          let newSlots := taken'.slots.take (taken'.slots.length - start.slots.length)
          let i' (j : Installation) : Installation := { j with
            insts := insts, streams := streams, dieBase := db, pkgBase := pb, podBase := qb
            receives := taken'.receives.take (taken'.receives.length - start.receives.length)
            effective := s.pkg.frame + 1 }
          let t1 := (t.onInst handle i').addDests handle
          let t2 := { t1 with garnet := { t1.garnet with
            held := newSlots.foldl (fun (h : Sparse Word) (p : Nat × Nat) => Sparse.set 0#32 h (512 * p.1 + p.2) handle) t1.garnet.held
            handles := t1.garnet.handles ++ [handle] } }
          let t3 := t2.onFab (fun f => { f with
            imports := (m.entries handle).foldl (fun (e : Sparse ImportEntry) (p : Nat × ImportEntry) => Sparse.set {} e p.1 p.2) f.imports })
          let t4 := match t3.inst? handle with | none => t3 | some j => t3.resetObjects j
          ⟨i.kernels.foldl (fun u k => k.positions.foldl (fun u p => u.giveUnits k.record p) u) t4, none⟩

/-- Gives an admission its pool and the allotment that waits for it (02 R27; log 21). -/
def State.givePool (s : State) (handle : Word) (v : Nat) : State :=
  let (chans, dests) := Sparse.get ([], []) s.fab.pending v
  ((s.makePool handle).allot handle chans dests).onFab (fun f => { f with pending := Sparse.set ([], []) f.pending v ([], []) })

/-- Admit (04 R110): the admission, with the refusal that ends it. -/
def State.admission (s : State) (v : Nat) (img : Image) : Admission :=
  let part := (s.fn v).part
  let p := s.part part
  let dies := if p.valid then p.dies else []
  let held := (s.fab.imports.filter (fun e => e.2.valid)).map (fun e => e.1)
  if !s.hashListed v img.hash then ⟨s, some { code := resCode 13 0 0 0 }⟩
  else match img.manifest p.channels held with
    | .error r => ⟨s, some r⟩
    | .ok m =>
      match placeAll s.placedKernels dies 0 (m.kernels.map (fun k => k.record)) with
      | .error r => ⟨s, some r⟩
      | .ok positions =>
        let handle := s.garnet.nextHandle
        let text := (img.sections.find? (fun q => q.kind == 1)).getD ⟨0, 0, 0, 0, 0⟩
        let kernels := (m.kernels.zip positions).map (fun (q : KernelSpec × List Position) =>
          ({ record := q.1.record, decls := q.1.decls, fabs := q.1.fabs, shapes := q.1.shapes, positions := q.2, seqNext := 0 } : Kernel))
        let i : Installation := {
          handle := handle, fn := v, part := part, hash := img.hash, textBase := text.vaddr
          kernels := kernels, pages := [], floor := dies.foldl (fun c d => c &&& s.dieCap d) (BitVec.allOnes 9)
          insts := [], streams := [], receives := [], dieBase := 0, pkgBase := 0, podBase := 0, pool := none
          lost := false, streamLost := false, removing := false, withdrawing := [], withdrawn := []
          events := [], evLost := false, impFail := 0, effective := 0, spinNumber := [] }
        let s1 := { s with installs := s.installs ++ [i] }
        let allotted := !(Sparse.get ([], []) s.fab.pending v == ([], []))
        let done : Admission :=
          ((s1.pinAll i img m).andThen (fun t =>
            if !(m.fabric || allotted) then ⟨t, none⟩
            else if t.fab.freePool.isNone then ⟨t, some { code := resCode 6 0x7FF 0 0 }⟩
            else ⟨t.givePool handle v, none⟩)).andThen (fun t => t.admitSlots handle m)
        match done.refused with
        | none => done
        | some r => ⟨done.state.undoAdmission s v, some r⟩

/-- Reads the image at INSTIMG; `none` is STATUS 2 (12 R331; log 43 for an INSTLEN out of range). -/
def State.imageOf (s : State) (v : Nat) : Option Image :=
  let f := s.fn v
  let off := f.instImg.toNat / 4096 * 4096
  let len := f.instLen.toNat
  if len < 4096 ∨ 2 ^ 30 < len then none
  else match s.readDev v off 64 with
    | none => none
    | some head =>
      let loadEnd := fieldAt head 24 8
      if len < loadEnd then none
      else match s.readDev v off (max 64 loadEnd) with
        | none => none
        | some bs => readImage bs len

/-- Whether a function's BAR0 answers: the physical function's does, a virtual function's once IDE is established and the
function is enabled (03 R56). -/
def State.barOpen (s : State) (v : Nat) : Bool := (v == 0 && s.host.cxlUp) || (decide (v ≤ 256) && s.host.ide && s.host.vfsVisible && (s.fn v).enabled)

/-- A write of INSTCMD that the device ignores (04 R99): event 0x34 names the function. -/
def State.instIgnored (s : State) (v : Nat) (value : Word) : State := s.event 0 0x34 v v value.toNat 0

/-- Whether a write of INSTCMD is ignored. -/
def Fn.instRejects (f : Fn) (value : Word) : Bool := wbits value 23 0 != 0 || wbit f.instCmd 29

/-- The plain fields of a write of INSTCMD: VECTOR, and DONE cleared by a 1. -/
def Fn.instFields (f : Fn) (value : Word) : Fn :=
  { f with instCmd := (f.instCmd &&& 0x20000000#32) ||| (value &&& 0x0F000000#32) |||
      (if wbit value 28 then 0#32 else f.instCmd &&& 0x10000000#32) }

/-- Waits until the regions of an image and of the list of code hashes are scrubbed (03 R76). -/
def State.awaitImage (s : State) (v : Nat) : State :=
  let f := s.fn v
  (s.awaitDev v (f.instImg.toNat / 4096 * 4096) f.instLen.toNat).awaitPhys (f.chlBase.toNat / 4096 * 4096)

/-- Takes the image of an install request, admits it and reports (04 R98 to R111). -/
def State.takeImage (s : State) (v : Nat) : State :=
  match s.imageOf v with
  | none => s.finishRequest v (reportHeader 2 0#32 { code := 0 } [])
  | some img =>
    let a := s.admission v img
    match a.refused with
    | some r => a.state.finishRequest v (reportHeader 1 0#32 r (resName r.code))
    | none =>
      match a.state.installs.getLast? with
      | none => a.state
      | some i =>
        let entries := i.insts.map (reportEntry i.kernels)
        let status := if 4092 < entries.length then 3 else 0
        a.state.finishRequest v (reportHeader status i.handle { code := 0 } [] ++ (entries.take 4092).flatten)

/-- Garnet takes an install request. -/
def State.installRequest (s : State) (v : Nat) : State := (s.awaitImage v).takeImage v

/-- INSTALL: a write of INSTCMD with OP = 1. -/
def execInstall (function : Nat) (value : Word) (s : State) : Host.Outcome State Fault Refusal :=
  if wbits value 31 30 != 1 || !s.barOpen function then .next s
  else if (s.fn function).instRejects value then .next (s.instIgnored function value)
  else .next ((s.tick.onFn function (fun f => f.instFields value)).installRequest function)

/-! ### REMOVE and REMOVE_TAKE_EFFECT (04 R101) -/

/-- Garnet takes a remove request: BUSY until it takes effect; a handle that names no installation of the function ends at once
with STATUS 1 (log 44). -/
def State.removeRequest (s : State) (v : Nat) : State :=
  let h := (s.fn v).instHandle
  match s.inst? h with
  | none => s.finishRequest v (reportHeader 1 0#32 { code := 0 } [])
  | some i =>
    if i.fn != v || i.removing then s.finishRequest v (reportHeader 1 0#32 { code := 0 } [])
    else
      (s.putInst { i with removing := true }).onFn v (fun f => { f with instCmd := f.instCmd ||| 0x20000000#32 })

/-- REMOVE: a write of INSTCMD with OP = 2. -/
def execRemove (function : Nat) (value : Word) (s : State) : Host.Outcome State Fault Refusal :=
  if wbits value 31 30 != 2 || !s.barOpen function then .next s
  else if (s.fn function).instRejects value then .next (s.instIgnored function value)
  else .next ((s.onFn function (fun f => f.instFields value)).removeRequest function)

/-- Whether every launch of a handle has completed, and nothing of it is still on its way. -/
def State.quiet (s : State) (h : Word) : Bool :=
  s.launches.all (fun l => l.handle != h || l.complete) && s.transfers.all (fun t => t.handle != h) &&
    s.groups.all (fun g => g.ctl.handle != h || (g.gstate == .retired && s.ops.all (fun o => o.gid != g.gid) &&
      s.commits.all (fun c => c.gid != g.gid)))

/-- REMOVE_TAKE_EFFECT of a handle, at the frame boundary after its last launch has retired. -/
def execRemoveTakeEffect (handle : Word) (s : State) : Host.Outcome State Fault Refusal :=
  match s.inst? handle with
  | none => .next s
  | some i =>
    if i.removing && s.quiet handle then
      .next (((s.dropWork (· == handle)).freeInstall i).finishRequest i.fn (reportHeader 0 handle { code := 0 } []))
    else .next s

/-! ### RESERVATION_REPLACEMENT (04 R120, R121) -/

/-- Whether an instance holds a slot of a resource. -/
def Installation.touches (i : Installation) (n : Inst) (code : Nat) : Bool :=
  match (i.kernels[n.kernel]?).bind (fun k => k.decls.find? (fun d => d.slot == n.slot)) with
  | none => false
  | some d => (pathOf d n.core n.channel n.write).any (fun p => p.1 == code)

/-- The declaration of an instance, with its number. -/
def Installation.declOf (i : Installation) (n : Inst) : Option (Decl × Nat) :=
  match i.kernels[n.kernel]? with
  | none => none
  | some k => (k.decls.zipIdx).find? (fun (d : Decl × Nat) => d.1.slot == n.slot)

/-- Assigns the slots of some instances of an installation again, those of the rest staying; an instance that cannot be placed is
lost, and the installation with it (04 R120, R121). -/
def State.reassign (s : State) (i : Installation) (hit : Inst → Bool) : State :=
  let mine := i.insts.filter (fun n => hit n && !n.lost)
  let freed := mine.flatMap (fun n => match i.declOf n with | none => [] | some d => n.holds d.1)
  let g0 := { s.garnet with held := s.garnet.held.filter (fun e => !freed.contains (e.1 / 512, e.1 % 512)) }
  let ashare := (s.part i.part).ashare
  mine.foldl (fun t n =>
    let put (u : State) (m : Inst) : State := u.onInst i.handle (fun j => { j with
      lost := j.lost || m.lost
      insts := j.insts.map (fun k => if k.kernel == n.kernel && k.slot == n.slot && k.core == n.core && k.write == n.write &&
        k.channel == n.channel then m else k) })
    match i.declOf n with
    | none => t
    | some d =>
      let w : Want := ⟨n.kernel, d.2, d.1, n.core, n.write, n.channel⟩
      match w.place t.takenSlots t.garnet.unusable ashare t.freeCtr with
      | .error _ => put t { n with lost := true, slots := [] }
      | .ok (m, _) =>
        let m' := { n with slots := m.slots }
        let u := put t m'
        { u with garnet := { u.garnet with
            held := (m'.holds d.1).foldl (fun (h : Sparse Word) (p : Nat × Nat) => Sparse.set 0#32 h (512 * p.1 + p.2) i.handle) u.garnet.held } })
    { s with garnet := g0 }

/-- RESERVATION_REPLACEMENT: a resource has become unusable, and the affected instances are placed again (04 R120). -/
def execReservationReplacement (resource : Nat) (s : State) : Host.Outcome State Fault Refusal :=
  let s1 := { s.tick with garnet := { s.garnet with unusable := insertSorted resource s.garnet.unusable } }
  .next (s1.installs.foldl (fun t i =>
    match t.inst? i.handle with
    | none => t
    | some j => if j.insts.any (fun n => j.touches n resource) then t.reassign j (fun n => j.touches n resource) else t) s1)

/-! ### DIE_WITHDRAWAL (10 R283) -/

/-- Whether an installation's groups on a die are at a stop: no clause under way, no transfer, no matrix command started. -/
def State.stopped (s : State) (i : Installation) (die : Nat) : Bool :=
  (s.groups.filter (fun g => g.ctl.handle == i.handle && dieOfCore g.core == die && g.gstate != .retired)).all (fun g =>
    s.transfers.all (fun t => t.gid != g.gid) &&
      (s.core g.core).stream.all (fun e => e.gid != g.gid || !e.started) &&
      (match g.seat with
      | none => true
      | some seat => (s.rail g.core (railOfSeat seat)).clauseOf != some g.gid))

/-- The new positions of a kernel over the remaining entries: on each entry those it has there, in order, and then fresh ones. -/
def movedPositions (ks : List (KernelRec × List Position)) (k : KernelRec) (old : List Position) :
    List Position → List Nat → List Position
  | done, [] => done
  | done, e :: es =>
    let p := ((old.filter (fun q => q.core == e)).find? (fun q => !done.contains q)).getD
      (newPosition ((k, old) :: (k, done) :: ks) k e)
    movedPositions ks k old (done ++ [p]) es

/-- Place over the core list without the withdrawn dies, for every kernel of an installation. -/
def State.placeWithout (s : State) (i : Installation) (dies : List Nat) : Except Refused (List (List Position)) :=
  let others := (s.installs.filter (fun j => j.handle != i.handle)).flatMap (fun j => j.kernels.map (fun k => (k.record, k.positions)))
  i.kernels.foldl (fun (acc : Except Refused (List (List Position))) k =>
    match acc with
    | .error r => .error r
    | .ok pss =>
      let ks := others ++ (i.kernels.zip pss).map (fun (q : Kernel × List Position) => (q.1.record, q.2))
      match placeOver ks k.record (coreList dies k.record.span) (k.record.maxWg + 1) {} k.record.maxWg with
      | .error r => .error r
      | .ok es => .ok (pss ++ [movedPositions ks k.record k.positions [] es])) (.ok [])

/-- Copies a range of a memory. -/
def Memory.copyRange (m : List Host.Cell) (src dst n : Nat) : List Host.Cell :=
  (m.filter (fun c => decide (src ≤ c.1) && decide (c.1 < src + n))).foldl (fun l c => Memory.write l (dst + (c.1 - src)) c.2)
    (Memory.clear m dst n)

/-- Where an object goes when its position moves. -/
def movedKey (k : KernelRec) (p q : Position) (key : Nat) : Nat :=
  let index := key % 65536
  match barScope key with
  | 0 =>
    if entryHolds k.span p.core (barUnit key) && decide (p.barCore ≤ index) && decide (index < p.barCore + k.bars.getD 0 0) then
      barKey 0 (q.core + (barUnit key - p.core)) (q.barCore + (index - p.barCore)) else key
  | 1 =>
    if barUnit key == quadOfCore p.core && decide (p.barQuad ≤ index) && decide (index < p.barQuad + k.bars.getD 1 0) then
      barKey 1 (quadOfCore q.core) (q.barQuad + (index - p.barQuad)) else key
  | _ => key

/-- An operation after the objects it names have moved. -/
def OpKind.moveKeys (f : Nat → Nat) : OpKind → OpKind
  | .release sc b e (.arrive o n) => .release sc b e (.arrive (f o) n)
  | .acquire sc (.phase o p) => .acquire sc (.phase (f o) p)
  | .bartest sc o p => .bartest sc (f o) p
  | .barinit o a b => .barinit (f o) a b
  | k => k

/-- The units and objects of a workgroup move with their contents (10 R283). -/
def State.movePlace (s : State) (k : KernelRec) (gids : List Nat) (p q : Position) : State :=
  let pairs := (entryCores k.span p.core).map (fun c => (c.1, q.core + c.2))
  let moveCore (c : Nat) : Nat := ((pairs.find? (fun e => e.1 == c)).map (fun e => e.2)).getD c
  let sram := pairs.foldl (fun m e => Memory.copyRange m (spadAddr e.1 p.spadUnit 0) (spadAddr e.2 q.spadUnit 0) (k.spad * 65536)) s.mem.sram
  let bars := (s.bars.filter (fun e => movedKey k p q e.1 != e.1)).foldl (fun m e => Sparse.set {} m (movedKey k p q e.1) e.2)
    (s.bars.filter (fun e => movedKey k p q e.1 == e.1))
  { s with
    bars := bars
    mem := { s.mem with
      sram := sram
      windows := s.mem.windows.map (fun w =>
        if gids.contains w.gid then { w with core := moveCore w.core, object := movedKey k p q w.object } else w) }
    ops := s.ops.map (fun o => if gids.contains o.gid then { o with kind := o.kind.moveKeys (movedKey k p q) } else o)
    commits := s.commits.map (fun c =>
      if gids.contains c.gid then
        { c with core := moveCore c.core, quantum := c.quantum.map (fun x => (movedKey k p q x.1, x.2)) } else c)
    landed := s.landed.map (fun l => { l with object := movedKey k p q l.object })
    groups := s.groups.map (fun g =>
      if gids.contains g.gid then
        { g with
          core := moveCore g.core, place := q, seat := none, lls := 0, age := 0
          gstate := if g.gstate = .retired then .retired else if g.wait = .none then .ready else .waiting
          window := match g.seat with
            | none => g.window
            | some seat => if g.ctl.handler then (s.rail g.core (railOfSeat seat)).window else [] }
      else g) }

/-- What a core's engine holds for some groups moves to another core: claimed tiles with their contents and marks,
operand-buffer records and waiting commands (10 R283). -/
def State.moveEngine (s : State) (gids : List Nat) (src dst : Nat) : State :=
  let k := s.core src
  let own (t : Nat) : Bool := k.tileOwner.any (fun e => e.1 == t && gids.contains (e.2.1 - 1))
  let moved (q : Core) : Core := { q with
    tileOwner := (k.tileOwner.filter (fun e => own e.1)).foldl (fun m e => Sparse.set (0, 0) m e.1 e.2) q.tileOwner
    acc := (k.acc.filter (fun e => own (e.1 / 4096))).foldl (fun m e => Sparse.set 0#32 m e.1 e.2) q.acc
    accErr := q.accErr ++ k.accErr.filter (fun e => own (e / 4096))
    accTest := q.accTest ++ k.accTest.filter (fun e => own (e / 16 / 4096))
    obrecs := q.obrecs ++ k.obrecs.filter (fun o => gids.contains o.owner)
    stream := q.stream ++ k.stream.filter (fun e => gids.contains e.gid) }
  let s1 := s.onCore dst moved
  s1.onCore src (fun k => { (gids.foldl Core.freeEngine k) with
    mantle := k.mantle.filter (fun m => !gids.contains m.gid) })

/-- Whether an engine has room for what some groups hold on another: their tiles and record numbers are free there. -/
def State.engineFits (s : State) (gids : List Nat) (src dst : Nat) : Bool :=
  let k := s.core src
  let q := s.core dst
  (k.tileOwner.filter (fun e => gids.contains (e.2.1 - 1))).all (fun e => Sparse.get (0, 0) q.tileOwner e.1 == (0, 0)) &&
    (k.obrecs.filter (fun o => gids.contains o.owner)).all (fun o => q.obrecs.all (fun r => r.number != o.number))

/-- Writes back the dirty lines of a group that moves, where its context page is there (06 R161); the others stay with the
device. -/
def State.flushLines (s : State) (g : Group) : State :=
  (((s.core g.core).mantle.filter (fun m => m.gid == g.gid && m.dirty))).foldl (fun t m =>
    match t.contextLine g m.line .write with
    | .at_ p => t.writeBackLine g m.line p
    | _ => t) s

/-- Moves the workgroups of a kernel on a die, in ascending sequence number, each to the first position of the new list that is
free; the answer says whether all found one. -/
def State.moveWorkgroups (s : State) (handle : Word) (kernel : Nat) (k : KernelRec) (positions : List Position) :
    List Nat → State × Bool
  | [] => (s, true)
  | seq :: rest =>
    let mates := s.groups.filter (fun g => g.ctl.handle == handle && g.kernel == kernel && g.sequence == seq)
    let live := mates.filter (fun g => g.gstate != .retired)
    let gids := mates.map (fun g => g.gid)
    match mates.head? with
    | none => s.moveWorkgroups handle kernel k positions rest
    | some g0 =>
      let p := g0.place
      let fits (q : Position) : Bool := !s.occupied handle kernel q &&
        (entryCores k.span p.core).all (fun c => s.engineFits gids c.1 (q.core + c.2))
      match positions.find? fits with
      | none => (s, false)
      | some q =>
        let s1 := live.foldl State.flushLines s
        let s2 := live.foldl (fun t g => (t.leaveRail g).freeWindow g) (s1.movePlace k gids p q)
        let s3 := (entryCores k.span p.core).foldl (fun t c => t.moveEngine gids c.1 (q.core + c.2)) s2
        s3.moveWorkgroups handle kernel k positions rest

/-- The sequence numbers of a kernel's workgroups that run on a die, ascending. -/
def State.running (s : State) (handle : Word) (kernel die : Nat) : List Nat :=
  ((s.groups.filter (fun g => g.ctl.handle == handle && g.kernel == kernel && dieOfCore g.core == die && g.gstate != .retired)).map
    (fun g => g.sequence)).foldl (fun l n => insertSorted n l) []

/-- Units of the new positions of a kernel, where they are not held already. -/
def State.takePositions (s : State) (k : KernelRec) (old new : List Position) : State :=
  (new.filter (fun q => !old.contains q)).foldl (fun t q => t.giveUnits k q) s

/-- The withdrawal of a die from an installation whose groups there have stopped (10 R283). -/
def State.withdraw (s : State) (i : Installation) (die : Nat) : State :=
  let lose (t : State) : State :=
    let gids := (t.groups.filter (fun g => g.ctl.handle == i.handle && dieOfCore g.core == die && g.gstate != .retired)).map (fun g => g.gid)
    (gids.foldl State.killGroup t).onInst i.handle (fun j => { j with
      lost := true, withdrawing := j.withdrawing.filter (· != die), withdrawn := insertSorted die j.withdrawn })
  let part := s.part i.part
  let dies := part.dies.filter (fun d => d != die && !i.withdrawn.contains d)
  match s.placeWithout i dies with
  | .error _ => lose s
  | .ok pss =>
    let kernels := (i.kernels.zip pss).map (fun (q : Kernel × List Position) => { q.1 with positions := q.2 })
    let old := i.insts.filter (fun n => dieOfCore n.core == die)
    let freed := old.flatMap (fun n => match i.declOf n with | none => [] | some d => n.holds d.1)
    let s1 := { s with garnet := { s.garnet with held := s.garnet.held.filter (fun e => !freed.contains (e.1 / 512, e.1 % 512)) } }
    let kept := i.insts.filter (fun n => dieOfCore n.core != die)
    let i1 := { i with kernels := kernels, insts := kept }
    let s2 := s1.putInst i1
    let wants := (s2.wants i1).filter (fun w => !kept.any (fun n =>
      n.kernel == w.kernel && n.slot == w.decl.slot && n.core == w.core && n.write == w.write && n.channel == w.channel))
    match placeWants s2.garnet.unusable part.ashare s2.freeCtr s2.takenSlots wants with
    | .error _ => lose s
    | .ok (fresh, taken) =>
      let before := s2.takenSlots.slots.length
      let s3 := { s2 with garnet := { s2.garnet with
        held := (taken.slots.take (taken.slots.length - before)).foldl (fun (h : Sparse Word) (p : Nat × Nat) => Sparse.set 0#32 h (512 * p.1 + p.2) i.handle) s2.garnet.held } }
      let s4 := s3.putInst { i1 with insts := kept ++ fresh }
      let s5 := (i.kernels.zip pss).foldl (fun t (q : Kernel × List Position) => t.takePositions q.1.record q.1.positions q.2) s4
      let r := ((i.kernels.zip pss).zipIdx).foldl (fun (acc : State × Bool) (q : (Kernel × List Position) × Nat) =>
        if acc.2 then acc.1.moveWorkgroups i.handle q.2 q.1.1.record q.1.2 (acc.1.running i.handle q.2 die) else acc) (s5, true)
      if !r.2 then lose s
      else
        let gone := (i.kernels.zip pss).flatMap (fun (q : Kernel × List Position) =>
          (q.1.positions.filter (fun p => !q.2.contains p)).map (fun p => (q.1.record, p)))
        let units := gone.foldl (fun (t : State) (q : KernelRec × Position) => (entryCores q.1.span q.2.core).foldl (fun t c =>
          t.onCore c.1 (fun k => k.freeUnits ((List.range q.1.spad).map (fun u => q.2.spadUnit + u)))) t) r.1
        (units.onInst i.handle (fun j => { j with
          withdrawing := j.withdrawing.filter (· != die), withdrawn := insertSorted die j.withdrawn })).withdrawCollectives i.handle
            [0, 1] (· == die)

/-- Puts installations in handle order. -/
def insertHandle (i : Installation) : List Installation → List Installation
  | [] => [i]
  | j :: js => if i.handle.toNat < j.handle.toNat then i :: j :: js else j :: insertHandle i js

/-- DIE_WITHDRAWAL of a die: first the installations whose floor it no longer meets suspend their groups there; once those have
stopped, each in handle order leaves the die (10 R283; log 45). -/
def execDieWithdrawal (die : Nat) (s : State) : Host.Outcome State Fault Refusal :=
  let cap := s.dieCap die
  let concerned := (s.installs.filter (fun i => decide (i.floor &&& cap ≠ i.floor) && (s.part i.part).dies.contains die &&
    !i.withdrawn.contains die && !i.lost)).foldl (fun l i => insertHandle i l) []
  .next (concerned.foldl (fun t i =>
    match t.inst? i.handle with
    | none => t
    | some j =>
      if !j.withdrawing.contains die then t.putInst { j with withdrawing := insertSorted die j.withdrawing }
      else if t.stopped j die then t.withdraw j die
      else t) s.tick)

end Sys2Proof.Machine
end

