-- ==== Sys2Proof/Machine/Tenants.lean ====
section
/-!
DEFINITION. Tenants and partitions: VFCTL with enabling, disabling, banks and gates (03 R56, R58, R68 to R70), SWAP_OUT_COMPLETE,
PARTCFG and partition resets (R66, R93; 01 R17), and the firewall (03 R67).
-/
namespace Sys2Proof.Machine

/-! ### VFCTL (03 Table 3.3, R58, R68) -/

/-- Whether the physical function's BAR0 answers: the link is up (01 R16 step 7). -/
def State.pfOpen (s : State) : Bool := s.host.cxlUp

/-- The Mantle banks that the other enabled tenants of a partition hold, those of a tenant that swaps out among them (R58,
R70). -/
def State.banksHeld (s : State) (part vf : Nat) : Nat :=
  ((List.range 256).map (· + 1)).foldl (fun m v =>
    let f := s.fn v
    if v != vf && f.enabled && f.part == part then m ||| f.banks ||| f.leaving else m) 0

/-- Whether a write of VFCTL is ignored with event 0x31: a bit that must be zero, an overlap of banks, a change of PART while
EN = 1 (R58), or a transition that Table 3.7 does not have: BANKS := 0 on a resident tenant, BANKS while it swaps out, or a
change between two masks that are not zero (log 48). -/
def State.vfctlRejects (s : State) (vf : Nat) (value : Word) : Bool :=
  let f := s.fn vf
  let n : Fn := { f with vfctl := value }
  let stays := f.enabled && n.enabled
  wbits value 27 24 != 0 || wbits value 12 0 != 0 || (n.banks &&& s.banksHeld n.part vf) != 0 ||
    (f.enabled && n.part != f.part) ||
    (stays && f.banks != 0 && n.banks == 0 && !f.gate) ||
    (stays && f.leaving != 0 && n.banks != 0) ||
    (stays && f.banks != 0 && n.banks != 0 && n.banks != f.banks)

/-- The stored bits of VFCTL: STATE is read-only. -/
def vfctlStored (value : Word) : Word := value &&& 0xFFFF9FFF#32

/-- Every seated group of a tenant leaves its seat (05 R147, Table 5.4). -/
def State.unseatTenant (s : State) (vf : Nat) : State :=
  ((s.groups.filter (fun g => g.fn == vf && g.gstate == .seated)).map (fun g => g.gid)).foldl (fun t gid =>
    match t.group? gid with
    | none => t
    | some g => if g.gstate = .seated then t.unseat g else t) s

/-- A write of VFCTL of a virtual function. -/
def State.vfctlWrite (s : State) (vf : Nat) (value : Word) : State :=
  let f := s.fn vf
  let n : Fn := { f with vfctl := value }
  if n.enabled && !s.host.ide then s
  else if s.vfctlRejects vf value then s.event 0 0x31 vf vf value.toNat 0
  else if f.enabled && !n.enabled then (s.disableFn vf).onFn vf (fun f => { f with vfctl := vfctlStored value })
  else
    let s1 := s.onFn vf (fun f => { f with vfctl := vfctlStored value })
    if f.enabled && f.banks != 0 && n.banks == 0 then (s1.onFn vf (fun g => { g with leaving := f.banks })).unseatTenant vf else s1

/-- Whether a virtual function exists whose VFCTL a write reaches. -/
def State.vfctlOpen (s : State) (vf : Nat) : Bool := s.pfOpen && decide (1 ≤ vf) && decide (vf ≤ 256)

/-- VF_ENABLE: a write that takes EN from 0 to 1. -/
def execVfEnable (vf : Nat) (value : Word) (s : State) : Host.Outcome State Fault Refusal :=
  if s.vfctlOpen vf && !(s.fn vf).enabled && wbit value 31 then .next (s.vfctlWrite vf value) else .next s

/-- VF_DISABLE: a write that takes EN from 1 to 0. -/
def execVfDisable (vf : Nat) (value : Word) (s : State) : Host.Outcome State Fault Refusal :=
  if s.vfctlOpen vf && (s.fn vf).enabled && !wbit value 31 then .next (s.tick.vfctlWrite vf value) else .next s

/-- VF_BANKS_SET: a write of BANKS that is not zero to a tenant that holds none. -/
def execVfBanksSet (vf : Nat) (value : Word) (s : State) : Host.Outcome State Fault Refusal :=
  if s.vfctlOpen vf && (s.fn vf).banks == 0 && wbits value 23 16 != 0 then .next (s.vfctlWrite vf value) else .next s

/-- VF_BANKS_CLEAR: a write of BANKS := 0 to a tenant that holds some. -/
def execVfBanksClear (vf : Nat) (value : Word) (s : State) : Host.Outcome State Fault Refusal :=
  if s.vfctlOpen vf && (s.fn vf).banks != 0 && wbits value 23 16 == 0 then .next (s.tick.vfctlWrite vf value) else .next s

/-- VF_GATE_SET: a write of GATE := 1. -/
def execVfGateSet (vf : Nat) (value : Word) (s : State) : Host.Outcome State Fault Refusal :=
  if s.vfctlOpen vf && !(s.fn vf).gate && wbit value 15 then .next (s.vfctlWrite vf value) else .next s

/-- VF_GATE_CLEAR: a write of GATE := 0. -/
def execVfGateClear (vf : Nat) (value : Word) (s : State) : Host.Outcome State Fault Refusal :=
  if s.vfctlOpen vf && (s.fn vf).gate && !wbit value 15 then .next (s.vfctlWrite vf value) else .next s

/-- VFCTL as it reads: STATE is 0 queued, 1 resident, 2 gated, 3 swapping out (R68). -/
def Fn.vfctlRead (f : Fn) : Word :=
  let state : Nat := if !f.enabled then 0 else if f.leaving != 0 then 3 else if f.banks == 0 then 0 else if f.gate then 2 else 1
  f.vfctl ||| BitVec.ofNat 32 (state * 2 ^ 13)

/-! ### SWAP_OUT_COMPLETE (03 R68, R70; 06 R161) -/

/-- Writes back the dirty lines of a core that belong to groups of a tenant; the answer says whether all of them could be. -/
def State.swapCore (s : State) (vf core : Nat) : State × Bool :=
  (s.core core).mantle.foldl (fun (acc : State × Bool) m =>
    match acc.1.group? m.gid with
    | none => acc
    | some g =>
      if g.fn != vf || !m.dirty || g.gstate == .retired then acc
      else match acc.1.contextLine g m.line .write with
        | .at_ p => ((acc.1.writeBackLine g m.line p).onCore core (fun k => { k with mantle := k.mantle.map (fun n =>
            if n.gid == m.gid && n.line == m.line then { n with dirty := false } else n) }), acc.2)
        | .fault va => (acc.1.contextFault g va, false)
        | .dirty r => (acc.1.onMem (fun d => d.promote r), false)
        | .closed => (acc.1, false)) (s, true)

/-- Takes the lines of a tenant's groups out of every Mantle. -/
def State.dropTenantLines (s : State) (vf : Nat) : State :=
  let mine := (s.groups.filter (fun g => g.fn == vf)).map (fun g => g.gid)
  { s with cores := Sparse.mapAll {} s.cores (fun _ k => { k with mantle := k.mantle.filter (fun m => !mine.contains m.gid) }) }

/-- SWAP_OUT_COMPLETE of a tenant: its dirty lines are written back, and with the last one it is queued. -/
def execSwapOutComplete (s : State) : Host.Outcome State Fault Refusal :=
  let vf := s.turn.x
  if (s.fn vf).leaving == 0 then .next s
  else
    let r := (s.cores.map (fun e => e.1)).foldl (fun (acc : State × Bool) c =>
      let q := acc.1.swapCore vf c
      (q.1, acc.2 && q.2)) (s.tick, true)
    .next (if r.2 then (r.1.dropTenantLines vf).onFn vf (fun f => { f with leaving := 0 }) else r.1)

/-! ### PARTCFG (03 R66, Table 3.6) and PARTCMD (R93, Table 3.15) -/

/-- Whether a die is offered to no partition: some core of it has no sub-array left (01 R17). -/
def State.dieWithheld (s : State) (die : Nat) : Bool :=
  s.cores.any (fun e => dieOfCore e.1 == die && decide (16 ≤ e.2.fenced.length))

/-- Whether a write of PARTCFG is ignored with event 0x32; a die that no partition may hold counts as one that is held (01 R17;
log 49). -/
def State.partcfgRejects (s : State) (p : Nat) (value : Word) : Bool :=
  let n : Partition := { s.part p with cfg := value }
  let held := ((List.range 8).filter (fun q => q != p && (s.part q).valid)).flatMap (fun q => (s.part q).dies)
  n.dies.any (fun d => held.contains d || s.dieWithheld d) || wbits value 27 16 != 0 || wbits value 7 0 != 0 ||
    n.ashare == 0 || decide (6 < n.ashare) || (n.dies != (s.part p).dies && !(s.tenantsOf p).isEmpty)

/-- A core whose rail and engine counters start again (05 R150). -/
def Core.zeroCounters (k : Core) : Core :=
  { k with mstall := [], cstall := [], rails := Sparse.mapAll {} k.rails (fun _ r => { r with rstall := [] }) }

/-- A write of PARTCFG: accepted once bring-up is complete (01 R16 step 9); a change of DIES acts as a partition reset. -/
def State.partcfgWrite (s : State) (p : Nat) (value : Word) : State :=
  if s.pkg.bringUp != .done then s
  else if s.partcfgRejects p value then s.event 0 0x32 0 p value.toNat 0
  else
    let old := s.part p
    let n : Partition := { old with cfg := value }
    let s1 := if n.dies != old.dies then (s.resetPartition p).resetCores n.dies else s
    let s2 := s1.onPart p (fun q => { q with cfg := value, since := if n.valid && !old.valid then s.pkg.frame else q.since })
    if n.valid && !old.valid then
      { s2 with cores := Sparse.mapAll {} s2.cores (fun c k => if n.dies.contains (dieOfCore c) then k.zeroCounters else k) }
    else s2

/-- PARTCFG_WRITE. -/
def execPartcfgWrite (partition : Nat) (value : Word) (s : State) : Host.Outcome State Fault Refusal :=
  if s.pfOpen && decide (partition < 8) then .next (s.tick.partcfgWrite partition value) else .next s

/-- A write of PARTCMD: with RESET = 1 the partition PART is reset (R93). -/
def State.partcmdWrite (s : State) (value : Word) : State :=
  let p := wbits value 2 0
  if wbits value 29 3 != 0 then s.event 0 0x32 0 p value.toNat 0
  else
    let s1 := s.onHost (fun h => { h with partCmd := value &&& 7#32 })
    if wbit value 31 then s1.resetPartition p else s1

/-- PARTITION_RESET: a write of PARTCMD with RESET = 1. -/
def execPartitionReset (value : Word) (s : State) : Host.Outcome State Fault Refusal :=
  if s.pfOpen && wbit value 31 then .next (s.tick.partcmdWrite value) else .next s

/-! ### The firewall (03 R67) -/

/-- A write of D2DFW of a die: bits above OPEN must be zero, and a bit for the die itself or for a die outside its partition is
ignored. -/
def State.d2dfwWrite (s : State) (die : Nat) (value : Word) : State :=
  if wbits value 31 8 != 0 then s
  else
    let own := match s.partOfDie die with | none => 0#32 | some p => maskOf ((s.part p).dies.filter (· != die))
    let kept := Sparse.get 0#32 s.host.d2dfw die &&& ~~~own
    s.onHost (fun h => { h with d2dfw := Sparse.set 0#32 h.d2dfw die (kept ||| (value &&& own)) })

/-- A request on its way from a core of a die to a home in the slices of another, which no dropped flit stands for yet. -/
def State.crossingRequest (s : State) (source target : Nat) : Option (Nat × Nat) :=
  let meets (gid : Nat) (sp : Space) (phys : Nat) : Bool :=
    dieOfCore (s.coreOf gid) == source && s.homeDie sp phys == some target
  let ofOp (o : OutOp) : List (Nat × Nat) :=
    match o.kind with
    | .load _ sp _ _ lines _ _ _ =>
      (lines.filter (fun l => l.bytes.isNone && l.served && meets o.gid sp (match sp with | .virt _ => l.phys | _ => l.addr))).map
        (fun l => (o.id, l.addr))
    | .atomic _ _ sp _ reqs _ _ _ =>
      (reqs.filter (fun r => !r.done && meets o.gid sp (match sp with | .virt _ => r.phys | _ => r.addr))).map (fun r => (o.id, r.addr))
    | _ => []
  let ofCommit (c : Commit) : List (Nat × Nat) :=
    let phys := match c.space with | .virt _ => c.phys | _ => c.block
    if dieOfCore c.core == source && s.homeDie c.space phys == some target && c.accepted && c.served then [(c.id, c.block)] else []
  (s.ops.flatMap ofOp ++ s.commits.flatMap ofCommit).find? (fun k => !s.dropped.contains k)

/-- FIREWALL_DROP: a flit of a core of the source die meets the closed crossing to the target die. A request it carries is lost;
the die counts it and event 0x33 is raised. A flit of an engine, a register line or a fetch is counted the same way (log 50). -/
def execFirewallDrop (source target : Nat) (s : State) : Host.Outcome State Fault Refusal :=
  let busy := s.groups.any (fun g => dieOfCore g.core == source && g.gstate != .retired)
  if 8 ≤ source ∨ 8 ≤ target ∨ s.crossing source target ∨ !busy then .next s
  else
    let n := Sparse.get 0 s.host.fwDrop source + 1
    let t : State := match s.crossingRequest source target with
      | none => s
      | some k => { s with dropped := s.dropped ++ [k] }
    .next ((t.onHost (fun h => { h with fwDrop := Sparse.set 0 h.fwDrop source n })).event 0 0x33 0 source n 0)

end Sys2Proof.Machine
end

