-- ==== Sys2Proof/Machine/HostMemory.lean ====
section
/-!
DEFINITION. Device memory as the host and the hypervisor reach it: REGBIND (03 R73, R75, R90), the scrubber (R75, R76; 01 R16 step 5),
poisoned lines and LINEFILL (R78 to R80, R92), pool lists (R91), and the accesses of CXL.mem (R55) and BAR2 (R89).
-/
namespace Sys2Proof.Machine

/-! ### REGBIND (03 R90, Table 3.13) -/

/-- Whether a region lies in the dump region: the top 256 MiB of a stack (03 R85). -/
def inDumpRegion (phys : Nat) : Bool := decide (2 ^ 36 - 2 ^ 28 ≤ phys % 2 ^ 36)

/-- Whether an installation holds a translation to a region. -/
def State.regionMapped (s : State) (region : Nat) : Bool :=
  s.installs.any (fun i => i.pages.any (fun p => (p.target.pages p.size).any (fun n => n / 32 == region)))

/-- The refusal of a bind, or 0 (Table 3.13). -/
def State.bindStatus (s : State) (region key : Nat) : Nat :=
  let phys := region * Config.regionBytes
  if s.regionMapped region then 2
  else if Config.physBytes ≤ phys ∨ inDumpRegion phys ∨ s.pkg.mappedOut.contains (sliceOf phys) then 3
  else if decide (1 ≤ key) && decide (key ≤ 256) && !(s.fn key).enabled then 3
  else if 257 ≤ key ∧ Sparse.get 0#256 s.host.skMask key = 0#256 then 4
  else 0

/-- Binds a region to a key id: a key id without a key is given one, of the next generation; a share key whose last region leaves
it is destroyed; the region is unscrubbed and queued (03 R73, R75, R90). -/
def DeviceMem.bind (m : DeviceMem) (region key : Nat) : DeviceMem :=
  let old := Sparse.get 0 m.regionKey region
  let m1 := if m.keyLive.contains key then m
    else { m with keyLive := insertSorted key m.keyLive, keyGen := Sparse.alter 0 m.keyGen key (fun g => (g + 1) % 2 ^ 32) }
  let m2 := { m1 with
    regionKey := Sparse.set 0 m1.regionKey region key
    l2 := m1.l2.filter (fun l => regionOf l.addr != region) }
  let m3 := if 257 ≤ old ∧ !(m2.regionKey.any (fun e => e.2 == old)) then m2.destroyKey old else m2
  m3.soil (pagesOfRegion region) region

/-- A write of REGBIND. -/
def State.regbindWrite (s : State) (value : Word64) : State :=
  if wbits value 11 4 != 0 then s
  else
    let stored := value &&& 0xFFFFFFFFFFFFF000#64
    if !wbit value 3 then s.onHost (fun h => { h with regBind := stored ||| (h.regBind &&& 7#64) })
    else
      let region := wbits value 63 21
      let key := wbits value 20 12
      let status := s.bindStatus region key
      let t := s.onHost (fun h => { h with regBind := stored ||| BitVec.ofNat 64 status })
      if status = 0 then t.onMem (fun m => m.bind region key) else t

/-- REGBIND_BIND: a write of REGBIND with GO = 1. -/
def execRegbindBind (value : Word64) (s : State) : Host.Outcome State Fault Refusal :=
  if s.pfOpen && wbit value 3 then .next (s.regbindWrite value) else .next s

/-- A write of SKMASK of a share key: ignored while the key id holds a key (R90). -/
def State.skmaskWrite (s : State) (key : Nat) (value : Word256) : State :=
  if s.mem.keyLive.contains key then s else s.onHost (fun h => { h with skMask := Sparse.set 0#256 h.skMask key value })

/-! ### REGION_SCRUB (03 R75, R76; 01 R16 step 5) -/

/-- Whether the scrubber runs: bring-up has passed step 5. -/
def Package.scrubs (p : Package) : Bool :=
  match p.bringUp with
  | .notRun => false
  | .failed n => decide (5 < n)
  | .done => true

/-- Regions of a package. -/
def regionCount : Nat := 2 ^ 19

/-- The scrubber does its next region: the head of its queue, else the next of the sweep that bring-up starts. -/
def DeviceMem.scrubNext (m : DeviceMem) : DeviceMem :=
  match m.toScrub with
  | r :: _ => m.scrub r
  | [] =>
    if regionCount ≤ m.bootSwept then m
    else
      let m1 := m.scrub m.bootSwept
      { m1 with bootSwept := m.bootSwept + 1, early := m1.early.filter (· != m.bootSwept) }

/-- REGION_SCRUB. -/
def execRegionScrub (s : State) : Host.Outcome State Fault Refusal :=
  if s.pkg.scrubs then .next (s.onMem DeviceMem.scrubNext) else .next s

/-! ### Poisoned lines (03 R78 to R80, R92) -/

/-- The offset of a physical address in a function's device memory (R89). -/
def Fn.offsetOf (f : Fn) (phys : Nat) : Option Nat :=
  (f.pool.findIdx? (fun r => r == regionOf phys)).map (fun n => n * Config.regionBytes + phys % Config.regionBytes)

/-- POISON_DETECT of a line: it is poisoned, and the events of R79 or R80 go out. -/
def execPoisonDetect (addr : Nat) (s : State) : Host.Outcome State Fault Refusal :=
  let line := addr / 128 * 128
  if Config.physBytes ≤ addr then .next s
  else
    let t := s.tick.onMem (fun m => { m with poison := insertSorted line m.poison })
    let key := s.mem.keyOf line
    let own := decide (1 ≤ key) && decide (key ≤ 256)
    let u := t.event 0 0x37 (if own then key else 0) line key 0
    .next (if own then u.event key 0x37 key (((s.fn key).offsetOf line).getD (Config.unlistedOffset s.freeCtr)) key 0 else u)

/-- The refusal of a LINEFILL, or 0 (Table 3.14; log 51 for the order). -/
def State.linefillStatus (s : State) : Nat :=
  let line := s.host.lfAddr.toNat
  if line % 128 ≠ 0 then 3
  else if s.mem.keyOf line < 257 then 2
  else if !s.mem.poisoned line then 1
  else 0

/-- A write of LFCMD: with GO = 1 LFDATA is written and the poison cleared in one step, or the LINEFILL is refused. -/
def State.lfcmdWrite (s : State) (value : Word) : State :=
  if wbits value 27 0 != 0 || !wbit value 31 then s
  else
    let status := s.linefillStatus
    let t := s.onHost (fun h => { h with lfCmd := BitVec.ofNat 32 (status * 2 ^ 28) })
    if status = 0 then
      (t.writeHome (.virt 0#32) s.host.lfAddr.toNat 128 (2 ^ 1024 - 1) (natOfBytes (s.host.lfData.take 128))).1
    else t

/-- LINEFILL: a write of LFCMD with GO = 1. -/
def execLinefill (value : Word) (s : State) : Host.Outcome State Fault Refusal :=
  if s.pfOpen && wbit value 31 then .next (s.tick.lfcmdWrite value) else .next s

/-! ### Pool lists (03 R91) -/

/-- The region an entry of a function's pool list names; none where the list does not lie in key-0 memory (log 52). -/
def State.poolEntry (s : State) (v n : Nat) : Option Nat :=
  let at_ := (s.fn v).poolBase.toNat / 4096 * 4096 + 8 * n
  if s.mem.keyOf at_ = 0 ∧ at_ < Config.physBytes then some (bitsOf (natOfBytes (Memory.readBytes s.mem.bytes at_ 8)) 63 21) else none

/-- Whether a region may stand in a function's pool: it is bound to the function's key id and lies in a channel that works, outside
the dump region, in the stacks of the function's partition. -/
def State.poolTakes (s : State) (v region : Nat) : Bool :=
  let phys := region * Config.regionBytes
  decide (phys < Config.physBytes) && Sparse.get 0 s.mem.regionKey region == v && !inDumpRegion phys &&
    !s.pkg.mappedOut.contains (sliceOf phys) && (v == 0 || (s.part (s.fn v).part).dies.contains (sliceOf phys / 64))

/-- Reads a pool list: the entries from one number on; an entry that is skipped raises event 0x3C. -/
def State.readPool (s : State) (v : Nat) : List Nat → List Nat → State × List Nat
  | [], got => (s, got)
  | n :: ns, got =>
    match s.poolEntry v n with
    | some r =>
      if s.poolTakes v r && !got.contains r then s.readPool v ns (got ++ [r])
      else (s.event 0 0x3C v v n (r * Config.regionBytes)).readPool v ns got
    | none => (s.event 0 0x3C v v n 0).readPool v ns got

/-- A write of POOLCOUNT: the device reads the whole list (R91). -/
def State.poolcountWrite (s : State) (v : Nat) (value : Word) : State :=
  if wbits value 31 20 != 0 then s
  else
    let base := (s.fn v).poolBase.toNat / 4096 * 4096
    let n := wbits value 19 0
    let s1 := (List.range ((base % Config.regionBytes + 8 * n + Config.regionBytes - 1) / Config.regionBytes)).foldl (fun t k =>
      t.awaitPhys (base + k * Config.regionBytes)) s
    let r := s1.readPool v (List.range n) []
    r.1.onFn v (fun f => { f with pool := r.2, poolCount := value })

/-- POOL_LIST_READ: a write of POOLCOUNT of a function. -/
def execPoolListRead (vf : Nat) (value : Word) (s : State) : Host.Outcome State Fault Refusal :=
  if s.pfOpen && decide (vf ≤ 256) then .next (s.poolcountWrite vf value) else .next s

/-! ### Host accesses to device memory (03 R55, R89) -/

/-- Writes bytes at physical addresses, line by line: what falls short of a whole poisoned line is discarded (R80). -/
def State.hostWrite (s : State) (cells : List (Nat × Byte)) : State :=
  let lines := (cells.map (fun c => c.1 / 128 * 128)).foldl (fun l a => insertSorted a l) []
  lines.foldl (fun t a =>
    let mine := cells.filter (fun c => c.1 / 128 * 128 == a)
    let mask := mine.foldl (fun n c => n ||| 255 * 256 ^ (c.1 % 128)) 0
    let data := mine.foldl (fun n c => n ||| c.2.toNat * 256 ^ (c.1 % 128)) 0
    (t.writeHome (.virt 0#32) a 128 mask data).1) s

/-- Reads a byte of device memory for the host; a poisoned line gives an open value. -/
def State.hostRead (s : State) (phys : Nat) : Byte :=
  if s.mem.poisoned phys then Config.hostByte s.freeCtr phys else Memory.read s.mem.bytes phys

/-- The bytes of an access with their offsets. -/
def spread (off : Nat) (bytes : List Byte) : List (Nat × Byte) := bytes.zipIdx.map (fun (b : Byte × Nat) => (off + b.2, b.1))

/-- The physical address that an aperture gives an offset of BAR2, within its length and the listed regions (R89). -/
def Fn.bar2Phys (f : Fn) (off : Nat) : Option Nat :=
  let i := off / 2 ^ 40
  let o := off % 2 ^ 40
  if 4 ≤ i ∨ (Sparse.get 0#32 f.apLen i).toNat * Config.pageBytes ≤ o then none
  else f.devAddr (wbits (Sparse.get 0#64 f.apOff i) 63 16 * Config.pageBytes + o)

end Sys2Proof.Machine
end

