-- ==== Sys2Proof/Machine/Flits.lean ====
section
/-!
DEFINITION. Flits and control frames (02 R23 to R26, R36 to R41, R44, R45; 07 R213, R214): FLIT_SEND, FLIT_RECEIVE, INGRESS_DRAIN,
RELAY_FORWARD, CONTROL_FRAME_SEND, CONTROL_FRAME_RECEIVE, FABRIC_SEND_COMMAND and FABRIC_SEND_END.
-/
namespace Sys2Proof.Machine

/-! ### FABRIC_SEND_COMMAND (02 R44, R45) -/

/-- The stream of an installation that a number names for a kernel. -/
def Installation.stream? (i : Installation) (kernel n : Nat) : Option Stream :=
  i.streams.find? (fun st => st.kernel == kernel && st.fab.stream == n && st.fab.kind == 0)

/-- Whether a fabric-send command is rejected: MBZ bits, an undeclared stream, a bad count, a range past the source record
(02 R45), or an allowance record while ENGRATE = 0 (04 R117). -/
def State.sendRejects (s : State) (g : Group) (w : Word) (st : Option Stream) (off count : Nat) : Bool :=
  match st with
  | none => true
  | some st =>
    let r := bufRec (Sparse.get 0#256 g.recs st.fab.srcSlot)
    wbits w 27 24 != 0 || count == 0 || count % 128 != 0 || decide (r.range < off + count) ||
      (!r.reserved && (s.recordOf g).engRate == 0)

/-- FABRIC_SEND_COMMAND at the head of a group's q4. -/
def State.sendTake (s : State) (gid : Nat) : State :=
  match s.group? gid with
  | none => s
  | some g =>
    match s.copyHead g, s.inst? g.ctl.handle with
    | some w, some i =>
      if wbits w 31 28 != 9 then s
      else
        let off := ((g.queue 5).getD 0 0#32).toNat
        let count := ((g.queue 5).getD 1 0#32).toNat
        let st := i.stream? g.kernel (wbits w 23 16)
        if s.sendRejects g w st off count then
          if g.statusRoom 1 0 then (s.popCommand gid 9).copyStatus gid w 2 [] else s
        else
          let (id, s1) := s.fresh
          let t : Transfer := {
            id := id, core := g.core, gid := gid, handle := g.ctl.handle, kind := 9, word := w
            src := Sparse.get 0#256 g.recs ((st.map (fun st => st.fab.srcSlot)).getD 0)
            dst := 0#256
            srcOff := off, dstOff := 0, count := count, pattern := 0#32, object := none
            next := 0, flying := [], again := [], held := [], stopped := none }
          if s.transferWaits g t then s
          else
            let s2 := s1.popCommand gid 9
            { s2 with transfers := s2.transfers ++ [t] }
    | _, _ => s

/-- FABRIC_SEND_COMMAND. -/
def execFabricSendCommand (s : State) : Host.Outcome State Fault Refusal := .next (s.tick.sendTake s.turn.x)

/-! ### FLIT_SEND (02 R23, R36, R37, R39) -/

/-- The destination a channel admits data for in the present frame (02 R36). -/
def Fabric.serves (f : Fabric) (chan frame : Nat) : Option Nat :=
  match f.chan? chan with
  | none => none
  | some c =>
    if f.closed || guardAt f.rotcfg frame then none
    else match c.state with
    | .standing => some c.dest
    | .slotted =>
      if f.rotAgrees && f.turnDest chan (turnAt f.rotcfg frame) == some c.dest then some c.dest else none
    | _ => none

/-- Lines a send queue holds (02 R36). -/
def sendQueueLines : Nat := 32

/-- Places a flit in a channel's queue and keeps it until it is acknowledged. -/
def Fabric.join (f : Fabric) (chan : Nat) (handle : Word) (hop : Nat) (flit : Flit) : Fabric :=
  match f.chan? chan with
  | none => f
  | some c =>
    { (f.putChan chan { c with queue := c.queue ++ [(hop, flit)] }) with
      sent := f.sent.filter (fun e => e.2.2.number != flit.number) ++ [(handle, chan / 16, flit)] }

/-- Admits a request that waits for a channel of its installation's pool to its first hop. -/
def State.admitWaiting (s : State) (chan hop number : Nat) : State :=
  match s.fab.waiting.find? (fun w => w.2.2.number == number), s.fab.chan? chan with
  | some w, some c =>
    if s.fab.firstHop w.2.1 == hop && (s.fab.pools.any (fun p => p.number == c.pool && p.handle == w.1)) then
      s.onFab (fun f => { (f.join chan w.1 hop { w.2.2 with source := f.self }) with waiting := f.waiting.filter (fun v => v.2.2.number != number) })
    else s
  | _, _ => s

/-- The flit of a line of a fabric-send transfer: it goes to offset 128 × i of the window (02 R44). -/
def sendFlit (self dest window line number : Nat) (key : Word) (data : List Byte) : Flit :=
  ⟨self, BitVec.ofNat 64 (dest * 2 ^ 52 + window * 2 ^ 44 + 128 * line), true, .sendLine, key, BitVec.allOnes 128, data, number⟩

/-- Admits the next line of a fabric-send transfer on its stream's channel: lines to send again first (02 R44, R47). -/
def State.admitLine (s : State) (chan hop : Nat) (t : Transfer) (g : Group) (st : Stream) : State :=
  let put (s : State) (t : Transfer) : State := { s with transfers := replaceFirst (fun u => u.id == t.id) t s.transfers }
  if chanOf st.port st.laser != chan || st.lost || hop != st.dest || t.stopped.isSome then s
  else
    match t.again with
    | n :: ns =>
      (match s.fab.sent.find? (fun e => e.2.2.number == n) with
      | none => put s { t with again := ns }
      | some e => put (s.onFab (fun f => f.join chan t.handle hop e.2.2)) { t with again := ns })
    | [] =>
      if t.count / 128 ≤ t.next then s
      else
        match s.sourceBytes g t ((List.range 128).map (fun j => 128 * t.next + j)) with
        | .error a => put s { t with stopped := some (4, a, false) }
        | .ok bs =>
          match (bs.map (fun b => b.soiled)).findSome? id with
          | some r => s.onMem (fun m => m.promote r)
          | none =>
            let (n, s1) := s.fresh
            let flit := sendFlit s.fab.self st.dest st.fab.window t.next n (bufRec t.src).key (bs.map (fun b => b.byte))
            let s2 := s1.onFab (fun f => f.join chan t.handle hop flit)
            let s3 := if (bufRec t.src).reserved then s2.useSlots g st.fab.srcSlot false 1 else s2
            put s3 { t with next := t.next + 1, flying := t.flying ++ [n], held := holdPages t.held (bs.filterMap (fun b => b.page)) }

/-- Admits a waiting request, or a line of a fabric-send transfer, by number. -/
def State.admitOn (s : State) (chan number : Nat) : State :=
  match s.fab.serves chan s.pkg.frame, s.fab.chan? chan with
  | some hop, some c =>
    if sendQueueLines ≤ c.queue.length then s
    else
      match s.transfers.find? (fun t => t.id == number && t.kind == 9) with
      | none => s.admitWaiting chan hop number
      | some t =>
        match s.group? t.gid, s.inst? t.handle with
        | some g, some i =>
          (match i.stream? g.kernel (wbits t.word 23 16) with
          | none => s
          | some st => s.admitLine chan hop t g st)
        | _, _ => s
  | _, _ => s

/-- Sends the first flit of a queue that may leave: for the destination the channel is tuned to, an allowance flit only while
its receiver has not paused it; reserved flits pass paused ones (02 R37, R39). -/
def State.sendOne (s : State) (chan : Nat) : State :=
  match s.fab.chan? chan with
  | none => s
  | some c =>
    let on := match c.state with
      | .standing => true
      | .draining => true
      | .slotted => s.fab.rotAgrees
      | _ => false
    let may (q : Nat × Flit) : Bool := q.1 == c.dest && (q.2.reserved || !s.fab.paused (chan / 16) q.1)
    if on && !s.fab.closed && c.queue.any may then
      s.onFab (fun f => f.putChan chan { c with queue := c.queue.eraseIdx (c.queue.findIdx may) })
    else s

/-- FLIT_SEND of a channel (port, laser): with number 0 a flit leaves its queue, else the request or transfer of that number
enters it. -/
def execFlitSend (s : State) : Host.Outcome State Fault Refusal :=
  let n := chanOf s.turn.x s.turn.y
  .next (if s.turn.z = 0 then s.sendOne n else s.tick.admitOn n s.turn.z)

/-! ### Landing (02 R40; 07 R213, R214) -/

/-- What a flit needs of a window: its last byte's offset, and the permission bit (07 R213). -/
def flitReach (f : Flit) : Nat × Nat :=
  let off := bitsOf f.addr.toNat 43 0
  match f.kind with
  | .sendLine => (off + 127, 1)
  | .store => (off + ((List.range 128).filter (fun i => f.mask.getLsbD i)).getLastD 0, 1)
  | .load => (off, 0)
  | .atomic _ size _ _ _ => (off + size - 1, 2)

/-- The import check of a flit (07 R213): the entry that passes it. -/
def Fabric.importOf (f : Fabric) (flit : Flit) : Except ImportEntry ImportEntry :=
  let e := Sparse.get {} f.imports (bitsOf flit.addr.toNat 51 44)
  if e.valid && e.key == flit.key && decide ((flitReach flit).1 < e.length) && e.perm.testBit (flitReach flit).2 then .ok e else .error e

/-- Reports a failed check in the next control frame of a port; the exporter counts it (07 R214). -/
def State.importFail (s : State) (port : Nat) (e : ImportEntry) (flit : Flit) : State :=
  (s.onFab (fun f => { f with refusals := f.refusals ++ [(port, flit.number)] })).onInst e.handle (fun i => { i with impFail := i.impFail + 1 })

/-- Acknowledges a flit in the next control frame of a port (02 R40). -/
def State.ackFlit (s : State) (port : Nat) (flit : Flit) : State :=
  s.onFab (fun f => { f with acks := f.acks ++ [(port, flit.number)] })

/-- Counts landed bytes on the barrier an import entry names, once for each flit (02 R40, R47). -/
def State.countLanded (s : State) (e : ImportEntry) (flit : Flit) (bytes : Nat) : State :=
  if s.fab.seen.contains (flit.source, flit.number) then s
  else
    let s1 := s.onFab (fun f => { f with seen := f.seen ++ [(flit.source, flit.number)] })
    match s1.inst? e.handle with
    | none => s1
    | some i =>
      if e.bar = 0xFF then s1
      else
        let (n, s2) := s1.fresh
        { s2 with landed := s2.landed ++ [⟨n, barKey 3 0 (i.pkgBase + e.bar), bytes⟩] }

/-- The lanes of an atomic that a flit carries: a compare-and-swap's pairs, else its one operand. -/
def flitLanes (f : Flit) : List LaneAccess :=
  match f.kind with
  | .atomic .cas _ _ v c =>
    if f.data.isEmpty then [{ lane := 0, addr := 0, operand := v, compare := c }]
    else (List.range (f.data.length / 16)).map (fun i =>
      { lane := i, addr := 0, compare := BitVec.ofNat 64 (natOfBytes ((f.data.drop (16 * i)).take 8)),
        operand := BitVec.ofNat 64 (natOfBytes ((f.data.drop (16 * i + 8)).take 8)) })
  | .atomic _ _ _ v _ => [{ lane := 0, addr := 0, operand := v }]
  | _ => []

/-- Performs a flit at its home (02 R40; 07 R213): a line or its masked bytes are written, a line is read, or an atomic is
performed; reads and atomics answer the requester. -/
def State.performFlit (s : State) (e : ImportEntry) (flit : Flit) (phys : Nat) : State :=
  let answer (t : State) (bs : List Byte) : State := t.onFab (fun f => { f with answers := f.answers ++ [(flit.number, bs)] })
  let off := bitsOf flit.addr.toNat 43 0
  match flit.kind with
  | .load =>
    let line := s.homeBytes (.virt e.handle) phys 128
    answer (s.touchL2 phys) (line.zipIdx.map (fun (b : Byte × Nat) => if off + b.2 < e.length then b.1 else 0#8))
  | .atomic op size rnd _ _ =>
    let v := natOfBytes (s.homeBytes (.virt e.handle) phys size)
    answer (s.writeHome (.virt e.handle) phys size (2 ^ (8 * size) - 1) (performAtomic op size rnd v (flitLanes flit)).1).1 (bytesOfNat size v)
  | _ =>
    let idx := (List.range 128).filter (fun i => flit.mask.getLsbD i)
    let bits := idx.foldl (fun n i => n + 255 * 256 ^ i) 0
    let data := idx.foldl (fun n i => n + (flit.data.getD i 0#8).toNat * 256 ^ i) 0
    let lo := phys / 128 * 128
    let shift := phys % 128
    let s1 := (s.writeHome (.virt e.handle) lo 128 (bits * 256 ^ shift % 2 ^ 1024) (data * 256 ^ shift % 2 ^ 1024)).1
    s1.countLanded e flit idx.length

/-- Lands a flit: checked, performed at its home, counted and acknowledged; `none` while it must wait for an owned range
(07 R221) or for scrubbing (03 R76). A window whose page is gone fails the check (log 23). -/
def State.land (s : State) (port : Nat) (flit : Flit) : Option State :=
  match s.fab.importOf flit with
  | .error e => some (s.importFail port e flit)
  | .ok e =>
    let va := e.base + bitsOf flit.addr.toNat 43 0
    match s.page? e.handle va with
    | none => some (s.importFail port e flit)
    | some p =>
      if !(s.owners (.virt e.handle) va (va + 128)).isEmpty || !s.mem.clean (p.phys va) then none
      else some ((s.performFlit e flit (p.phys va)).ackFlit port flit)

/-! ### Ingress and pause (02 R38, R41) -/

/-- The pause bits for a buffer: set for the sources with allowance flits above the high mark, cleared below the low one. -/
def pauseFor (port : Nat) (buffer : List Flit) (high low : Nat) (old : BitVec 64) : BitVec 64 :=
  let soft := buffer.filter (fun f => !f.reserved)
  if high < soft.length then
    soft.foldl (fun m f => m ||| (1#64 <<< (if port < 18 then f.source % 64 else f.source / 64))) 0#64
  else if soft.length < low then 0#64
  else old

/-- Settles the pause bits of a port: 192 KiB and 128 KiB for its ingress buffer, 48 KiB and 32 KiB for a relay buffer. -/
def Port.settle (p : Port) (port : Nat) : Port :=
  { p with pauseSent := pauseFor port p.ingress 1536 1024 p.pauseSent, relayPause := pauseFor 0 p.relay 384 256 p.relayPause }

/-- Changes a port and settles its pause bits. -/
def Fabric.onPort (f : Fabric) (port : Nat) (g : Port → Port) : Fabric :=
  { f with ports := Sparse.alter {} f.ports port (fun p => (g p).settle port) }

/-- A port. -/
def Fabric.port (f : Fabric) (n : Nat) : Port := Sparse.get {} f.ports n

/-- FLIT_RECEIVE: a flit for another package of the column enters a relay buffer (02 R24, log 24); one for this package lands,
or, when the turn says so or it must wait, stays in the ingress buffer. A failed port takes nothing. -/
def execFlitReceive (port : Nat) (flit : Flit) (s : State) : Host.Outcome State Fault Refusal :=
  if 36 ≤ port || (s.fab.port port).failed || s.fab.closed then .next s
  else if targetOf flit.addr.toNat != s.fab.self then
    if port < 18 && s.fab.reaches 18 (targetOf flit.addr.toNat) then
      .next (s.onFab (fun f => f.onPort (18 + port) (fun p => { p with relay := p.relay ++ [flit] })))
    else .next s
  else
    let keep := s.onFab (fun f => f.onPort port (fun p => { p with ingress := p.ingress ++ [flit] }))
    if s.turn.x != 0 then .next keep
    else
      match s.tick.land port flit with
      | some t => .next t
      | none => .next keep

/-- INGRESS_DRAIN of a port: the first flit of its ingress buffer that can lands (02 R38). -/
def execIngressDrain (s : State) : Host.Outcome State Fault Refusal :=
  let port := s.turn.x
  let buffer := (s.fab.port port).ingress
  let ready := buffer.findIdx? (fun f => (s.tick.land port f).isSome)
  match ready with
  | none => .next (match buffer with
      | [] => s
      | f :: _ => match s.fab.importOf f with
        | .error _ => s
        | .ok e => match s.page? e.handle (e.base + bitsOf f.addr.toNat 43 0) with
          | none => s
          | some p => s.onMem (fun m => m.promote (regionOf (p.phys (e.base + bitsOf f.addr.toNat 43 0)))))
  | some i =>
    match buffer[i]? with
    | none => .next s
    | some f =>
      match s.tick.land port f with
      | none => .next s
      | some t => .next (t.onFab (fun fb => fb.onPort port (fun p => { p with ingress := p.ingress.eraseIdx i })))

/-- RELAY_FORWARD: a flit of a column port's relay buffer leaves on a relay laser of the port, unless its receiver has paused it
(02 R24, R39, R41). -/
def execRelayForward (port : Nat) (flit : Flit) (s : State) : Host.Outcome State Fault Refusal :=
  let p := s.fab.port port
  if p.relay.contains flit && 0 < s.fab.relayLasers port && !p.failed && !s.fab.closed &&
      !s.fab.paused port (targetOf flit.addr.toNat) then
    .next (s.onFab (fun f => f.onPort port (fun p => { p with relay := p.relay.erase flit })))
  else .next s

/-! ### Control frames (02 R25, R26, R32, R39, R45; 07 R214) -/

/-- CONTROL_FRAME_SEND of a port: its frame number, ROTCFG, pause mask, acknowledgements and failed checks (02 R25). -/
def execControlFrameSend (s : State) : Host.Outcome State Fault Refusal :=
  let port := s.turn.x
  if 36 ≤ port then .next s
  else
    let mine (l : List (Nat × Nat)) : List Nat := (l.filter (fun e => e.1 == port)).map (fun e => e.2)
    let relay := if port < 18 then (s.fab.port (18 + port)).relayPause else 0#64
    let frame : ControlFrame := ⟨s.pkg.frame, s.fab.rotcfg, (s.fab.port port).pauseSent ||| relay, mine s.fab.acks,
      mine s.fab.refusals, !s.fab.closed⟩
    .next (s.onFab (fun f => { f with
      frames := f.frames ++ [(port, frame)]
      acks := f.acks.filter (fun e => e.1 != port)
      refusals := f.refusals.filter (fun e => e.1 != port) }))

/-- The package that holds a position of a port's plane (02 R20, R21). -/
def Fabric.packageAt (f : Fabric) (port position : Nat) : Nat :=
  if port < 18 then f.row * 64 + position else position * 64 + f.column

/-- Flits that a peer has acknowledged are done (02 R45). -/
def State.takeAcks (s : State) (numbers : List Nat) : State :=
  let s1 := s.onFab (fun f => { f with sent := f.sent.filter (fun e => !numbers.contains e.2.2.number) })
  { s1 with transfers := s1.transfers.map (fun (t : Transfer) =>
      if t.kind == 9 then { t with flying := t.flying.filter (fun n => !numbers.contains n), again := t.again.filter (fun n => !numbers.contains n) }
      else t) }

/-- A flit that failed its import check: event 7, and its transfer sends no further line (02 R45, 07 R214). -/
def State.takeRefusal (s : State) (number : Nat) : State :=
  match s.fab.sent.find? (fun e => e.2.2.number == number) with
  | none => s
  | some e =>
    let s1 := s.fabricEvent e.1 (fabricWord 7 e.2.1 0 (targetOf e.2.2.addr.toNat))
    let s2 := { s1 with transfers := s1.transfers.map (fun (t : Transfer) =>
        if t.kind == 9 && t.flying.contains number && t.stopped.isNone then { t with stopped := some (3, 0, false) } else t) }
    s2.takeAcks [number]

/-- What the reference's frame says (02 R26, R32): the frame number for a package that joins, and the pod's ROTCFG. -/
def State.takeReference (s : State) (frame : ControlFrame) : State :=
  let s1 := if s.fab.joined then s
    else (s.onPkg (fun p => { p with frame := frame.frame })).onFab (fun f => { f with joined := true })
  (s1.onFab (fun f => { f with rotRef := some frame.rotcfg })).rotCheck s.fab.rotAgrees

/-- Whether the package holds its frame boundary within bounds (02 R26): when it begins not to, it closes its ports to data and
raises event 6. -/
def State.takeAlignment (s : State) (aligned : Bool) : State :=
  if !aligned && !s.fab.closed then (s.onFab (fun f => { f with closed := true })).fabricEventAll (fabricWord 6 0 0 0)
  else if aligned then s.onFab (fun f => { f with closed := false }) else s

/-- CONTROL_FRAME_RECEIVE. -/
def execControlFrameReceive (port source : Nat) (frame : ControlFrame) (s : State) : Host.Outcome State Fault Refusal :=
  if 36 ≤ port || 64 ≤ source || s.fab.packageAt port source == s.fab.self || (s.fab.port port).failed then .next s
  else
    let s1 := if s.fab.packageAt port source == 0 then (s.takeReference frame).takeAlignment frame.aligned else s
    let s2 := s1.onFab (fun f => { f with ports := Sparse.alter {} f.ports port (fun p =>
      { p with pauseSeen := Sparse.set 0#64 p.pauseSeen source frame.pause }) })
    .next (frame.refused.foldl State.takeRefusal (s2.takeAcks frame.acks))

/-! ### FABRIC_SEND_END (02 R45) -/

/-- FABRIC_SEND_END of a transfer: every line sent and acknowledged, or stopped with none in flight. -/
def State.sendEnd (s : State) (id : Nat) : State :=
  match s.transfers.find? (fun t => t.id == id && t.kind == 9) with
  | none => s
  | some t =>
    let result := match t.stopped with | some (r, _, _) => r | none => 0
    let va := match t.stopped with | some (4, va, _) => some va | _ => none
    let more := match va with | some a => [BitVec.ofNat 32 a, BitVec.ofNat 32 (bitsOf a 56 32)] | none => []
    if !t.flying.isEmpty || (t.stopped.isNone && decide (t.next < t.count / 128)) then s
    else if !(match s.group? t.gid with | none => true | some g => g.statusRoom 1 more.length) then s
    else ({ s with transfers := s.transfers.filter (fun u => u.id != id) }).copyStatus t.gid t.word result more

/-- FABRIC_SEND_END. -/
def execFabricSendEnd (s : State) : Host.Outcome State Fault Refusal := .next (s.sendEnd s.turn.x)

end Sys2Proof.Machine
end

