-- ==== Sys2Proof/Machine/Power.lean ====
section
/-!
DEFINITION. Power, clock, thermal protection, resets and bring-up (01 R11 to R17), and the passing of a frame with what counts its
cycles (01 R14; 05 R139, R148, R149).
-/
namespace Sys2Proof.Machine

/-! ### Power (01 R11) -/

/-- The order in which the supplies come up. -/
def supplyOrder : List Supply := [.vaux, .vbase, .vhbm, .vcore, .vopt]

/-- The supply that starts next. -/
def Package.nextSupply (p : Package) : Option Supply := supplyOrder[p.supplies.length]?

/-- Whether the power-on reset is held: a supply is down, or one missed its window. -/
def Package.heldInReset (p : Package) : Bool := decide (p.supplies.length < 5) || p.supplyMissed

/-- POWER_SUPPLY_RAMP: the next supply in order reaches 95 % within its window; the last one releases the reset. -/
def execPowerSupplyRamp (supply : Supply) (s : State) : Host.Outcome State Fault Refusal :=
  if s.pkg.nextSupply != some supply then .next s
  else .next (s.onPkg (fun p =>
    let q := { p with supplies := p.supplies ++ [supply] }
    { q with rstAsserted := q.heldInReset }))

/-- SUPPLY_WINDOW_MISSED: the supply that starts next misses its 2 ms; the reset stays asserted and Holbiong logs the name. -/
def execSupplyWindowMissed (supply : Supply) (s : State) : Host.Outcome State Fault Refusal :=
  if s.pkg.nextSupply != some supply then .next s
  else .next (s.onPkg (fun p => { p with supplyMissed := true, rstAsserted := true, supplyLog := p.supplyLog ++ [supply] }))

/-! ### Resets of the whole device (01 R15) -/

/-- What a power-on reset leaves (01 Table 1.3): the fuses; and what lies outside the device: the host's memory and what has been
sent to it, the flash of Holbiong (R13, 03 R83) with its log, the levels of the supplies, and the model's own counters. -/
def State.powerOn (s : State) : State :=
  { State.reset with
    agenda := s.agenda
    turn := s.turn
    freeCtr := s.freeCtr
    nextId := s.nextId
    pkg := {
      supplies := s.pkg.supplies, rstAsserted := s.pkg.heldInReset, supplyMissed := s.pkg.supplyMissed
      supplyLog := s.pkg.supplyLog, fusesBlown := s.pkg.fusesBlown, thermalFlash := s.pkg.thermalFlash, mctpOut := s.pkg.mctpOut }
    host := { mem := s.host.mem, vectors := s.host.vectors, xmssNext := s.host.xmssNext, spdmOut := s.host.spdmOut } }

/-- POWER_ON_RESET: RSTN_PWR, or a loss of power, clears everything but the fuses. -/
def execPowerOnReset (s : State) : Host.Outcome State Fault Refusal := .next s.powerOn

/-- The supplies go down in the reverse of their order, and the device is without power. -/
def State.powerDown (s : State) : State :=
  s.powerOn.onPkg (fun p => { p with supplies := [], supplyMissed := false, rstAsserted := true })

/-- POWER_DOWN_SEQUENCE. -/
def execPowerDownSequence (s : State) : Host.Outcome State Fault Refusal := .next s.powerDown

/-- A function after a host reset: the physical function keeps its registers, which no row of Table 1.3 names. -/
def Fn.afterHostReset (v : Nat) (f : Fn) : Fn :=
  if v = 0 then { f with devQueue := [], nextQueue := 0, instCmd := f.instCmd &&& 0xDFFFFFFF#32 } else {}

/-- HOST_RESET: the link, the virtual functions, every partition and every installation are cleared; HBM, the dump region and the
fencing records survive (01 Table 1.3; log 46). -/
def execHostReset (s : State) : Host.Outcome State Fault Refusal :=
  let s1 := s.installs.foldl State.freeInstall s
  let cores (k : Core) : Core := k.afterReset
  .next { s1 with
    cur := none
    installs := []
    launches := []
    groups := []
    ops := []
    commits := []
    transfers := []
    dieTlb := []
    faults := []
    bars := []
    landed := []
    dropped := []
    tickets := []
    spin := []
    collect := []
    cores := Sparse.mapAll {} s1.cores (fun _ k => cores k)
    garnet := { s1.garnet with held := [], handles := [] }
    fab := { s1.fab with pending := [], imports := [], far := [], asked := [], waiting := [] }
    mem := { (((List.range 256).map (· + 1)).foldl DeviceMem.destroyKey s1.mem) with sram := [], windows := [] }
    host := { s1.host with
      ide := false, ideKeys := false, handshakes := [], sessions := [], parts := [], fwDrop := [], d2dfw := []
      fns := Sparse.mapAll {} s1.host.fns Fn.afterHostReset } }

/-- DIE_WARM_RESET of a die: its cores and engines are cleared, and with them the groups that ran there; the units of scratchpad
that installations hold stay held, their contents gone (01 Table 1.3; log 47). -/
def execDieWarmReset (s : State) : Host.Outcome State Fault Refusal :=
  let die := s.turn.x
  if 8 ≤ die then .next s
  else
    let gids := (s.groups.filter (fun g => dieOfCore g.core == die)).map (fun g => g.gid)
    let t := gids.foldl State.killGroup s.tick
    let u : State := { t with
      transfers := t.transfers.filter (fun x => dieOfCore x.core != die)
      ops := t.ops.filter (fun o => !gids.contains o.gid)
      cores := Sparse.mapAll {} t.cores (fun c k =>
        if dieOfCore c == die then { k.afterReset with spadUnits := k.spadUnits } else k)
      dieTlb := t.dieTlb.filter (fun e => e.1 != die)
      faults := t.faults.filter (fun e => e.1 != die)
      mem := { t.mem with sram := t.mem.sram.filter (fun c => dieOfCore (coreOfSram c.1) != die) }
      host := { t.host with fns := Sparse.mapAll {} t.host.fns (fun _ f => { f with
        devQueue := f.devQueue.filter (fun p => dieOfCore p.core != die) }) } }
    .next (u.installs.foldl (fun v i => v.withdrawCollectives i.handle [0, 1] (· == die)) u)

/-! ### Bring-up (01 R16, R17) -/

/-- The resource codes of a channel and its slice: HBM rd and wr, L2S rd, wr and pin (01 R17; 04 Table 4.5). -/
def channelCodes (c : Nat) : List Nat := [resCode 1 c 0 0, resCode 1 c 0 1, resCode 2 c 0 0, resCode 2 c 0 1, resCode 2 c 0 2]

/-- A step of bring-up. -/
def State.bringUpStep (s : State) (r : BringUpReport) (step : Nat) : State :=
  match step with
  | 1 => s.onPkg (fun p => { p with holbiongHash := r.holbiongHash })
  | 2 => s.onPkg (fun p => { p with firmwareHash := r.firmwareHash })
  | 3 => s.onPkg (fun p => { p with pllLocked := true, frame := 0 })
  | 4 =>
    let out := r.untrained.filter (fun c => decide (c < Config.channels))
    { s with
      pkg := { s.pkg with mappedOut := out.foldl (fun l c => insertSorted c l) [] }
      garnet := { s.garnet with unusable := (out.flatMap channelCodes).foldl (fun l c => insertSorted c l) s.garnet.unusable } }
  | 5 => s.onMem (fun m => { m with bootSwept := 0, early := [] })
  | 6 =>
    let bad := r.failing.filter (fun f => decide (f.1 < Config.cores) && decide (f.2.1 < 4) && decide (f.2.2 < 4))
    let s1 := s.onPkg (fun p => { p with fencing := bad })
    bad.foldl (fun t f => t.onCore f.1 (fun k => { k with fenced := insertSorted (4 * f.2.1 + f.2.2) k.fenced })) s1
  | 7 => s.onHost (fun h => { h with cxlUp := true, vfsVisible := true })
  | 8 => s.onFab (fun f => { f with row := r.row % 8, column := r.column % 8, present := r.peers })
  | _ => s.onPkg (fun p => { p with bringUp := .done })

/-- BRING_UP: the nine steps in order, up to the one that fails (01 R16). -/
def execBringUp (report : BringUpReport) (s : State) : Host.Outcome State Fault Refusal :=
  if s.pkg.heldInReset || s.pkg.rstAsserted || s.pkg.bringUp != .notRun then .next s
  else
    let steps := [1, 2, 3, 4, 5, 6, 7, 8, 9].filter (fun n =>
      match report.failedStep with | none => true | some f => decide (n < f))
    let t := steps.foldl (fun t n => t.bringUpStep report n) s.tick
    .next (match report.failedStep with
      | none => t
      | some f => if 1 ≤ f ∧ f ≤ 9 then t.onPkg (fun p => { p with bringUp := .failed f }) else t)

/-! ### Thermal protection (01 R13) -/

/-- THERMAL_GATE: at 95 °C Holbiong gates issue on every core of the die and raises event 0x10. -/
def execThermalGate (die celsius : Nat) (s : State) : Host.Outcome State Fault Refusal :=
  if 8 ≤ die ∨ celsius < 95 ∨ !s.pkg.pllLocked ∨ s.pkg.thermal.contains die then .next s
  else .next ((s.onPkg (fun p => { p with thermal := insertSorted die p.thermal })).event 0 0x10 0 die celsius 0)

/-- THERMAL_GATE_RELEASE: below 90 °C the gate is released, and event 0x11 raised; a shutdown under way keeps it. -/
def execThermalGateRelease (die celsius : Nat) (s : State) : Host.Outcome State Fault Refusal :=
  if 90 ≤ celsius ∨ !s.pkg.thermal.contains die ∨ s.pkg.powerOffBy.isSome then .next s
  else .next ((s.onPkg (fun p => { p with thermal := p.thermal.filter (· != die) })).event 0 0x11 0 die celsius 0)

/-- The header of a dump, or of a thermal record, up to and with VALID (03 Table 3.9). -/
def headerBytes (cause : Nat) (die : Nat) (frame : Nat) (sections lost : Nat) : List Byte :=
  bytesOfNat 4 0x4B374450 ++ bytesOfNat 4 1 ++ bytesOfNat 4 cause ++ bytesOfNat 4 die ++ bytesOfNat 8 frame ++
    bytesOfNat 4 sections ++ bytesOfNat 4 lost ++ bytesOfNat 4 1

/-- THERMAL_SHUTDOWN: at 105 °C event 0x12 is raised, every die gated, the thermal record written to flash, and power is removed
within 10 ms, which are 25,000 frames, or at once where no clock counts them. The record's cause and section mask the spec leaves
open. -/
def execThermalShutdown (die celsius : Nat) (s : State) : Host.Outcome State Fault Refusal :=
  if celsius < 105 ∨ s.pkg.supplies.isEmpty ∨ s.pkg.powerOffBy.isSome then .next s
  else
    let t := s.tick.event 0 0x12 0 die celsius 0
    let open_ (o : Nat) : Nat := natOfBytes ((List.range 4).map (fun i => Config.dumpOpen s.freeCtr (o + i)))
    let u := t.onPkg (fun p => { p with
      thermal := List.range 8
      powerOffBy := some (p.frame + 25000)
      thermalFlash := some {
        header := headerBytes (open_ 8) die p.frame (open_ 24) 0
        events := t.host.eventLog.drop (t.host.eventLog.length - 60) } })
    .next (if s.pkg.pllLocked then u else u.powerDown)

/-- THERMAL_RECORD_READ: the host reads the record over MCTP; it stays in flash. -/
def execThermalRecordRead (s : State) : Host.Outcome State Fault Refusal :=
  match s.pkg.thermalFlash with
  | none => .next s
  | some r => .next (s.onPkg (fun p => { p with mctpOut := p.mctpOut ++ [r] }))

/-- THERMAL_RECORD_CLEAR. -/
def execThermalRecordClear (s : State) : Host.Outcome State Fault Refusal :=
  .next (s.onPkg (fun p => { p with thermalFlash := none }))

/-! ### FRAME_TICK (01 R14) -/

/-- Whether a group's watchdog count advances (05 R148). -/
def State.watched (s : State) (g : Group) : Bool :=
  g.gstate != .retired && !(s.gated g) && !(g.gstate == .ready) && !g.ctl.suspended && !g.ctl.trapPend

/-- The cause a seated group that does not issue is charged to; a ready one is charged nothing (05 R149). -/
def State.chargeOf (s : State) (g : Group) : Option StallCause :=
  if g.gstate != .seated || s.underWay g then none
  else match s.readiness g with
    | .wait c => some c
    | _ => none

/-- The number of a stall cause (05 Table 5.8). -/
def StallCause.code : StallCause → Nat
  | .registerMiss => 0
  | .flagWait => 1
  | .slotAlignment => 2
  | .throttle => 3
  | .queueEmpty => 4
  | .queueFull => 5
  | .barrier => 6
  | .scoreboard => 7
  | .translation => 8

/-- A frame is charged to a cause. -/
def charge (m : Sparse Nat) (c : StallCause) : Sparse Nat := Sparse.alter 0 m c.code (· + 1)

/-- A group after a frame, as the state before found it. -/
def State.ageGroup (s : State) (g : Group) : Group :=
  let h := if s.watched g then g.onCtl (fun c => { c with wdCount := c.wdCount + 1000#64 }) else g
  if g.gstate != .seated then h
  else
    let seated := { h with age := min 4095 (g.age + 1000), waitCycles := if g.wait = .none then 0 else g.waitCycles + 1000 }
    match s.chargeOf g with
    | none => seated
    | some c => seated.count (fun n => { n with gstall := charge n.gstall c })

/-- The cause a rail that issues nothing is charged to: its oldest seated group's. -/
def State.railCause (s : State) (c r : Nat) : Option StallCause :=
  if (s.rail c r).clauseOf.isSome then none
  else match oldestOf (s.onRailGroups c r) with
    | none => none
    | some g => s.chargeOf g

/-- The cause a core's matrix engine is charged to: a command in hand that waits for an owned range (10 R268). -/
def State.matrixCause (s : State) (c : Nat) : Option StallCause :=
  match (s.core c).nextStart with
  | none => none
  | some e => match s.group? e.gid with
    | none => none
    | some g => if (s.entryReads g e).any (fun r => !(s.owners r.1 r.2.1 r.2.2.1).isEmpty) then some .scoreboard else none

/-- The cause a core's copy engine is charged to: a command without its parameters, status queues without room, or a command that
waits to start (07 R216, R221, R222). -/
def State.copyCause (s : State) (c : Nat) : Option StallCause :=
  let gs := s.groups.filter (fun g => g.core == c && g.gstate != .retired)
  if gs.any (fun g => match g.queue 4 with
      | [] => false
      | w :: _ => decide ((g.queue 5).length < paramsOf (wbits w 31 28))) then some .queueEmpty
  else if s.transfers.any (fun t => t.core == c && t.stopped.isSome) then some .queueFull
  else if gs.any (fun g => (s.copyHead g).isSome) then some .scoreboard
  else none

/-- A core after a frame. -/
def State.ageCore (s : State) (c : Nat) (k : Core) : Core :=
  let busy := (s.groups.filter (fun g => g.core == c)).filterMap (fun g => g.seat.map railOfSeat)
  let rails := (busy.foldl (fun l r => insertSorted r l) []).foldl (fun (m : Sparse Rail) r =>
    match s.railCause c r with
    | none => m
    | some x => Sparse.alter {} m r (fun rl => { rl with rstall := charge rl.rstall x })) k.rails
  { k with
    rails := rails
    mstall := match s.matrixCause c with | none => k.mstall | some x => charge k.mstall x
    cstall := match s.copyCause c with | none => k.cstall | some x => charge k.cstall x }

/-- Requests of an instance that wait for their slot in this frame (04 R113, R123). -/
def State.aligning (s : State) (i : Installation) (n : Inst) : Bool :=
  let here (gid slot : Nat) : Bool := slot == n.slot && (match s.group? gid with
    | none => false
    | some g => g.ctl.handle == i.handle && g.kernel == n.kernel && g.core == n.core)
  s.commits.any (fun c => n.write && c.accepted && !c.left && here c.gid c.slot) ||
    s.ops.any (fun o => !n.write && (match o.kind with
      | .load _ _ _ _ lines _ _ _ => lines.any (fun l => !l.left && here o.gid l.slot)
      | _ => false))

/-- One frame passes: the counter advances, guard frames run down, and the cycles of groups, rails, engines and instances are
counted (01 R14; 02 R31; 05 R139, R148, R149; log 3). -/
def State.passFrame (s : State) : State :=
  { s with
    pkg := { s.pkg with frame := s.pkg.frame + 1 }
    groups := s.groups.map s.ageGroup
    cores := Sparse.mapAll {} s.cores s.ageCore
    installs := s.installs.map (fun i => { i with insts := i.insts.map (fun n =>
      if s.aligning i n then { n with align := n.align + 1 } else n) })
    fab := { s.fab with channels := s.fab.channels.map (fun (e : Nat × Channel) =>
      (e.1, if e.2.state = .tuning then { e.2 with guard := e.2.guard - 1 } else e.2)) } }

/-- FRAME_TICK: once the clock runs; a first number other than 0 says that the package could not hold its frame boundary to the
reference's (02 R26). The time a thermal shutdown has left ends with the power removed (R13). -/
def execFrameTick (s : State) : Host.Outcome State Fault Refusal :=
  if !s.pkg.pllLocked then .next s
  else
    let t := s.tick.passFrame
    let u := if s.turn.x = 0 then t else t.takeAlignment false
    match u.pkg.powerOffBy with
    | none => .next u
    | some f => if f ≤ u.pkg.frame then .next u.powerDown else .next u

end Sys2Proof.Machine
end

