-- ==== Sys2Proof/Machine/Dump.lean ====
section
/-!
DEFINITION. The fatal-error dump (03 R85 to R87, R96, R97): FATAL_ERROR_DUMP, DUMP_WINDOW_READ and DUMP_CLEAR; and the host accesses
that may meet it: BAR2_ACCESS (R89) and CXL_MEM_ACCESS (R55). The state holds the dump's bytes by dump offset, with the key id and
generation of every 128 B line that is not key 0's.
-/
namespace Sys2Proof.Machine

/-! ### What the dump holds (03 Tables 3.9, 3.21) -/

/-- The dump offset of a byte of a core's part of its die's section: the part's start, its bytes for each core, and the offset
within. -/
def dumpAt (core part each off : Nat) : Nat := 0x10000000 * (dieOfCore core + 1) + part + core % 64 * each + off

/-- A line of the dump: its offset, bytes, key id and generation. -/
structure DumpLine where
  at_   : Nat
  bytes : List Byte
  key   : Nat
  gen   : Nat

/-- The generation of a key id. -/
def DeviceMem.gen (m : DeviceMem) (key : Nat) : Nat := Sparse.get 0 m.keyGen key

/-- The Mantle's lines of a core, each at its place in its bank (log 53), with the tag of its context line. -/
def State.dumpMantle (s : State) (core : Nat) : List (DumpLine × Nat × Nat) :=
  (List.range 8).flatMap (fun b =>
    (((s.core core).mantle.filter (fun m => m.bank == b)).zipIdx).filterMap (fun (m : MantleLine × Nat) =>
      match s.group? m.1.gid with
      | none => none
      | some g =>
        let x := core % 64 * 786432 + b * 98304 + m.2 * 128
        let va := s.contextBase g + 128 * m.1.line
        some (⟨dumpAt core 0 786432 (b * 98304 + m.2 * 128), bytesOfNat 128 (g.lineNumber m.1.line), g.fn, s.mem.gen g.fn⟩,
          0x10000000 * (dieOfCore core + 1) + 0x8D00000 + 8 * (x / 128), 2 ^ 63 + bitsOf va 56 7)))

/-- The installation that holds a unit of a core. -/
def State.unitHolder (s : State) (core unit : Nat) : Option Installation := s.installs.find? (fun i => (i.unitsOn core).contains unit)

/-- The scratchpad lines of a core in SRAM offset order: unit n lies in way 15 − n (07 R203). -/
def State.dumpSram (s : State) (core : Nat) : List DumpLine :=
  (s.core core).spadUnits.flatMap (fun u =>
    let key := match s.unitHolder core (u.2 - 1) with | none => 0 | some i => i.fn
    (List.range 512).map (fun l =>
      ⟨dumpAt core 0x3000000 1048576 ((15 - u.1) * 65536 + 128 * l),
        Memory.readBytes s.mem.sram (spadAddr core (u.2 - 1) (128 * l)) 128, key, s.mem.gen key⟩))

/-- The lines of the operand buffer that records of a core hold; their contents are an open value. -/
def State.dumpOperands (s : State) (core : Nat) : List DumpLine :=
  (s.core core).obrecs.flatMap (fun o =>
    let key := match s.group? o.owner with | none => 0 | some g => g.fn
    (List.range ((o.base + o.len) / 2 + 1 - o.base / 2)).map (fun l =>
      let at_ := dumpAt core 0x7000000 262144 (128 * (o.base / 2 + l))
      ⟨at_, (List.range 128).map (fun i => Config.dumpOpen s.freeCtr (at_ + i)), key, s.mem.gen key⟩))

/-- The accumulator lines of a core. -/
def State.dumpTiles (s : State) (core : Nat) : List DumpLine :=
  (List.range 8).flatMap (fun k =>
    let owner := (Sparse.get (0, 0) (s.core core).tileOwner k).1
    let key := if owner = 0 then 0 else match s.group? (owner - 1) with | none => 0 | some g => g.fn
    (List.range 128).map (fun l =>
      ⟨dumpAt core 0x8000000 131072 (k * 16384 + 128 * l),
        (List.range 32).flatMap (fun i => bytesOfNat 4 (Sparse.get 0#32 (s.core core).acc (4096 * k + 32 * l + i)).toNat),
        key, s.mem.gen key⟩))

/-- Writes a line into the dump, with its entry in the key map (R97). -/
def HostSide.putDump (h : HostSide) (l : DumpLine) : HostSide :=
  let section_ := l.at_ / 0x10000000 * 0x10000000
  let entry := section_ + 0x8800000 + 4 * ((l.at_ - section_) / 128)
  { h with
    dump := Memory.writeBytes (Memory.writeBytes h.dump l.at_ l.bytes) entry (bytesOfNat 4 (l.key + l.gen % 2 ^ 23 * 512))
    dumpKeys := Sparse.set (0, 0) h.dumpKeys (l.at_ / 128) (l.key, l.gen) }

/-- Writes every dirty Mantle line whose context page is there back to it (R86). -/
def State.flushMantles (s : State) : State :=
  s.cores.foldl (fun t (e : Nat × Core) => e.2.mantle.foldl (fun u m =>
    match u.group? m.gid with
    | none => u
    | some g =>
      if !m.dirty || g.gstate == .retired then u
      else match u.contextLine g m.line .write with
        | .at_ p => (u.writeBackLine g m.line p).onCore e.1 (fun k => { k with mantle := k.mantle.map (fun n =>
            if n.gid == m.gid && n.line == m.line then { n with dirty := false } else n) })
        | _ => u) t) s

/-- Whether a channel whose bytes the dump uses is mapped out, by dump offset: the last channel of the stack (R85). -/
def State.dumpLost (s : State) (off : Nat) : Bool := s.pkg.mappedOut.contains (32 * (off / 2 ^ 28) + 31)

/-- Writes the dump: the header comes last (R86). The section mask the spec leaves open. -/
def State.writeDump (s : State) (cause : Word) (die : Nat) : State :=
  let t := s.flushMantles
  let cores := t.cores.map (fun e => e.1)
  let lines := cores.flatMap (fun c => t.dumpSram c ++ t.dumpOperands c ++ t.dumpTiles c)
  let mantle := cores.flatMap t.dumpMantle
  let lost := (List.range 16).countP (fun n => s.pkg.mappedOut.contains (32 * n + 31))
  let sections := natOfBytes ((List.range 4).map (fun i => Config.dumpOpen s.freeCtr (24 + i)))
  t.onHost (fun h =>
    let h1 := lines.foldl HostSide.putDump { h with dump := [], dumpKeys := [], dumpDraw := s.freeCtr }
    let h2 := mantle.foldl (fun (g : HostSide) (m : DumpLine × Nat × Nat) =>
      let g1 := g.putDump m.1
      { g1 with dump := Memory.writeBytes g1.dump m.2.1 (bytesOfNat 8 m.2.2) }) h1
    { h2 with
      dump := Memory.writeBytes h2.dump 0 (headerBytes cause.toNat die t.pkg.frame sections lost)
      dumpValid := true })

/-- FATAL_ERROR_DUMP: the dump is written, or with a valid one there only an event is added (R86, R87). -/
def execFatalErrorDump (cause : Word) (die : Nat) (s : State) : Host.Outcome State Fault Refusal :=
  if !s.pkg.pllLocked then .next s
  else if s.host.dumpValid then
    let open_ (i : Nat) : Nat := Config.fatalEvent s.freeCtr i
    .next (s.tick.onHost (fun h => { h with eventLog := h.eventLog ++
      [⟨open_ 0, open_ 1, s.pkg.frame % 2 ^ 32, BitVec.ofNat 64 (open_ 2), BitVec.ofNat 64 (open_ 3), BitVec.ofNat 64 (open_ 4)⟩] }))
  else .next (s.tick.writeDump cause die)

/-! ### Reading the dump (03 R96, R97) -/

/-- Whether a reader's key reads a line of the dump: its own key id, in the generation that is current. -/
def State.dumpOwn (s : State) (reader line : Nat) : Bool :=
  let k := Sparse.get (0, 0) s.host.dumpKeys line
  k.1 == reader && s.mem.keyLive.contains reader && s.mem.gen reader == k.2

/-- An open byte of the dump: a part whose layout the spec does not give. -/
def State.dumpFree (s : State) (off : Nat) : Byte := Config.dumpOpen s.host.dumpDraw off

/-- A byte of the dump as a function reads it. -/
def State.dumpByte (s : State) (reader off : Nat) : Byte :=
  let stored := Memory.read s.host.dump off
  let x := off % 0x10000000
  if 2 ^ 32 ≤ off ∨ s.dumpLost off then 0#8
  else if off < 0x1000 then (if reader = 0 then stored else 0#8)
  else if off < 0x1000000 then (if reader = 0 then s.dumpFree off else 0#8)
  else if off < 0x10000000 then 0#8
  else if off < 0x90000000 then
    if x < 0x8800000 then (if s.dumpOwn reader (off / 128) then stored else 0#8)
    else if x < 0x8D00000 then (if s.dumpOwn reader ((off - x) / 128 + (x - 0x8800000) / 4) then stored else 0#8)
    else if x < 0x9000000 then (if s.dumpOwn reader ((off - x) / 128 + (x - 0x8D00000) / 8) then stored else 0#8)
    else if x < 0x9C00000 then (if reader = 0 then s.dumpFree off else 0#8)
    else 0#8
  else if off < 0xAA000000 then s.dumpFree off
  else 0#8

/-- Whether a function's aperture 3 shows the dump. -/
def State.dumpShown (s : State) (v : Nat) : Bool := wbit (s.fn v).dumpMap 31 && s.host.dumpValid

/-- A byte of the dump window at an offset of aperture 3. -/
def State.dumpWindow (s : State) (v off : Nat) : Byte :=
  if wbits (s.fn v).dumpMap 15 0 * Config.pageBytes ≤ off then 0#8
  else s.dumpByte v (wbits (s.fn v).dumpOff 31 16 * Config.pageBytes + off)

/-- DUMP_WINDOW_READ: a read of the 128 B line at an offset of aperture 3. -/
def execDumpWindowRead (vf offset : Nat) (s : State) : Host.Outcome State Fault Refusal :=
  if s.barOpen vf && s.dumpShown vf then
    .next (s.onHost (fun h => { h with readBack := (List.range 128).map (fun i => s.dumpWindow vf (offset / 128 * 128 + i)) }))
  else .next s

/-- A write of DUMPCLR: with CLR = 1 the dump is no longer valid, and no aperture shows it (R87, R96). -/
def State.dumpclrWrite (s : State) (value : Word) : State :=
  if wbits value 31 2 != 0 || !wbit value 0 then s
  else s.onHost (fun h => { h with
    dumpValid := false, dump := [], dumpKeys := []
    fns := Sparse.mapAll {} h.fns (fun _ f => { f with dumpMap := f.dumpMap &&& 0x7FFFFFFF#32 }) })

/-- DUMP_CLEAR. -/
def execDumpClear (value : Word) (s : State) : Host.Outcome State Fault Refusal :=
  if s.pfOpen then .next (s.dumpclrWrite value) else .next s

/-! ### BAR2 and CXL.mem (03 R55, R89) -/

/-- Reads a byte of BAR2: the dump window, the device memory of an aperture, or 0. -/
def State.bar2Read (s : State) (v off : Nat) : Byte :=
  if off / 2 ^ 40 == 3 && s.dumpShown v then s.dumpWindow v (off % 2 ^ 40)
  else match (s.fn v).bar2Phys off with
    | none => 0#8
    | some p => s.hostRead p

/-- The bytes of a BAR2 write that reach device memory; none of the dump window's. -/
def State.bar2Cells (s : State) (v off : Nat) (bytes : List Byte) : List (Nat × Byte) :=
  (spread off bytes).filterMap (fun c =>
    if c.1 / 2 ^ 40 == 3 && s.dumpShown v then none else ((s.fn v).bar2Phys c.1).map (fun p => (p, c.2)))

/-- BAR2_ACCESS: what is still to be scrubbed is scrubbed first (R76). -/
def execBar2Access (vf : Nat) (write : Bool) (offset : Nat) (bytes : List Byte) (s : State) : Host.Outcome State Fault Refusal :=
  if !s.barOpen vf then .next s
  else
    let t := ((spread offset bytes).filterMap (fun c => (s.fn vf).bar2Phys c.1)).foldl State.awaitPhys s.tick
    if write then .next (t.hostWrite (t.bar2Cells vf offset bytes))
    else .next (t.onHost (fun h => { h with readBack := (spread offset bytes).map (fun c => t.bar2Read vf c.1) }))

/-- Reads a byte of device-physical memory as physical function 0: key-0 memory, the dump while it is valid, and an open value
elsewhere. -/
def State.cxlRead (s : State) (a : Nat) : Byte :=
  if inDumpRegion a && s.host.dumpValid then s.dumpByte 0 (a / 2 ^ 36 * 2 ^ 28 + a % 2 ^ 28)
  else if s.mem.keyOf a = 0 then s.hostRead a
  else Config.hostByte s.freeCtr a

/-- CXL_MEM_ACCESS: key-0 memory alone is written, and no byte of a preserved dump (R55, R87). -/
def execCxlMemAccess (write : Bool) (addr : Nat) (bytes : List Byte) (s : State) : Host.Outcome State Fault Refusal :=
  if !s.pfOpen || !s.host.ide then .next s
  else
    let cells := (spread addr bytes).filter (fun c => decide (c.1 < Config.physBytes))
    let t := cells.foldl (fun t c => t.awaitPhys c.1) s.tick
    if write then
      .next (t.hostWrite (cells.filter (fun c => t.mem.keyOf c.1 == 0 && !(inDumpRegion c.1 && t.host.dumpValid))))
    else .next (t.onHost (fun h => { h with readBack := cells.map (fun c => t.cxlRead c.1) }))

end Sys2Proof.Machine
end

