-- ==== Sys2Proof/Machine/FloatInstr.lean ====
section
/-!
DEFINITION. The floating-point instructions (14 R383 to R396): arithmetic, minimum and maximum, sign, compare, classify,
integral values, scale, exponent, approximate functions, conversion.
-/
namespace Sys2Proof.Machine

/-- The page of a floating instruction: q fields (14 R383). -/
def floatForm : Form := { d := .typed, a := .typed, b := .typed, dWrite := true }

/-- The same with b unused. -/
def floatForm1 : Form := { floatForm with b := .unused }

/-- The same with d a register (compares, 14 R391). -/
def floatCmpForm : Form := { floatForm with d := .reg }

/-- The floating type at issue (14 R383). -/
def Ctx.ft (x : Ctx) : FloatFmt := floatType x.ty

/-- A field's pattern in the floating type (14 R383). -/
def Ctx.flt (x : Ctx) (s : State) (f : Fld) (t : Nat) : Nat := x.ft.field (x.val s f t)

/-- The rounding environment at issue. -/
def Ctx.env (x : Ctx) : FloatEnv := floatEnv x.mode

/-- FADD (14 Table 14.1). -/
def execFadd (d a b : Byte) (s : State) : Host.Outcome State Fault Refusal :=
  issueLanes floatForm 0x50#8 d a b (fun x s t => (x.ft.add x.env false (x.flt s .a t) (x.flt s .b t)).lane) s

/-- FSUB. -/
def execFsub (d a b : Byte) (s : State) : Host.Outcome State Fault Refusal :=
  issueLanes floatForm 0x51#8 d a b (fun x s t => (x.ft.add x.env true (x.flt s .a t) (x.flt s .b t)).lane) s

/-- FMUL. -/
def execFmul (d a b : Byte) (s : State) : Host.Outcome State Fault Refusal :=
  issueLanes floatForm 0x52#8 d a b (fun x s t => (x.ft.mul x.env (x.flt s .a t) (x.flt s .b t)).lane) s

/-- A fused multiply-add of d, with the signs of product and addend (14 R387). -/
def fusedLane (negProduct negAddend : Bool) (x : Ctx) (s : State) (t : Nat) : LaneOut :=
  (x.ft.fma x.env negProduct negAddend (x.flt s .a t) (x.flt s .b t) (x.flt s .d t)).lane

/-- FMA. -/
def execFma (d a b : Byte) (s : State) : Host.Outcome State Fault Refusal :=
  issueLanes { floatForm with dRead := true } 0x53#8 d a b (fusedLane false false) s

/-- FMS. -/
def execFms (d a b : Byte) (s : State) : Host.Outcome State Fault Refusal :=
  issueLanes { floatForm with dRead := true } 0x54#8 d a b (fusedLane false true) s

/-- FNMA. -/
def execFnma (d a b : Byte) (s : State) : Host.Outcome State Fault Refusal :=
  issueLanes { floatForm with dRead := true } 0x55#8 d a b (fusedLane true true) s

/-- FNMS. -/
def execFnms (d a b : Byte) (s : State) : Host.Outcome State Fault Refusal :=
  issueLanes { floatForm with dRead := true } 0x56#8 d a b (fusedLane true false) s

/-- The literal of FMAL in the floating type: rounded into it with its own flags, or widened exactly (14 R387). -/
def Ctx.floatLiteral (x : Ctx) : FloatOut :=
  let k := (x.lits.headD 0#32).toNat
  if x.ft = f32 then ⟨k, 0#5, false⟩
  else if x.ft = f64 then
    match f32.decode k with
    | .nan _ => ⟨f64.signed (f32.negative k) (f64.inf.getD 0 + k % 2 ^ 23 * 2 ^ 29), 0#5, false⟩
    | _ => f32.toIeee f64 x.env k
  else f32.toIeee x.ft x.env k

/-- FMAL (14 R387). -/
def execFmal (d a b : Byte) (s : State) : Host.Outcome State Fault Refusal :=
  issueLanes { floatForm with lits := 1 } 0x57#8 d a b (fun x s t =>
    let k := x.floatLiteral
    let o := x.ft.fma x.env false false (x.flt s .a t) (x.flt s .b t) k.bits
    ⟨BitVec.ofNat 64 o.bits, o.sat || k.sat, o.exc ||| k.exc⟩) s

/-- The effect of FDIV and FSQRT (14 R385): with a trap enabled the clause waits for the results, which are then written at
once; otherwise they come with the operation's completion. -/
def divideEffect (f : Ctx → State → Nat → LaneOut) (x : Ctx) (s : State) : Act :=
  if modeTraps x.mode == 0#5 then laneEffectLong f x s else laneEffect f x s

/-- FDIV (14 R385, R386). -/
def execFdiv (d a b : Byte) (s : State) : Host.Outcome State Fault Refusal :=
  issue { floatForm with long := true, own := true } 0x58#8 d a b (divideEffect (fun x s t =>
    (x.ft.div x.env (x.flt s .a t) (x.flt s .b t)).lane)) s

/-- FSQRT (14 R385, R386). -/
def execFsqrt (d a b : Byte) (s : State) : Host.Outcome State Fault Refusal :=
  issue { floatForm1 with long := true, own := true } 0x59#8 d a b (divideEffect (fun x s t =>
    (x.ft.sqrt x.env (x.flt s .a t)).lane)) s

/-- A maximum or minimum of a lane (14 R389). -/
def extremeLane (greater numbers : Bool) (x : Ctx) (s : State) (t : Nat) : LaneOut :=
  (x.ft.extreme greater numbers (x.flt s .a t) (x.flt s .b t)).lane

/-- FMAX (14 R389). -/
def execFmax (d a b : Byte) (s : State) : Host.Outcome State Fault Refusal :=
  issueLanes floatForm 0x5A#8 d a b (extremeLane true false) s

/-- FMIN. -/
def execFmin (d a b : Byte) (s : State) : Host.Outcome State Fault Refusal :=
  issueLanes floatForm 0x5B#8 d a b (extremeLane false false) s

/-- FMAXN. -/
def execFmaxn (d a b : Byte) (s : State) : Host.Outcome State Fault Refusal :=
  issueLanes floatForm 0x5C#8 d a b (extremeLane true true) s

/-- FMINN. -/
def execFminn (d a b : Byte) (s : State) : Host.Outcome State Fault Refusal :=
  issueLanes floatForm 0x5D#8 d a b (extremeLane false true) s

/-- FABS (14 R390). -/
def execFabs (d a b : Byte) (s : State) : Host.Outcome State Fault Refusal :=
  issueLanes floatForm1 0x5E#8 d a b (fun x s t => .plain (BitVec.ofNat 64 (x.flt s .a t % x.ft.signBit))) s

/-- FNEG. -/
def execFneg (d a b : Byte) (s : State) : Host.Outcome State Fault Refusal :=
  issueLanes floatForm1 0x5F#8 d a b (fun x s t => .plain (BitVec.ofNat 64 (x.flt s .a t ^^^ x.ft.signBit))) s

/-- FCPYS. -/
def execFcpys (d a b : Byte) (s : State) : Host.Outcome State Fault Refusal :=
  issueLanes floatForm 0x63#8 d a b (fun x s t =>
    .plain (BitVec.ofNat 64 (x.ft.signed (x.ft.negative (x.flt s .b t)) (x.flt s .a t % x.ft.signBit)))) s

/-- A compare of a lane (14 R391). -/
def compareLane (c : FloatCmp) (x : Ctx) (s : State) (t : Nat) : LaneOut :=
  (x.ft.compare c (x.flt s .a t) (x.flt s .b t)).lane

/-- FCEQ (14 Table 14.3). -/
def execFceq (d a b : Byte) (s : State) : Host.Outcome State Fault Refusal :=
  issueLanes floatCmpForm 0x64#8 d a b (compareLane .eq) s

/-- FCNE. -/
def execFcne (d a b : Byte) (s : State) : Host.Outcome State Fault Refusal :=
  issueLanes floatCmpForm 0x65#8 d a b (compareLane .ne) s

/-- FCLT. -/
def execFclt (d a b : Byte) (s : State) : Host.Outcome State Fault Refusal :=
  issueLanes floatCmpForm 0x66#8 d a b (compareLane .lt) s

/-- FCLE. -/
def execFcle (d a b : Byte) (s : State) : Host.Outcome State Fault Refusal :=
  issueLanes floatCmpForm 0x67#8 d a b (compareLane .le) s

/-- FCUN. -/
def execFcun (d a b : Byte) (s : State) : Host.Outcome State Fault Refusal :=
  issueLanes floatCmpForm 0x79#8 d a b (compareLane .un) s

/-- FCLASS (14 R391). -/
def execFclass (d a b : Byte) (s : State) : Host.Outcome State Fault Refusal :=
  issueLanes { floatCmpForm with b := .unused } 0x75#8 d a b (fun x s t =>
    .plain (BitVec.ofNat 64 (x.ft.classify (x.flt s .a t)))) s

/-- The values whose low bits lie in 0 to top, with any higher ones, as ranges (14 R392, Table 14.9). -/
def lowRanges (step top : Nat) : List (Nat × Nat) :=
  (List.range (256 / step)).map (fun i => (i * step, i * step + top))

/-- FRINT (14 R392): b names the rounding, 5 for MODE.RND, and bit 3 raises NX. -/
def execFrint (d a b : Byte) (s : State) : Host.Outcome State Fault Refusal :=
  issueLanes { floatForm1 with b := .code (lowRanges 8 5) 0xF0 } 0x76#8 d a b (fun x s t =>
    let rnd := if x.b % 8 = 5 then x.env.rnd else x.b % 8
    (x.ft.integral rnd (x.b.testBit 3) (x.flt s .a t)).lane) s

/-- FSCALE (14 R393). -/
def execFscale (d a b : Byte) (s : State) : Host.Outcome State Fault Refusal :=
  issueLanes { floatForm with b := .reg } 0x77#8 d a b (fun x s t =>
    (x.ft.scale x.env (x.flt s .a t) (x.rd s .b t).toInt).lane) s

/-- FLOGB (14 R393). -/
def execFlogb (d a b : Byte) (s : State) : Host.Outcome State Fault Refusal :=
  issueLanes floatForm1 0x78#8 d a b (fun x s t => (x.ft.logb (x.flt s .a t)).lane) s

/-- An approximate function of a lane (14 R394). -/
def approxLane (f : Approx) (x : Ctx) (s : State) (t : Nat) : LaneOut :=
  (x.ft.approx f (modeSat x.mode) (x.flt s .a t)).lane

/-- FEXP2 (14 R394). -/
def execFexp2 (d a b : Byte) (s : State) : Host.Outcome State Fault Refusal :=
  issueLanes floatForm1 0x60#8 d a b (approxLane .exp2) s

/-- FLOG2. -/
def execFlog2 (d a b : Byte) (s : State) : Host.Outcome State Fault Refusal :=
  issueLanes floatForm1 0x61#8 d a b (approxLane .log2) s

/-- FRSQ. -/
def execFrsq (d a b : Byte) (s : State) : Host.Outcome State Fault Refusal :=
  issueLanes floatForm1 0x62#8 d a b (approxLane .rsq) s

/-- FRCP. -/
def execFrcp (d a b : Byte) (s : State) : Host.Outcome State Fault Refusal :=
  issueLanes floatForm1 0x7A#8 d a b (approxLane .rcp) s

/-- The page of CVT for its b code (14 R395): the fields follow the formats, and bit 5 is MBZ. -/
def cvtForm (code : Nat) : Form :=
  let named : Kind := .cvt (code % 32)
  { d := if code < 128 then named else .typed
    a := if code < 128 then .typed else named
    b := .code (lowRanges 32 16) 0x20
    dWrite := true }

/-- CVT (14 R395, R396). -/
def execCvt (d a b : Byte) (s : State) : Host.Outcome State Fault Refusal :=
  issueLanes (cvtForm b.toNat) 0x72#8 d a b (fun x s t =>
    let f := x.b % 32
    let src := if x.b < 128 then x.ty else f
    let dst := if x.b < 128 then f else x.ty
    let env := if x.b.testBit 6 then { x.env with rnd := 1 } else x.env
    convert (formatOf src) (formatOf dst) env (modeWrap x.mode && !modeSat x.mode) (x.val s .a t)) s

end Sys2Proof.Machine
end

