-- ==== Sys2Proof/Machine/Integer.lean ====
section
/-!
DEFINITION. Integer arithmetic (13 R349, R350, R377 to R380) and the moves and literal forms (13 R381).
-/
namespace Sys2Proof.Machine

/-- The page of an integer instruction: every field follows the type. -/
def intForm : Form := { d := .typed, a := .typed, b := .typed, dWrite := true }

/-- The same with b unused. -/
def intForm1 : Form := { intForm with b := .unused }

/-- The same with b a register (shifts and bit fields). -/
def intFormR : Form := { intForm with b := .reg }

/-- The same with d a register (compares, 13 R380). -/
def compareForm : Form := { intForm with d := .reg }

/-- The integer type at issue (13 R349). -/
def Ctx.it (x : Ctx) : IntType := intType x.ty

/-- A field's value under the integer type (13 R349). -/
def Ctx.int (x : Ctx) (s : State) (f : Fld) (t : Nat) : Int := x.it.read (x.val s f t)

/-- A field's low W bits as a number. -/
def Ctx.raw (x : Ctx) (s : State) (f : Fld) (t : Nat) : Nat := (x.val s f t).toNat % 2 ^ x.it.width

/-- W bits as a result of the type, through Ext. -/
def IntType.bits (i : IntType) (n : Nat) : Word64 := i.ext (i.wrap (n : Int))

/-- A lane's result by Arith (13 R350). -/
def Ctx.arithOut (x : Ctx) (v : Int) : LaneOut := arith x.it (modeSat x.mode) v

/-- A lane's result that does not saturate. -/
def Ctx.bitsOut (x : Ctx) (n : Nat) : LaneOut := .plain (x.it.bits n)

/-- A comparison's result. -/
def flagOut (p : Bool) : LaneOut := .plain (if p then 1#64 else 0#64)

/-- IADD (13 Table 13.14). -/
def execIadd (d a b : Byte) (s : State) : Host.Outcome State Fault Refusal :=
  issueLanes intForm 0x20#8 d a b (fun x s t => x.arithOut (x.int s .a t + x.int s .b t)) s

/-- ISUB. -/
def execIsub (d a b : Byte) (s : State) : Host.Outcome State Fault Refusal :=
  issueLanes intForm 0x21#8 d a b (fun x s t => x.arithOut (x.int s .a t - x.int s .b t)) s

/-- IMUL. -/
def execImul (d a b : Byte) (s : State) : Host.Outcome State Fault Refusal :=
  issueLanes intForm 0x22#8 d a b (fun x s t => x.arithOut (x.int s .a t * x.int s .b t)) s

/-- IMULH: the upper W bits of the exact product. -/
def execImulh (d a b : Byte) (s : State) : Host.Outcome State Fault Refusal :=
  issueLanes intForm 0x23#8 d a b (fun x s t =>
    .plain (x.it.ext (x.it.wrap ((x.int s .a t * x.int s .b t).fdiv (2 ^ x.it.width))))) s

/-- IMIN. -/
def execImin (d a b : Byte) (s : State) : Host.Outcome State Fault Refusal :=
  issueLanes intForm 0x24#8 d a b (fun x s t => .plain (x.it.ext (min (x.int s .a t) (x.int s .b t)))) s

/-- IMAX. -/
def execImax (d a b : Byte) (s : State) : Host.Outcome State Fault Refusal :=
  issueLanes intForm 0x25#8 d a b (fun x s t => .plain (x.it.ext (max (x.int s .a t) (x.int s .b t)))) s

/-- IABS. -/
def execIabs (d a b : Byte) (s : State) : Host.Outcome State Fault Refusal :=
  issueLanes intForm1 0x26#8 d a b (fun x s t => x.arithOut (x.int s .a t).natAbs) s

/-- INEG. -/
def execIneg (d a b : Byte) (s : State) : Host.Outcome State Fault Refusal :=
  issueLanes intForm1 0x27#8 d a b (fun x s t => x.arithOut (-(x.int s .a t))) s

/-- IAND. -/
def execIand (d a b : Byte) (s : State) : Host.Outcome State Fault Refusal :=
  issueLanes intForm 0x28#8 d a b (fun x s t => x.bitsOut (x.raw s .a t &&& x.raw s .b t)) s

/-- IOR. -/
def execIor (d a b : Byte) (s : State) : Host.Outcome State Fault Refusal :=
  issueLanes intForm 0x29#8 d a b (fun x s t => x.bitsOut (x.raw s .a t ||| x.raw s .b t)) s

/-- IXOR. -/
def execIxor (d a b : Byte) (s : State) : Host.Outcome State Fault Refusal :=
  issueLanes intForm 0x2A#8 d a b (fun x s t => x.bitsOut (x.raw s .a t ^^^ x.raw s .b t)) s

/-- INOT. -/
def execInot (d a b : Byte) (s : State) : Host.Outcome State Fault Refusal :=
  issueLanes intForm1 0x2B#8 d a b (fun x s t => x.bitsOut (2 ^ x.it.width - 1 - x.raw s .a t)) s

/-- The amount of a shift or rotation (13 R377). -/
def Ctx.shiftBy (x : Ctx) (s : State) (t : Nat) : Nat :=
  (x.rd s .b t).toNat % (if x.it.width = 64 then 64 else 32)

/-- SHR (13 R377). -/
def execShr (d a b : Byte) (s : State) : Host.Outcome State Fault Refusal :=
  issueLanes intFormR 0x2C#8 d a b (fun x s t => x.bitsOut (x.raw s .a t >>> x.shiftBy s t)) s

/-- SHL (13 R377). -/
def execShl (d a b : Byte) (s : State) : Host.Outcome State Fault Refusal :=
  issueLanes intFormR 0x2D#8 d a b (fun x s t => x.bitsOut (x.raw s .a t <<< x.shiftBy s t)) s

/-- SAR (13 R377): copies of bit W − 1 come in, whatever the type's sign. -/
def execSar (d a b : Byte) (s : State) : Host.Outcome State Fault Refusal :=
  issueLanes intFormR 0x2E#8 d a b (fun x s t =>
    let v := (⟨x.it.width, true⟩ : IntType).read (x.val s .a t)
    .plain (x.it.ext (x.it.wrap (v >>> x.shiftBy s t)))) s

/-- ROTL (13 R377). -/
def execRotl (d a b : Byte) (s : State) : Host.Outcome State Fault Refusal :=
  issueLanes intFormR 0x2F#8 d a b (fun x s t =>
    let w := x.it.width
    let n := x.shiftBy s t % w
    let v := x.raw s .a t
    x.bitsOut (v <<< n ||| v >>> (w - n))) s

/-- The place and width of a bit field that b names, cut at bit W − 1; `none` for an empty one (13 R378). -/
def Ctx.bitField (x : Ctx) (s : State) (t : Nat) : Option (Nat × Nat) :=
  let y := x.rd s .b t
  let pos := wbits y 5 0
  let len := wbits y 13 8
  if len = 0 ∨ x.it.width ≤ pos then none else some (pos, min len (x.it.width - pos))

/-- BFX (13 R378). -/
def execBfx (d a b : Byte) (s : State) : Host.Outcome State Fault Refusal :=
  issueLanes intFormR 0x30#8 d a b (fun x s t =>
    match x.bitField s t with
    | none => .plain 0#64
    | some (pos, len) =>
      let v := x.raw s .a t >>> pos
      .plain (x.it.ext (x.it.wrap ((⟨len, x.it.signed⟩ : IntType).read (BitVec.ofNat 64 v))))) s

/-- BFI (13 R378). -/
def execBfi (d a b : Byte) (s : State) : Host.Outcome State Fault Refusal :=
  issueLanes { intFormR with dRead := true } 0x31#8 d a b (fun x s t =>
    match x.bitField s t with
    | none => x.bitsOut (x.raw s .d t)
    | some (pos, len) =>
      let z := x.raw s .d t
      let old := (z >>> pos) % 2 ^ len
      x.bitsOut (z - old * 2 ^ pos + x.raw s .a t % 2 ^ len * 2 ^ pos)) s

/-- The number of 1 bits among the low n bits. -/
def countOnes (v : Nat) : Nat → Nat
  | 0 => 0
  | n + 1 => v % 2 + countOnes (v / 2) n

/-- The number of bits a number needs, at most n. -/
def bitLength (v : Nat) : Nat → Nat
  | 0 => 0
  | n + 1 => if 2 ^ n ≤ v then n + 1 else bitLength v n

/-- The low n bits in reverse order. -/
def reverseBits (v : Nat) : Nat → Nat
  | 0 => 0
  | n + 1 => v % 2 * 2 ^ n + reverseBits (v / 2) n

/-- POPC. -/
def execPopc (d a b : Byte) (s : State) : Host.Outcome State Fault Refusal :=
  issueLanes intForm1 0x32#8 d a b (fun x s t => x.bitsOut (countOnes (x.raw s .a t) x.it.width)) s

/-- CLZ. -/
def execClz (d a b : Byte) (s : State) : Host.Outcome State Fault Refusal :=
  issueLanes intForm1 0x33#8 d a b (fun x s t => x.bitsOut (x.it.width - bitLength (x.raw s .a t) x.it.width)) s

/-- BREV. -/
def execBrev (d a b : Byte) (s : State) : Host.Outcome State Fault Refusal :=
  issueLanes intForm1 0x34#8 d a b (fun x s t => x.bitsOut (reverseBits (x.raw s .a t) x.it.width)) s

/-- IMAD. -/
def execImad (d a b : Byte) (s : State) : Host.Outcome State Fault Refusal :=
  issueLanes { intForm with dRead := true } 0x35#8 d a b (fun x s t =>
    x.arithOut (x.int s .d t + x.int s .a t * x.int s .b t)) s

/-- IDIV (13 R379). -/
def execIdiv (d a b : Byte) (s : State) : Host.Outcome State Fault Refusal :=
  issue { intForm with long := true, own := true } 0x36#8 d a b (laneEffectLong (fun x s t =>
    if x.int s .b t = 0 then x.bitsOut (2 ^ x.it.width - 1)
    else x.arithOut ((x.int s .a t).tdiv (x.int s .b t)))) s

/-- IREM (13 R379). -/
def execIrem (d a b : Byte) (s : State) : Host.Outcome State Fault Refusal :=
  issue { intForm with long := true, own := true } 0x37#8 d a b (laneEffectLong (fun x s t =>
    .plain (x.it.ext ((x.int s .a t).tmod (x.int s .b t))))) s

/-- ICMPEQ (13 R380). -/
def execIcmpeq (d a b : Byte) (s : State) : Host.Outcome State Fault Refusal :=
  issueLanes compareForm 0x38#8 d a b (fun x s t => flagOut (decide (x.int s .a t = x.int s .b t))) s

/-- ICMPNE. -/
def execIcmpne (d a b : Byte) (s : State) : Host.Outcome State Fault Refusal :=
  issueLanes compareForm 0x39#8 d a b (fun x s t => flagOut (decide (x.int s .a t ≠ x.int s .b t))) s

/-- ICMPLT. -/
def execIcmplt (d a b : Byte) (s : State) : Host.Outcome State Fault Refusal :=
  issueLanes compareForm 0x3A#8 d a b (fun x s t => flagOut (decide (x.int s .a t < x.int s .b t))) s

/-- ICMPLE. -/
def execIcmple (d a b : Byte) (s : State) : Host.Outcome State Fault Refusal :=
  issueLanes compareForm 0x3B#8 d a b (fun x s t => flagOut (decide (x.int s .a t ≤ x.int s .b t))) s

/-- ICMPGT. -/
def execIcmpgt (d a b : Byte) (s : State) : Host.Outcome State Fault Refusal :=
  issueLanes compareForm 0x3C#8 d a b (fun x s t => flagOut (decide (x.int s .b t < x.int s .a t))) s

/-- ICMPGE. -/
def execIcmpge (d a b : Byte) (s : State) : Host.Outcome State Fault Refusal :=
  issueLanes compareForm 0x3D#8 d a b (fun x s t => flagOut (decide (x.int s .b t ≤ x.int s .a t))) s

/-- SEL (13 R380). -/
def execSel (d a b : Byte) (s : State) : Host.Outcome State Fault Refusal :=
  issueLanes { intForm with dRead := true } 0x3E#8 d a b (fun x s t =>
    x.bitsOut (if x.raw s .d t != 0 then x.raw s .a t else x.raw s .b t)) s

/-! ### Moves and literal forms (13 R381) -/

/-- The literal extended to the type (13 R381). -/
def Ctx.literal (x : Ctx) : Int :=
  let k := x.lits.headD 0#32
  x.it.wrap (if x.it.signed then k.toInt else (k.toNat : Int))

/-- The literal's W bits. -/
def Ctx.literalRaw (x : Ctx) : Nat := (BitVec.ofInt 64 x.literal).toNat % 2 ^ x.it.width

/-- The page of an integer instruction with a literal. -/
def intFormL : Form := { intForm with b := .unused, lits := 1 }

/-- MOV (13 Table 13.15). -/
def execMov (d a b : Byte) (s : State) : Host.Outcome State Fault Refusal :=
  issueLanes { d := .reg, a := .reg, b := .unused, dWrite := true } 0x40#8 d a b
    (fun x s t => .plain ((x.rd s .a t).setWidth 64)) s

/-- MOVL. -/
def execMovl (d a b : Byte) (s : State) : Host.Outcome State Fault Refusal :=
  issueLanes { d := .reg, a := .unused, b := .unused, dWrite := true, lits := 1 } 0x41#8 d a b
    (fun x _ _ => .plain ((x.lits.headD 0#32).setWidth 64)) s

/-- MOVI. -/
def execMovi (d a b : Byte) (s : State) : Host.Outcome State Fault Refusal :=
  issueLanes { d := .reg, a := .any, b := .any, dWrite := true } 0x42#8 d a b
    (fun x _ _ => .plain (BitVec.ofNat 64 (x.a * 256 + x.b))) s

/-- MOVIH. -/
def execMovih (d a b : Byte) (s : State) : Host.Outcome State Fault Refusal :=
  issueLanes { d := .reg, a := .any, b := .any, dRead := true, dWrite := true } 0x43#8 d a b
    (fun x s t => .plain (BitVec.ofNat 64 ((x.a * 256 + x.b) * 65536 + wbits (x.rd s .d t) 15 0))) s

/-- IADDL. -/
def execIaddl (d a b : Byte) (s : State) : Host.Outcome State Fault Refusal :=
  issueLanes intFormL 0x44#8 d a b (fun x s t => x.arithOut (x.int s .a t + x.literal)) s

/-- IMULL. -/
def execImull (d a b : Byte) (s : State) : Host.Outcome State Fault Refusal :=
  issueLanes intFormL 0x45#8 d a b (fun x s t => x.arithOut (x.int s .a t * x.literal)) s

/-- IANDL. -/
def execIandl (d a b : Byte) (s : State) : Host.Outcome State Fault Refusal :=
  issueLanes intFormL 0x46#8 d a b (fun x s t => x.bitsOut (x.raw s .a t &&& x.literalRaw)) s

/-- IORL. -/
def execIorl (d a b : Byte) (s : State) : Host.Outcome State Fault Refusal :=
  issueLanes intFormL 0x47#8 d a b (fun x s t => x.bitsOut (x.raw s .a t ||| x.literalRaw)) s

/-- IXORL. -/
def execIxorl (d a b : Byte) (s : State) : Host.Outcome State Fault Refusal :=
  issueLanes intFormL 0x48#8 d a b (fun x s t => x.bitsOut (x.raw s .a t ^^^ x.literalRaw)) s

/-- MOV64. -/
def execMov64 (d a b : Byte) (s : State) : Host.Outcome State Fault Refusal :=
  issueLanes { d := .pair, a := .pair, b := .unused, dWrite := true } 0x49#8 d a b
    (fun x s t => .plain (x.rdPair s .a t)) s

/-- MOVL64. -/
def execMovl64 (d a b : Byte) (s : State) : Host.Outcome State Fault Refusal :=
  issueLanes { d := .pair, a := .unused, b := .unused, dWrite := true, lits := 2 } 0x4A#8 d a b
    (fun x _ _ => .plain (pair (x.lits.getD 0 0#32) (x.lits.getD 1 0#32))) s

end Sys2Proof.Machine
end

