-- ==== Sys2Proof/Machine/Lanes.lean ====
section
/-!
DEFINITION. The cross-lane instructions (14 R397 to R403): reduce and scan, shuffles, votes and match, Facet pack and
unpack, in the cross-lane frame (R399).
-/
namespace Sys2Proof.Machine

/-- The page of a cross-lane instruction. -/
def crossForm (d a b : Kind) : Form := { d := d, a := a, b := b, dWrite := true, cross := true }

/-- The granted vector width (10 R287). -/
def Control.width (c : Control) : Nat := if c.exist == 0xFFFF#32 then 16 else 32

/-- A lane's result and whether it met a dead source. -/
structure CrossOut where
  out  : LaneOut
  dead : Bool := false

/-- The effect of a cross-lane instruction: results, flags and DEADSRC of each lane of L, spread over S when the slot is
uniform (14 R399). -/
def crossEffect (f : Ctx → State → Nat → CrossOut) (x : Ctx) (s : State) : Act :=
  let all := x.L.map (fun t => (t, f x s t))
  let outs := all.map (fun o => (o.1, o.2.out))
  match fpxTrap (modeTraps x.mode) outs with
  | some t => .trap t
  | none =>
    let dead := maskOf (((x.spread all).filter (fun o => o.2.dead)).map (fun o => o.1))
    let s1 := x.writeD s (outs.map (fun o => (o.1, o.2.val)))
    .done (s1.onGroup x.gid (fun g => g.onCtl (fun c =>
      let c' := c.raiseAll (x.spread outs)
      { c' with deadSrc := c'.deadSrc ||| dead })))

/-! ### Reduce and scan (14 R400, Table 14.12) -/

/-- A fold's value with the flags and saturation its steps have raised. -/
abbrev Folded := LaneOut

/-- Adds what a step raises to what earlier steps raised. -/
def LaneOut.after (o p : LaneOut) : LaneOut := ⟨o.val, o.sat || p.sat, o.exc ||| p.exc⟩

/-- Whether MODE.TYPE is a float code. -/
def floatCode (ty : Nat) : Bool := decide (4 ≤ ty) && decide (ty ≤ 7)

/-- One step of a fold (14 Table 14.12). -/
def Ctx.foldStep (x : Ctx) (code : Nat) (p : Folded) (v : Word64) : Folded :=
  if floatCode x.ty then
    let a := x.ft.field p.val
    let b := x.ft.field v
    (match code with
      | 1 => (x.ft.add x.env false a b).lane
      | 2 => (x.ft.extreme true false a b).lane
      | _ => (x.ft.extreme false false a b).lane).after p
  else
    let i := x.it
    let a := i.read p.val
    let b := i.read v
    let raw (w : Word64) : Nat := w.toNat % 2 ^ i.width
    (match code with
      | 1 => x.arithOut (a + b)
      | 2 => .plain (i.ext (max a b))
      | 3 => .plain (i.ext (min a b))
      | 4 => x.bitsOut (raw p.val &&& raw v)
      | 5 => x.bitsOut (raw p.val ||| raw v)
      | _ => x.bitsOut (raw p.val ^^^ raw v)).after p

/-- What the first value of a fold enters as: a signalling NaN enters quieted and raises IV (14 R400). -/
def Ctx.foldStart (x : Ctx) (v : Word64) : Folded :=
  if floatCode x.ty then
    let b := x.ft.field v
    if (x.ft.decode b).isSignalling then ⟨BitVec.ofNat 64 (x.ft.quiet b), false, flagIV⟩ else .plain (BitVec.ofNat 64 b)
  else .plain (x.it.ext (x.it.read v))

/-- The folds over each first part of a list of values. -/
def Ctx.foldsFrom (x : Ctx) (code : Nat) (p : Folded) : List Word64 → List Folded
  | [] => [p]
  | v :: vs => p :: x.foldsFrom code (x.foldStep code p v) vs

/-- Fold(0), Fold(1), … over the lanes of S (14 R400). -/
def Ctx.folds (x : Ctx) (s : State) (code : Nat) : List Folded :=
  match x.S with
  | [] => []
  | t :: ts => x.foldsFrom code (x.foldStart (x.val s .a t)) (ts.map (x.val s .a))

/-- The identity of an exclusive scan (14 Table 14.12). -/
def Ctx.foldIdentity (x : Ctx) (code : Nat) : Folded :=
  if floatCode x.ty then
    .plain (BitVec.ofNat 64 (match code with
      | 1 => x.ft.signed true 0
      | 2 => x.ft.infinity true
      | _ => x.ft.infinity false))
  else
    .plain (match code with
      | 2 => x.it.ext x.it.least
      | 3 => x.it.ext x.it.greatest
      | 4 => x.it.bits (2 ^ x.it.width - 1)
      | _ => 0#64)

/-- REDUCE (14 R400). -/
def execReduce (d a b : Byte) (s : State) : Host.Outcome State Fault Refusal :=
  issue (crossForm .typed .typed (.fold false)) 0x68#8 d a b (crossEffect (fun x s _ =>
    ⟨(x.folds s (x.b % 16)).getLastD (.plain 0#64), false⟩)) s

/-- SCAN (14 R400). -/
def execScan (d a b : Byte) (s : State) : Host.Outcome State Fault Refusal :=
  issue (crossForm .typed .typed (.fold true)) 0x69#8 d a b (crossEffect (fun x s t =>
    let fs := x.folds s (x.b % 16)
    let k := x.S.findIdx (· == t)
    if x.b.testBit 4 then
      ⟨if k = 0 then x.foldIdentity (x.b % 16) else fs.getD (k - 1) (.plain 0#64), false⟩
    else ⟨fs.getD k (.plain 0#64), false⟩)) s

/-! ### Shuffles (14 R401) -/

/-- A shuffle's result in a lane from its source lane (14 R401). -/
def shuffleFrom (x : Ctx) (s : State) (t src : Nat) : CrossOut :=
  if x.g.ctl.width ≤ src then ⟨.plain (x.val s .a t), false⟩
  else if x.g.ctl.dead.getLsbD src then ⟨.plain 0#64, true⟩
  else ⟨.plain (x.val s .a src), false⟩

/-- The code of a shuffle by a constant (14 Table 14.13). -/
def laneCode : Kind := .code [(0, 31)]

/-- SHFL (14 R401). -/
def execShfl (d a b : Byte) (s : State) : Host.Outcome State Fault Refusal :=
  issue (crossForm .typed .typed .reg) 0x6A#8 d a b (crossEffect (fun x s t =>
    shuffleFrom x s t (x.rd s .b t).toNat)) s

/-- SHFLUP. -/
def execShflup (d a b : Byte) (s : State) : Host.Outcome State Fault Refusal :=
  issue (crossForm .typed .typed laneCode) 0x6B#8 d a b (crossEffect (fun x s t =>
    shuffleFrom x s t ((t + 2 ^ 32 - x.b) % 2 ^ 32))) s

/-- SHFLDN. -/
def execShfldn (d a b : Byte) (s : State) : Host.Outcome State Fault Refusal :=
  issue (crossForm .typed .typed laneCode) 0x6C#8 d a b (crossEffect (fun x s t => shuffleFrom x s t (t + x.b))) s

/-- SHFLX. -/
def execShflx (d a b : Byte) (s : State) : Host.Outcome State Fault Refusal :=
  issue (crossForm .typed .typed laneCode) 0x6D#8 d a b (crossEffect (fun x s t => shuffleFrom x s t (t ^^^ x.b))) s

/-! ### Votes and match (14 R402, R403) -/

/-- VOTE (14 R402). -/
def execVote (d a b : Byte) (s : State) : Host.Outcome State Fault Refusal :=
  issue (crossForm .reg .reg (.code [(0, 3)])) 0x6E#8 d a b (crossEffect (fun x s _ =>
    let participants := x.g.ctl.exist &&& x.g.ctl.exec &&& s.guardMask x.g
    let yes := maskOf (x.S.filter (fun t => x.rd s .a t != 0#32))
    let flag (p : Bool) : CrossOut := ⟨flagOut p, false⟩
    match x.b with
    | 0 => flag (yes == participants)
    | 1 => flag (yes != 0#32)
    | 2 => flag (yes == 0#32 || yes == participants)
    | _ => ⟨.plain (yes.setWidth 64), false⟩)) s

/-- MATCH (14 R403). -/
def execMatchOp (d a b : Byte) (s : State) : Host.Outcome State Fault Refusal :=
  issue (crossForm .reg .typed (.code [(0, 1)])) 0x6F#8 d a b (crossEffect (fun x s t =>
    let same := maskOf (x.S.filter (fun u => x.val s .a u == x.val s .a t))
    ⟨.plain ((if x.b = 0 then same else if same == x.sMask then same else 0#32).setWidth 64), false⟩)) s

/-! ### Facet pack and unpack (14 R397, R398) -/

/-- FCPACK (14 R397): the values of a half, +0 for lanes outside S. -/
def execFcpack (d a b : Byte) (s : State) : Host.Outcome State Fault Refusal :=
  issue (crossForm .reg .typed (.code [(0, 2)])) 0x73#8 d a b (crossEffect (fun x s t =>
    let half := t / 16 * 16
    let values := (List.range 16).map (fun j =>
      if x.S.contains (half + j) then x.ft.decode (x.flt s .a (half + j)) else .fin false 0 0)
    let o := facetPack x.env.rnd (facetWidth x.b) values
    let j := t % 16
    ⟨⟨BitVec.ofNat 64 (if j < facetWords x.b then o.bits / 2 ^ (32 * j) % 2 ^ 32 else 0), o.sat, o.exc⟩, false⟩)) s

/-- FCUNPK (14 R398). -/
def execFcunpk (d a b : Byte) (s : State) : Host.Outcome State Fault Refusal :=
  issue (crossForm .typed .reg (.code [(0, 2)])) 0x74#8 d a b (crossEffect (fun x s t =>
    let half := t / 16 * 16
    let n := facetWords x.b
    let dead (j : Nat) : Bool := x.g.ctl.dead.getLsbD (half + j)
    let block := (List.range n).foldl (fun acc j =>
      acc + (if dead j then 0 else (x.rd s .a (half + j)).toNat) * 2 ^ (32 * j)) 0
    let out : LaneOut :=
      match facetElement (facetWidth x.b) block (t % 16) with
      | none => .plain (BitVec.ofNat 64 (x.ft.nan.getD 0))
      | some (neg, m, e) =>
        let o := x.ft.deliver x.env neg m e
        if x.ft.width = 16 then o.lane else .plain (BitVec.ofNat 64 o.bits)
    ⟨out, (List.range n).any dead⟩)) s

end Sys2Proof.Machine
end

