-- ==== Sys2Proof/Machine/Launches.lean ====
section
/-!
DEFINITION. Launch queues and launches (03 R59 to R65; 05 R124, R130, R133 to R136): LQ_ENABLE, LQ_ERR_CLEAR, TAIL_SNOOP,
TAIL_REFETCH, LAUNCH_PACKET_START and LAUNCH_COMPLETE.
-/
namespace Sys2Proof.Machine

/-! ### Queue registers (03 R59 to R61) -/

/-- LQCFG.EN. -/
def LaunchQueue.enabled (q : LaunchQueue) : Bool := wbit q.cfg 31
/-- LQCFG.ERR. -/
def LaunchQueue.err (q : LaunchQueue) : Bool := wbit q.cfg 30
/-- Packets the ring holds. -/
def LaunchQueue.size (q : LaunchQueue) : Nat := 2 ^ wbits q.cfg 23 20
/-- The MSI-X vector, modulo 16. -/
def LaunchQueue.vector (q : LaunchQueue) : Nat := wbits q.cfg 15 8 % 16
/-- The host address of the tail line. -/
def LaunchQueue.tailLine (q : LaunchQueue) : Nat := q.tailAddr.toNat / 128 * 128
/-- The host address of a packet's place in the ring (R60). -/
def LaunchQueue.packetAt (q : LaunchQueue) (n : Word) : Nat := q.base.toNat / 4096 * 4096 + n.toNat % q.size * 128
/-- Whether the tail has run too far ahead (R61). -/
def LaunchQueue.overrun (q : LaunchQueue) : Bool := decide (q.size < (q.tail - q.head).toNat)

/-- A launch queue of a function. -/
def State.queueOf (s : State) (vf q : Nat) : LaunchQueue := Sparse.get {} (s.fn vf).queues q

/-- Changes a launch queue. -/
def State.onLq (s : State) (vf q : Nat) (f : LaunchQueue → LaunchQueue) : State :=
  s.onFn vf (fun n => { n with queues := Sparse.alter {} n.queues q f })

/-- Raises an MSI-X vector of a function. -/
def State.raiseVector (s : State) (vf n : Nat) : State := s.onHost (fun h => { h with vectors := h.vectors ++ [(vf, n)] })

/-- Stops a queue: ERR is set and VECTOR raised (R61). -/
def State.stopQueue (s : State) (vf q : Nat) : State :=
  (s.onLq vf q (fun l => { l with cfg := l.cfg ||| 0x40000000#32 })).raiseVector vf (s.queueOf vf q).vector

/-- Reads the tail line: word 0 is the new tail; a tail too far ahead stops the queue (R60, R61). -/
def State.readTail (s : State) (vf q : Nat) : State :=
  let l := s.queueOf vf q
  let tail := BitVec.ofNat 32 (natOfBytes (Memory.readBytes s.host.mem l.tailLine 4))
  let t := s.onLq vf q (fun l => { l with tail := tail, held := true })
  if (t.queueOf vf q).overrun && !l.err then t.stopQueue vf q else t

/-- A write of LQCFG (Table 3.4): a bit that must be zero, or EN with a size that is not 4 to 15, makes the device ignore it;
SIZELOG stays while EN = 1; setting EN takes the head from the tail line, which is then held; ERR is cleared by a 1. -/
def State.lqcfgWrite (s : State) (vf q : Nat) (value : Word) : State :=
  let l := s.queueOf vf q
  let size := if l.enabled then wbits l.cfg 23 20 else wbits value 23 20
  if wbits value 29 24 != 0 || wbits value 19 16 != 0 || wbits value 7 0 != 0 || (wbit value 31 && decide (size < 4)) then s
  else
    let err := l.err && !wbit value 30
    let cfg := (value &&& 0x8000FF00#32) ||| BitVec.ofNat 32 (size * 2 ^ 20) ||| (if err then 0x40000000#32 else 0#32)
    let t := s.onLq vf q (fun l => { l with cfg := cfg, held := l.held && wbit value 31 })
    if wbit value 31 && !l.enabled then
      let tail := BitVec.ofNat 32 (natOfBytes (Memory.readBytes s.host.mem l.tailLine 4))
      t.onLq vf q (fun l => { l with head := tail, tail := tail, held := true })
    else if l.err && !err && wbit value 31 && (t.queueOf vf q).overrun then t.stopQueue vf q
    else t

/-- Whether a function has a launch queue whose registers a write reaches. -/
def State.lqOpen (s : State) (vf q : Nat) : Bool := s.barOpen vf && decide (1 ≤ vf) && decide (q < 8)

/-- LQ_ENABLE: a write of LQCFG that sets EN. -/
def execLqEnable (vf queue : Nat) (value : Word) (s : State) : Host.Outcome State Fault Refusal :=
  if s.lqOpen vf queue && !(s.queueOf vf queue).enabled && wbit value 31 then .next (s.lqcfgWrite vf queue value) else .next s

/-- LQ_ERR_CLEAR: a write of LQCFG that clears ERR. -/
def execLqErrClear (vf queue : Nat) (value : Word) (s : State) : Host.Outcome State Fault Refusal :=
  if s.lqOpen vf queue && (s.queueOf vf queue).err && wbit value 30 then .next (s.lqcfgWrite vf queue value) else .next s

/-! ### Tail lines (03 R60) -/

/-- TAIL_SNOOP: the host writes its memory; a tail line that the write touches leaves the launch unit. -/
def execTailSnoop (addr : Nat) (bytes : List Byte) (s : State) : Host.Outcome State Fault Refusal :=
  .next (s.onHost (fun h => { h with
    mem := Memory.writeBytes h.mem addr bytes
    fns := Sparse.mapAll {} h.fns (fun _ f => { f with queues := Sparse.mapAll {} f.queues (fun _ l =>
      if overlaps l.tailLine (l.tailLine + 128) addr (addr + bytes.length) then { l with held := false } else l) }) }))

/-- TAIL_REFETCH of a queue whose tail line was snooped away. -/
def execTailRefetch (vf queue : Nat) (s : State) : Host.Outcome State Fault Refusal :=
  let l := s.queueOf vf queue
  if l.enabled && !l.held && decide (queue < 8) then .next (s.readTail vf queue) else .next s

/-! ### Packets (03 R62, R63; 05 R135) -/

/-- A launch packet's words. -/
structure Packet where
  words : List Word

/-- A field of a packet, by byte offset and size. -/
def Packet.field (p : Packet) (off size : Nat) : Nat := natOfBytes (((p.words.flatMap (fun w => bytesOfNat 4 w.toNat)).drop off).take size)

/-- SERIAL. -/
def Packet.serial (p : Packet) : Bool := (p.field 2 2).testBit 1

/-- Whether a packet asks for VECTOR on completion. -/
def Packet.asksVector (p : Packet) : Bool := (p.field 2 2).testBit 0

/-- Whether a packet names an installation of a tenant that takes launches (R63, 04 R101; 05 R135). -/
def State.packetInst (s : State) (vf : Nat) (part : Option Nat) (p : Packet) : Option Installation :=
  match s.inst? (BitVec.ofNat 32 (p.field 4 4)) with
  | none => none
  | some i => if i.fn == vf && !i.removing && (match part with | none => true | some n => i.part == n) then some i else none

/-- Whether the fields of a packet are those of Table 3.5 (R62, R63). -/
def Packet.fits (p : Packet) (i : Installation) : Bool :=
  p.field 0 1 == 1 && p.field 2 2 / 4 == 0 && p.field 22 2 == 0 && p.field 44 20 == 0 &&
    (match i.kernel? (p.field 1 1) with
    | none => false
    | some k => decide (1 ≤ p.field 20 2) && decide (p.field 20 2 ≤ k.record.groups)) &&
    p.field 8 8 % 65536 == 0 && decide (p.field 8 8 < 2 ^ 57) && decide (1 ≤ p.field 16 4) && decide (p.field 16 4 ≤ 2 ^ 24) &&
    p.field 24 8 % 16 == 0 && decide (p.field 40 4 ≤ 16)

/-! ### Completion records (03 R64; 05 R133, R135) -/

/-- The bytes of a completion record. -/
def completionBytes (value : Word64) (status retired : Nat) : List Byte :=
  bytesOfNat 8 value.toNat ++ bytesOfNat 4 status ++ bytesOfNat 4 retired

/-- Writes a completion record to host memory; an address of 0 asks for none. -/
def State.hostRecord (s : State) (addr : Nat) (bs : List Byte) : State :=
  if addr = 0 then s else s.onHost (fun h => { h with mem := Memory.writeBytes h.mem addr bs })

/-- Writes a completion record to an address of the pushing installation; an address that does not translate is an event on the
tenant's queue. `none` while the page is still to be scrubbed (05 R135; 03 R76). -/
def State.deviceRecord (s : State) (vf : Nat) (handle : Word) (addr : Nat) (bs : List Byte) : Option State :=
  if addr = 0 then some s
  else match s.translate handle addr .write with
    | .ok p _ =>
      if !s.mem.clean p then none
      else some (s.writeHome (.virt handle) (p / 16 * 16) 16 (2 ^ 128 - 1) (natOfBytes bs)).1
    | _ => some (s.event vf 0x38 vf addr handle.toNat 0)

/-- Ends a packet that starts nothing, with a status. -/
def State.rejectPacket (s : State) (vf queue : Nat) (p : Packet) (dev : Option DevPacket) (status : Nat) : State :=
  let bs := completionBytes (BitVec.ofNat 64 (p.field 32 8)) status 0
  match dev with
  | some d => (s.deviceRecord vf d.handle (p.field 24 8) bs).getD
      ((s.onMem (fun m => match s.translate d.handle (p.field 24 8) .write with
        | .ok q _ => m.scrub (regionOf q)
        | _ => m)).deviceRecord vf d.handle (p.field 24 8) bs |>.getD s)
  | none =>
    let t := s.hostRecord (p.field 24 8) bs
    if p.asksVector then t.raiseVector vf (s.queueOf vf queue).vector else t

/-! ### LAUNCH_PACKET_START (03 R63, R65; 05 R130, R136) -/

/-- Starts the launch of a packet: its workgroups are numbered on from those of the kernel's earlier launches (05 R130). -/
def State.startLaunch (s : State) (vf queue index : Nat) (i : Installation) (p : Packet) (dev : Option DevPacket) : State :=
  let kernel := p.field 1 1
  let first := match i.kernel? kernel with | none => 0 | some k => k.seqNext
  let wgs := p.field 16 4
  let (id, t) := s.fresh
  let nargs := p.field 40 4
  let l : Launch := {
    id := id, handle := i.handle, kernel := kernel, fn := vf, queue := queue, index := index, flags := p.field 2 2
    ctxBase := p.field 8 8, wgCount := wgs, groups := p.field 20 2
    compAddr := BitVec.ofNat 64 (p.field 24 8), compVal := BitVec.ofNat 64 (p.field 32 8)
    args := (List.range nargs).map (fun n => BitVec.ofNat 32 (p.field (64 + 4 * n) 4))
    first := first, started := [], retired := [], status := 0, frame := s.pkg.frame
    pusher := dev.map (fun d => (d.handle.toNat, d.core)), complete := false }
  let u := t.onInst i.handle (fun j => { j with
    kernels := j.kernels.zipIdx.map (fun (k : Kernel × Nat) => if k.2 == kernel then { k.1 with seqNext := k.1.seqNext + wgs } else k.1) })
  { u with launches := u.launches ++ [l] }

/-- Takes a packet: it is checked, and starts or is turned away with status 4, or 2 for a lost installation (R63, 04 R121). -/
def State.takePacket (s : State) (vf queue index : Nat) (p : Packet) (dev : Option DevPacket) : State :=
  let part := match dev with
    | none => none
    | some d => (s.inst? d.handle).map (fun i => i.part)
  match s.packetInst vf part p with
  | none => s.rejectPacket vf queue p dev 4
  | some i =>
    if !p.fits i then s.rejectPacket vf queue p dev 4
    else if i.lost then s.rejectPacket vf queue p dev 2
    else s.startLaunch vf queue index i p dev

/-- The packet at the head of a host queue. -/
def State.hostPacket (s : State) (vf q : Nat) : Packet :=
  let l := s.queueOf vf q
  ⟨(List.range 32).map (fun n => BitVec.ofNat 32 (natOfBytes (Memory.readBytes s.host.mem (l.packetAt l.head + 4 * n) 4)))⟩

/-- Whether every earlier packet of a queue that started has completed (R62). -/
def State.queueDrained (s : State) (vf queue : Nat) : Bool := s.launches.all (fun l => !(l.fn == vf && l.queue == queue) || l.complete)

/-- Whether a queue of a tenant has a ready packet; queue 8 is the device launch queue, whose packet waits for the release its
push made (R65, 05 R136). -/
def State.packetReady (s : State) (vf queue : Nat) : Bool :=
  if queue = 8 then
    match (s.fn vf).devQueue with
    | [] => false
    | d :: _ => s.ops.all (fun o => o.id != d.op) && (!(Packet.mk d.words).serial || s.queueDrained vf 8)
  else
    let l := s.queueOf vf queue
    l.enabled && !l.err && l.head != l.tail && (!(s.hostPacket vf queue).serial || s.queueDrained vf queue)

/-- The queue a tenant's next packet comes from: ascending queue numbers, round after round (R65). -/
def State.nextQueueOf (s : State) (vf : Nat) : Option Nat :=
  ((List.range 9).map (fun n => ((s.fn vf).nextQueue + n) % 9)).find? (s.packetReady vf)

/-- The tenant of a partition that is served next: ascending function numbers, round after round (R65). -/
def State.nextTenant (s : State) (p : Nat) : Option Nat :=
  let vs := s.tenantsOf p
  let at_ := (s.part p).turn
  (vs.filter (fun v => decide (at_ ≤ v)) ++ vs.filter (fun v => decide (v < at_))).find? (fun v => (s.nextQueueOf v).isSome)

/-- Notes whose turn comes after a packet. -/
def State.turnAfter (s : State) (vf queue : Nat) : State :=
  (s.onFn vf (fun f => { f with nextQueue := (queue + 1) % 9 })).onPart (s.fn vf).part (fun p => { p with turn := vf + 1 })

/-- A source that is served now: the tenant's next queue in its partition's round. -/
def State.served (s : State) (vf queue : Nat) : Bool :=
  s.nextTenant (s.fn vf).part == some vf && s.nextQueueOf vf == some queue

/-- LAUNCH_PACKET_START: the launch unit takes the packet of a source whose turn it is; a ring read that fails on the link stops
the queue (R61). -/
def execLaunchPacketStart (source : PacketSource) (linkOk : Bool) (s : State) : Host.Outcome State Fault Refusal :=
  match source with
  | .host vf q =>
    if 8 ≤ q ∨ !s.served vf q then .next s
    else if !linkOk then .next (s.stopQueue vf q)
    else
      let l := s.queueOf vf q
      .next (((s.tick.onLq vf q (fun l => { l with head := l.head + 1 })).turnAfter vf q).takePacket vf q l.head.toNat
        (s.hostPacket vf q) none)
  | .device vf =>
    if !s.served vf 8 then .next s
    else match (s.fn vf).devQueue with
      | [] => .next s
      | d :: ds =>
        let t := ((s.tick.onFn vf (fun f => { f with devQueue := ds })).onCore d.core (fun k =>
          { k with devLaunch := k.devLaunch.erase d.words })).turnAfter vf 8
        .next (t.takePacket vf 8 0 ⟨d.words⟩ (some d))

/-! ### LAUNCH_COMPLETE (03 R64; 05 R133) -/

/-- Whether a launch has ended: every workgroup has retired, or its tenant or partition ended it and no group of it lives; and every
store its groups sent has committed. -/
def State.launchOver (s : State) (l : Launch) : Bool :=
  let mine := s.groups.filter (fun g => g.launch == l.id)
  !l.complete && (l.retired.length == l.wgCount || (l.status == 3 && mine.all (fun g => g.gstate == .retired))) &&
    s.commits.all (fun c => !mine.any (fun g => g.gid == c.gid))

/-- LAUNCH_COMPLETE of a launch: its record is written, and then VECTOR raised if its packet asked for it. -/
def execLaunchComplete (s : State) : Host.Outcome State Fault Refusal :=
  match s.launch? s.turn.x with
  | none => .next s
  | some l =>
    if !s.launchOver l then .next s
    else
      let t := s.tick.putLaunch { l with complete := true }
      let bs := completionBytes l.compVal l.status l.retired.length
      match l.pusher with
      | some p =>
        (match t.deviceRecord l.fn (BitVec.ofNat 32 p.1) l.compAddr.toNat bs with
        | none => .next (match s.translate (BitVec.ofNat 32 p.1) l.compAddr.toNat .write with
          | .ok q _ => s.onMem (fun m => m.promote (regionOf q))
          | _ => s)
        | some u => .next u)
      | none =>
        let u := t.hostRecord l.compAddr.toNat bs
        .next (if l.flags % 2 == 1 then u.raiseVector l.fn (s.queueOf l.fn l.queue).vector else u)

end Sys2Proof.Machine
end

