-- ==== Sys2Proof/Machine/Trust.lean ====
section
/-!
DEFINITION. What the device proves about itself (03 R82 to R84): the SPDM requests of a function's DOE mailbox, and IDE (R55, R56).
What an answer holds that the spec leaves to the SPDM standard is an open value.
-/
namespace Sys2Proof.Machine

/-! ### Answers (03 R82, R83) -/

/-- Whether a function's DOE mailbox answers: the link is up, and a virtual function has appeared (01 R16 step 7). -/
def State.doeOpen (s : State) (function : Nat) : Bool :=
  s.host.cxlUp && (function == 0 || (s.host.vfsVisible && decide (function ≤ 256)))

/-- The device answers a request of a function. -/
def State.answer (s : State) (function : Nat) (a : SpdmAnswer) : State :=
  s.onHost (fun h => { h with spdmOut := h.spdmOut ++ [(function, a)] })

/-- Error codes of SPDM 1.3 (DSP0274; log 54). -/
def unexpectedRequest : Nat := 0x04
/-- ERROR Unspecified. -/
def unspecifiedError : Nat := 0x05
/-- ERROR UnsupportedRequest. -/
def unsupportedRequest : Nat := 0x07

/-- Signs: the next XMSS index is recorded before the signature leaves, and after 2^20 of them every request fails (R83). -/
def State.sign (s : State) (function : Nat) (f : Nat → Word256 → SpdmAnswer) : State :=
  let n := s.host.xmssNext
  if 2 ^ 20 ≤ n then s.answer function (.error unspecifiedError)
  else (s.onHost (fun h => { h with xmssNext := n + 1 })).answer function (f n (Config.spdmBytes s.freeCtr n))

/-- Answers a request of a mailbox that is there. -/
def State.onRequest (s : State) (function : Nat) (f : State → State) : Host.Outcome State Fault Refusal :=
  if s.doeOpen function then .next (f s.tick) else .next s

/-- SPDM_GET_VERSION: 1.3. -/
def execSpdmGetVersion (function : Nat) (s : State) : Host.Outcome State Fault Refusal :=
  s.onRequest function (fun t => t.answer function (.version 0x13))

/-- SPDM_GET_CAPABILITIES. -/
def execSpdmGetCapabilities (function : Nat) (s : State) : Host.Outcome State Fault Refusal :=
  s.onRequest function (fun t => t.answer function .capabilities)

/-- SPDM_NEGOTIATE_ALGORITHMS: XMSS-SHAKE256_20_256, SHAKE256 and secp384r1. -/
def execSpdmNegotiateAlgorithms (function : Nat) (s : State) : Host.Outcome State Fault Refusal :=
  s.onRequest function (fun t => t.answer function .algorithms)

/-- SPDM_GET_DIGESTS. -/
def execSpdmGetDigests (function : Nat) (s : State) : Host.Outcome State Fault Refusal :=
  s.onRequest function (fun t => t.answer function (.digests s.freeCtr))

/-- SPDM_GET_CERTIFICATE. -/
def execSpdmGetCertificate (function : Nat) (s : State) : Host.Outcome State Fault Refusal :=
  s.onRequest function (fun t => t.answer function (.certificate s.freeCtr))

/-- SPDM_CHALLENGE: a signature of the identity key. -/
def execSpdmChallenge (function : Nat) (s : State) : Host.Outcome State Fault Refusal :=
  s.onRequest function (fun t => t.sign function .signed)

/-! ### Measurements (03 R84, Table 3.8) -/

/-- The bytes of a tenant's code-hash list, as read at the request (R81). -/
def State.hashList (s : State) (v : Nat) : List Byte :=
  let base := (s.fn v).chlBase.toNat / 4096 * 4096
  Memory.readBytes s.mem.bytes base (32 * min 4096 (wbits (s.fn v).chlCount 12 0))

/-- The fencing records and the fuses as numbers: a fuse by its number, a sub-array by 16 × core + 4i + j. -/
def Package.fuseBlock (p : Package) : List Word256 :=
  p.fusesBlown.map (BitVec.ofNat 256) ++ p.fencing.map (fun f => BitVec.ofNat 256 (16 * f.1 + 4 * f.2.1 + f.2.2))

/-- PARTCFG and the D2DFW registers of a partition. -/
def State.partBlock (s : State) (p : Nat) : List Word256 :=
  BitVec.ofNat 256 (s.part p).cfg.toNat :: (s.part p).dies.map (fun d => BitVec.ofNat 256 (s.openOf d).toNat)

/-- The measurement blocks of a function: 1 to 4 on every one, 5 and 6 on a virtual function alone. -/
def State.measurements (s : State) (function : Nat) : List (Nat × List Word256) :=
  let mine := (s.installs.filter (fun i => i.fn == function)).foldl (fun l i => insertHandle i l) []
  [(1, [s.pkg.holbiongHash]), (2, [s.pkg.firmwareHash]), (3, s.pkg.fuseBlock), (4, s.partBlock (s.fn function).part)] ++
    (if function = 0 then [] else [(5, [shake256 (s.hashList function)]), (6, mine.map (fun i => i.hash))])

/-- SPDM_GET_MEASUREMENTS. -/
def execSpdmGetMeasurements (function : Nat) (s : State) : Host.Outcome State Fault Refusal :=
  s.onRequest function (fun t => t.answer function (.measurements (t.measurements function)))

/-! ### Sessions (03 R82) -/

/-- SPDM_KEY_EXCHANGE: the answer is signed, and the handshake waits for FINISH. -/
def execSpdmKeyExchange (function : Nat) (s : State) : Host.Outcome State Fault Refusal :=
  s.onRequest function (fun t =>
    if 2 ^ 20 ≤ t.host.xmssNext then t.sign function .keyExchange
    else (t.onHost (fun h => { h with handshakes := insertSorted function h.handshakes })).sign function .keyExchange)

/-- SPDM_FINISH: the session stands; without a handshake it is an error. -/
def execSpdmFinish (function : Nat) (s : State) : Host.Outcome State Fault Refusal :=
  s.onRequest function (fun t =>
    if t.host.handshakes.contains function then
      (t.onHost (fun h => { h with
        handshakes := h.handshakes.filter (· != function), sessions := insertSorted function h.sessions })).answer function .finished
    else t.answer function (.error unexpectedRequest))

/-- SPDM_KEY_UPDATE, in a session. -/
def execSpdmKeyUpdate (function : Nat) (s : State) : Host.Outcome State Fault Refusal :=
  s.onRequest function (fun t =>
    t.answer function (if t.host.sessions.contains function then .keysUpdated else .error unexpectedRequest))

/-- SPDM_END_SESSION. -/
def execSpdmEndSession (function : Nat) (s : State) : Host.Outcome State Fault Refusal :=
  s.onRequest function (fun t =>
    if t.host.sessions.contains function then
      (t.onHost (fun h => { h with sessions := h.sessions.filter (· != function) })).answer function .ended
    else t.answer function (.error unexpectedRequest))

/-- SPDM_UNSUPPORTED_REQUEST: any other request. -/
def execSpdmUnsupportedRequest (function code : Nat) (s : State) : Host.Outcome State Fault Refusal :=
  if [0x84, 0xE1, 0xE3, 0x81, 0x82, 0x83, 0xE0, 0xE4, 0xE5, 0xE9, 0xEC].contains code then .next s
  else s.onRequest function (fun t => t.answer function (.error unsupportedRequest))

/-! ### IDE (03 R55, R56) -/

/-- IDE_KEY_PROGRAM: the keys come through CXL_IDE_KM inside a secured session. -/
def execIdeKeyProgram (function : Nat) (s : State) : Host.Outcome State Fault Refusal :=
  if s.doeOpen function && s.host.sessions.contains function then .next (s.onHost (fun h => { h with ideKeys := true })) else .next s

/-- IDE_ESTABLISH: the link is protected once keys have been programmed. -/
def execIdeEstablish (s : State) : Host.Outcome State Fault Refusal :=
  if s.host.cxlUp && s.host.ideKeys then .next (s.onHost (fun h => { h with ide := true })) else .next s

end Sys2Proof.Machine
end

