-- ==== Sys2Proof/Machine/Registers.lean ====
section
/-!
DEFINITION. The BAR0 registers (03 R88, Tables 3.10 to 3.12; R94): which register an offset names, what it reads as, and REGISTER_WRITE,
which gives every register its own behaviour.
-/
namespace Sys2Proof.Machine

/-! ### The maps (03 Tables 3.10 to 3.12) -/

/-- The registers, with the instance an offset names. -/
inductive BarReg where
  | vfctl (v : Nat) | partcfg (p : Nat) | partcmd | d2dfw (n : Nat) | fwdrop (n : Nat)
  | actcfg (p : Nat) | llscfg (p : Nat) | wdcfg (p : Nat) | l2far (p : Nat) | rotcfg | relaycfg
  | regbind | lfaddr | lfcmd | lfdata | dumpclr | skmask (k : Nat)
  | l2csel | l2cdata | rescsel | rescdata (i : Nat) | barsel | bardata | berylsel | beryldata
  | l2quota (v : Nat) | chlbase (v : Nat) | chlcount (v : Nat) | poolbase (v : Nat) | poolcount (v : Nat)
  | dumpmap (v : Nat) | dumpoff (v : Nat) | apoff (v i : Nat) | aplen (v i : Nat)
  | lqbase (v q : Nat) | lqtailaddr (v q : Nat) | lqhead (v q : Nat) | lqcfg (v q : Nat)
  | instimg (f : Nat) | instlen (f : Nat) | instrpt (f : Nat) | insthandle (f : Nat) | instcmd (f : Nat)
  | evqbase (f : Nat) | evqcfg (f : Nat) | evqhead (f : Nat) | evqtail (f : Nat)
deriving DecidableEq, Repr

/-- A register at an offset, with its size and the place of the offset within it. -/
structure RegPlace where
  reg  : BarReg
  size : Nat
  at_  : Nat
deriving DecidableEq, Repr

/-- An array of registers of one size from an offset on, by index. -/
def regArray (base stride size count off : Nat) (f : Nat → BarReg) : Option RegPlace :=
  let n := (off - base) / stride
  let r := (off - base) % stride
  if base ≤ off ∧ n < count ∧ r < size then some ⟨f n, size, r⟩ else none

/-- The install registers, at their offsets from the first (Table 4.1). -/
def installRegs (base off fn : Nat) : List (Option RegPlace) :=
  [regArray base 8 8 1 off (fun _ => .instimg fn), regArray (base + 8) 4 4 1 off (fun _ => .instlen fn),
   regArray (base + 0x10) 8 8 1 off (fun _ => .instrpt fn), regArray (base + 0x18) 4 4 1 off (fun _ => .insthandle fn),
   regArray (base + 0x1C) 4 4 1 off (fun _ => .instcmd fn)]

/-- The event-queue registers (Table 3.17). -/
def eventRegs (base off fn : Nat) : List (Option RegPlace) :=
  [regArray base 8 8 1 off (fun _ => .evqbase fn), regArray (base + 8) 4 4 1 off (fun _ => .evqcfg fn),
   regArray (base + 0xC) 4 4 1 off (fun _ => .evqhead fn), regArray (base + 0x10) 4 4 1 off (fun _ => .evqtail fn)]

/-- The physical function's registers (Tables 3.10 and 3.11). -/
def pfRegs (off : Nat) : List (Option RegPlace) :=
  let block (at_ stride size count : Nat) (f : Nat → BarReg) : Option RegPlace := regArray at_ stride size count off f
  [block 0x1000 4 4 256 (fun n => .vfctl (n + 1)), block 0x2000 4 4 8 .partcfg, block 0x2040 4 4 1 (fun _ => .partcmd),
   block 0x2100 4 4 8 .d2dfw, block 0x2140 8 8 8 .fwdrop, block 0x2200 4 4 8 .actcfg, block 0x2220 4 4 8 .llscfg,
   block 0x2240 4 4 8 .wdcfg, block 0x2260 4 4 8 .l2far, block 0x2300 4 4 1 (fun _ => .rotcfg), block 0x2304 4 4 1 (fun _ => .relaycfg),
   block 0x3000 8 8 1 (fun _ => .regbind), block 0x3100 8 8 1 (fun _ => .lfaddr), block 0x3108 4 4 1 (fun _ => .lfcmd),
   block 0x3180 128 128 1 (fun _ => .lfdata), block 0x3200 4 4 1 (fun _ => .dumpclr), block 0x4000 32 32 255 (fun n => .skmask (n + 257)),
   block 0x100000 4 4 1 (fun _ => .l2csel), block 0x100004 4 4 1 (fun _ => .l2cdata), block 0x100100 4 4 1 (fun _ => .rescsel),
   block 0x100108 8 8 6 .rescdata, block 0x100200 4 4 1 (fun _ => .barsel), block 0x100210 16 16 1 (fun _ => .bardata),
   block 0x100300 4 4 1 (fun _ => .berylsel), block 0x100308 8 8 1 (fun _ => .beryldata),
   block 0x10000 256 4 257 .l2quota, block 0x10008 256 8 257 .chlbase, block 0x10010 256 4 257 .chlcount,
   block 0x10018 256 8 257 .poolbase, block 0x10020 256 4 257 .poolcount, block 0x10028 256 4 257 .dumpmap, block 0x1002C 256 4 257 .dumpoff] ++
  (List.range 4).flatMap (fun i =>
    [block (0x10030 + 16 * i) 256 8 257 (fun v => .apoff v i), block (0x10038 + 16 * i) 256 4 257 (fun v => .aplen v i)]) ++
  eventRegs 0x3300 off 0 ++ installRegs 0x5000 off 0

/-- A virtual function's registers (Table 3.12). -/
def vfRegs (v off : Nat) : List (Option RegPlace) :=
  [regArray 0x0000 32 8 8 off (.lqbase v), regArray 0x0008 32 8 8 off (.lqtailaddr v), regArray 0x0010 32 4 8 off (.lqhead v),
   regArray 0x0014 32 4 8 off (.lqcfg v)] ++ installRegs 0x200 off v ++ eventRegs 0x300 off v

/-- The register that an offset of a function's BAR0 names. -/
def regAt (function off : Nat) : Option RegPlace := ((if function = 0 then pfRegs off else vfRegs function off).filterMap id).head?

/-! ### Reads (03 R88, R94) -/

/-- The counts of the resource that RESCSEL names; a code that names none has counted nothing, and reads 0 (R94, 04 R123). -/
def State.resourceRead (s : State) (i : Nat) : Nat :=
  let code := s.host.resSel.toNat
  let c := Sparse.get {} s.garnet.counts code
  match i with
  | 0 => s.garnet.held.countP (fun e => e.1 / 512 == code)
  | 1 => c.used
  | 2 => c.donated
  | 3 => c.alw
  | 4 => c.ctx
  | _ => c.idle

/-- A barrier object as a number (09 Table 9.1). -/
def Barrier.image (b : Barrier) : Nat :=
  b.phase.toNat * 2 ^ 112 + (if b.cmt then 2 ^ 111 else 0) + b.expArr % 2 ^ 23 * 2 ^ 88 + b.arrCnt % 2 ^ 24 * 2 ^ 64 +
    b.expBytes % 2 ^ 32 * 2 ^ 32 + (BitVec.ofInt 32 b.byteCnt).toNat

/-- The object that BARSEL names, reading 0 where it names none (Table 3.16; 05 Table 5.1). -/
def State.barRead (s : State) : Nat :=
  let scope := wbits s.host.barSel 26 24
  let unit := wbits s.host.barSel 23 8
  let index := wbits s.host.barSel 7 0
  let units := [512, 128, 8, 1, 1].getD scope 0
  let objects := [256, 64, 32, 32, 16].getD scope 0
  if unit < units ∧ index < objects then (Sparse.get {} s.bars (barKey scope unit index)).image else 0

/-- What a register reads as, as a number of its size. -/
def State.regRead (s : State) : BarReg → Nat
  | .vfctl v => (s.fn v).vfctlRead.toNat
  | .partcfg p => (s.part p).cfg.toNat
  | .partcmd => s.host.partCmd.toNat
  | .d2dfw n => (s.openOf n).toNat
  | .fwdrop n => Sparse.get 0 s.host.fwDrop n % 2 ^ 64
  | .actcfg p => (s.part p).actCfg.toNat
  | .llscfg p => (s.part p).llsCfg.toNat
  | .wdcfg p => (s.part p).wdCfg.toNat
  | .l2far p => (s.part p).l2far.toNat
  | .rotcfg => (s.fab.rotNext.getD s.fab.rotcfg).toNat
  | .relaycfg => s.fab.relayCfg.toNat
  | .regbind => s.host.regBind.toNat
  | .lfaddr => s.host.lfAddr.toNat
  | .lfcmd => s.host.lfCmd.toNat
  | .lfdata => natOfBytes (s.host.lfData.take 128)
  | .dumpclr => if s.host.dumpValid then 2 else 0
  | .skmask k => (Sparse.get 0#256 s.host.skMask k).toNat
  | .l2csel => s.host.l2cSel.toNat
  | .l2cdata =>
    let slice := wbits s.host.l2cSel 17 9
    let key := wbits s.host.l2cSel 8 0
    s.mem.l2Count slice key + s.fab.far.countP (fun l => l.slice == slice && (match s.inst? l.handle with
      | none => false
      | some i => i.fn == key))
  | .rescsel => s.host.resSel.toNat
  | .rescdata i => s.resourceRead i
  | .barsel => s.host.barSel.toNat
  | .bardata => s.barRead
  | .berylsel => s.host.berylSel.toNat
  | .beryldata =>
    let d : Dispenser := Sparse.get {} s.tickets (wbits s.host.berylSel 12 10 * 2 ^ 20 + wbits s.host.berylSel 9 0)
    d.serving.toNat * 2 ^ 32 + d.next.toNat
  | .l2quota v => if v = 0 then 0 else (s.fn v).l2Quota.toNat
  | .chlbase v => (s.fn v).chlBase.toNat
  | .chlcount v => (s.fn v).chlCount.toNat
  | .poolbase v => (s.fn v).poolBase.toNat
  | .poolcount v => (s.fn v).poolCount.toNat
  | .dumpmap v => (s.fn v).dumpMap.toNat
  | .dumpoff v => (s.fn v).dumpOff.toNat
  | .apoff v i => (Sparse.get 0#64 (s.fn v).apOff i).toNat
  | .aplen v i => (Sparse.get 0#32 (s.fn v).apLen i).toNat
  | .lqbase v q => (s.queueOf v q).base.toNat
  | .lqtailaddr v q => (s.queueOf v q).tailAddr.toNat
  | .lqhead v q => (s.queueOf v q).head.toNat
  | .lqcfg v q => (s.queueOf v q).cfg.toNat
  | .instimg f => (s.fn f).instImg.toNat
  | .instlen f => (s.fn f).instLen.toNat
  | .instrpt f => (s.fn f).instRpt.toNat
  | .insthandle f => (s.fn f).instHandle.toNat
  | .instcmd f => (s.fn f).instCmd.toNat
  | .evqbase f => (s.fn f).evqBase.toNat
  | .evqcfg f => (s.fn f).evqCfg.toNat
  | .evqhead f => (s.fn f).evqHead.toNat
  | .evqtail f => (s.fn f).evqTail.toNat

/-! ### Writes (03 R88) -/

/-- A write of a register of install requests: OP starts one; a bit that must be zero makes the device ignore it, with event 0x34
(04 R99). -/
def State.instcmdWrite (s : State) (f : Nat) (value : Word) : State :=
  if wbits value 23 0 != 0 || (wbits value 31 30 != 0 && wbit (s.fn f).instCmd 29) then s.instIgnored f value
  else
    let t := s.onFn f (fun g => g.instFields value)
    match wbits value 31 30 with
    | 1 => t.installRequest f
    | 2 => t.removeRequest f
    | _ => t

/-- A write of EVQCFG (Table 3.17): LOST is cleared by a 1; EN with a size that is not 4 to 15 is ignored. -/
def State.evqcfgWrite (s : State) (f : Nat) (value : Word) : State :=
  if wbits value 29 24 != 0 || wbits value 19 16 != 0 || wbits value 7 0 != 0 || (wbit value 31 && decide (wbits value 23 20 < 4)) then s
  else s.onFn f (fun g => { g with
    evqCfg := (value &&& 0xBFFFFFFF#32) ||| (if wbit g.evqCfg 30 && !wbit value 30 then 0x40000000#32 else 0#32) })

/-- Stores a value in a function's registers unless it sets a bit that must be zero. -/
def State.storeFn (s : State) (v : Nat) (mbz : Bool) (f : Fn → Fn) : State := if mbz then s else s.onFn v f

/-- A write of a register, whole. -/
def State.regWrite (s : State) (r : BarReg) (value : Nat) : State :=
  let w := BitVec.ofNat 32 value
  let d := BitVec.ofNat 64 value
  let part (p : Nat) (f : Partition → Partition) : State := if wbits w 14 0 != 0 then s else s.onPart p f
  match r with
  | .vfctl v => s.vfctlWrite v w
  | .partcfg p => s.partcfgWrite p w
  | .partcmd => s.partcmdWrite w
  | .d2dfw n => s.d2dfwWrite n w
  | .actcfg p => part p (fun q => { q with actCfg := w })
  | .llscfg p => part p (fun q => { q with llsCfg := w })
  | .wdcfg p => if wbits w 15 0 != 0 then s else s.onPart p (fun q => { q with wdCfg := w })
  | .l2far p => if wbits w 31 4 != 0 then s else s.onPart p (fun q => { q with l2far := w })
  | .rotcfg => s.rotWrite w
  | .relaycfg => if wbits w 31 18 != 0 then s else s.onFab (fun f => { f with relayCfg := w })
  | .regbind => s.regbindWrite d
  | .lfaddr => s.onHost (fun h => { h with lfAddr := d })
  | .lfcmd => s.lfcmdWrite w
  | .lfdata => s.onHost (fun h => { h with lfData := bytesOfNat 128 value })
  | .dumpclr => s.dumpclrWrite w
  | .skmask k => s.skmaskWrite k (BitVec.ofNat 256 value)
  | .l2csel => if wbits w 31 18 != 0 then s else s.onHost (fun h => { h with l2cSel := w })
  | .rescsel => s.onHost (fun h => { h with resSel := w })
  | .barsel => if wbits w 31 27 != 0 then s else s.onHost (fun h => { h with barSel := w })
  | .berylsel => if wbits w 31 13 != 0 then s else s.onHost (fun h => { h with berylSel := w })
  | .l2quota v => s.storeFn v (v == 0 || wbits w 31 13 != 0) (fun f => { f with l2Quota := w })
  | .chlbase v => s.onFn v (fun f => { f with chlBase := d })
  | .chlcount v => s.storeFn v (wbits w 31 13 != 0) (fun f => { f with chlCount := w })
  | .poolbase v => s.storeFn v (wbits d 11 0 != 0) (fun f => { f with poolBase := d })
  | .poolcount v => s.poolcountWrite v w
  | .dumpmap v => s.storeFn v (wbits w 30 16 != 0) (fun f => { f with dumpMap := w })
  | .dumpoff v => s.storeFn v (wbits w 15 0 != 0) (fun f => { f with dumpOff := w })
  | .apoff v i => s.storeFn v (wbits d 15 0 != 0) (fun f => { f with apOff := Sparse.set 0#64 f.apOff i d })
  | .aplen v i => s.onFn v (fun f => { f with apLen := Sparse.set 0#32 f.apLen i w })
  | .lqbase v q => if (s.queueOf v q).enabled then s else s.onLq v q (fun l => { l with base := d })
  | .lqtailaddr v q => if (s.queueOf v q).enabled then s else s.onLq v q (fun l => { l with tailAddr := d })
  | .lqcfg v q => s.lqcfgWrite v q w
  | .instimg f => if wbits d 11 0 != 0 then s.event 0 0x34 f f value 0 else s.onFn f (fun g => { g with instImg := d })
  | .instlen f => s.onFn f (fun g => { g with instLen := w })
  | .instrpt f => if wbits d 7 0 != 0 then s.event 0 0x34 f f value 0 else s.onFn f (fun g => { g with instRpt := d })
  | .insthandle f => s.onFn f (fun g => { g with instHandle := w })
  | .instcmd f => s.instcmdWrite f w
  | .evqbase f => s.storeFn f (wbits d 11 0 != 0) (fun g => { g with evqBase := d })
  | .evqcfg f => s.evqcfgWrite f w
  | .evqhead f => s.onFn f (fun g => { g with evqHead := w })
  | .fwdrop _ | .l2cdata | .rescdata _ | .bardata | .beryldata | .lqhead _ _ | .evqtail _ => s

/-- Writes a register by an access: its whole width, or an aligned half of a 64-bit register, whose other half stays (R88); anything
else is ignored. -/
def State.regAccess (s : State) (p : RegPlace) (data : List Byte) : State :=
  if p.at_ = 0 ∧ data.length = p.size then s.regWrite p.reg (natOfBytes data)
  else if p.size = 8 ∧ data.length = 4 ∧ p.at_ % 4 = 0 then
    let old := s.regRead p.reg
    s.regWrite p.reg (if p.at_ = 0 then old / 2 ^ 32 * 2 ^ 32 + natOfBytes data else natOfBytes data * 2 ^ 32 + old % 2 ^ 32)
  else s

/-- REGISTER_WRITE: a write to an offset of a function's BAR0. -/
def execRegisterWrite (function offset : Nat) (data : List Byte) (s : State) : Host.Outcome State Fault Refusal :=
  if !s.barOpen function then .next s
  else match regAt function offset with
    | none => .next s
    | some p => .next (s.tick.regAccess p data)

end Sys2Proof.Machine
end

