-- ==== Sys2Proof/Machine/Dispatch.lean ====
section
/-!
DEFINITION. One arm for each instruction: a direct call of its meaning.
-/
namespace Sys2Proof.Machine

/-- The meaning of an instruction. -/
def exec (i : Instr) (s : State) : Host.Outcome State Fault Refusal :=
  match i with
  | .nop n => Sys2Proof.Machine.execNop n s
  | .brk n => Sys2Proof.Machine.execBrk n s
  | .exit d a b => Sys2Proof.Machine.execExit d a b s
  | .swtrap d a b => Sys2Proof.Machine.execSwtrap d a b s
  | .tret d a b => Sys2Proof.Machine.execTret d a b s
  | .ctxrd d a b => Sys2Proof.Machine.execCtxrd d a b s
  | .ctxwr d a b => Sys2Proof.Machine.execCtxwr d a b s
  | .ctxctl d a b => Sys2Proof.Machine.execCtxctl d a b s
  | .setmode d a b => Sys2Proof.Machine.execSetmode d a b s
  | .modeset d a b => Sys2Proof.Machine.execModeset d a b s
  | .sysv d a b => Sys2Proof.Machine.execSysv d a b s
  | .rdfps d a b => Sys2Proof.Machine.execRdfps d a b s
  | .wrfps d a b => Sys2Proof.Machine.execWrfps d a b s
  | .rdcnt d a b => Sys2Proof.Machine.execRdcnt d a b s
  | .pgmap d a b => Sys2Proof.Machine.execPgmap d a b s
  | .pgunmap d a b => Sys2Proof.Machine.execPgunmap d a b s
  | .bra d a b => Sys2Proof.Machine.execBra d a b s
  | .bru d a b => Sys2Proof.Machine.execBru d a b s
  | .ifnz d a b => Sys2Proof.Machine.execIfnz d a b s
  | .elseOp d a b => Sys2Proof.Machine.execElseOp d a b s
  | .endif d a b => Sys2Proof.Machine.execEndif d a b s
  | .brnone d a b => Sys2Proof.Machine.execBrnone d a b s
  | .call d a b => Sys2Proof.Machine.execCall d a b s
  | .ret d a b => Sys2Proof.Machine.execRet d a b s
  | .loop d a b => Sys2Proof.Machine.execLoop d a b s
  | .fwait d a b => Sys2Proof.Machine.execFwait d a b s
  | .yield d a b => Sys2Proof.Machine.execYield d a b s
  | .brx d a b => Sys2Proof.Machine.execBrx d a b s
  | .iadd d a b => Sys2Proof.Machine.execIadd d a b s
  | .isub d a b => Sys2Proof.Machine.execIsub d a b s
  | .imul d a b => Sys2Proof.Machine.execImul d a b s
  | .imulh d a b => Sys2Proof.Machine.execImulh d a b s
  | .imin d a b => Sys2Proof.Machine.execImin d a b s
  | .imax d a b => Sys2Proof.Machine.execImax d a b s
  | .iabs d a b => Sys2Proof.Machine.execIabs d a b s
  | .ineg d a b => Sys2Proof.Machine.execIneg d a b s
  | .iand d a b => Sys2Proof.Machine.execIand d a b s
  | .ior d a b => Sys2Proof.Machine.execIor d a b s
  | .ixor d a b => Sys2Proof.Machine.execIxor d a b s
  | .inot d a b => Sys2Proof.Machine.execInot d a b s
  | .shr d a b => Sys2Proof.Machine.execShr d a b s
  | .shl d a b => Sys2Proof.Machine.execShl d a b s
  | .sar d a b => Sys2Proof.Machine.execSar d a b s
  | .rotl d a b => Sys2Proof.Machine.execRotl d a b s
  | .bfx d a b => Sys2Proof.Machine.execBfx d a b s
  | .bfi d a b => Sys2Proof.Machine.execBfi d a b s
  | .popc d a b => Sys2Proof.Machine.execPopc d a b s
  | .clz d a b => Sys2Proof.Machine.execClz d a b s
  | .brev d a b => Sys2Proof.Machine.execBrev d a b s
  | .imad d a b => Sys2Proof.Machine.execImad d a b s
  | .idiv d a b => Sys2Proof.Machine.execIdiv d a b s
  | .irem d a b => Sys2Proof.Machine.execIrem d a b s
  | .icmpeq d a b => Sys2Proof.Machine.execIcmpeq d a b s
  | .icmpne d a b => Sys2Proof.Machine.execIcmpne d a b s
  | .icmplt d a b => Sys2Proof.Machine.execIcmplt d a b s
  | .icmple d a b => Sys2Proof.Machine.execIcmple d a b s
  | .icmpgt d a b => Sys2Proof.Machine.execIcmpgt d a b s
  | .icmpge d a b => Sys2Proof.Machine.execIcmpge d a b s
  | .sel d a b => Sys2Proof.Machine.execSel d a b s
  | .mov d a b => Sys2Proof.Machine.execMov d a b s
  | .movl d a b => Sys2Proof.Machine.execMovl d a b s
  | .movi d a b => Sys2Proof.Machine.execMovi d a b s
  | .movih d a b => Sys2Proof.Machine.execMovih d a b s
  | .iaddl d a b => Sys2Proof.Machine.execIaddl d a b s
  | .imull d a b => Sys2Proof.Machine.execImull d a b s
  | .iandl d a b => Sys2Proof.Machine.execIandl d a b s
  | .iorl d a b => Sys2Proof.Machine.execIorl d a b s
  | .ixorl d a b => Sys2Proof.Machine.execIxorl d a b s
  | .mov64 d a b => Sys2Proof.Machine.execMov64 d a b s
  | .movl64 d a b => Sys2Proof.Machine.execMovl64 d a b s
  | .getexec d a b => Sys2Proof.Machine.execGetexec d a b s
  | .setexec d a b => Sys2Proof.Machine.execSetexec d a b s
  | .fadd d a b => Sys2Proof.Machine.execFadd d a b s
  | .fsub d a b => Sys2Proof.Machine.execFsub d a b s
  | .fmul d a b => Sys2Proof.Machine.execFmul d a b s
  | .fma d a b => Sys2Proof.Machine.execFma d a b s
  | .fms d a b => Sys2Proof.Machine.execFms d a b s
  | .fnma d a b => Sys2Proof.Machine.execFnma d a b s
  | .fnms d a b => Sys2Proof.Machine.execFnms d a b s
  | .fmal d a b => Sys2Proof.Machine.execFmal d a b s
  | .fdiv d a b => Sys2Proof.Machine.execFdiv d a b s
  | .fsqrt d a b => Sys2Proof.Machine.execFsqrt d a b s
  | .fmax d a b => Sys2Proof.Machine.execFmax d a b s
  | .fmin d a b => Sys2Proof.Machine.execFmin d a b s
  | .fmaxn d a b => Sys2Proof.Machine.execFmaxn d a b s
  | .fminn d a b => Sys2Proof.Machine.execFminn d a b s
  | .fabs d a b => Sys2Proof.Machine.execFabs d a b s
  | .fneg d a b => Sys2Proof.Machine.execFneg d a b s
  | .fexp2 d a b => Sys2Proof.Machine.execFexp2 d a b s
  | .flog2 d a b => Sys2Proof.Machine.execFlog2 d a b s
  | .frsq d a b => Sys2Proof.Machine.execFrsq d a b s
  | .fcpys d a b => Sys2Proof.Machine.execFcpys d a b s
  | .fceq d a b => Sys2Proof.Machine.execFceq d a b s
  | .fcne d a b => Sys2Proof.Machine.execFcne d a b s
  | .fclt d a b => Sys2Proof.Machine.execFclt d a b s
  | .fcle d a b => Sys2Proof.Machine.execFcle d a b s
  | .reduce d a b => Sys2Proof.Machine.execReduce d a b s
  | .scan d a b => Sys2Proof.Machine.execScan d a b s
  | .shfl d a b => Sys2Proof.Machine.execShfl d a b s
  | .shflup d a b => Sys2Proof.Machine.execShflup d a b s
  | .shfldn d a b => Sys2Proof.Machine.execShfldn d a b s
  | .shflx d a b => Sys2Proof.Machine.execShflx d a b s
  | .vote d a b => Sys2Proof.Machine.execVote d a b s
  | .matchOp d a b => Sys2Proof.Machine.execMatchOp d a b s
  | .fence d a b => Sys2Proof.Machine.execFence d a b s
  | .ifence d a b => Sys2Proof.Machine.execIfence d a b s
  | .cvt d a b => Sys2Proof.Machine.execCvt d a b s
  | .fcpack d a b => Sys2Proof.Machine.execFcpack d a b s
  | .fcunpk d a b => Sys2Proof.Machine.execFcunpk d a b s
  | .fclass d a b => Sys2Proof.Machine.execFclass d a b s
  | .frint d a b => Sys2Proof.Machine.execFrint d a b s
  | .fscale d a b => Sys2Proof.Machine.execFscale d a b s
  | .flogb d a b => Sys2Proof.Machine.execFlogb d a b s
  | .fcun d a b => Sys2Proof.Machine.execFcun d a b s
  | .frcp d a b => Sys2Proof.Machine.execFrcp d a b s
  | .ld32 d a b => Sys2Proof.Machine.execLd32 d a b s
  | .lda32 d a b => Sys2Proof.Machine.execLda32 d a b s
  | .ld8 d a b => Sys2Proof.Machine.execLd8 d a b s
  | .ld8s d a b => Sys2Proof.Machine.execLd8s d a b s
  | .ld16 d a b => Sys2Proof.Machine.execLd16 d a b s
  | .ld16s d a b => Sys2Proof.Machine.execLd16s d a b s
  | .ld64 d a b => Sys2Proof.Machine.execLd64 d a b s
  | .ld128 d a b => Sys2Proof.Machine.execLd128 d a b s
  | .st32 d a b => Sys2Proof.Machine.execSt32 d a b s
  | .stl32 d a b => Sys2Proof.Machine.execStl32 d a b s
  | .st8 d a b => Sys2Proof.Machine.execSt8 d a b s
  | .st16 d a b => Sys2Proof.Machine.execSt16 d a b s
  | .st64 d a b => Sys2Proof.Machine.execSt64 d a b s
  | .st128 d a b => Sys2Proof.Machine.execSt128 d a b s
  | .recwr d a b => Sys2Proof.Machine.execRecwr d a b s
  | .recrd d a b => Sys2Proof.Machine.execRecrd d a b s
  | .arrive d a b => Sys2Proof.Machine.execArrive d a b s
  | .waitp d a b => Sys2Proof.Machine.execWaitp d a b s
  | .barinit d a b => Sys2Proof.Machine.execBarinit d a b s
  | .bartest d a b => Sys2Proof.Machine.execBartest d a b s
  | .arrivex d a b => Sys2Proof.Machine.execArrivex d a b s
  | .aor32 d a b => Sys2Proof.Machine.execAor32 d a b s
  | .axor32 d a b => Sys2Proof.Machine.execAxor32 d a b s
  | .tkt d a b => Sys2Proof.Machine.execTkt d a b s
  | .twait d a b => Sys2Proof.Machine.execTwait d a b s
  | .tserve d a b => Sys2Proof.Machine.execTserve d a b s
  | .qstat d a b => Sys2Proof.Machine.execQstat d a b s
  | .lease d a b => Sys2Proof.Machine.execLease d a b s
  | .unlease d a b => Sys2Proof.Machine.execUnlease d a b s
  | .leaseq d a b => Sys2Proof.Machine.execLeaseq d a b s
  | .slotset d a b => Sys2Proof.Machine.execSlotset d a b s
  | .cas32 d a b => Sys2Proof.Machine.execCas32 d a b s
  | .cas64 d a b => Sys2Proof.Machine.execCas64 d a b s
  | .xchg32 d a b => Sys2Proof.Machine.execXchg32 d a b s
  | .aadd32 d a b => Sys2Proof.Machine.execAadd32 d a b s
  | .aadd64 d a b => Sys2Proof.Machine.execAadd64 d a b s
  | .amin32 d a b => Sys2Proof.Machine.execAmin32 d a b s
  | .amax32 d a b => Sys2Proof.Machine.execAmax32 d a b s
  | .aand32 d a b => Sys2Proof.Machine.execAand32 d a b s
  | .radd32 d a b => Sys2Proof.Machine.execRadd32 d a b s
  | .radd64 d a b => Sys2Proof.Machine.execRadd64 d a b s
  | .rmin32 d a b => Sys2Proof.Machine.execRmin32 d a b s
  | .rmax32 d a b => Sys2Proof.Machine.execRmax32 d a b s
  | .rand32 d a b => Sys2Proof.Machine.execRand32 d a b s
  | .ror32 d a b => Sys2Proof.Machine.execRor32 d a b s
  | .rxor32 d a b => Sys2Proof.Machine.execRxor32 d a b s
  | .mma d a b => Sys2Proof.Machine.execMma d a b s
  | .accld d a b => Sys2Proof.Machine.execAccld d a b s
  | .accst d a b => Sys2Proof.Machine.execAccst d a b s
  | .accz d a b => Sys2Proof.Machine.execAccz d a b s
  | .obclaim d a b => Sys2Proof.Machine.execObclaim d a b s
  | .obrel d a b => Sys2Proof.Machine.execObrel d a b s
  | .perturb d a b => Sys2Proof.Machine.execPerturb d a b s
  | .setshape d a b => Sys2Proof.Machine.execSetshape d a b s
  | .ldshape d a b => Sys2Proof.Machine.execLdshape d a b s
  | .stshape d a b => Sys2Proof.Machine.execStshape d a b s
  | .shfield d a b => Sys2Proof.Machine.execShfield d a b s
  | .getshape d a b => Sys2Proof.Machine.execGetshape d a b s
  | .powerSupplyRamp supply => Sys2Proof.Machine.execPowerSupplyRamp supply s
  | .supplyWindowMissed supply => Sys2Proof.Machine.execSupplyWindowMissed supply s
  | .bringUp report => Sys2Proof.Machine.execBringUp report s
  | .thermalGate die celsius => Sys2Proof.Machine.execThermalGate die celsius s
  | .thermalGateRelease die celsius => Sys2Proof.Machine.execThermalGateRelease die celsius s
  | .thermalShutdown die celsius => Sys2Proof.Machine.execThermalShutdown die celsius s
  | .controlFrameReceive port source frame => Sys2Proof.Machine.execControlFrameReceive port source frame s
  | .rotcfgWrite value => Sys2Proof.Machine.execRotcfgWrite value s
  | .flitReceive port flit => Sys2Proof.Machine.execFlitReceive port flit s
  | .relayForward port flit => Sys2Proof.Machine.execRelayForward port flit s
  | .fabricEventDeliver handle => Sys2Proof.Machine.execFabricEventDeliver handle s
  | .cxlMemAccess write addr bytes => Sys2Proof.Machine.execCxlMemAccess write addr bytes s
  | .vfEnable vf value => Sys2Proof.Machine.execVfEnable vf value s
  | .vfDisable vf value => Sys2Proof.Machine.execVfDisable vf value s
  | .vfBanksSet vf value => Sys2Proof.Machine.execVfBanksSet vf value s
  | .vfBanksClear vf value => Sys2Proof.Machine.execVfBanksClear vf value s
  | .vfGateSet vf value => Sys2Proof.Machine.execVfGateSet vf value s
  | .vfGateClear vf value => Sys2Proof.Machine.execVfGateClear vf value s
  | .lqEnable vf queue value => Sys2Proof.Machine.execLqEnable vf queue value s
  | .lqErrClear vf queue value => Sys2Proof.Machine.execLqErrClear vf queue value s
  | .tailSnoop addr bytes => Sys2Proof.Machine.execTailSnoop addr bytes s
  | .tailRefetch vf queue => Sys2Proof.Machine.execTailRefetch vf queue s
  | .launchPacketStart source linkOk => Sys2Proof.Machine.execLaunchPacketStart source linkOk s
  | .partcfgWrite partition value => Sys2Proof.Machine.execPartcfgWrite partition value s
  | .partitionReset value => Sys2Proof.Machine.execPartitionReset value s
  | .firewallDrop source target => Sys2Proof.Machine.execFirewallDrop source target s
  | .regbindBind value => Sys2Proof.Machine.execRegbindBind value s
  | .poisonDetect addr => Sys2Proof.Machine.execPoisonDetect addr s
  | .linefill value => Sys2Proof.Machine.execLinefill value s
  | .poolListRead vf value => Sys2Proof.Machine.execPoolListRead vf value s
  | .bar2Access vf write offset bytes => Sys2Proof.Machine.execBar2Access vf write offset bytes s
  | .dumpWindowRead vf offset => Sys2Proof.Machine.execDumpWindowRead vf offset s
  | .fatalErrorDump cause die => Sys2Proof.Machine.execFatalErrorDump cause die s
  | .dumpClear value => Sys2Proof.Machine.execDumpClear value s
  | .registerWrite function offset data => Sys2Proof.Machine.execRegisterWrite function offset data s
  | .spdmGetVersion function => Sys2Proof.Machine.execSpdmGetVersion function s
  | .spdmGetCapabilities function => Sys2Proof.Machine.execSpdmGetCapabilities function s
  | .spdmNegotiateAlgorithms function => Sys2Proof.Machine.execSpdmNegotiateAlgorithms function s
  | .spdmGetDigests function => Sys2Proof.Machine.execSpdmGetDigests function s
  | .spdmGetCertificate function => Sys2Proof.Machine.execSpdmGetCertificate function s
  | .spdmChallenge function => Sys2Proof.Machine.execSpdmChallenge function s
  | .spdmGetMeasurements function => Sys2Proof.Machine.execSpdmGetMeasurements function s
  | .spdmKeyExchange function => Sys2Proof.Machine.execSpdmKeyExchange function s
  | .spdmFinish function => Sys2Proof.Machine.execSpdmFinish function s
  | .spdmKeyUpdate function => Sys2Proof.Machine.execSpdmKeyUpdate function s
  | .spdmEndSession function => Sys2Proof.Machine.execSpdmEndSession function s
  | .spdmUnsupportedRequest function code => Sys2Proof.Machine.execSpdmUnsupportedRequest function code s
  | .ideKeyProgram function => Sys2Proof.Machine.execIdeKeyProgram function s
  | .install function value => Sys2Proof.Machine.execInstall function value s
  | .remove function value => Sys2Proof.Machine.execRemove function value s
  | .removeTakeEffect handle => Sys2Proof.Machine.execRemoveTakeEffect handle s
  | .reservationReplacement resource => Sys2Proof.Machine.execReservationReplacement resource s
  | .farLineFill op line answer => Sys2Proof.Machine.execFarLineFill op line answer s
  | .l2farWrite partition value => Sys2Proof.Machine.execL2farWrite partition value s
  | .l2farTakeEffect partition => Sys2Proof.Machine.execL2farTakeEffect partition s
  | .atomicPerform op request answer => Sys2Proof.Machine.execAtomicPerform op request answer s
  | .barrierCount source => Sys2Proof.Machine.execBarrierCount source s
  | .collectiveStart handle scope number => Sys2Proof.Machine.execCollectiveStart handle scope number s
  | .collectiveStep handle scope number remote => Sys2Proof.Machine.execCollectiveStep handle scope number remote s
  | .collectiveEnd handle scope number => Sys2Proof.Machine.execCollectiveEnd handle scope number s
  | .matrixSelfTest core failing => Sys2Proof.Machine.execMatrixSelfTest core failing s
  | .dieWithdrawal die => Sys2Proof.Machine.execDieWithdrawal die s
  | .poolAllotment handle channels destinations => Sys2Proof.Machine.execPoolAllotment handle channels destinations s
  | .packageLeavesPod package => Sys2Proof.Machine.execPackageLeavesPod package s
  | .powerDownSequence => Sys2Proof.Machine.execPowerDownSequence s
  | .powerOnReset => Sys2Proof.Machine.execPowerOnReset s
  | .hostReset => Sys2Proof.Machine.execHostReset s
  | .dieWarmReset => Sys2Proof.Machine.execDieWarmReset s
  | .frameTick => Sys2Proof.Machine.execFrameTick s
  | .thermalRecordRead => Sys2Proof.Machine.execThermalRecordRead s
  | .thermalRecordClear => Sys2Proof.Machine.execThermalRecordClear s
  | .controlFrameSend => Sys2Proof.Machine.execControlFrameSend s
  | .leaseControllerApply => Sys2Proof.Machine.execLeaseControllerApply s
  | .guardElapsed => Sys2Proof.Machine.execGuardElapsed s
  | .drainComplete => Sys2Proof.Machine.execDrainComplete s
  | .turnBoundary => Sys2Proof.Machine.execTurnBoundary s
  | .rotcfgTakeEffect => Sys2Proof.Machine.execRotcfgTakeEffect s
  | .flitSend => Sys2Proof.Machine.execFlitSend s
  | .ingressDrain => Sys2Proof.Machine.execIngressDrain s
  | .laserFailure => Sys2Proof.Machine.execLaserFailure s
  | .portFailure => Sys2Proof.Machine.execPortFailure s
  | .streamReplacement => Sys2Proof.Machine.execStreamReplacement s
  | .channelRepair => Sys2Proof.Machine.execChannelRepair s
  | .fabricSendCommand => Sys2Proof.Machine.execFabricSendCommand s
  | .fabricSendEnd => Sys2Proof.Machine.execFabricSendEnd s
  | .ideEstablish => Sys2Proof.Machine.execIdeEstablish s
  | .swapOutComplete => Sys2Proof.Machine.execSwapOutComplete s
  | .launchComplete => Sys2Proof.Machine.execLaunchComplete s
  | .regionScrub => Sys2Proof.Machine.execRegionScrub s
  | .slotService => Sys2Proof.Machine.execSlotService s
  | .reservedRequestDepart => Sys2Proof.Machine.execReservedRequestDepart s
  | .workgroupStart => Sys2Proof.Machine.execWorkgroupStart s
  | .groupSeat => Sys2Proof.Machine.execGroupSeat s
  | .groupUnseat => Sys2Proof.Machine.execGroupUnseat s
  | .groupWake => Sys2Proof.Machine.execGroupWake s
  | .clauseStart => Sys2Proof.Machine.execClauseStart s
  | .llsHalving => Sys2Proof.Machine.execLlsHalving s
  | .throttleEvaluation => Sys2Proof.Machine.execThrottleEvaluation s
  | .watchdogExpiry => Sys2Proof.Machine.execWatchdogExpiry s
  | .registerLineInstall => Sys2Proof.Machine.execRegisterLineInstall s
  | .faultService => Sys2Proof.Machine.execFaultService s
  | .mantleScrub => Sys2Proof.Machine.execMantleScrub s
  | .longLatencyComplete => Sys2Proof.Machine.execLongLatencyComplete s
  | .loadDataReturn => Sys2Proof.Machine.execLoadDataReturn s
  | .trapEntry => Sys2Proof.Machine.execTrapEntry s
  | .suspensionEffect => Sys2Proof.Machine.execSuspensionEffect s
  | .copyCommand => Sys2Proof.Machine.execCopyCommand s
  | .fillCommand => Sys2Proof.Machine.execFillCommand s
  | .copyUnknownKind => Sys2Proof.Machine.execCopyUnknownKind s
  | .copyChunkComplete => Sys2Proof.Machine.execCopyChunkComplete s
  | .copyTransferEnd => Sys2Proof.Machine.execCopyTransferEnd s
  | .storeCommit => Sys2Proof.Machine.execStoreCommit s
  | .releaseComplete => Sys2Proof.Machine.execReleaseComplete s
  | .acquireComplete => Sys2Proof.Machine.execAcquireComplete s
  | .barrierPhaseAdvance => Sys2Proof.Machine.execBarrierPhaseAdvance s
  | .barrierWake => Sys2Proof.Machine.execBarrierWake s
  | .tserveBroadcast => Sys2Proof.Machine.execTserveBroadcast s
  | .spinelCommand => Sys2Proof.Machine.execSpinelCommand s
  | .matrixCommandStart => Sys2Proof.Machine.execMatrixCommandStart s
  | .matrixCommandEnd => Sys2Proof.Machine.execMatrixCommandEnd s
  | .matrixMarker => Sys2Proof.Machine.execMatrixMarker s

end Sys2Proof.Machine
end

