-- ==== Sys2Proof/Machine/Schedule.lean ====
section
/-!
DEFINITION. Which turn comes when the agenda is empty (log 1): of everything that could happen inside the package now, the first that
changes the state, looked for from a place that moves on with the state's counter. An agenda lists turns in any order the hardware
may take them; the default is one such order.
-/
namespace Sys2Proof.Machine

/-- The turn of a step of the opcode table with its subject. -/
def ev (i : Instr) (x y z : Nat) : Turn := .event i x y z

/-- Turns of the rails of the cores that have seated groups, and of their schedulers. -/
def State.coreTurns (s : State) : List Turn :=
  let live := s.groups.filter (fun g => g.gstate != .retired)
  let cores := (live.map (fun g => g.core)).foldl (fun l c => insertSorted c l) []
  let rails (c : Nat) : List Nat :=
    (live.filter (fun g => g.core == c)).foldl (fun l g => match g.seat with | none => l | some n => insertSorted (railOfSeat n) l) []
  cores.flatMap (fun c => (rails c).flatMap (fun r => [Turn.issue c r, ev .trapEntry c r 0]) ++
    s.tickets.map (fun (e : Nat × Dispenser) => ev .tserveBroadcast c e.1 0) ++
    [ev .groupSeat c 0 0, ev .matrixCommandStart c 0 0, ev .matrixCommandEnd c 0 0])

/-- Turns of one group. -/
def State.groupTurns (s : State) (g : Group) : List Turn :=
  (if g.gstate = .retired then []
   else [ev .groupWake g.gid 0 0, ev .barrierWake g.gid 0 0, ev .suspensionEffect g.gid 0 0, ev .watchdogExpiry g.gid 0 0,
      ev .groupUnseat g.gid 0 0, ev .matrixMarker g.gid 0 0] ++
     (if g.gstate = .seated ∨ g.gstate = .waiting then (s.neededLines g).map (fun j => ev .registerLineInstall g.gid j 0) else [])) ++
  (if (g.queue 4).isEmpty then []
   else [ev .copyCommand g.gid 0 0, ev .fillCommand g.gid 0 0, ev .copyUnknownKind g.gid 0 0, ev .fabricSendCommand g.gid 0 0]) ++
  (if (g.queue 8).isEmpty then [] else [ev .spinelCommand g.gid 0 0])

/-- Turns of one outstanding operation. -/
def OutOp.turns (o : OutOp) : List Turn :=
  (match o.kind with
  | .load _ _ _ _ lines _ _ _ =>
    (List.range lines.length).map (fun i => ev .loadDataReturn o.id i 0) ++ lines.map (fun l => ev .reservedRequestDepart o.id l.addr 0)
  | .atomic _ _ _ _ reqs _ _ _ => (List.range reqs.length).map (fun i => ev (.atomicPerform o.id i .none) 0 0 0)
  | .release .. => [ev .releaseComplete o.id 0 0, ev (.barrierCount (.arrival o.id)) 0 0 0]
  | .acquire .. => [ev .acquireComplete o.id 0 0]
  | _ => []) ++ [ev .longLatencyComplete o.id 0 0]

/-- Turns of one transfer of a copy engine. -/
def State.transferTurns (s : State) (t : Transfer) : List Turn :=
  let bitmap := match s.group? t.gid with | none => 0 | some g => g.bitmap t.map
  (t.flying ++ (t.nextChunk bitmap).toList).map (fun k => ev .copyChunkComplete t.id k 0) ++
    [ev .copyTransferEnd t.id 0 0, ev .fabricSendEnd t.id 0 0]

/-- Turns of one installation: the slots its waiting requests may be served at, its events and its removal. -/
def State.installTurns (s : State) (i : Installation) : List Turn :=
  (i.insts.filter (fun n => !n.waiting.isEmpty && decide (i.effective ≤ s.pkg.frame))).flatMap (fun n => (n.slots.take 1).map (fun k => ev .slotService n.anchor k 0)) ++
    (if i.events.isEmpty then [] else [ev (.fabricEventDeliver i.handle) 0 0 0]) ++
    (if i.removing then [ev (.removeTakeEffect i.handle) 0 0 0] else []) ++
    i.withdrawing.map (fun d => ev (.dieWithdrawal d) 0 0 0)

/-- Turns of one launch: its end, and its next workgroup. -/
def Launch.turns (l : Launch) : List Turn :=
  if l.complete then []
  else [ev .launchComplete l.id 0 0] ++
    (((List.range (l.started.length + 1)).find? (fun w => decide (w < l.wgCount) && !l.started.contains w)).toList.map (fun w =>
      ev .workgroupStart l.id w 0))

/-- Turns of a function's queues and of its swap-out. -/
def Fn.turns (v : Nat) (f : Fn) : List Turn :=
  f.queues.flatMap (fun (q : Nat × LaunchQueue) =>
    if q.2.enabled then [ev (.tailRefetch v q.1) 0 0 0, ev (.launchPacketStart (.host v q.1) true) 0 0 0] else []) ++
    (if f.devQueue.isEmpty then [] else [ev (.launchPacketStart (.device v) true) 0 0 0]) ++
    (if f.leaving = 0 then [] else [ev .swapOutComplete v 0 0])

/-- Turns of collectives whose commands have come, and of those under way on this package alone. -/
def State.spinTurns (s : State) : List Turn :=
  s.spin.map (fun c => ev (.collectiveStart c.handle (spinScope c.word) c.number) 0 0 0) ++
    s.collect.flatMap (fun c => [ev (.collectiveStep c.handle c.scope c.number ⟨[], true, false⟩) 0 0 0,
      ev (.collectiveEnd c.handle c.scope c.number) 0 0 0])

/-- Turns of the fabric interface. -/
def State.fabricTurns (s : State) : List Turn :=
  s.fab.channels.flatMap (fun (e : Nat × Channel) =>
    [ev .flitSend (e.1 / 16) (e.1 % 16) 0, ev .guardElapsed (e.1 / 16) (e.1 % 16) 0, ev .drainComplete (e.1 / 16) (e.1 % 16) 0] ++
      (if e.2.state = .slotted then [ev .turnBoundary (e.1 / 16) (e.1 % 16) 0] else []) ++
      s.fab.waiting.map (fun w => ev .flitSend (e.1 / 16) (e.1 % 16) w.2.2.number) ++
      (s.transfers.filter (fun t => t.kind == 9)).map (fun t => ev .flitSend (e.1 / 16) (e.1 % 16) t.id)) ++
    s.fab.ports.map (fun (e : Nat × Port) => ev .ingressDrain e.1 0 0) ++
    (if s.fab.requests.isEmpty then [] else [ev .leaseControllerApply 0 0 0]) ++
    (if s.fab.revoked.isEmpty then [] else [ev .streamReplacement 0 0 0]) ++
    (if s.fab.rotNext.isNone then [] else [ev .rotcfgTakeEffect 0 0 0])

/-- Everything that could happen inside the package now; the frame's end among it. -/
def State.candidates (s : State) : List Turn :=
  s.coreTurns ++ s.groups.flatMap s.groupTurns ++ s.ops.flatMap OutOp.turns ++
    s.commits.flatMap (fun c => [ev .storeCommit c.id 0 0, ev .reservedRequestDepart c.id 0 0]) ++
    s.landed.map (fun l => ev (.barrierCount (.landed l.number)) 0 0 0) ++
    s.bars.map (fun (e : Nat × Barrier) => ev .barrierPhaseAdvance (barScope e.1) (barUnit e.1) (e.1 % 65536)) ++
    s.transfers.flatMap s.transferTurns ++ s.spinTurns ++
    s.faults.map (fun (e : Nat × List (Nat × Nat)) => ev .faultService e.1 0 0) ++
    s.launches.flatMap Launch.turns ++ s.host.fns.flatMap (fun (e : Nat × Fn) => e.2.turns e.1) ++
    s.installs.flatMap s.installTurns ++ s.fabricTurns ++
    s.host.parts.map (fun (e : Nat × Partition) => ev (.l2farTakeEffect e.1) 0 0 0) ++
    (if s.mem.toScrub.isEmpty then [] else [ev .regionScrub 0 0 0]) ++ [ev .frameTick 0 0 0]

/-- Whether two states differ in more than the model's own counters. -/
def State.differs (s t : State) : Bool :=
  t != { s with agenda := t.agenda, turn := t.turn, cur := t.cur, freeCtr := t.freeCtr, nextId := t.nextId }

/-- Whether a turn would change the state. -/
def State.moves (s : State) (t : Turn) : Bool :=
  match s.moveOf t with
  | .run i u => (match exec i u with
    | .next v => s.differs v
    | _ => true)
  | .bad _ => true
  | .none => false

/-- The default turn (log 1). -/
def nextTurn (s : State) : Turn :=
  let cs := s.candidates
  let k := s.freeCtr % max 1 cs.length
  ((cs.drop k ++ cs.take k).find? s.moves).getD (.event .frameTick 0 0 0)

/-- Takes the turn that comes next off the agenda. -/
def State.takeTurn (s : State) : Turn × State :=
  match s.agenda with
  | [] => (nextTurn s, s.tick)
  | t :: ts => (t, { s with agenda := ts })

end Sys2Proof.Machine
end

