-- ==== Sys2Proof/Machine/Step.lean ====
section
/-!
DEFINITION. One step of the machine: the next turn's instruction is executed. And the state in which a given word is the
next instruction.
-/
namespace Sys2Proof.Machine

/-- One step. -/
def step (s : State) : Host.Outcome State Fault Refusal :=
  match s.takeTurn.2.moveOf s.takeTurn.1 with
  | .run i t => exec i t
  | .bad t => .next t
  | .none => .refused .notAStep

/-! ### A given word as the next instruction (log 56) -/

/-- The word a row of the opcode table stands for, in the bytes the K7 stores (12 R315). -/
def tableWord (nbits w : Nat) : Word :=
  match bytesOfNat 4 (w % 2 ^ nbits) with
  | [b0, b1, b2, b3] => wordOfBytes b0 b1 b2 b3
  | _ => 0#32

/-- A clause of one word, with two literals of zeros; it waits for no flag, and its operations count on flag 0. -/
def oneWordClause (w : Word) : FetchedClause :=
  ⟨encodeHeader { count := 1, wait := 0#12, setA := 0, setB := 0, uni := 0#4, lit := 2 }, [w], [0#32, 0#32], 0⟩

/-- The kernel of the loaded program: one group, every register, the default handler. -/
def loadedKernel : Kernel where
  record := { entry := 0, trapEntry := 0xFFFFFFFF, span := 0, nDecl := 0, nFab := 0, nShape := 0, groups := 1, regs := 240, maxWg := 1
              allow := 0, spad := 0, flags := 0, engRate := 0, bars := [] }
  decls := []
  fabs := []
  shapes := []
  positions := [⟨0, 0, 0, 0⟩]
  seqNext := 1

/-- An installation of it, with nothing mapped. -/
def loadedInstall (handle : Word) : Installation where
  handle := handle
  fn := 1
  part := 0
  hash := 0#256
  textBase := 0
  kernels := [loadedKernel]
  pages := []
  floor := 0#9
  insts := []
  streams := []
  receives := []
  dieBase := 0
  pkgBase := 0
  podBase := 0
  pool := none
  lost := false
  streamLost := false
  removing := false
  withdrawing := []
  withdrawn := []
  events := []
  evLost := false
  impFail := 0
  effective := 0
  spinNumber := []

/-- A launch of one workgroup of it. -/
def loadedLaunch (id : Nat) (handle : Word) : Launch where
  id := id
  handle := handle
  kernel := 0
  fn := 1
  queue := 0
  index := 0
  flags := 0
  ctxBase := 0
  wgCount := 1
  groups := 1
  compAddr := 0#64
  compVal := 0#64
  args := []
  first := 0
  started := [0]
  retired := []
  status := 0
  frame := 0
  pusher := none
  complete := false

/-- Its group in a seat of core 0, all 32 lanes active, in the middle of a clause of the word. -/
def loadedGroup (gid launch seat : Nat) (handle w : Word) : Group where
  gid := gid
  launch := launch
  workgroup := 0
  sequence := 0
  localNo := 0
  kernel := 0
  fn := 1
  core := 0
  gstate := .seated
  seat := some seat
  ctl := { exist := 0xFFFFFFFF#32, exec := 0xFFFFFFFF#32, handle := handle }
  clause := some (oneWordClause w)

/-- A seat of core 0 that no group has, on a rail with no clause under way. -/
def State.freeSeat (s : State) : Nat :=
  ((List.range Config.seats).find? (fun n =>
    s.groups.all (fun g => g.core != 0 || g.seat != some n) && (s.rail 0 (railOfSeat n)).clauseOf.isNone)).getD 0

/-- A handle that no installation has. -/
def State.freeHandle (s : State) : Word :=
  ((List.range (s.installs.length + 1)).map (fun n => BitVec.ofNat 32 (n + 1))).find? (fun h =>
    s.installs.all (fun i => i.handle != h)) |>.getD 1#32

/-- A program of one word, loaded from outside and in the middle of its clause, whose turn comes next. -/
def State.loadWord (s : State) (w : Word) : State :=
  let gid := s.nextId
  let seat := s.freeSeat
  let handle := s.freeHandle
  { s.onRail 0 (railOfSeat seat) (fun r => { r with clauseOf := some gid }) with
    agenda := .issue 0 (railOfSeat seat) :: s.agenda
    nextId := s.nextId + 2
    installs := loadedInstall handle :: s.installs
    launches := loadedLaunch (s.nextId + 1) handle :: s.launches
    groups := loadedGroup gid (s.nextId + 1) seat handle w :: s.groups }

/-- The group whose word the next step takes, when the next turn is a rail's in the middle of a clause. -/
def State.nextGroup (s : State) : Option Group :=
  match s.agenda with
  | .issue c r :: _ =>
    match (s.rail c r).clauseOf with
    | none => none
    | some gid => (s.group? gid).bind (fun g => if g.slotWord.isSome then some g else none)
  | _ => none

/-- The state in which a word of the opcode table is the next instruction: it takes the place of the word the next step
fetches; where the next turn fetches none, a program of that word is loaded. -/
def State.withFetchWord (s : State) (nbits w : Nat) : State :=
  match s.nextGroup with
  | some g => s.putGroup { g with clause := g.clause.map (fun (c : FetchedClause) =>
      { c with words := c.words.set g.ctl.slot (tableWord nbits w) }) }
  | none => s.loadWord (tableWord nbits w)

end Sys2Proof.Machine
end

