-- ==== Sys2Proof/Safety.lean ====
section
/-!
DEFINITION. The terms the statements are made in: what stands in a group's way when an instruction issues, where a group
goes on behind one, and what an instruction leaves as it was.
-/
namespace Sys2Proof.Machine

/-! ### An instruction that issues -/

/-- An instruction of group g issues with its full effect in s (13 R348): g has the turn, is in a clause, passes the checks of
R319, has an active lane, has the words its queue operands take, and nothing makes it wait. It is no shadow, and as a leader it
neither pops nor synchronises (Obligations.Pairs says what those do). `x` is the instruction with the words it popped, and `u` the
state behind the pops. -/
structure Issues (s : State) (g : Group) (c : FetchedClause) (form : Form) (op d a b : Byte) (x : Ctx) (u : State) : Prop where
  cur    : s.cur = some g.gid
  group  : s.group? g.gid = some g
  clause : g.clause = some c
  seat   : g.ctl.handler = true → g.seat.isSome = true
  legal  : s.tick.findingsAt g form d.toNat a.toNat b.toNat = none
  lanes  : laneList (s.tick.actLanes g form) ≠ []
  first  : g.ctl.shadow = false
  pops   : (s.tick.ctxOf g form op.toNat d.toNat a.toNat b.toNat).takePops s.tick = some (u, x)
  waits  : x.mustWait u = none
  alone  : g.ctl.leads = true → x.popsAny = false ∧ x.syncs = false

/-- An instruction of group g has its turn in s, passes the checks of 12 R319 and has an active lane; `x` is the instruction before its
pops (13 R348). -/
structure Reaches (s : State) (g : Group) (c : FetchedClause) (form : Form) (op d a b : Byte) (x : Ctx) : Prop where
  cur    : s.cur = some g.gid
  group  : s.group? g.gid = some g
  clause : g.clause = some c
  legal  : s.tick.findingsAt g form d.toNat a.toNat b.toNat = none
  lanes  : laneList (s.tick.actLanes g form) ≠ []
  ctx    : x = s.tick.ctxOf g form op.toNat d.toNat a.toNat b.toNat

/-- Where a group goes on behind the instruction at its slot: the next slot, or the next clause (06 R166). -/
def Control.behind (k : Control) (c : FetchedClause) (lits : Nat) : Control :=
  if k.slot + 1 < c.words.length then { k with slot := k.slot + 1, litPos := k.litPos + lits }
  else { k with
    pc := k.pc + BitVec.ofNat 64 (4 * (1 + c.words.length + c.lits.length)), slot := 0, litPos := 0, resumeWait := false
    wdCount := 0#64 }

/-- Where a group goes on behind a branch that is taken (13 R352). -/
def Control.branched (k : Control) (target : Word64) : Control :=
  { k with pc := target, slot := 0, litPos := 0, resumeWait := false, wdCount := 0#64 }

/-! ### What an instruction leaves as it was -/

/-- From s to t only group g and its core have changed, and on the core only register lines, the window and the clause under way
of the group's own rail: memory, the other groups and cores, the host and fabric side, the matrix engine, barriers, tickets,
transfers and stores in flight are as before. An operation that was outstanding is still there; it may have lost a result to a
later write (06 R168). `h` is the group in t. -/
structure OnlyGroup (s t : State) (g h : Group) : Prop where
  found  : t.group? g.gid = some h
  others : ∀ n, n ≠ g.gid → t.group? n = s.group? n
  bytes  : ∀ a, Memory.read t.mem.bytes a = Memory.read s.mem.bytes a
  rest   : t = { s with freeCtr := t.freeCtr, groups := t.groups, cores := t.cores, ops := t.ops }
  cores  : ∀ n, n ≠ g.core → t.core n = s.core n
  mine   : t.core g.core = { s.core g.core with mantle := (t.core g.core).mantle, rails := (t.core g.core).rails }
  rails  : ∀ r, t.rail g.core r = { s.rail g.core r with window := (t.rail g.core r).window, clauseOf := (t.rail g.core r).clauseOf }
  other  : ∀ r, g.seat.map railOfSeat ≠ some r → t.rail g.core r = s.rail g.core r
  ops    : t.ops.map (fun o => { o with clobbered := [] }) = s.ops.map (fun o => { o with clobbered := [] })

/-- From s to t a group has come to a stop at its instruction (05 R143): it holds its wait and its rail is free; nothing was popped,
pushed or sent, and nothing else has changed. -/
def Stalls (s t : State) (g : Group) (st : Stall) : Prop :=
  OnlyGroup s t g { g with stalled := some st } ∧ t.ops = s.ops ∧ t.commits = s.commits ∧
    ∀ r l, t.heldReg { g with stalled := some st } r l = s.heldReg g r l

/-- The state behind a mismatch of a pair (06 R192): event 0x36 has gone to the physical function and to the tenant, with the clause
address, and both groups are killed. -/
def Mismatched (s t : State) (g h : Group) : Prop :=
  let say (w : State) (q : Nat) : State := w.event q 0x36 g.fn g.ctl.pc.toNat g.ctl.handle.toNat g.ctl.group.toNat
  t = (say (say s.tick 0) g.fn).killGroup g.gid ∧ (∃ k, t.group? g.gid = some k ∧ k.gstate = .retired ∧ k.killed = true) ∧
    ∃ k, t.group? h.gid = some k ∧ k.gstate = .retired

/-- Of a group, only its registers, its queues, its control area and its counters have changed, and it stands behind its
instruction: the records, shapes and bitmaps, its place, seat and launch are as before. -/
structure OnlyContext (g h : Group) : Prop where
  rest : h = { g with
    regs := h.regs, regErr := h.regErr, backed := h.backed, queues := h.queues, ctl := h.ctl, clause := h.clause
    stalled := h.stalled, done := h.done, counters := h.counters }

/-- Every register word of the group is as before, but for the registers from d on in some lanes. -/
def RegsKept (s t : State) (g h : Group) (d n : Nat) (lanes : List Nat) : Prop :=
  ∀ r l, r < 256 → l < 32 → ¬(l ∈ lanes ∧ d ≤ r ∧ r < d + n) → t.heldReg h r l = s.heldReg g r l

/-- A value stands in the registers a field of a kind names in a lane: the register, or the pair, low word in the even
register (06 R154). -/
def Holds (t : State) (h : Group) (k : Kind) (r l : Nat) (v : Word64) : Prop :=
  t.heldReg h r l = loWord v ∧ (k = .pair → t.heldReg h (r + 1) l = hiWord v)

/-- What an instruction has done that acts on its own group alone: the control area is a given one, the registers from d on in some
lanes may have changed, the queues are as the pops left them, and nothing else has changed. -/
structure GroupDone (s t : State) (g h : Group) (u : State) (ctl : Control) (d n : Nat) (lanes : List Nat) : Prop where
  control : h.ctl = ctl
  regs    : RegsKept s t g h d n lanes
  queues  : (u.group? g.gid).map (fun k => k.queues) = some h.queues
  context : OnlyContext g h
  outside : OnlyGroup s t g h

/-- What a per-lane instruction has done (13 R348): each lane that is written holds its value in d, the group's exceptions and
SATF are raised as the lanes say, the group stands behind the instruction with the queues the pops left, and nothing else has
changed. -/
structure LaneDone (s t : State) (g : Group) (c : FetchedClause) (x : Ctx) (u : State) (h : Group) (outs : List (Nat × LaneOut)) :
    Prop where
  values : ∀ o ∈ outs, Holds t h (x.kind .d) x.d o.1 o.2.val
  done   : GroupDone s t g h u ((g.ctl.raiseAll outs).behind c x.form.lits) x.d (x.kind .d).span (outs.map (fun o => o.1))

/-- A per-lane instruction with a register or a pair for d: whenever it issues and no lane raises an exception its MODE traps, it
completes and does what the lanes say. -/
def LaneResult (mk : Byte → Byte → Byte → Instr) (form : Byte → Byte → Form) (op : Byte) (f : Ctx → State → Nat → LaneOut) : Prop :=
  ∀ s g c d a b x u, Issues s g c (form a b) op d a b x u → x.dying = [] → d.toNat < 240 →
    fpxTrap (modeTraps g.ctl.mode) (x.results u f) = none →
    ∃ t h, exec (mk d a b) s = .next t ∧ LaneDone s t g c x u h (x.spread (x.results u f))

/-- The same for an instruction that raises no exception: it completes whenever it issues. -/
def IntResult (mk : Byte → Byte → Byte → Instr) (form : Byte → Byte → Form) (op : Byte) (f : Ctx → State → Nat → LaneOut) : Prop :=
  ∀ s g c d a b x u, Issues s g c (form a b) op d a b x u → x.dying = [] → d.toNat < 240 →
    ∃ t h, exec (mk d a b) s = .next t ∧ LaneDone s t g c x u h (x.spread (x.results u f))

/-- The lanes of S whose cross-lane result met a dead source (14 R399). -/
def Ctx.deadSources (x : Ctx) (u : State) (f : Ctx → State → Nat → CrossOut) : Word :=
  maskOf (((x.spread (x.L.map (fun l => (l, f x u l)))).filter (fun o => o.2.dead)).map (fun o => o.1))

/-- What a cross-lane instruction has done (14 R399): as a per-lane one, and DEADSRC has the lanes that met a dead source. -/
structure CrossDone (s t : State) (g : Group) (c : FetchedClause) (x : Ctx) (u : State) (h : Group) (f : Ctx → State → Nat → CrossOut) :
    Prop where
  values : ∀ o ∈ x.spread (x.L.map (fun l => (l, (f x u l).out.val))), Holds t h (x.kind .d) x.d o.1 o.2
  done   : GroupDone s t g h u
    ({ g.ctl.raiseAll (x.spread (x.results u (fun x u l => (f x u l).out))) with
        deadSrc := (g.ctl.raiseAll (x.spread (x.results u (fun x u l => (f x u l).out)))).deadSrc ||| x.deadSources u f }.behind c
      x.form.lits) x.d (x.kind .d).span x.S

/-- A cross-lane instruction completes as its lanes say, whenever it issues and no lane raises an exception its MODE traps. -/
def CrossResult (mk : Byte → Byte → Byte → Instr) (form : Form) (op : Byte) (f : Ctx → State → Nat → CrossOut) : Prop :=
  ∀ s g c d a b x u, Issues s g c form op d a b x u → x.dying = [] → d.toNat < 240 →
    fpxTrap (modeTraps g.ctl.mode) (x.results u (fun x u l => (f x u l).out)) = none →
    ∃ t h, exec (mk d a b) s = .next t ∧ CrossDone s t g c x u h f

/-- The results of a long-latency instruction that computes them at issue: what it writes, and what it raises, when it completes. -/
def Ctx.later (x : Ctx) (u : State) (f : Ctx → State → Nat → LaneOut) : OpKind :=
  .value (x.writesOf ((x.results u f).map (fun o => (o.1, o.2.val)))) ((x.spread (x.results u f)).map (fun o => (o.1, o.2.exc)))
    ((x.results u f).any (fun o => o.2.sat))

/-- From s to t an instruction has sent something on its way: the words of every register of its group are as before, every byte of
memory too, and so are the other groups and cores and everything else but the operations and stores in flight, the translation
caches, and on its own core the L1, the matrix stream and the claims of tiles. Its group differs in its control area, queues and
counters alone. -/
structure Near (s t : State) (g h : Group) : Prop where
  found   : t.group? g.gid = some h
  others  : ∀ n, n ≠ g.gid → t.group? n = s.group? n
  bytes   : ∀ a, Memory.read t.mem.bytes a = Memory.read s.mem.bytes a
  rest    : t = { s with
    freeCtr := t.freeCtr, nextId := t.nextId, groups := t.groups, cores := t.cores, ops := t.ops, commits := t.commits
    dieTlb := t.dieTlb }
  cores   : ∀ n, n ≠ g.core → t.core n = s.core n
  mine    : t.core g.core = { s.core g.core with
    mantle := (t.core g.core).mantle, rails := (t.core g.core).rails, tlb := (t.core g.core).tlb, l1 := (t.core g.core).l1
    stream := (t.core g.core).stream, tileOwner := (t.core g.core).tileOwner }
  other   : ∀ r, g.seat.map railOfSeat ≠ some r → t.rail g.core r = s.rail g.core r
  regs    : ∀ r l, r < 256 → l < 32 → t.heldReg h r l = s.heldReg g r l
  context : OnlyContext g h

/-- From w to t the group has moved on behind its instruction (06 R166): its control area stands at the next slot or clause, its queues
and every register word are as in w, and nothing else has changed but its counters and its hold of the rail. -/
def Behind (w t : State) (n : Nat) (c : FetchedClause) (lits : Nat) : Prop :=
  ∃ k h, w.group? n = some k ∧ OnlyGroup w t k h ∧ OnlyContext k h ∧ h.ctl = k.ctl.behind c lits ∧ h.queues = k.queues ∧
    t.commits = w.commits ∧ t.ops = w.ops ∧ ∀ r l, t.heldReg h r l = w.heldReg k r l

/-- From w to t the group has taken a branch (13 R352): its pc is the target, and nothing else has changed as above. -/
def Branches (w t : State) (n : Nat) (target : Word64) : Prop :=
  ∃ k h, w.group? n = some k ∧ OnlyGroup w t k h ∧ OnlyContext k h ∧ h.ctl = k.ctl.branched target ∧ h.queues = k.queues ∧
    t.commits = w.commits ∧ t.ops = w.ops ∧ ∀ r l, t.heldReg h r l = w.heldReg k r l

/-- Register d of every lane of S holds a word, written as an instruction writes it (13 R348). -/
def Ctx.wroteAll (x : Ctx) (w : State) (d : Nat) (v : Word) : State := x.S.foldl (fun t l => t.writeReg x.gid d l v) w

/-- The control area of the instruction's group, changed. -/
def Ctx.control (x : Ctx) (w : State) (f : Control → Control) : State := w.onGroup x.gid (fun g => g.onCtl f)

/-- A MODE value that passes the checks of a write of MODE (12 R323, 13 R363). -/
def ModeOk (s : State) (g : Group) (v : Word) : Prop :=
  wbits v 3 0 = 0 ∧ modeRnd v < 5 ∧ modeType v < 12 ∧ (modeGuard v < 240 → modeGuard v < (s.recordOf g).regs)

/-- An instruction completes with an effect: whenever it issues with a register (or nothing) for d and its own tests `ok` hold, the
machine's next state is `eff` of the state behind the pops, with the group moved on behind the instruction. -/
def Completes (mk : Byte → Byte → Byte → Instr) (form : Byte → Byte → Byte → Form) (op : Byte) (ok : Ctx → State → Prop)
    (eff : Ctx → State → State) : Prop :=
  ∀ s g c d a b x u, Issues s g c (form d a b) op d a b x u → x.dying = [] → x.pushes = false → ok x u →
    ∃ t, exec (mk d a b) s = .next t ∧ Behind (eff x u) t g.gid c (form d a b).lits

/-- The same for one that starts a long-latency operation (06 R167), which is all it does at issue. -/
def Starts (mk : Byte → Byte → Byte → Instr) (form : Byte → Byte → Byte → Form) (op : Byte) (ok : Ctx → State → Prop)
    (words : Ctx → Nat) (kind : Ctx → State → OpKind) : Prop :=
  ∀ s g c d a b x u, Issues s g c (form d a b) op d a b x u → x.dying = [] → ok x u →
    ∃ t h, exec (mk d a b) s = .next t ∧ Near s t g h ∧ h.ctl = g.ctl.behind c (form d a b).lits ∧
      (u.group? g.gid).map (fun k => k.queues) = some h.queues ∧ t.commits = u.commits ∧
      t.ops = u.ops ++ [x.newOp u.nextId (words x) (kind x u)]

/-- The same for a branch: taken, it goes to the target; not taken, it moves on. -/
def Jumps (mk : Byte → Byte → Byte → Instr) (form : Byte → Byte → Byte → Form) (op : Byte) (ok taken : Ctx → State → Prop)
    (eff : Ctx → State → State) (target : Ctx → State → Word64) : Prop :=
  ∀ s g c d a b x u, Issues s g c (form d a b) op d a b x u → x.dying = [] → x.pushes = false → ok x u →
    ∃ t, exec (mk d a b) s = .next t ∧ (taken x u → Branches (eff x u) t g.gid (target x u)) ∧
      (¬taken x u → Behind (eff x u) t g.gid c (form d a b).lits)

/-! ### Memory instructions -/

/-- The record an instruction names, as it reads it at issue (15 R406). -/
def Ctx.image (x : Ctx) : Word256 := Sparse.get 0#256 x.g.recs x.b

/-- A load of a form (15 R411): once it has passed its tests and no atomic of its lanes is outstanding over its bytes, an operation
stands for it with the record's image, its lines and its lanes; no byte of memory and no register has changed, and ALC is charged with
its requests where the record is metered (04 R115). -/
def LoadResult (mk : Byte → Byte → Byte → Instr) (d : Kind) (op : Byte) (lf : LoadForm) (words : Nat) (acquires : Bool) : Prop :=
  ∀ s g c d' a b x u space ps, Issues s g c (loadForm d) op d' a b x u → x.dying = [] →
    x.tests u (bufRec x.image) x.b lf.bytes .read true = .go space ps →
    ps.flatMap (fun p => u.atomicsOver g.gid p.lane space p.addr (p.addr + p.span)) = [] →
    ∃ t h o, exec (mk d' a b) s = .next t ∧ Near s t g h ∧ t.ops = u.ops ++ [o] ∧ t.commits = u.commits ∧ o.gid = g.gid ∧
      o.flag = x.flag ∧ o.lanes = x.sMask ∧ o.dest = x.d ∧ o.destWords = words ∧
      (∃ hint acquire, o.kind = .load lf space x.image hint (u.loadLines (bufRec x.image) x.b space ps) (x.loadLanes space ps) acquire x.uni
        ∧ (acquire.isSome = true ↔ acquires = true ∧ (bufRec x.image).scope ≠ 0)) ∧
      h.ctl = (if x.metered (bufRec x.image) then { g.ctl with alc := g.ctl.alc + BitVec.ofNat 32 (requestsOf ps).length }
        else g.ctl).behind c 0

/-- A plain store of a size (15 R413): once it has passed its tests and its entries fit, they stand at the tail of the group's
pending-store buffer; no byte of memory and no register has changed. -/
def StoreResult (mk : Byte → Byte → Byte → Instr) (form : Form) (op : Byte) (size : Nat) : Prop :=
  ∀ s g c d a b x u space ps, Issues s g c form op d a b x u → x.dying = [] →
    x.tests u (bufRec x.image) x.b size .write true = .go space ps →
    (x.entries u (bufRec x.image) space ps size none).length ≤ g.ctl.psbFree →
    ∃ t h, exec (mk d a b) s = .next t ∧ Near s t g h ∧ t.ops = u.ops ∧ t.commits = u.commits ∧
      h.ctl = ({ (if x.metered (bufRec x.image) then
          { g.ctl with alc := g.ctl.alc + BitVec.ofNat 32 (requestsOf ps).length } else g.ctl) with
        psb := g.ctl.psb ++ x.entries u (bufRec x.image) space ps size none } : Control).behind c form.lits

/-- An atomic or reduction (15 R416): once it has passed its tests and nothing of its lanes must go first, an operation stands for it
with one request for each distinct address. -/
def AtomicResult (mk : Byte → Byte → Byte → Instr) (op : Byte) (k : AtomKind) (size : Nat) (returns : Bool) : Prop :=
  ∀ space ps, Completes mk (fun _ _ _ => atomForm k size returns) op
    (fun x w => x.tests w (bufRec x.image) x.b size .atomic false = .go space ps ∧ x.atomWait w space size ps = none)
    (fun x w => x.start (x.charge w (bufRec x.image) space ps) (if returns then size / 4 else 0)
      (.atomic (k.op size x.ty) size space x.image (x.atomRequests w k size space ps) returns x.uni (floatEnv x.mode).rnd))

/-- A release that an instruction starts, as an operation on its flag (08 R226). -/
def Ctx.releases (x : Ctx) (w : State) (words scope : Nat) (object : Option Nat) (next : ReleaseThen) : State :=
  w.fresh.2.startRelease (x.newOp w.nextId words .lease) scope object next

/-! ### Exceptions (06 R173 to R180) -/

/-- Nothing keeps a group from entering its handler when it traps (06 R176, R179, R182, R193): it runs no handler, has no partner, sits
on a seat, is not suspended, and its rail has no handler running and no other trap waiting. -/
structure CanEnter (s : State) (g : Group) (seat : Nat) : Prop where
  outside : g.ctl.handler = false
  alone   : g.ctl.paired = false ∧ g.ctl.shadow = false
  placed  : g.gstate = .seated ∧ g.seat = some seat
  awake   : g.ctl.suspended = false
  free    : (s.rail g.core (railOfSeat seat)).handler = none
  first   : ∀ k ∈ s.groups, k.core = g.core → k.seat.map railOfSeat = some (railOfSeat seat) → k.ctl.trapPend = false

/-- The words of the window at handler entry (06 Table 6.6). -/
def windowWord (r : TrapRec) (group : Word) (n : Nat) : Word :=
  match n with
  | 0 => r.flags ++ r.slot ++ r.cause
  | 1 => r.laneMask
  | 2 => loWord r.clause
  | 3 => hiWord r.clause
  | 4 => loWord r.info0
  | 5 => hiWord r.info0
  | 6 => loWord r.info1
  | _ => group

/-- The trap record of an instruction's trap (06 Table 6.4): its cause, lanes and INFO words, the slot and clause it stands in, FLAGS with
VALID, and UNI as the slot is marked, the frame, and its word. -/
def trapRecord (s : State) (g : Group) (tr : Trap) (uni : Bool) (word : Word) : TrapRec where
  cause := BitVec.ofNat 16 tr.cause
  slot := BitVec.ofNat 8 g.ctl.slot
  flags := if uni then 5#8 else 1#8
  laneMask := tr.mask
  clause := g.ctl.pc
  info0 := BitVec.ofNat 64 tr.info0
  info1 := BitVec.ofNat 64 tr.info1
  frame := BitVec.ofNat 64 s.pkg.frame
  word := word

/-- What the entry into a handler makes of a control area (06 R176). -/
def Control.inHandler (k : Control) (r : TrapRec) (entry : Word64) : Control :=
  { k with
    trapRec := r, saveMode := k.mode, saveExec := k.exec, mode := 0xFF000000#32, exec := r.laneMask, handler := true, trapPend := false
    wdCount := 0#64, pc := entry, slot := 0, litPos := 0 }

/-- From s to t a group has entered its handler with a trap record (06 R176, R177): its control area is that of the handler's first
clause; w0 to w7 hold Table 6.6 in every lane; its own words (v0 to v7 among them), records, shapes, queues and pending stores are as
they were; its rail's window is bound to it; an LDSHAPE in place has given its load up; and nothing else has changed. -/
structure Entered (s t : State) (g h : Group) (seat : Nat) (r : TrapRec) : Prop where
  found   : t.group? g.gid = some h
  control : h.ctl = g.ctl.inHandler r (s.trapEntryOf g)
  group   : h = { g with ctl := h.ctl, stalled := none, clause := none, counters := h.counters }
  window  : ∀ n l, n < 8 → l < 32 → t.heldReg h n l = windowWord r g.ctl.group n
  kept    : ∀ n l, 8 ≤ n → t.heldReg h n l = s.heldReg g n l
  own     : ∀ n l, t.lineWord h n l = s.lineWord g n l
  others  : ∀ n, n ≠ g.gid → t.group? n = s.group? n
  rest    : t = { s with freeCtr := t.freeCtr, groups := t.groups, cores := t.cores, ops := t.ops }
  ops     : t.ops = s.ops.filter (fun o => !(o.gid == g.gid && o.loadsShape))
  cores   : ∀ n, n ≠ g.core → t.core n = s.core n
  mine    : t.core g.core = { s.core g.core with rails := (t.core g.core).rails }
  rail    : t.rail g.core (railOfSeat seat) = { s.rail g.core (railOfSeat seat) with
    handler := some g.gid, window := (t.rail g.core (railOfSeat seat)).window
    clauseOf := if (s.rail g.core (railOfSeat seat)).clauseOf = some g.gid then none else (s.rail g.core (railOfSeat seat)).clauseOf }
  rails   : ∀ n, n ≠ railOfSeat seat → t.rail g.core n = s.rail g.core n

/-- An instruction traps: whenever it issues and `ok` holds, its group enters its handler with the trap it raises, and the instruction
has no other effect (06 R173, R176). -/
def Traps (mk : Byte → Byte → Byte → Instr) (form : Byte → Byte → Byte → Form) (op : Byte) (ok : Ctx → State → Prop)
    (tr : Ctx → State → Trap) : Prop :=
  ∀ s g c d a b x u seat, Issues s g c (form d a b) op d a b x u → CanEnter s g seat → ok x u →
    ∃ t h, exec (mk d a b) s = .next t ∧ Entered s t g h seat (trapRecord s g (tr x u) x.uni (mkWord op d a b))

/-- A group without the suspension that another group's handler made (06 R182). -/
def Group.resumed (g : Group) (by_ : Nat) : Group :=
  if by_ ∈ g.suspendBy then { g with
    suspendBy := g.suspendBy.filter (· != by_)
    ctl := { g.ctl with suspended := g.ctl.suspended && !(g.suspendBy.filter (· != by_)).isEmpty } }
  else g

/-! ### An operation that ends -/

/-- The word at which an operation's results arrive (06 R168, R177): the rail's window for w0 to w7 of a handler's operation, else the
register line. -/
def State.resultWord (s : State) (o : OutOp) (g : Group) (r l : Nat) : Word :=
  if o.handler && decide (r < 8) then
    match g.seat with
    | none => 0#32
    | some n => Sparse.get 0#32 (s.rail g.core (railOfSeat n)).window (32 * r + l)
  else s.lineWord g r l

/-- Results that are written as they stand (06 R168, R187): no other write has reached their registers since the operation was issued, none of
their lanes is dead, and each names one lane of one register. -/
structure Lands (o : OutOp) (g : Group) (ws : List (Nat × Nat × Word)) : Prop where
  owner  : o.gid = g.gid
  alone  : g.ctl.paired = false
  seat   : o.handler = true → g.seat.isSome = true
  clean  : o.clobbered = []
  live   : ∀ w ∈ ws, w.1 < 256 ∧ w.2.1 < 32 ∧ g.ctl.dead.getLsbD w.2.1 = false
  once   : (ws.map (fun w => (w.1, w.2.1))).Nodup

/-- From s to t an operation o of group g has ended with the results ws (06 R167): it is outstanding no longer, so its flag has fallen;
its results stand in their registers, and every other word the device holds of the group is as before; the group's control area is k; and
the stores in flight and the other groups' contexts are as before. `h` is the group in t. -/
structure Ended (s t : State) (o : OutOp) (g h : Group) (k : Control) (ws : List (Nat × Nat × Word)) : Prop where
  found   : t.group? g.gid = some h
  values  : ∀ r l v, (r, l, v) ∈ ws → t.resultWord o h r l = v
  kept    : ∀ r l, r < 256 → l < 32 → (∀ v, (r, l, v) ∉ ws) → t.mem.bytes = s.mem.bytes ∨ g.backed.contains r = false →
    t.resultWord o h r l = s.resultWord o g r l
  control : h.ctl = k
  context : h.recs = g.recs ∧ h.shapes = g.shapes ∧ h.queues = g.queues ∧ h.gstate = g.gstate ∧ h.seat = g.seat ∧ h.clause = g.clause
  others  : ∀ n, n ≠ g.gid → (t.group? n).map (fun m => { m with lls := 0 }) = (s.group? n).map (fun m => { m with lls := 0 })
  done    : t.ops.map (fun p => { p with clobbered := [] }) =
    (s.ops.filter (fun p => p.id != o.id)).map (fun p => { p with clobbered := [] })
  stores  : t.commits = s.commits

/-- The bytes of a line that LOAD_DATA_RETURN finds (07 R206, R209; 15 R411): a core's SRAM; the core's L1 copy, or the home behind an open
crossing, with whether the line is poisoned; or a far line that is whole. -/
def State.lineSource (s : State) (g : Group) (r : BufRec) (space : Space) (hint : Nat) (wide : Bool) (l : LineAccess) :
    Option (List Byte × Bool) :=
  match space with
  | .sram => some (s.homeBytes .sram l.addr 128, false)
  | .virt h =>
    match (if s.l1Takes r space l.addr && hint != 3 && !wide then (s.core g.core).l1Line? h l.addr else none) with
    | some c => some (c.bytes, false)
    | none => if s.passes g.core space l.phys then some (s.homeBytes space l.phys 128, s.mem.poisoned l.phys) else none
  | .fabric h k =>
    match s.fab.farLine? h k l.addr with
    | none => none
    | some f => if f.valid == BitVec.allOnes 128 && s.passes g.core space l.addr then some (f.bytes, false) else none

/-- The results of a load whose lines have been read (15 R411; 07 R199): each lane's words, or the one lane's in every lane of a
uniform load. -/
def loadResults (o : OutOp) (image : Word256) (form : LoadForm) (lines : List LineAccess) (lanes : List LaneAccess)
    (uniform : Bool) : List (Nat × Nat × Word) :=
  let words (l : LaneAccess) : List Word := (laneValue (bufRec image) form lines l).1
  if uniform then
    match lanes with
    | [] => []
    | l :: _ => (laneList o.lanes).flatMap (fun t => laneWrites o.dest t (words l))
  else lanes.flatMap (fun l => laneWrites o.dest l.lane (words l))

/-- The results of an atomic that returns old values (09 R253; 07 R198): each lane's old value, zero for a clamped one, or the one old value in
every lane of a uniform atomic. -/
def atomicResults (o : OutOp) (size : Nat) (reqs : List AtomRequest) (uniform : Bool) : List (Nat × Nat × Word) :=
  let olds := reqs.flatMap (fun r => r.olds)
  let old (t : Nat) : Word64 :=
    ((if uniform then olds.head? else olds.find? (fun v => v.1 == t)).map (fun v => v.2)).getD 0#64
  (laneList o.lanes).flatMap (fun t => laneWrites o.dest t ((List.range (size / 4)).map (fun j => (old t).extractLsb' (32 * j) 32)))

end Sys2Proof.Machine
end

