-- ==== Sys2Proof/Certificates/Slice0/Obligations.lean ====
section
/-!
DEFINITION. The statements about this machine that are to be proved.
-/
open Sys2Proof Sys2Proof.Machine

/-! ### Instructions that compute a value for each lane -/

/-- 13 Table 13.14, R349, R350 with the example of its page: the integer arithmetic of a lane (IADD, ISUB, IMUL, IMAD, IMULH, IMIN, IMAX,
IABS, INEG), on the values of its operands under MODE.TYPE, narrowed by Arith (or, for IMULH, IMIN and IMAX, written as it is). Arith
wraps into the type when MODE.SAT is 0 and clamps to the type's range when it is 1, and says whether it clamped; what is written reads
back, under the type, as the value that was narrowed. -/
def Obligations.IntegerArithmetic : Prop :=
  IntResult .iadd (fun _ _ => intForm) 0x20#8 (fun x s l => arith x.it (modeSat x.mode) (x.int s .a l + x.int s .b l)) ∧
  IntResult .isub (fun _ _ => intForm) 0x21#8 (fun x s l => arith x.it (modeSat x.mode) (x.int s .a l - x.int s .b l)) ∧
  IntResult .imul (fun _ _ => intForm) 0x22#8 (fun x s l => arith x.it (modeSat x.mode) (x.int s .a l * x.int s .b l)) ∧
  IntResult .imad (fun _ _ => { intForm with dRead := true }) 0x35#8 (fun x s l =>
    arith x.it (modeSat x.mode) (x.int s .d l + x.int s .a l * x.int s .b l)) ∧
  IntResult .imulh (fun _ _ => intForm) 0x23#8 (fun x s l =>
    .plain (x.it.ext (x.it.wrap (x.int s .a l * x.int s .b l / 2 ^ x.it.width)))) ∧
  IntResult .imin (fun _ _ => intForm) 0x24#8 (fun x s l => .plain (x.it.ext (min (x.int s .a l) (x.int s .b l)))) ∧
  IntResult .imax (fun _ _ => intForm) 0x25#8 (fun x s l => .plain (x.it.ext (max (x.int s .a l) (x.int s .b l)))) ∧
  IntResult .iabs (fun _ _ => intForm1) 0x26#8 (fun x s l => arith x.it (modeSat x.mode) (x.int s .a l).natAbs) ∧
  IntResult .ineg (fun _ _ => intForm1) 0x27#8 (fun x s l => arith x.it (modeSat x.mode) (-(x.int s .a l))) ∧
  (∀ ty, ty < 12 → ∀ v : Int, let i := intType ty
    (arith i false v).sat = false ∧ i.least ≤ i.read (arith i false v).val ∧ i.read (arith i false v).val ≤ i.greatest ∧
    (2 ^ i.width : Int) ∣ (i.read (arith i false v).val - v) ∧
    i.read (arith i true v).val = max i.least (min v i.greatest) ∧
    ((arith i true v).sat = true ↔ v < i.least ∨ i.greatest < v)) ∧
  arith (intType 10) false 150 = .plain 0x00000000FFFFFF96#64 ∧ arith (intType 10) true 150 = ⟨0x000000000000007F#64, true, 0#5⟩

/-- 13 Table 13.14, R377, R378: the bitwise forms, shifts, rotation, bit fields and bit counts of a lane, on the W low bits of its
operands; none of them saturates. -/
def Obligations.BitwiseAndShifts : Prop :=
  IntResult .iand (fun _ _ => intForm) 0x28#8 (fun x s l => x.bitsOut (x.raw s .a l &&& x.raw s .b l)) ∧
  IntResult .ior (fun _ _ => intForm) 0x29#8 (fun x s l => x.bitsOut (x.raw s .a l ||| x.raw s .b l)) ∧
  IntResult .ixor (fun _ _ => intForm) 0x2A#8 (fun x s l => x.bitsOut (x.raw s .a l ^^^ x.raw s .b l)) ∧
  IntResult .inot (fun _ _ => intForm1) 0x2B#8 (fun x s l => x.bitsOut (2 ^ x.it.width - 1 - x.raw s .a l)) ∧
  IntResult .shr (fun _ _ => intFormR) 0x2C#8 (fun x s l => x.bitsOut (x.raw s .a l / 2 ^ x.shiftBy s l)) ∧
  IntResult .shl (fun _ _ => intFormR) 0x2D#8 (fun x s l => x.bitsOut (x.raw s .a l * 2 ^ x.shiftBy s l)) ∧
  IntResult .sar (fun _ _ => intFormR) 0x2E#8 (fun x s l =>
    .plain (x.it.ext (x.it.wrap ((⟨x.it.width, true⟩ : IntType).read (x.val s .a l) / 2 ^ x.shiftBy s l)))) ∧
  IntResult .rotl (fun _ _ => intFormR) 0x2F#8 (fun x s l =>
    let n := x.shiftBy s l % x.it.width
    x.bitsOut (x.raw s .a l * 2 ^ n ||| x.raw s .a l / 2 ^ (x.it.width - n))) ∧
  IntResult .bfx (fun _ _ => intFormR) 0x30#8 (fun x s l =>
    match x.bitField s l with
    | none => .plain 0#64
    | some (pos, len) => .plain (x.it.ext (x.it.wrap
        ((⟨len, x.it.signed⟩ : IntType).read (BitVec.ofNat 64 (x.raw s .a l / 2 ^ pos)))))) ∧
  IntResult .bfi (fun _ _ => { intFormR with dRead := true }) 0x31#8 (fun x s l =>
    match x.bitField s l with
    | none => x.bitsOut (x.raw s .d l)
    | some (pos, len) => x.bitsOut (x.raw s .d l - x.raw s .d l / 2 ^ pos % 2 ^ len * 2 ^ pos + x.raw s .a l % 2 ^ len * 2 ^ pos)) ∧
  IntResult .popc (fun _ _ => intForm1) 0x32#8 (fun x s l => x.bitsOut ((List.range x.it.width).countP (x.raw s .a l).testBit)) ∧
  IntResult .clz (fun _ _ => intForm1) 0x33#8 (fun x s l =>
    x.bitsOut (if x.raw s .a l = 0 then x.it.width else x.it.width - 1 - (x.raw s .a l).log2)) ∧
  IntResult .brev (fun _ _ => intForm1) 0x34#8 (fun x s l => x.bitsOut
    ((List.range x.it.width).map (fun i => if (x.raw s .a l).testBit i then 2 ^ (x.it.width - 1 - i) else 0)).sum)

/-- 13 R380, R381, Tables 13.14 and 13.15: the integer compares write 1 or 0 to a register, SEL takes a where the old d is not zero and b
where it is; and the moves and literal forms. -/
def Obligations.ComparesMovesAndLiterals : Prop :=
  (IntResult .icmpeq (fun _ _ => compareForm) 0x38#8 (fun x s l => flagOut (x.int s .a l = x.int s .b l)) ∧
   IntResult .icmpne (fun _ _ => compareForm) 0x39#8 (fun x s l => flagOut (x.int s .a l ≠ x.int s .b l)) ∧
   IntResult .icmplt (fun _ _ => compareForm) 0x3A#8 (fun x s l => flagOut (x.int s .a l < x.int s .b l)) ∧
   IntResult .icmple (fun _ _ => compareForm) 0x3B#8 (fun x s l => flagOut (x.int s .a l ≤ x.int s .b l)) ∧
   IntResult .icmpgt (fun _ _ => compareForm) 0x3C#8 (fun x s l => flagOut (x.int s .a l > x.int s .b l)) ∧
   IntResult .icmpge (fun _ _ => compareForm) 0x3D#8 (fun x s l => flagOut (x.int s .a l ≥ x.int s .b l)) ∧
   IntResult .sel (fun _ _ => { intForm with dRead := true }) 0x3E#8 (fun x s l =>
     x.bitsOut (if x.raw s .d l = 0 then x.raw s .b l else x.raw s .a l))) ∧
  (IntResult .mov (fun _ _ => { d := .reg, a := .reg, b := .unused, dWrite := true }) 0x40#8
     (fun x s l => .plain ((x.rd s .a l).setWidth 64)) ∧
   IntResult .movl (fun _ _ => { d := .reg, a := .unused, b := .unused, dWrite := true, lits := 1 }) 0x41#8
     (fun x _ _ => .plain ((x.lits.headD 0#32).setWidth 64)) ∧
   IntResult .movi (fun _ _ => { d := .reg, a := .any, b := .any, dWrite := true }) 0x42#8
     (fun x _ _ => .plain (BitVec.ofNat 64 (x.a * 256 + x.b))) ∧
   IntResult .movih (fun _ _ => { d := .reg, a := .any, b := .any, dRead := true, dWrite := true }) 0x43#8
     (fun x s l => .plain (BitVec.ofNat 64 ((x.a * 256 + x.b) * 65536 + (x.rd s .d l).toNat % 65536))) ∧
   IntResult .iaddl (fun _ _ => intFormL) 0x44#8 (fun x s l => arith x.it (modeSat x.mode) (x.int s .a l + x.literal)) ∧
   IntResult .imull (fun _ _ => intFormL) 0x45#8 (fun x s l => arith x.it (modeSat x.mode) (x.int s .a l * x.literal)) ∧
   IntResult .iandl (fun _ _ => intFormL) 0x46#8 (fun x s l => x.bitsOut (x.raw s .a l &&& x.literalRaw)) ∧
   IntResult .iorl (fun _ _ => intFormL) 0x47#8 (fun x s l => x.bitsOut (x.raw s .a l ||| x.literalRaw)) ∧
   IntResult .ixorl (fun _ _ => intFormL) 0x48#8 (fun x s l => x.bitsOut (x.raw s .a l ^^^ x.literalRaw)) ∧
   IntResult .mov64 (fun _ _ => { d := .pair, a := .pair, b := .unused, dWrite := true }) 0x49#8
     (fun x s l => .plain (x.rdPair s .a l)) ∧
   IntResult .movl64 (fun _ _ => { d := .pair, a := .unused, b := .unused, dWrite := true, lits := 2 }) 0x4A#8
     (fun x _ _ => .plain (pair (x.lits.getD 0 0#32) (x.lits.getD 1 0#32))))

/-- 14 R384, R387, Table 14.1: floating-point addition, subtraction, multiplication and the fused forms of a lane, with the exceptions
they raise. -/
def Obligations.FloatArithmetic : Prop :=
  LaneResult .fadd (fun _ _ => floatForm) 0x50#8 (fun x s l => (x.ft.add x.env false (x.flt s .a l) (x.flt s .b l)).lane) ∧
  LaneResult .fsub (fun _ _ => floatForm) 0x51#8 (fun x s l => (x.ft.add x.env true (x.flt s .a l) (x.flt s .b l)).lane) ∧
  LaneResult .fmul (fun _ _ => floatForm) 0x52#8 (fun x s l => (x.ft.mul x.env (x.flt s .a l) (x.flt s .b l)).lane) ∧
  LaneResult .fma (fun _ _ => { floatForm with dRead := true }) 0x53#8
    (fun x s l => (x.ft.fma x.env false false (x.flt s .a l) (x.flt s .b l) (x.flt s .d l)).lane) ∧
  LaneResult .fms (fun _ _ => { floatForm with dRead := true }) 0x54#8
    (fun x s l => (x.ft.fma x.env false true (x.flt s .a l) (x.flt s .b l) (x.flt s .d l)).lane) ∧
  LaneResult .fnma (fun _ _ => { floatForm with dRead := true }) 0x55#8
    (fun x s l => (x.ft.fma x.env true true (x.flt s .a l) (x.flt s .b l) (x.flt s .d l)).lane) ∧
  LaneResult .fnms (fun _ _ => { floatForm with dRead := true }) 0x56#8
    (fun x s l => (x.ft.fma x.env true false (x.flt s .a l) (x.flt s .b l) (x.flt s .d l)).lane) ∧
  LaneResult .fmal (fun _ _ => { floatForm with lits := 1 }) 0x57#8 (fun x s l =>
    let o := x.ft.fma x.env false false (x.flt s .a l) (x.flt s .b l) x.floatLiteral.bits
    ⟨BitVec.ofNat 64 o.bits, o.sat || x.floatLiteral.sat, o.exc ||| x.floatLiteral.exc⟩)

/-- 14 R389 to R396: maxima and minima, signs, compares, classify; integral values, scaling, exponents, the approximate functions and
conversions. -/
def Obligations.FloatCompareSelectConvert : Prop :=
  (LaneResult .fmax (fun _ _ => floatForm) 0x5A#8 (fun x s l => (x.ft.extreme true false (x.flt s .a l) (x.flt s .b l)).lane) ∧
   LaneResult .fmin (fun _ _ => floatForm) 0x5B#8 (fun x s l => (x.ft.extreme false false (x.flt s .a l) (x.flt s .b l)).lane) ∧
   LaneResult .fmaxn (fun _ _ => floatForm) 0x5C#8 (fun x s l => (x.ft.extreme true true (x.flt s .a l) (x.flt s .b l)).lane) ∧
   LaneResult .fminn (fun _ _ => floatForm) 0x5D#8 (fun x s l => (x.ft.extreme false true (x.flt s .a l) (x.flt s .b l)).lane) ∧
   IntResult .fabs (fun _ _ => floatForm1) 0x5E#8 (fun x s l => .plain (BitVec.ofNat 64 (x.flt s .a l % x.ft.signBit))) ∧
   IntResult .fneg (fun _ _ => floatForm1) 0x5F#8 (fun x s l => .plain (BitVec.ofNat 64 (x.flt s .a l ^^^ x.ft.signBit))) ∧
   IntResult .fcpys (fun _ _ => floatForm) 0x63#8 (fun x s l =>
     .plain (BitVec.ofNat 64 (x.ft.signed (x.ft.negative (x.flt s .b l)) (x.flt s .a l % x.ft.signBit)))) ∧
   LaneResult .fceq (fun _ _ => floatCmpForm) 0x64#8 (fun x s l => (x.ft.compare .eq (x.flt s .a l) (x.flt s .b l)).lane) ∧
   LaneResult .fcne (fun _ _ => floatCmpForm) 0x65#8 (fun x s l => (x.ft.compare .ne (x.flt s .a l) (x.flt s .b l)).lane) ∧
   LaneResult .fclt (fun _ _ => floatCmpForm) 0x66#8 (fun x s l => (x.ft.compare .lt (x.flt s .a l) (x.flt s .b l)).lane) ∧
   LaneResult .fcle (fun _ _ => floatCmpForm) 0x67#8 (fun x s l => (x.ft.compare .le (x.flt s .a l) (x.flt s .b l)).lane) ∧
   LaneResult .fcun (fun _ _ => floatCmpForm) 0x79#8 (fun x s l => (x.ft.compare .un (x.flt s .a l) (x.flt s .b l)).lane) ∧
   IntResult .fclass (fun _ _ => { floatCmpForm with b := .unused }) 0x75#8 (fun x s l =>
     .plain (BitVec.ofNat 64 (x.ft.classify (x.flt s .a l))))) ∧
  (LaneResult .frint (fun _ _ => { floatForm1 with b := .code (lowRanges 8 5) 0xF0 }) 0x76#8 (fun x s l =>
     (x.ft.integral (if x.b % 8 = 5 then x.env.rnd else x.b % 8) (x.b.testBit 3) (x.flt s .a l)).lane) ∧
   LaneResult .fscale (fun _ _ => { floatForm with b := .reg }) 0x77#8 (fun x s l =>
     (x.ft.scale x.env (x.flt s .a l) (x.rd s .b l).toInt).lane) ∧
   LaneResult .flogb (fun _ _ => floatForm1) 0x78#8 (fun x s l => (x.ft.logb (x.flt s .a l)).lane) ∧
   LaneResult .fexp2 (fun _ _ => floatForm1) 0x60#8 (fun x s l => (x.ft.approx .exp2 (modeSat x.mode) (x.flt s .a l)).lane) ∧
   LaneResult .flog2 (fun _ _ => floatForm1) 0x61#8 (fun x s l => (x.ft.approx .log2 (modeSat x.mode) (x.flt s .a l)).lane) ∧
   LaneResult .frsq (fun _ _ => floatForm1) 0x62#8 (fun x s l => (x.ft.approx .rsq (modeSat x.mode) (x.flt s .a l)).lane) ∧
   LaneResult .frcp (fun _ _ => floatForm1) 0x7A#8 (fun x s l => (x.ft.approx .rcp (modeSat x.mode) (x.flt s .a l)).lane) ∧
   LaneResult .cvt (fun _ b => cvtForm b.toNat) 0x72#8 (fun x s l =>
     convert (formatOf (if x.b < 128 then x.ty else x.b % 32)) (formatOf (if x.b < 128 then x.b % 32 else x.ty))
       (if x.b.testBit 6 then { x.env with rnd := 1 } else x.env) (modeWrap x.mode && !modeSat x.mode) (x.val s .a l)))

/-- 13 R364, R365; 15 R422: the values that SYSV, RDFPS and QSTAT read into a register of each lane. -/
def Obligations.StatusReads : Prop :=
  IntResult .sysv (fun a _ => { d := .reg, a := .code [(0, 0x10), (0x20, 0x23)], b := .unused, dWrite := true
                                priv := decide (0x20 ≤ a.toNat ∧ a.toNat ≤ 0x23) }) 0x0A#8
    (fun x s l => .plain ((s.systemValue x.g x.a l).setWidth 64)) ∧
  IntResult .rdfps (fun _ _ => { d := .reg, a := .unused, b := .code [(0, 1)], dWrite := true }) 0x0B#8 (fun x _ l =>
    .plain (if x.b = 0 then (x.g.ctl.fpstat.getD l 0#5).setWidth 64
      else BitVec.ofNat 64 (x.g.ctl.satf.toNat + 2 * x.g.ctl.sovf.toNat + 4 * x.g.ctl.sdrop.toNat))) ∧
  IntResult .qstat (fun _ _ => { d := .reg, a := .queue, b := .unused, dWrite := true, one := true }) 0x9B#8
    (fun x s _ => .plain ((s.queueStatus x.g x.a).setWidth 64))

/-! ### Control flow, divergence, MODE and status -/

/-- 13 R352 to R354: the branches. A target by literal is H + 4 × lit, with H the address of the clause's header; BRX and RET go to
TextBase plus their register, when it is a multiple of 4; CALL writes the text offset of the following clause to every lane of S, and
LOOP counts down in every lane of S and branches while the count is not 0. -/
def Obligations.Branching : Prop :=
  Jumps .bra (fun _ _ _ => { plainForm with lits := 1 }) 0x10#8 (fun _ _ => True) (fun _ _ => True) (fun _ w => w)
    (fun x _ => x.g.ctl.pc + (x.lits.headD 0#32).signExtend 64 * 4) ∧
  Jumps .bru (fun _ _ _ => { plainForm with a := .reg, b := .code [(0, 1)], lits := 1 }) 0x11#8 (fun _ _ => True)
    (fun x w => if x.b = 1 then x.rd w .a x.low = 0#32 else x.rd w .a x.low ≠ 0#32) (fun _ w => w)
    (fun x _ => x.g.ctl.pc + (x.lits.headD 0#32).signExtend 64 * 4) ∧
  Jumps .brnone (fun _ _ _ => { plainForm with lits := 1, live := true }) 0x15#8 (fun _ _ => True)
    (fun x _ => x.g.ctl.exec &&& x.g.ctl.live = 0#32) (fun _ w => w)
    (fun x _ => x.g.ctl.pc + (x.lits.headD 0#32).signExtend 64 * 4) ∧
  Jumps .call (fun _ _ _ => { plainForm with d := .reg, dWrite := true, lits := 1 }) 0x16#8 (fun _ _ => True) (fun _ _ => True)
    (fun x w => x.wroteAll w x.d (loWord (x.following - BitVec.ofNat 64 (w.textBase x.g.ctl.handle))))
    (fun x _ => x.g.ctl.pc + (x.lits.headD 0#32).signExtend 64 * 4) ∧
  Jumps .loop (fun _ _ _ => { plainForm with d := .reg, dRead := true, dWrite := true, lits := 1 }) 0x18#8 (fun _ _ => True)
    (fun x w => x.rd w .d x.low - 1#32 ≠ 0#32) (fun x w => x.wroteAll w x.d (x.rd w .d x.low - 1#32))
    (fun x _ => x.g.ctl.pc + (x.lits.headD 0#32).signExtend 64 * 4) ∧
  Jumps .ret (fun _ _ _ => { plainForm with a := .reg }) 0x17#8 (fun x w => (x.rd w .a x.low).toNat % 4 = 0) (fun _ _ => True)
    (fun _ w => w) (fun x w => BitVec.ofNat 64 (w.textBase x.g.ctl.handle + (x.rd w .a x.low).toNat)) ∧
  Jumps .brx (fun _ _ _ => { plainForm with a := .reg }) 0x1B#8 (fun x w => (x.rd w .a x.low).toNat % 4 = 0) (fun _ _ => True)
    (fun _ w => w) (fun x w => BitVec.ofNat 64 (w.textBase x.g.ctl.handle + (x.rd w .a x.low).toNat))

/-- 13 R355, R356: divergence, for the live lanes: IFNZ keeps in EXEC the live lanes that pass its test, and gives the old EXEC to d;
ELSE, ENDIF and SETEXEC write EXEC, and GETEXEC reads it. -/
def Obligations.Divergence : Prop :=
  Completes .ifnz (fun _ _ _ => { d := .reg, a := .reg, b := .unused, dWrite := true, live := true, cycles := .ifnz }) 0x12#8
    (fun _ _ => True) (fun x w => x.control (x.wroteAll w x.d x.g.ctl.exec) (fun k => { k with
      exec := x.g.ctl.exec &&& x.g.ctl.live &&&
        maskOf ((List.range 32).filter (fun l => x.rd w .a (if x.uni then x.low else l) != 0#32)) })) ∧
  Completes .elseOp (fun _ _ _ => { plainForm with a := .reg, live := true }) 0x13#8 (fun _ _ => True)
    (fun x w => x.control w (fun k => { k with exec := x.rd w .a x.low &&& ~~~x.g.ctl.exec })) ∧
  Completes .endif (fun _ _ _ => { plainForm with a := .reg, live := true }) 0x14#8 (fun _ _ => True)
    (fun x w => x.control w (fun k => { k with exec := x.rd w .a x.low })) ∧
  Completes .getexec (fun _ _ _ => { plainForm with d := .reg, dWrite := true, live := true }) 0x4B#8 (fun _ _ => True)
    (fun x w => x.wroteAll w x.d x.g.ctl.exec) ∧
  Completes .setexec (fun _ _ _ => { plainForm with a := .reg, live := true }) 0x4C#8 (fun _ _ => True)
    (fun x w => x.control w (fun k => { k with exec := x.rd w .a x.low &&& x.g.ctl.exist }))

/-- 13 R357, R360, R361: NOP does nothing but advance; FWAIT goes on when the flags it names are clear; YIELD marks the group on its
rail, which picks others first at its next clause. -/
def Obligations.NopFwaitYield : Prop :=
  (∀ s g c x u n, Issues s g c ignoreForm 0x00#8 (fieldBytes n).1 (fieldBytes n).2.1 (fieldBytes n).2.2 x u → x.dying = [] →
    ∃ t, exec (.nop n) s = .next t ∧ Behind u t g.gid c 0) ∧
  Completes .fwait (fun _ _ _ => { plainForm with a := .code [(0, 255)] 0x70, b := .any }) 0x19#8
    (fun x w => w.flagsClear x.gid (if 128 ≤ x.a then 0x1FFF#13 else BitVec.ofNat 13 (x.a % 16 * 256 + x.b)) = true) (fun _ w => w) ∧
  Completes .yield (fun _ _ _ => plainForm) 0x1A#8 (fun x _ => x.g.seat.isSome = true) (fun x w =>
    w.onRail x.g.core (railOfSeat (x.g.seat.getD 0)) (fun r => { r with yielded := some x.gid }))

/-- 13 R363, R365, R366: writes of MODE that pass the checks of 12 R323, WRFPS by its code, and RDCNT. -/
def Obligations.ModeStatusCounters : Prop :=
  Completes .setmode (fun _ _ _ => { plainForm with lits := 1 }) 0x08#8 (fun x w => ModeOk w x.g (x.lits.headD 0#32))
    (fun x w => x.control w (fun k => { k with mode := x.lits.headD 0#32 })) ∧
  (∀ s g c d a b x u lo n,
    (d, lo, n) ∈ [(0#8, 24, 8), (1#8, 23, 1), (2#8, 19, 4), (3#8, 16, 3), (4#8, 11, 5), (5#8, 10, 1), (6#8, 9, 1), (7#8, 8, 1),
      (8#8, 6, 2), (9#8, 4, 2)] →
    Issues s g c { plainForm with d := .code [(0, 9)], a := .any
                                  late := fun _ => let high := a.toNat / 2 ^ n * 2 ^ n
                                    if high = 0 then none else some (3, high * 256) } 0x09#8 d a b x u →
    x.dying = [] → ModeOk u g (setBits g.ctl.mode lo n a.toNat) →
    ∃ t, exec (.modeset d a b) s = .next t ∧
      Behind (x.control u (fun k => { k with mode := setBits g.ctl.mode lo n a.toNat })) t g.gid c 0) ∧
  Completes .wrfps (fun _ _ _ => { d := .unused, a := .reg, b := .code [(0, 3)] }) 0x0C#8 (fun x _ => x.b = 2 ∨ x.b = 3)
    (fun x w => x.control w (fun k =>
      if x.b = 2 then { k with
        satf := k.satf && !(x.rd w .a x.low).getLsbD 0, sovf := k.sovf && !(x.rd w .a x.low).getLsbD 1
        sdrop := k.sdrop && !(x.rd w .a x.low).getLsbD 2 }
      else { k with deadSrc := k.deadSrc &&& ~~~(x.rd w .a x.low) })) ∧
  Completes .wrfps (fun _ _ _ => { d := .unused, a := .reg, b := .code [(0, 3)] }) 0x0C#8 (fun x _ => x.b = 0 ∨ x.b = 1)
    (fun x w => x.control w (fun k => x.S.foldl (fun k l =>
      let v := (x.rd w .a (if x.uni then x.low else l)).extractLsb' 0 5
      { k with fpstat := k.fpstat.setIfInBounds l (if x.b = 0 then v else k.fpstat.getD l 0#5 &&& ~~~v) }) k)) ∧
  Completes .rdcnt (fun _ _ _ => { plainForm with
      d := .pair, dWrite := true, lits := 1
      late := fun ls =>
        let v := (ls.headD 0#32).toNat
        if v < 4096 then none else some (3, v / 4096 * 4096) }) 0x0D#8 (fun x _ => x.d < 240)
    (fun x w => x.S.foldl (fun t l =>
      let v := BitVec.ofNat 64 (w.counter x.g ((x.lits.headD 0#32).toNat % 4096))
      (t.writeReg x.gid x.d l (loWord v)).writeReg x.gid (x.d + 1) l (hiWord v)) w)

/-! ### Long-latency arithmetic and cross-lane instructions -/

/-- 13 R379; 14 R385, R386: division, remainder and square root start an operation that holds the results; they are written, and their
exceptions raised, when it completes. With a floating-point trap enabled, FDIV and FSQRT write their results at once. -/
def Obligations.LongArithmetic : Prop :=
  Starts .idiv (fun _ _ _ => { intForm with long := true, own := true }) 0x36#8 (fun _ _ => True) (fun x => (x.kind .d).span)
    (fun x u => x.later u (fun x u l => if x.int u .b l = 0 then x.bitsOut (2 ^ x.it.width - 1)
      else arith x.it (modeSat x.mode) ((x.int u .a l).tdiv (x.int u .b l)))) ∧
  Starts .irem (fun _ _ _ => { intForm with long := true, own := true }) 0x37#8 (fun _ _ => True) (fun x => (x.kind .d).span)
    (fun x u => x.later u (fun x u l =>
      .plain (x.it.ext (x.int u .a l - x.int u .b l * (x.int u .a l).tdiv (x.int u .b l))))) ∧
  Starts .fdiv (fun _ _ _ => { floatForm with long := true, own := true }) 0x58#8 (fun x _ => modeTraps x.mode = 0#5)
    (fun x => (x.kind .d).span) (fun x u => x.later u (fun x u l => (x.ft.div x.env (x.flt u .a l) (x.flt u .b l)).lane)) ∧
  Starts .fsqrt (fun _ _ _ => { floatForm1 with long := true, own := true }) 0x59#8 (fun x _ => modeTraps x.mode = 0#5)
    (fun x => (x.kind .d).span) (fun x u => x.later u (fun x u l => (x.ft.sqrt x.env (x.flt u .a l)).lane)) ∧
  (∀ s g c d a b x u, Issues s g c { floatForm with long := true, own := true } 0x58#8 d a b x u → x.dying = [] → d.toNat < 240 →
    modeTraps g.ctl.mode ≠ 0#5 →
    let outs := x.results u (fun x u l => (x.ft.div x.env (x.flt u .a l) (x.flt u .b l)).lane)
    fpxTrap (modeTraps g.ctl.mode) outs = none →
    ∃ t h, exec (.fdiv d a b) s = .next t ∧ LaneDone s t g c x u h (x.spread outs)) ∧
  (∀ s g c d a b x u, Issues s g c { floatForm1 with long := true, own := true } 0x59#8 d a b x u → x.dying = [] → d.toNat < 240 →
    modeTraps g.ctl.mode ≠ 0#5 →
    let outs := x.results u (fun x u l => (x.ft.sqrt x.env (x.flt u .a l)).lane)
    fpxTrap (modeTraps g.ctl.mode) outs = none →
    ∃ t h, exec (.fsqrt d a b) s = .next t ∧ LaneDone s t g c x u h (x.spread outs))

/-- 14 R397 to R403: reduce and scan, shuffles, votes and match. A shuffle takes its source lane's value, its own beyond the granted
width, and 0 from a dead lane, which it notes in DEADSRC. FCPACK packs the values of a half of the lanes into a Facet, with +0 for the
lanes outside S, and FCUNPK unpacks one; a word from a dead lane is 0 and is noted in DEADSRC. -/
def Obligations.CrossLanes : Prop :=
  let from_ (x : Ctx) (u : State) (l src : Nat) : CrossOut :=
    if x.g.ctl.width ≤ src then ⟨.plain (x.val u .a l), false⟩
    else if x.g.ctl.dead.getLsbD src then ⟨.plain 0#64, true⟩
    else ⟨.plain (x.val u .a src), false⟩
  CrossResult .reduce (crossForm .typed .typed (.fold false)) 0x68#8 (fun x u _ =>
    ⟨(x.folds u (x.b % 16)).getLastD (.plain 0#64), false⟩) ∧
  CrossResult .scan (crossForm .typed .typed (.fold true)) 0x69#8 (fun x u l =>
    let k := x.S.findIdx (· == l)
    ⟨if x.b.testBit 4 then (if k = 0 then x.foldIdentity (x.b % 16) else (x.folds u (x.b % 16)).getD (k - 1) (.plain 0#64))
      else (x.folds u (x.b % 16)).getD k (.plain 0#64), false⟩) ∧
  CrossResult .shfl (crossForm .typed .typed .reg) 0x6A#8 (fun x u l => from_ x u l (x.rd u .b l).toNat) ∧
  CrossResult .shflup (crossForm .typed .typed (.code [(0, 31)])) 0x6B#8 (fun x u l => from_ x u l ((l + 2 ^ 32 - x.b) % 2 ^ 32)) ∧
  CrossResult .shfldn (crossForm .typed .typed (.code [(0, 31)])) 0x6C#8 (fun x u l => from_ x u l (l + x.b)) ∧
  CrossResult .shflx (crossForm .typed .typed (.code [(0, 31)])) 0x6D#8 (fun x u l => from_ x u l (l ^^^ x.b)) ∧
  CrossResult .vote (crossForm .reg .reg (.code [(0, 3)])) 0x6E#8 (fun x u _ =>
    let all := x.g.ctl.exist &&& x.g.ctl.exec &&& u.guardMask x.g
    let yes := maskOf (x.S.filter (fun l => x.rd u .a l != 0#32))
    ⟨match x.b with
      | 0 => flagOut (yes == all)
      | 1 => flagOut (yes != 0#32)
      | 2 => flagOut (yes == 0#32 || yes == all)
      | _ => .plain (yes.setWidth 64), false⟩) ∧
  CrossResult .matchOp (crossForm .reg .typed (.code [(0, 1)])) 0x6F#8 (fun x u l =>
    let same := maskOf (x.S.filter (fun m => x.val u .a m == x.val u .a l))
    ⟨.plain ((if x.b = 0 then same else if same = maskOf x.S then same else 0#32).setWidth 64), false⟩) ∧
  CrossResult .fcpack (crossForm .reg .typed (.code [(0, 2)])) 0x73#8 (fun x u l =>
    let o := facetPack x.env.rnd (facetWidth x.b) ((List.range 16).map (fun j =>
      if x.S.contains (l / 16 * 16 + j) then x.ft.decode (x.flt u .a (l / 16 * 16 + j)) else .fin false 0 0))
    ⟨⟨BitVec.ofNat 64 (if l % 16 < facetWords x.b then o.bits / 2 ^ (32 * (l % 16)) % 2 ^ 32 else 0), o.sat, o.exc⟩, false⟩) ∧
  CrossResult .fcunpk (crossForm .typed .reg (.code [(0, 2)])) 0x74#8 (fun x u l =>
    let dead (j : Nat) : Bool := x.g.ctl.dead.getLsbD (l / 16 * 16 + j)
    let block := (List.range (facetWords x.b)).foldl (fun acc j =>
      acc + (if dead j then 0 else (x.rd u .a (l / 16 * 16 + j)).toNat) * 2 ^ (32 * j)) 0
    ⟨match facetElement (facetWidth x.b) block (l % 16) with
      | none => .plain (BitVec.ofNat 64 (x.ft.nan.getD 0))
      | some (neg, m, e) =>
        if x.ft.width = 16 then (x.ft.deliver x.env neg m e).lane else .plain (BitVec.ofNat 64 (x.ft.deliver x.env neg m e).bits),
      (List.range (facetWords x.b)).any dead⟩)

/-! ### Context and page control -/

/-- 13 R367 to R371, for the own group (selector 0xFFFF) and, for CTXCTL, another: CTXRD starts an operation that holds the word, the
line or the seat entry; CTXWR writes the word, or the words of the lanes of S; CTXCTL suspends and resumes another group and leaves its
own as it is. -/
def Obligations.ContextControl : Prop :=
  let own (x : Ctx) (w : State) : Prop := x.reg w x.a x.low = 0xFFFF#32 ∧ (x.reg w (x.a + 1) x.low).toNat < 65536
  let off (x : Ctx) (w : State) : Nat := (x.reg w (x.a + 1) x.low).toNat
  let readForm (b : Byte) : Form := { d := if b = 2#8 then .pair else .reg, a := .pair, b := .code [(0, 2)], dWrite := true, long := true
                                      one := true, priv := true, cycles := .one }
  let writeForm : Form := { d := .reg, a := .pair, b := .code [(0, 1)], dRead := true, one := true, priv := true, cycles := .one }
  Starts .ctxrd (fun _ _ b => readForm b) 0x05#8
    (fun x w => own x w ∧ x.b = 0 ∧ off x w % 4 = 0 ∧ (∀ l, laneOfOffset (off x w) = some l → x.g.ctl.dead.getLsbD l = false) ∧
      x.g.regErr = [])
    (fun _ => 1) (fun x w => .value (x.S.map (fun l => (x.d, l, w.contextRead x.g false (off x w)))) [] false) ∧
  Starts .ctxrd (fun _ _ b => readForm b) 0x05#8
    (fun x w => own x w ∧ x.b = 1 ∧ off x w % 128 = 0 ∧ x.g.regErr = [])
    (fun _ => 1) (fun x w => .value (x.S.map (fun l => (x.d, l, w.contextRead x.g true (off x w + 4 * l)))) [] false) ∧
  Starts .ctxrd (fun _ _ b => readForm b) 0x05#8 (fun x w => own x w ∧ x.b = 2)
    (fun _ => 2) (fun x w => .value (x.S.flatMap (fun l => [(x.d, l, loWord (w.seatEntry x.g)), (x.d + 1, l, hiWord (w.seatEntry x.g))]))
      [] false) ∧
  Completes .ctxwr (fun _ _ _ => writeForm) 0x06#8
    (fun x w => own x w ∧ x.b = 0 ∧ off x w % 4 = 0 ∧ (∀ l, laneOfOffset (off x w) = some l → x.g.ctl.dead.getLsbD l = false) ∧
      x.g.gstate ≠ .retired)
    (fun x w => w.writeBlock x.gid true (off x w) (x.rd w .d x.low)) ∧
  Completes .ctxwr (fun _ _ _ => writeForm) 0x06#8
    (fun x w => own x w ∧ x.b = 1 ∧ off x w % 128 = 0 ∧ x.g.gstate ≠ .retired ∧ x.d < 240 ∧ x.g.ctl.dead = 0#32)
    (fun x w => x.S.foldl (fun t l => t.writeBlock x.gid true (off x w + 4 * l) (x.reg w x.d l)) w) ∧
  Completes .ctxctl (fun _ _ _ => { plainForm with a := .reg, b := .code [(0, 2)], priv := true }) 0x07#8
    (fun x w => x.rd w .a x.low = 0xFFFF#32 ∧ x.b ≤ 1) (fun _ w => w) ∧
  (∀ n : Nat, Completes .ctxctl (fun _ _ _ => { plainForm with a := .reg, b := .code [(0, 2)], priv := true }) 0x07#8
    (fun x w => x.select w (x.rd w .a x.low) 0#32 = .other n ∧ n ≠ x.gid ∧ x.b ≤ 1)
    (fun x w => if x.b = 0 then w.suspend x.gid n else w.unsuspend x.gid n))

/-- 13 R373 to R375, Table 13.13: PGMAP and PGUNMAP start an operation that holds the status, with the page mapped or out of the table;
the statuses by the address, the mappings that stand, the pool and the pin. -/
def Obligations.PageControl : Prop :=
  Completes .pgmap (fun _ _ _ => pageForm 1) 0x0E#8 (fun x w => x.rdPair w .a x.low &&& 0x1E00000000000000#64 = 0#64)
    (fun x w =>
      let v := x.rdPair w .a x.low
      let r := w.pageMap x.g.ctl.handle x.b (v.toNat % 2 ^ 57) (v.getLsbD 61) (v.getLsbD 62) (v.getLsbD 63)
      x.start r.1 1 (.value (x.writesOf [(x.low, BitVec.ofNat 64 r.2)]) [] false)) ∧
  Completes .pgunmap (fun _ _ _ => pageForm 3) 0x0F#8 (fun x w => x.rdPair w .a x.low &&& 0xFE00000000000000#64 = 0#64)
    (fun x w =>
      let r := w.pageUnmap x.g.ctl.handle x.b ((x.rdPair w .a x.low).toNat % 2 ^ 57)
      x.start r.1 1 (match r.2.2 with
        | none => .value (x.writesOf [(x.low, BitVec.ofNat 64 r.2.1)]) [] false
        | some p => .pageOut x.g.fn p.va p.size (if p.pooled then p.target.pages p.size else [])
          (x.writesOf [(x.low, BitVec.ofNat 64 r.2.1)]))) ∧
  (∀ (s : State) (h : Word) (i : Installation) (code va : Nat) (w x uc : Bool), s.inst? h = some i →
    (s.pageMap h code va w x uc).2 =
      if va % pageSize code ≠ 0 then 4
      else if ∃ p ∈ i.pages, overlaps p.va (p.va + p.size) va (va + pageSize code) then 1
      else if (if code = 1 then (s.fn i.fn).freeRegions else (s.fn i.fn).freePages) = [] then 2
      else 0) ∧
  (∀ (s : State) (h : Word) (i : Installation) (code va : Nat), s.inst? h = some i →
    (s.pageUnmap h code va).2.1 =
      if va % pageSize code ≠ 0 then 4
      else match i.pageOfSize va (pageSize code) with
        | none => 1
        | some p => if p.pin then 3 else 0)

/-! ### Memory -/

/-- 15 R411, R412, Table 15.2: the loads. -/
def Obligations.Loads : Prop :=
  LoadResult .ld32 .reg 0x80#8 (.reg 4 false 1) 1 false ∧ LoadResult .lda32 .reg 0x81#8 (.reg 4 false 1) 1 true ∧
  LoadResult .ld8 .reg 0x82#8 (.reg 1 false 1) 1 false ∧ LoadResult .ld8s .reg 0x83#8 (.reg 1 true 1) 1 false ∧
  LoadResult .ld16 .reg 0x84#8 (.reg 2 false 1) 1 false ∧ LoadResult .ld16s .reg 0x85#8 (.reg 2 true 1) 1 false ∧
  LoadResult .ld64 .pair 0x86#8 (.reg 8 false 2) 2 false ∧ LoadResult .ld128 .quad 0x87#8 (.reg 16 false 4) 4 false

/-- 15 R413, R414; 10 R290: the stores. STL32 is a plain store through a record of SCOPE lane; through any other record its entry waits
in the buffer behind a release of its lanes. STSHAPE stores a shape register's 64 bytes. -/
def Obligations.Stores : Prop :=
  StoreResult .st32 (storeForm .reg) 0x88#8 4 ∧ StoreResult .st8 (storeForm .reg) 0x8A#8 1 ∧
  StoreResult .st16 (storeForm .reg) 0x8B#8 2 ∧ StoreResult .st64 (storeForm .pair) 0x8C#8 8 ∧
  StoreResult .st128 (storeForm .quad) 0x8D#8 16 ∧
  (∀ space ps, Completes .stl32 (fun _ _ _ => { storeForm .reg with long := true, sync := true }) 0x89#8
    (fun x w => x.tests w (bufRec x.image) x.b 4 .write true = .go space ps ∧ (bufRec x.image).scope = 0 ∧
      (x.entries w (bufRec x.image) space ps 4 none).length ≤ x.g.ctl.psbFree)
    (fun x w => x.control (x.charge w (bufRec x.image) space ps)
      (fun k => { k with psb := k.psb ++ x.entries w (bufRec x.image) space ps 4 none }))) ∧
  (∀ space ps, Completes .stl32 (fun _ _ _ => { storeForm .reg with long := true, sync := true }) 0x89#8
    (fun x w => x.tests w (bufRec x.image) x.b 4 .write true = .go space ps ∧ (bufRec x.image).scope ≠ 0 ∧
      (x.entries w (bufRec x.image) space ps 4 (some w.nextId)).length ≤ x.g.ctl.psbFree)
    (fun x w =>
      let es := x.entries w (bufRec x.image) space ps 4 (some w.nextId)
      (x.control (x.charge w.fresh.2 (bufRec x.image) space ps) (fun k => { k with psb := k.psb ++ es })).startRelease
        (x.newOp w.nextId 0 .lease) (bufRec x.image).scope none (.storeOwn es))) ∧
  (∀ space ps, Completes .stshape (fun _ _ _ => { d := .shape, a := .reg, b := .record, one := true, cycles := .one, mem := true }) 0xBA#8
    (fun x w => x.tests w (bufRec x.image) x.b 64 .write false = .go space ps ∧
      (ps.flatMap (fun p => storeEntries (bufRec x.image) x.b space p 64 (x.g.shape x.d).toNat none)).length ≤ x.g.ctl.psbFree)
    (fun x w => x.control (x.charge w (bufRec x.image) space ps) (fun k => { k with
      psb := k.psb ++ ps.flatMap (fun p => storeEntries (bufRec x.image) x.b space p 64 (x.g.shape x.d).toNat none) })))

/-- 15 R415: RECWR makes a record of the eight registers of the lowest active lane, when neither it nor the slot is reserved and its image
is valid; RECRD writes word j of a record to register d + j of every lane of S. -/
def Obligations.Records : Prop :=
  Completes .recwr (fun _ _ _ => { d := .unused, a := .eight, b := .record, one := true }) 0x8E#8
    (fun x w =>
      let image := imageOfWords ((List.range 8).map (fun j => x.reg w (x.a + j) x.low))
      (bufRec x.image).reserved = false ∧ (bufRec image).reserved = false ∧ imageFaults image = 0)
    (fun x w => w.onGroup x.gid (fun g => { g with
      recs := Sparse.set 0#256 g.recs x.b (imageOfWords ((List.range 8).map (fun j => x.reg w (x.a + j) x.low))) })) ∧
  Completes .recrd (fun _ _ _ => { d := .eight, a := .unused, b := .record, dWrite := true, one := true }) 0x8F#8 (fun _ _ => True)
    (fun x w => x.S.foldl (fun t l => (List.range 8).foldl (fun t j =>
      t.writeReg x.gid (x.d + j) l (x.image.extractLsb' (32 * j) 32)) t) w)

/-- 15 R416, R417, Table 15.3; 09 R253: the atomics and reductions. -/
def Obligations.Atomics : Prop :=
  AtomicResult .cas32 0xA0#8 .cas 4 true ∧ AtomicResult .cas64 0xA1#8 .cas 8 true ∧ AtomicResult .xchg32 0xA2#8 .xchg 4 true ∧
  AtomicResult .aadd32 0xA3#8 .add 4 true ∧ AtomicResult .aadd64 0xA4#8 .add 8 true ∧ AtomicResult .amin32 0xA5#8 .min 4 true ∧
  AtomicResult .amax32 0xA6#8 .max 4 true ∧ AtomicResult .aand32 0xA7#8 .and 4 true ∧ AtomicResult .aor32 0x95#8 .or 4 true ∧
  AtomicResult .axor32 0x96#8 .xor 4 true ∧ AtomicResult .radd32 0xA8#8 .add 4 false ∧ AtomicResult .radd64 0xA9#8 .add 8 false ∧
  AtomicResult .rmin32 0xAA#8 .min 4 false ∧ AtomicResult .rmax32 0xAB#8 .max 4 false ∧ AtomicResult .rand32 0xAC#8 .and 4 false ∧
  AtomicResult .ror32 0xAD#8 .or 4 false ∧ AtomicResult .rxor32 0xAE#8 .xor 4 false

/-! ### Synchronisation -/

/-- 15 R418 to R421; 09 R243 to R252: the instructions that start a release (a fence with a release part, IFENCE, an arrival, TSERVE), and
those that start an acquire or an operation on a barrier or a ticket dispenser. An arrival sets ALC to 0 and tags its entries with its
object; a fence that is an acquire alone completes at once. -/
def Obligations.Synchronisation : Prop :=
  let fenceForm (d : Byte) : Form := { d := .code [(1, 3)], a := .code [(1, 5)], b := .unused, long := true, sync := d.toNat.testBit 1
                                       mem := d.toNat.testBit 1 }
  let inRange (x : Ctx) (w : State) : Prop := x.a < (w.recordOf x.g).bars.getD x.b 0
  let ticket (x : Ctx) (w : State) : Prop := (x.rd w .a x.low).toNat < 32 * (w.recordOf x.g).bars.getD 2 0
  let quiet (x : Ctx) : Prop := (modeSatTrap x.mode && x.g.ctl.satf) = false
  Completes .fence (fun d _ _ => fenceForm d) 0x70#8 (fun x _ => x.d.testBit 1 = true)
    (fun x w => x.releases w 0 x.a none (.fence (x.d.testBit 0))) ∧
  Completes .fence (fun d _ _ => fenceForm d) 0x70#8 (fun x _ => x.d.testBit 1 = false)
    (fun x w => w.acquireEffect x.g.core x.g.ctl.handle x.a) ∧
  Completes .ifence (fun _ _ _ => { d := .unused, a := .unused, b := .unused, long := true, one := true, sync := true, mem := true }) 0x71#8
    (fun _ _ => True) (fun x w => (w.fresh.2.startRelease { x.newOp w.nextId 0 .lease with lanes := 0xFFFFFFFF#32 } 3 none .ifence).onGroup
      x.gid (fun g => { g with fetchHold := true })) ∧
  Completes .arrive (fun _ _ _ => { d := .reg, a := .any, b := .scope, dWrite := true, long := true, one := true, sync := true
                                    mem := true }) 0x90#8 (fun x w => inRange x w ∧ quiet x)
    (fun x w => x.control (x.releases w 1 (x.b + 1) (some (w.objectOf x.g x.b x.a)) (.arrive (w.objectOf x.g x.b x.a) 0))
      (fun k => { k with alc := 0#32 })) ∧
  Completes .arrivex (fun _ _ _ => { d := .reg, a := .any, b := .scope, dRead := true, dWrite := true, long := true, one := true
                                     sync := true, mem := true }) 0x94#8
    (fun x w => inRange x w ∧ (x.rd w .d x.low).toNat < 2 ^ 31 ∧ quiet x)
    (fun x w => x.control (x.releases w 1 (x.b + 1) (some (w.objectOf x.g x.b x.a))
      (.arrive (w.objectOf x.g x.b x.a) (x.rd w .d x.low).toNat)) (fun k => { k with alc := 0#32 })) ∧
  Completes .tserve (fun _ _ _ => { d := .unused, a := .reg, b := .unused, long := true, one := true, sync := true, mem := true }) 0x9A#8
    ticket (fun x w => x.releases w 0 3 none (.serve (x.ticketKey w))) ∧
  Starts .waitp (fun _ _ _ => { d := .reg, a := .any, b := .scope, dRead := true, long := true, one := true }) 0x91#8 inRange (fun _ => 0)
    (fun x w => .acquire (x.b + 1) (.phase (w.objectOf x.g x.b x.a) ((x.rd w .d x.low).toNat % 65536))) ∧
  Starts .barinit (fun _ _ _ => { d := .pair, a := .any, b := .scope, dRead := true, long := true, one := true }) 0x92#8
    (fun x w => inRange x w ∧ (x.reg w x.d x.low).toNat < 2 ^ 23 ∧ (x.reg w (x.d + 1) x.low).toNat < 2 ^ 31) (fun _ => 0)
    (fun x w => .barinit (w.objectOf x.g x.b x.a) (x.reg w x.d x.low).toNat (x.reg w (x.d + 1) x.low).toNat) ∧
  Starts .bartest (fun _ _ _ => { d := .reg, a := .any, b := .scope, dRead := true, dWrite := true, long := true, one := true }) 0x93#8
    inRange (fun _ => 1) (fun x w => .bartest (x.b + 1) (w.objectOf x.g x.b x.a) ((x.rd w .d x.low).toNat % 65536)) ∧
  Starts .tkt (fun _ _ _ => { d := .reg, a := .reg, b := .unused, dWrite := true, long := true }) 0x98#8 ticket (fun _ => 1)
    (fun x w => .tkt (x.ticketKey w) (!x.uni)) ∧
  Starts .twait (fun _ _ _ => { d := .reg, a := .reg, b := .unused, dRead := true, long := true, one := true }) 0x99#8 ticket (fun _ => 0)
    (fun x w => .acquire 3 (.ticket (x.ticketKey w) (x.rd w .d x.low)))

/-! ### Exceptions -/

/-- 13 R357, R358; 11 R309; 06 R173, R176, Tables 6.4 to 6.6: BRK raises BRK in the lanes of S, and SWTRAP raises SWTRAP with its code field in
INFO0; a per-lane instruction of which a lane raises an exception that its MODE enables writes nothing and takes FPX, with the lanes that
raised one in LANEMASK and the OR of the enabled exceptions they raised in INFO0. The group enters its handler at once when nothing keeps it
from it, and the instruction has no other effect. -/
def Obligations.InstructionTraps : Prop :=
  ((∀ s g c x u seat n, Issues s g c ignoreForm 0x01#8 (fieldBytes n).1 (fieldBytes n).2.1 (fieldBytes n).2.2 x u → CanEnter s g seat →
     ∃ t h, exec (.brk n) s = .next t ∧ Entered s t g h seat
       (trapRecord s g ⟨0x0E, x.sMask, 0, 0⟩ x.uni (mkWord 0x01#8 (fieldBytes n).1 (fieldBytes n).2.1 (fieldBytes n).2.2))) ∧
   Traps .swtrap (fun _ _ _ => ignoreForm) 0x03#8 (fun _ _ => True) (fun x _ => ⟨0x0F, maskOf x.L, x.d * 65536 + x.a * 256 + x.b, 0⟩)) ∧
  (∀ (mk : Byte → Byte → Byte → Instr) (form : Byte → Byte → Form) (op : Byte) (f : Ctx → State → Nat → LaneOut),
     (∀ d a b s, exec (mk d a b) s = issueLanes (form a b) op d a b f s) →
     ∀ s g c d a b x u seat, Issues s g c (form a b) op d a b x u → CanEnter s g seat →
       let on := modeTraps g.ctl.mode
       let hit := (x.results u f).filter (fun o => o.2.exc &&& on != 0#5)
       hit ≠ [] →
       ∃ t h, exec (mk d a b) s = .next t ∧ Entered s t g h seat (trapRecord s g
         ⟨8, maskOf (hit.map (fun o => o.1)), (hit.foldl (fun e o => e ||| (o.2.exc &&& on)) 0#5).toNat, 0⟩ x.uni (mkWord op d a b)))

/-- 12 R319, R323; 06 Table 6.5: any instruction that fails a check of R319 takes the trap of the first one that fails, with the word in
INFO0 and what was found in INFO1, before it has any effect. -/
def Obligations.ChecksTrap : Prop :=
  ∀ (mk : Byte → Byte → Byte → Instr) (form : Byte → Byte → Byte → Form) (op : Byte) (body : Byte → Byte → Byte → Ctx → State → Act),
    (∀ d a b s, exec (mk d a b) s = issue (form d a b) op d a b (body d a b) s) →
    ∀ s g d a b seat cause info1, s.cur = some g.gid → s.group? g.gid = some g → CanEnter s g seat →
      s.tick.findingsAt g (form d a b) d.toNat a.toNat b.toNat = some (cause, info1) →
      ∃ t h, exec (mk d a b) s = .next t ∧ Entered s t g h seat
        (trapRecord s g ⟨cause, s.tick.trapLanes g (form d a b), (mkWord op d a b).toNat, info1⟩ (g.uniform (form d a b)) (mkWord op d a b))

/-- 12 R316 to R319, R323; 06 Table 6.5: what the checks find, and in which order, in a privileged long-latency instruction with a code,
a register, a record slot and a literal. -/
def Obligations.ChecksInOrder : Prop :=
  ∀ (k : Check) (d a b : Nat) (ls : List Word), a < 256 → b < 256 →
    ({ d := .code [(0, 3)], a := .reg, b := .record, lits := 1, long := true, priv := true } : Form).findings k d a b ls =
      if k.handler = false then some (1, 7)
      else if (8 ≤ a ∧ a < 240 ∧ k.regs ≤ a) ∨ (modeGuard k.mode < 240 ∧ k.regs ≤ modeGuard k.mode) then some (1, 2)
      else if 240 ≤ a ∧ a ∉ [243, 246, 247, 249, 250, 251, 252] then some (1, 3)
      else if 3 < d then some (1, 1)
      else if k.litLeft < 1 then some (1, 6)
      else if 2 ≤ k.longs then some (1, 4)
      else if 64 ≤ b then some (3, b / 64 * 64)
      else none

/-- 06 R176, R178, R179: while the rail runs another handler, a group that traps records its trap with TRAPPEND and frees the rail for other
clauses, and keeps everything else; and an instruction that traps in a handler, by its effect or by a check, kills its group, which
retires. -/
def Obligations.TrapsNotTaken : Prop :=
  (∀ s g c d a b x u seat, Issues s g c ignoreForm 0x03#8 d a b x u → g.ctl.handler = false → g.ctl.paired = false → g.seat = some seat →
     (s.rail g.core (railOfSeat seat)).handler.isSome = true →
     ∃ t, exec (.swtrap d a b) s = .next t ∧
       t.group? g.gid = some { g with
         stalled := none
         ctl := { g.ctl with
           trapPend := true
           trapRec := trapRecord s g ⟨0x0F, maskOf x.L, x.d * 65536 + x.a * 256 + x.b, 0⟩ x.uni (mkWord 0x03#8 d a b) } } ∧
       (∀ n, n ≠ g.gid → t.group? n = s.group? n) ∧ t.mem = s.mem ∧
       (t.rail g.core (railOfSeat seat)).handler = (s.rail g.core (railOfSeat seat)).handler ∧
       (t.rail g.core (railOfSeat seat)).clauseOf ≠ some g.gid) ∧
  (∀ (mk : Byte → Byte → Byte → Instr) (form : Byte → Byte → Byte → Form) (op : Byte) (body : Byte → Byte → Byte → Ctx → State → Act),
     (∀ d a b s, exec (mk d a b) s = issue (form d a b) op d a b (body d a b) s) →
     ∀ s g d a b, (s.groups.map (fun k => k.gid)).Nodup → g.gstate ≠ .retired → g.ctl.handler = true →
       ((∃ c x u tr, Issues s g c (form d a b) op d a b x u ∧ body d a b x u = .trap tr) ∨
         (s.cur = some g.gid ∧ s.group? g.gid = some g ∧ s.tick.findingsAt g (form d a b) d.toNat a.toNat b.toNat ≠ none)) →
       ∃ t h, exec (mk d a b) s = .next t ∧ t.group? g.gid = some h ∧ h.gstate = .retired ∧ h.killed = true)

/-- 06 R180, R182: TRET, once every operation of the handler has cleared its flag, restores MODE and EXEC, leaves the handler and releases
its window, and resumes at the trapped slot, or the one after it with b = 1; a slot past the clause is the next clause. LITPOS is what the
words before the slot consume, the wait mask is not tested again unless the trap stood at a header, VALID is cleared, and the groups the
handler suspended are resumed. -/
def Obligations.TrapReturn : Prop :=
  ∀ s g c d a b x u seat f, Issues s g c { plainForm with b := .code [(0, 1)], priv := true } 0x04#8 d a b x u →
    (∀ o ∈ u.ops, o.gid = g.gid → o.handler = true → o.flag = 16) → g.seat = some seat → g.ctl.paired = false → g.gid ∉ g.suspendBy →
    u.fetchClause g.core g.ctl.handle g.ctl.trapRec.clause.toNat = .ok f → f.words ≠ [] →
    let r := g.ctl.trapRec
    let slot := r.slot.toNat + x.b
    let goes (pc : Word64) (slot lits : Nat) (wait : Bool) : Control := { g.ctl with
      mode := g.ctl.saveMode, exec := g.ctl.saveExec, handler := false, pc := pc, slot := slot, litPos := lits, resumeWait := wait
      trapRec := { r with flags := r.flags &&& 0xFE#8 } }
    ∃ t h, exec (.tret d a b) s = .next t ∧ t.group? g.gid = some h ∧
      h = { g with clause := none, stalled := none, ctl := h.ctl } ∧
      (slot < f.words.length → h.ctl = goes r.clause slot (litsBefore f.words slot) (!r.flags.getLsbD 1)) ∧
      (slot ≠ 0 → f.words.length ≤ slot →
        h.ctl = goes (r.clause + BitVec.ofNat 64 (4 * (1 + f.words.length + f.lits.length))) 0 0 false) ∧
      (∀ n, n ≠ g.gid → t.group? n = (s.group? n).map (fun k => k.resumed g.gid)) ∧
      ((s.rail g.core (railOfSeat seat)).handler = some g.gid →
        (t.rail g.core (railOfSeat seat)).handler = none ∧ (t.rail g.core (railOfSeat seat)).window = []) ∧
      t.mem = s.mem ∧ t.ops = s.ops ∧ t.commits = s.commits

/-- 13 R348; 06 R151: an instruction that passes its checks and has no active lane does nothing but advance: it consumes its literals and
its place among the clause's long-latency operations. -/
def Obligations.NoActiveLaneAdvances : Prop :=
  ∀ (mk : Byte → Byte → Byte → Instr) (form : Byte → Byte → Byte → Form) (op : Byte) (body : Byte → Byte → Byte → Ctx → State → Act),
    (∀ d a b s, exec (mk d a b) s = issue (form d a b) op d a b (body d a b) s) →
    ∀ s g c d a b, s.cur = some g.gid → s.group? g.gid = some g → g.clause = some c →
      s.tick.findingsAt g (form d a b) d.toNat a.toNat b.toNat = none → laneList (s.tick.actLanes g (form d a b)) = [] →
      ∃ t, exec (mk d a b) s = .next t ∧ Behind s t g.gid c (form d a b).lits

/-- 06 R170 to R172; 05 R134; 08 Table 8.2; 10 R267: the queue operands. An instruction whose queues hold too few words, or have too
little room, stalls in place and pops and pushes nothing. One whose d names a queue pushes its results there, one word for each active
lane in ascending order, or one if it is uniform: to q1, q2 and q5 alone; to q0 as markers in the core's stream; to q4 and q8 behind a
core-scope release of its lanes; to q12 into the assembly buffer, whose 32nd word closes a packet, which enters the device launch queue
behind a release at pkg scope. No register is written. -/
def Obligations.QueueOperands : Prop :=
  (∀ (mk : Byte → Byte → Byte → Instr) (form : Byte → Byte → Byte → Form) (op : Byte) (body : Byte → Byte → Byte → Ctx → State → Act),
    (∀ d a b s, exec (mk d a b) s = issue (form d a b) op d a b (body d a b) s) →
    ∀ s g c d a b x, Reaches s g c (form d a b) op d a b x → g.ctl.shadow = false →
      (x.takePops s.tick = none → ∃ t, exec (mk d a b) s = .next t ∧ Stalls s t g ⟨.queueEmpty, .queueWords x.popQueue x.L.length⟩) ∧
      (∀ u y, x.takePops s.tick = some (u, y) → x.pushes = true → u.queueRoom g (d.toNat - 240) < x.L.length →
        ∃ t, exec (mk d a b) s = .next t ∧ Stalls s t g ⟨.queueFull, .queueRoom (d.toNat - 240) x.L.length⟩)) ∧
  (∀ (mk : Byte → Byte → Byte → Instr) (form : Byte → Byte → Byte → Form) (op : Byte) (f : Ctx → State → Nat → LaneOut),
    (∀ d a b s, exec (mk d a b) s = issueLanes (form d a b) op d a b f s) →
    ∀ s g c d a b x u, Issues s g c (form d a b) op d a b x u → x.dying = [] → x.pushes = true → g.gstate ≠ .retired →
      fpxTrap (modeTraps g.ctl.mode) (x.results u f) = none →
      let q := d.toNat - 240
      let ws := (x.results u f).map (fun o => loWord o.2.val)
      let raise (w : State) : State := w.onGroup g.gid (fun k => k.onCtl (fun k => k.raiseAll (x.spread (x.results u f))))
      let release (scope : Nat) (before entries : List Nat) (next : ReleaseThen) (n : Nat) : OutOp :=
        { id := n, gid := g.gid, flag := 16, handler := g.ctl.handler, lanes := x.sMask, kind := .release scope before entries next }
      let sent (h : Group) : Prop := h.ctl.psb = g.ctl.psb.filter (fun e => !(e.held.isNone && x.sMask.getLsbD e.lane))
      (q ∈ [1, 2, 5] → ∃ t, exec (mk d a b) s = .next t ∧
        Behind (raise (u.onGroup g.gid (fun k => k.setQueue q (k.queue q ++ ws)))) t g.gid c (form d a b).lits) ∧
      (q = 0 → ∃ t h, exec (mk d a b) s = .next t ∧ Near s t g h ∧ h.ctl = (g.ctl.raiseAll (x.spread (x.results u f))).behind c (form d a b).lits ∧
        (u.group? g.gid).map (fun k => k.queues) = some h.queues ∧ t.ops = u.ops ∧ t.commits = u.commits ∧
        (t.core g.core).stream = (s.core g.core).stream ++ (ws.zipIdx u.nextId).map (fun w =>
          { number := w.2, gid := g.gid, op := 0, command := .zero 0 0#32 false, marker := some w.1 })) ∧
      (q = 4 ∨ q = 8 → (∀ i, s.inst? g.ctl.handle = some i → i.streamLost = false) →
        ∃ t h before entries, exec (mk d a b) s = .next t ∧ Near s t g h ∧ sent h ∧ (u.group? g.gid).map (fun k => k.queue q ++ ws) = some (h.queue q) ∧
          t.ops = u.ops ++ [release 1 before entries (.push q (g.queue q).length) u.nextId]) ∧
      (q = 12 → ∀ n, n = g.ctl.laWords + ws.length → n < 32 → ∃ t buf, exec (mk d a b) s = .next t ∧
        buf.toList = g.ctl.launchBuf.toList.take g.ctl.laWords ++ ws ++ g.ctl.launchBuf.toList.drop n ∧
        Behind (raise (u.onGroup g.gid (fun k => k.onCtl (fun k => { k with launchBuf := buf, laWords := n })))) t g.gid c (form d a b).lits) ∧
      (q = 12 → g.ctl.laWords < 32 → 32 ≤ g.ctl.laWords + ws.length →
        let packet := g.ctl.launchBuf.toList.take g.ctl.laWords ++ ws.take (32 - g.ctl.laWords)
        ∃ t h before entries, exec (mk d a b) s = .next t ∧ t.group? g.gid = some h ∧ sent h ∧
          h.ctl.laWords = g.ctl.laWords + ws.length - 32 ∧
          h.ctl.launchBuf.toList.take h.ctl.laWords = ws.drop (32 - g.ctl.laWords) ∧
          t.ops = u.ops ++ [release 4 before entries (.launch packet) u.nextId] ∧
          (t.fn g.fn).devQueue = (u.fn g.fn).devQueue ++ [⟨packet, u.nextId, g.core, g.ctl.handle⟩] ∧
          (t.core g.core).devLaunch = (u.core g.core).devLaunch ++ [packet] ∧
          (∀ r l, r < 256 → l < 32 → t.heldReg h r l = s.heldReg g r l) ∧ ∀ p, Memory.read t.mem.bytes p = Memory.read s.mem.bytes p))

/-- 06 R190 to R193: leader and shadow. A shadow pushes nothing, sends nothing to memory and pops no queue: it waits at a release for its
leader, takes the words its leader popped from its load-value queue, and starts operations that end with its leader's results; a tag that
differs is a mismatch. A leader waits at a release until its shadow waits there too; the two are compared, a difference is a mismatch, and
when they agree the shadow drops its entries and moves on with its leader. The words a leader pops are copied to its shadow. A mismatch
raises event 0x36 and kills both. -/
def Obligations.Pairs : Prop :=
  ∀ (mk : Byte → Byte → Byte → Instr) (form : Byte → Byte → Byte → Form) (op : Byte) (body : Byte → Byte → Byte → Ctx → State → Act),
    (∀ d a b s, exec (mk d a b) s = issue (form d a b) op d a b (body d a b) s) →
    ∀ s g h c d a b x, Reaches s g c (form d a b) op d a b x → s.partner g = some h → (s.groups.map (fun k => k.gid)).Nodup →
      g.gstate ≠ .retired → h.gstate ≠ .retired → x.dying = [] →
      (g.ctl.shadow = true → (h.ctl.trapPend = true → sameSlot g h = false) →
        let pops : Prop := x.popsAny = true ∨ (form d a b).viaLvq = true
        let mine (l : LvqLine) : Bool := l.clause == g.ctl.pc.toNat && l.slot == g.ctl.slot && l.dest == x.d
        (x.syncs = true → ∃ t, exec (mk d a b) s = .next t ∧ Stalls s t g ⟨.barrier, .partner⟩) ∧
        (x.syncs = false → pops → g.lvq.find? mine = none → ∃ t, exec (mk d a b) s = .next t ∧ Mismatched s t g h) ∧
        (∀ l w k, x.syncs = false → pops → g.lvq.find? mine = some l → x.pushes = false →
          body d a b (x.withLine l) (s.tick.putGroup { g with lvq := g.lvq.erase l }) = .done w → w.group? g.gid = some k → k.clause = some c →
          ∃ t, exec (mk d a b) s = .next t ∧ Behind w t g.gid c (form d a b).lits) ∧
        (x.syncs = false → ¬pops → x.pushes = true → ∃ t, exec (mk d a b) s = .next t ∧ Behind s t g.gid c (form d a b).lits) ∧
        (∀ w, x.syncs = false → ¬pops → x.pushes = false → (form d a b).long = true → (form d a b).own = false →
          body d a b x s.tick = .done w →
          ∃ t k n, exec (mk d a b) s = .next t ∧ Near s t g k ∧ k.queues = g.queues ∧ t.commits = s.commits ∧
            t.ops = s.ops ++ [x.newOp s.nextId n (.shadow g.ctl.pc.toNat g.ctl.slot)])) ∧
      (g.ctl.shadow = false → g.ctl.leads = true → ∀ u y, x.takePops s.tick = some (u, y) → y.mustWait u = none →
        let waiting : Prop := sameSlot g h = true ∧ h.stalled.map (fun st => st.hold) = some .partner
        let copied := if x.popsAny then u.putGroup { h with lvq := h.lvq ++ [y.popLine] } else u
        (x.syncs = true → ¬waiting → ∃ t, exec (mk d a b) s = .next t ∧ Stalls s t g ⟨.barrier, .partner⟩) ∧
        (x.syncs = true → waiting → y.pairEqual s.tick h = false → ∃ t, exec (mk d a b) s = .next t ∧ Mismatched s t g h) ∧
        (∀ w k j e, x.syncs = true → waiting → y.pairEqual s.tick h = true → x.pushes = false → body d a b y copied = .done w →
          w.group? g.gid = some k → k.clause = some c → w.group? h.gid = some j → j.clause = some e →
          ∃ t j', exec (mk d a b) s = .next t ∧ t.group? h.gid = some j' ∧ j'.ctl = { j.ctl with psb := [] }.behind e (form d a b).lits ∧
            t.commits = w.commits ∧ ∃ k', t.group? g.gid = some k' ∧ k'.ctl = k.ctl.behind c (form d a b).lits) ∧
        (∀ w k, x.syncs = false → x.pushes = false → body d a b y copied = .done w → w.group? g.gid = some k → k.clause = some c →
          ∃ t, exec (mk d a b) s = .next t ∧ Behind w t g.gid c (form d a b).lits))

/-- 13 R359; 05 R133: EXIT kills the group of a handler; outside one it retires the group, once every flag is clear and no store or earlier
access is left to release, and no byte of memory changes; with stores left it starts a release of the live lanes at pkg scope and stalls
until it has completed. -/
def Obligations.Exit : Prop :=
  ∀ s g c d a b x u, Issues s g c { plainForm with sync := true } 0x02#8 d a b x u → (s.groups.map (fun k => k.gid)).Nodup →
    g.gstate ≠ .retired →
    (g.ctl.handler = true → ∃ t h, exec (.exit d a b) s = .next t ∧ t.group? g.gid = some h ∧ h.gstate = .retired ∧ h.killed = true) ∧
    (g.ctl.handler = false → u.flagsClear g.gid 0x1FFF#13 = true → (∀ o ∈ u.ops, o.gid = g.gid → o.beforeRelease = false) →
      (∀ e ∈ g.ctl.psb, e.held.isSome = true) →
      ∃ t h, exec (.exit d a b) s = .next t ∧ t.group? g.gid = some h ∧ h.gstate = .retired ∧ t.mem = s.mem) ∧
    (g.ctl.handler = false → u.flagsClear g.gid 0x1FFF#13 = true → (∀ o ∈ u.ops, o.gid = g.gid → o.beforeRelease = false) →
      (∃ e ∈ g.ctl.psb, e.held = none) →
      ∃ t h o, exec (.exit d a b) s = .next t ∧ t.group? g.gid = some h ∧ h.stalled = some ⟨.barrier, .ops [s.nextId]⟩ ∧
        t.ops = s.ops ++ [o] ∧ o.id = s.nextId ∧ o.gid = g.gid ∧ o.lanes = g.ctl.live ∧
        (∃ before entries, o.kind = .release 4 before entries .exit) ∧
        (∀ l, g.ctl.live.getLsbD l = true → ∀ e ∈ h.ctl.psb, e.held = none → e.lane ≠ l))

/-! ### Shape registers, the matrix engine and leases -/

/-- 10 R286 to R290; 15 R427: the shape instructions. SETSHAPE makes a request of its pair and grants it, or empties the register; SHFIELD
writes a field, and a request field takes its grant away; GETSHAPE reads one; LDSHAPE, when its line has returned, is done with the
register that the image makes. -/
def Obligations.ShapeInstructions : Prop :=
  let setForm : Form := { d := .shape, a := .pair, b := .code [(0, 2)], one := true, cycles := .one }
  let fieldForm : Form := { d := .shape, a := .reg, b := .any, one := true, cycles := .one }
  let loadForm_ : Form := { d := .shape, a := .reg, b := .record, long := true, one := true, cycles := .one, mem := true, own := true
                            viaLvq := true }
  let lo (x : Ctx) (w : State) : Word := x.reg w x.a x.low
  let hi (x : Ctx) (w : State) : Word := x.reg w (x.a + 1) x.low
  Completes .setshape (fun _ _ _ => setForm) 0xB8#8 (fun x _ => x.b = 0) (fun x w => w.putShape x.gid x.d 0#512) ∧
  Completes .setshape (fun _ _ _ => setForm) 0xB8#8 (fun x w => x.b = 1 ∧ hi x w &&& 0xFFF00000#32 = 0#32)
    (fun x w => w.putShape x.gid x.d (grantShape (shapeSets 0#512 [(0, 1), (3, (lo x w).toNat % 65536), (4, (lo x w).toNat / 65536),
      (5, (hi x w).toNat % 65536), (2, (hi x w).toNat / 65536 % 16)]) (w.floorOf x.g))) ∧
  Completes .setshape (fun _ _ _ => setForm) 0xB8#8
    (fun x w => x.b = 2 ∧ lo x w &&& 0xFFFF0000#32 = 0#32 ∧ hi x w = 0#32)
    (fun x w => w.putShape x.gid x.d (grantShape (shapeSets 0#512 [(0, 2), (13, (lo x w).toNat % 65536)]) (w.floorOf x.g))) ∧
  Completes .shfield (fun _ _ _ => fieldForm) 0xBB#8 (fun x _ => x.b = 9 ∨ x.b = 10 ∨ x.b = 11)
    (fun x w => w.putShape x.gid x.d (shapeSet (x.g.shape x.d) x.b
      (if (x.rd w .a x.low).toInt < 0 then 0 else min (x.rd w .a x.low).toNat 65535))) ∧
  Completes .shfield (fun _ _ _ => fieldForm) 0xBB#8
    (fun x w => (x.b = 0 ∧ (x.rd w .a x.low).toNat % 65536 < 3) ∨ (x.b = 2 ∧ (x.rd w .a x.low).toNat % 65536 < 16) ∨ x.b ∈ [3, 4, 5, 13])
    (fun x w => w.putShape x.gid x.d (shapeSets (shapeSet (x.g.shape x.d) x.b ((x.rd w .a x.low).toNat % 65536))
      [(1, 0), (6, 0), (7, 0), (8, 0), (12, 0), (14, 0)])) ∧
  (∀ s g c d a b x u, Issues s g c { d := .reg, a := .shape, b := .any, dWrite := true, one := true, cycles := .one } 0xBC#8 d a b x u →
    x.dying = [] → d.toNat < 240 → b.toNat ≤ 15 →
    ∃ t h, exec (.getshape d a b) s = .next t ∧ LaneDone s t g c x u h (x.S.map (fun l =>
      (l, LaneOut.plain (BitVec.ofNat 64 (shapeGet (g.shape a.toNat) b.toNat)))))) ∧
  (∀ o space image hint lines l acquire uni, Completes .ldshape (fun _ _ _ => loadForm_) 0xB9#8
    (fun x w => x.g.ctl.leads = false ∧ w.ops.find? (fun o => o.gid == x.gid && o.loadsShape) = some o ∧
      o.kind = .load .shape space image hint lines [l] acquire uni ∧ (∀ n ∈ lines, n.bytes.isSome = true ∧ n.poison = false) ∧
      shapeFaults (BitVec.ofNat 512 (natOfBytes (laneBytes lines l 64).1)) = 0)
    (fun x w => (x.charge (w.dropOp o.id) (bufRec x.image) ((w.dropOp o.id).spaceOf x.g (bufRec x.image))
        (x.L.map (x.probe w (bufRec x.image) 64))).putShape x.gid x.d
      (shapeOfImage (BitVec.ofNat 512 (natOfBytes (laneBytes lines l 64).1)) (w.floorOf x.g))))

/-- 10 R262, R285, R286: what Grant makes of a request under the floor F. The request stays as it was, the grant is cleared and
FLOOR is F. Of a tile it grants the largest mode of the floor within the requested rows and columns (of equal sizes the one with
more rows), with K rounded down to whole units and at most 1,024; with no such mode, or less than a unit of K, STATUS is 2 and it
gives nothing. Of a vector it grants 32 or 16 lanes, or STATUS is 2; any other class gets STATUS 0 and nothing. With a grant the tails
are set to it, and without one they stay. -/
def Obligations.GrantChoosesTheLargestMode : Prop :=
  ∀ (sh : Word512) (floor : BitVec 9),
    let g := grantShape sh floor
    let fits (k : Nat) : Prop := k < 9 ∧ floor.getLsbD k = true ∧ (modeSize k).1 ≤ shapeGet sh 3 ∧ (modeSize k).2 ≤ shapeGet sh 4
    let noTile : Prop := ∀ f ∈ [6, 7, 8, 12], shapeGet g f = 0
    let tails : Prop := shapeGet g 9 = shapeGet g 6 ∧ shapeGet g 10 = shapeGet g 7 ∧ shapeGet g 11 = shapeGet g 8
    let refused (status : Nat) : Prop := noTile ∧ shapeGet g 14 = 0 ∧ shapeGet g 1 = status ∧
      ∀ f ∈ [9, 10, 11], shapeGet g f = shapeGet sh f
    (∀ f ∈ [0, 2, 3, 4, 5, 13], shapeGet g f = shapeGet sh f) ∧ shapeGet g 15 = floor.toNat ∧
    (shapeGet sh 0 = 1 → (∃ k, fits k) ∧ unitLen (shapeGet sh 2) ≤ shapeGet sh 5 →
      shapeGet g 1 = 1 ∧ shapeGet g 14 = 0 ∧ tails ∧ fits (shapeGet g 12) ∧
      (shapeGet g 6, shapeGet g 7) = modeSize (shapeGet g 12) ∧
      (∀ k, fits k → (modeSize k).1 * (modeSize k).2 < shapeGet g 6 * shapeGet g 7 ∨
        ((modeSize k).1 * (modeSize k).2 = shapeGet g 6 * shapeGet g 7 ∧ (modeSize k).1 ≤ shapeGet g 6)) ∧
      shapeGet g 8 = min (shapeGet sh 5 / unitLen (shapeGet sh 2) * unitLen (shapeGet sh 2)) 1024) ∧
    (shapeGet sh 0 = 1 → ¬((∃ k, fits k) ∧ unitLen (shapeGet sh 2) ≤ shapeGet sh 5) → refused 2) ∧
    (shapeGet sh 0 = 2 → 16 ≤ shapeGet sh 13 → shapeGet g 1 = 1 ∧ noTile ∧ tails ∧
      shapeGet g 14 = if 32 ≤ shapeGet sh 13 then 32 else 16) ∧
    (shapeGet sh 0 = 2 → shapeGet sh 13 < 16 → refused 2) ∧
    (shapeGet sh 0 ≠ 1 → shapeGet sh 0 ≠ 2 → refused 0)

/-- 10 R267, R268, R273 to R277, R284; 15 R423 to R426: the matrix instructions, once they have passed their tests and q0 has room. MMA,
ACCLD and ACCZ without REL claim their tiles; each command enters the core's stream with its operation, behind a core-scope release for
MMA, ACCLD and ACCST. OBCLAIM writes its answer, OBREL starts an operation for a record the group holds, and PERTURB arms one
perturbation. Entering a command in the stream changes the stream's tail, adds an operation for the command, and for a command that
releases the release of its lanes at core scope; registers, memory and everything else stay. -/
def Obligations.MatrixInstructions : Prop :=
  let sh (x : Ctx) : Word512 := x.g.shape x.shapeNo
  let fmt (x : Ctx) : Nat := shapeGet (sh x) 2
  let room (x : Ctx) (w : State) : Prop := w.q0Used x.g < 64
  let claimForm : Form := { d := .reg, a := .pair, b := .unused, dWrite := true, one := true, cycles := .one, viaLvq := true }
  (∀ rA rB, Completes .mma (fun _ _ _ => matrixForm .pair .pair 0 true) 0xB0#8
    (fun x w =>
      let vA := x.rdPair w .a x.low
      let vB := x.rdPair w .b x.low
      descMbz ((w.recordOf x.g).span == 1) vA = 0 ∧ descMbz ((w.recordOf x.g).span == 1) vB = 0 ∧ x.testShape w = none ∧
      x.testRecords w (descOf vA) (descOf vB) = none ∧ x.testTile w x.shapeNo (fmt x) = none ∧
      (w.core x.g.core).obRec x.gid (descOf vA).ob = some rA ∧ (w.core x.g.core).obRec x.gid (descOf vB).ob = some rB ∧
      w.operandOut x.g (descOf vA) rA (mmaRows x.g (sh x) x.sMask) (stagedUnits (sh x)) = none ∧
      w.operandOut x.g (descOf vB) rB (mmaCols (sh x)) (stagedUnits (sh x)) = none ∧ room x w)
    (fun x w => x.submit (w.claimTiles x.g (tilesOf x.tile (fmt x)) w.nextId)
      (.mma x.tile (sh x) x.option (x.rdPair w .a x.low) (x.rdPair w .b x.low) rA rB x.sMask) true)) ∧
  (∀ (store : Bool), Completes (if store then .accst else .accld) (fun _ _ _ => matrixForm .pair .record 0 true)
      (if store then 0xB2#8 else 0xB1#8)
    (fun x w =>
      let v := x.rdPair w .a x.low
      let es := x.elements w (bufRec x.image) (sh x) (wbits v 31 0) (wbits v 63 32)
      let kind : AccessKind := if store then .write else .read
      x.testLost w (bufRec x.image) x.b = none ∧ x.testShape w = none ∧ x.testTile w x.shapeNo (fmt x) = none ∧
      x.testMoves w (bufRec x.image) (tileElem (fmt x)) kind es = none ∧ w.soiledElem es kind = none ∧ room x w)
    (fun x w =>
      let v := x.rdPair w .a x.low
      if store then x.submit w (.store x.tile (sh x) x.b x.image (wbits v 31 0) (wbits v 63 32) x.sMask x.option) true
      else x.submit (w.claimTiles x.g (tilesOf x.tile (fmt x)) w.nextId)
        (.load x.tile (sh x) x.b x.image (wbits v 31 0) (wbits v 63 32) x.sMask) true)) ∧
  Completes .accz (fun _ _ _ => matrixForm .unused .unused 0xF0 false) 0xB3#8 (fun x w => x.testTile w 0 0 = none ∧ room x w)
    (fun x w => x.submit (if x.option then w else w.claimTiles x.g [x.tile] w.nextId) (.zero x.tile x.sMask x.option) false) ∧
  Completes .obclaim (fun _ _ _ => claimForm) 0xB4#8
    (fun x w => x.reg w x.a x.low &&& 0xF000F000#32 = 0#32 ∧ x.reg w (x.a + 1) x.low &&& 0x0000FFFF#32 = 0#32 ∧ x.g.ctl.leads = false)
    (fun x w =>
      let c := (w.core x.g.core).claimBuffer x.gid (x.reg w x.a x.low) (x.reg w (x.a + 1) x.low)
      x.wroteAll (w.putCore x.g.core c.1) x.d c.2) ∧
  (∀ o, Starts .obrel (fun _ _ _ => { d := .unused, a := .reg, b := .unused, long := true, one := true, cycles := .one }) 0xB5#8
    (fun x w => (w.core x.g.core).obRec x.gid (x.rd w .a x.low).toNat = some o) (fun _ => 0) (fun _ _ => .obrel o.number)) ∧
  Completes .obrel (fun _ _ _ => { d := .unused, a := .reg, b := .unused, long := true, one := true, cycles := .one }) 0xB5#8
    (fun x w => (w.core x.g.core).obRec x.gid (x.rd w .a x.low).toNat = none) (fun _ w => w) ∧
  Completes .perturb (fun _ _ _ => { d := .acc 0xF8, a := .pair, b := .unused, priv := true, one := true, cycles := .one }) 0xB6#8
    (fun x w => x.reg w x.a x.low &&& 0xFFFFC0C0#32 = 0#32)
    (fun x w => w.onCore x.g.core (fun k => { k with perturb := some ⟨x.tile, (x.reg w x.a x.low).toNat % 64,
      (x.reg w x.a x.low).toNat / 256 % 64, x.reg w (x.a + 1) x.low, x.g.ctl.handle⟩ })) ∧
  ∀ (x : Ctx) (w : State) (k : Group) (c : MatrixCommand) (releases : Bool), w.group? x.gid = some k → x.g.core = k.core →
    ∃ h, Near w (x.submit w c releases) k h ∧
      ((x.submit w c releases).core k.core).stream = (w.core k.core).stream ++
        [{ number := w.nextId, gid := x.gid, op := w.nextId, command := c, release := w.nextId + 1 }] ∧
      (releases = false → (x.submit w c releases).ops = w.ops ++ [x.newOp w.nextId 0 (.matrix c none)] ∧
        (x.submit w c releases).commits = w.commits ∧ h.ctl = k.ctl) ∧
      (releases = true → ∃ before entries, (x.submit w c releases).ops = w.ops ++
        [{ x.newOp (w.nextId + 1) 0 (.release 1 before entries .matrix) with flag := 16 }, x.newOp w.nextId 0 (.matrix c none)])

/-- 15 R428 to R431; 02 R28: the lease instructions send their request, which the lease controller applies at the next frame boundary;
LEASEQ and SLOTSET start the operation that will hold its answer. -/
def Obligations.LeaseInstructions : Prop :=
  let ok (x : Ctx) (w : State) : Prop := w.lostStream x.g = none ∧ w.hasPool x.g.ctl.handle = true ∧ x.g.leaseOut + (x.g.queue 10).length < 64
  let asks (x : Ctx) (w : State) (kind : LeaseKind) (dest count : Word) (op : Nat) : State :=
    w.onFab (fun f => { f with requests := f.requests ++ [⟨kind, x.gid, x.g.core * 65536 + railOfSeat (x.g.seat.getD 0) * 256 +
      x.g.seat.getD 0, x.g.ctl.handle, dest, count, op, w.pkg.frame⟩] })
  let owes (x : Ctx) (w : State) : State := w.onGroup x.gid (fun g => { g with leaseOut := g.leaseOut + 1 })
  Completes .lease (fun _ _ _ => leaseForm) 0x9C#8 ok (fun x w => owes x (asks x w .lease (x.rd w .a x.low) (x.rd w .b x.low) 0)) ∧
  Completes .unlease (fun _ _ _ => leaseForm) 0x9D#8 ok (fun x w => owes x (asks x w .unlease (x.rd w .a x.low) (x.rd w .b x.low) 0)) ∧
  Completes .leaseq (fun _ _ _ => { d := .pair, a := .reg, b := .unused, dWrite := true, long := true, one := true }) 0x9E#8 ok
    (fun x w => owes x (asks x (x.start w 2 .lease) .leaseq (x.rd w .a x.low) 0#32 w.nextId)) ∧
  Completes .slotset (fun _ _ _ => { d := .reg, a := .pair, b := .unused, dWrite := true, long := true, one := true, priv := true }) 0x9F#8
    (fun x w => x.reg w x.a x.low &&& 0xFFC0F0C0#32 = 0#32 ∧ x.reg w (x.a + 1) x.low &&& 0x300000FF#32 = 0#32)
    (fun x w => asks x (x.start w 1 .lease) (.slotset (x.reg w (x.a + 1) x.low) (x.reg w x.a x.low)) 0#32 0#32 w.nextId)

/-! ### Decoding and the step -/

/-- 12 R315, R318, Table 12.4: the decoder reads the word of every instruction back as it, with every operand at every value, from the
word, from its four bytes in memory and as the opcode table numbers its bits; and each word it reads as an instruction is that
instruction's word. -/
def Obligations.DecodeAndEncodeAgree : Prop :=
  (∀ i w, encode i = some w → decodeWord w = .ok i ∧ decodeTableWord 32 w.toNat = some i ∧
    ∀ rest, decodeBytes (bytesOfNat 4 w.toNat ++ rest) = .ok (i, rest)) ∧
  (∀ i w, decodeWord w = .ok i → encode i = some w)

/-- 12 R315, R319, R324, R325, Tables 12.1 and 12.4: every value of OP has one fate: the 173 defined values are instructions, the dashes of the
table are reserved, 0xC0 to 0xEF are the future space, and 0xF0 to 0xFF are header values; the fields never change it. And words written
out from the spec decode to their instructions: an integer addition, a branch with its fields zero, the canonical breakpoint, a 32-bit
store, an atomic, a barrier arrival, a matrix multiply, a shape request and a long fence. -/
def Obligations.OpcodesAndWords : Prop :=
  (let reserved : List Nat := [0x1C, 0x1D, 0x1E, 0x1F, 0x3F, 0x4D, 0x4E, 0x4F, 0x7B, 0x7C, 0x7D, 0x7E, 0x7F, 0x97, 0xAF, 0xB7, 0xBD,
     0xBE, 0xBF]
   ∀ op d a b : Byte,
     (op.toNat < 0xC0 → op.toNat ∉ reserved → ∃ i, decodeWord (mkWord op d a b) = .ok i) ∧
     (op.toNat ∈ reserved → decodeWord (mkWord op d a b) = .error .reservedOpcode) ∧
     (0xC0 ≤ op.toNat → op.toNat < 0xF0 → decodeWord (mkWord op d a b) = .error .futureOpcode) ∧
     (0xF0 ≤ op.toNat → decodeWord (mkWord op d a b) = .error .headerValue)) ∧
  (decodeWord 0x20030102#32 = .ok (.iadd 3#8 1#8 2#8) ∧ decodeWord 0x10000000#32 = .ok (.bra 0#8 0#8 0#8) ∧
   decodeWord 0x01000000#32 = .ok (.brk 0#24) ∧ decodeWord 0x88020540#32 = .ok (.st32 2#8 5#8 64#8) ∧
   decodeWord 0xA3070801#32 = .ok (.aadd32 7#8 8#8 1#8) ∧ decodeWord 0x90040203#32 = .ok (.arrive 4#8 2#8 3#8) ∧
   decodeWord 0xB0010300#32 = .ok (.mma 1#8 3#8 0#8) ∧ decodeWord 0xB8020800#32 = .ok (.setshape 2#8 8#8 0#8) ∧
   decodeWord 0x70000200#32 = .ok (.fence 0#8 2#8 0#8))

/-- 06 R166, 12 R315: when the next turn is a rail's with a clause under way, a step executes the instruction that the clause's word at
the group's slot decodes to, for that group; a rail with no clause under way starts one; the turn of another agent executes its step;
and with nothing listed, the next turn is the one that the model's own policy gives (log 1). -/
def Obligations.StepRunsTheInstruction : Prop :=
  ∀ s rest,
    (∀ c r g w i, s.agenda = .issue c r :: rest → (s.rail c r).clauseOf = some g.gid → s.group? g.gid = some g → g.slotWord = some w →
      decodeWord w = .ok i → step s = exec i { s with agenda := rest, cur := some g.gid }) ∧
    (∀ c r, s.agenda = .issue c r :: rest → (s.rail c r).clauseOf = none →
      step s = exec .clauseStart { s with agenda := rest, turn := ⟨c, r, 0⟩, cur := none }) ∧
    (∀ i x y z, s.agenda = .event i x y z :: rest → encode i = none →
      step s = exec i { s with agenda := rest, turn := ⟨x, y, z⟩, cur := none }) ∧
    (s.agenda = [] → step s = step { s.tick with agenda := [nextTurn s] })

/-- 13 R348; 06 R166; 12 R319; 95: nothing the machine does comes to a stop. Every instruction, executed for a group, answers a next state
(its effect, its trap, or its wait), and so does every step of another agent, in every state; an instruction of no group is the model's own
fault. So every step of the machine goes on, with one exception of the model's making: an agenda that lists an instruction as if it were a
step of an agent (log 1); with nothing listed, a step always goes on. -/
def Obligations.EveryStepGoesOn : Prop :=
  (∀ i s n g, encode i ≠ none → s.cur = some n → s.group? n = some g → ∃ t, exec i s = .next t) ∧
  (∀ i s, encode i = none → ∃ t, exec i s = .next t) ∧
  (∀ i s, encode i ≠ none → (∀ n, s.cur = some n → s.group? n = none) → exec i s = .fault .noIssuingGroup) ∧
  (∀ s, (∃ t, step s = .next t) ∨
    ∃ i x y z, s.takeTurn.1 = .event i x y z ∧ encode i ≠ none ∧ step s = .refused .notAStep) ∧
  ∀ s, s.agenda = [] → ∃ t, step s = .next t

/-- 12 R319, R325; 06 R173, R176: a word at a slot that is no instruction traps before it has any effect: one of the future space FUTOP, a
reserved or a header value ILLOP with reason 1, with the word in INFO0. -/
def Obligations.BadWordsTrap : Prop :=
  ∀ s rest c r g w e seat, s.agenda = .issue c r :: rest → (s.rail c r).clauseOf = some g.gid → s.group? g.gid = some g →
    g.slotWord = some w → decodeWord w = .error e → CanEnter s g seat →
    let s0 : State := { s with agenda := rest }
    let uni := (headerOf g.inClause.header).uni.getLsbD g.ctl.slot
    let lanes := if uni then maskOf ((laneList (s0.activeMask g)).take 1) else s0.activeMask g
    ∃ t h, step s = .next t ∧ Entered s0 t g h seat
      (trapRecord s0 g (if e = .futureOpcode then ⟨2, lanes, w.toNat, 0⟩ else ⟨1, lanes, w.toNat, 1⟩) uni w)

/-! ### The package, its resets and its time -/

/-- 01 R11, R13, R15, Table 1.3: the supplies come up in their order, and the reset is released when the last is up and none missed its window,
whose name is logged; power down and the power-on reset leave of the machine what lies in the fuses, in flash and outside the device. At
95 °C a die is gated, with event 0x10, and issue stops for every group on it, whose state stays; below 90 °C the gate is released, with
event 0x11; at 105 °C event 0x12 is raised, every die is gated, the record stands in flash and power is removed within 10 ms; the host reads
the record, which stays until it clears it. -/
def Obligations.PowerAndThermal : Prop :=
  (∀ s,
     (∀ p, s.pkg.nextSupply = some p → ∃ t, exec (.powerSupplyRamp p) s = .next t ∧ t.pkg.supplies = s.pkg.supplies ++ [p] ∧
       (t.pkg.rstAsserted = false ↔ p = .vopt ∧ s.pkg.supplyMissed = false)) ∧
     (∀ p, s.pkg.nextSupply = some p → ∃ t, exec (.supplyWindowMissed p) s = .next t ∧ t.pkg.supplies = s.pkg.supplies ∧
       t.pkg.rstAsserted = true ∧ t.pkg.heldInReset = true ∧ t.pkg.supplyLog = s.pkg.supplyLog ++ [p]) ∧
     (∀ i, i = .powerOnReset ∨ i = .powerDownSequence → ∃ t, exec i s = .next t ∧ t.groups = [] ∧ t.launches = [] ∧ t.installs = [] ∧
       t.mem = State.reset.mem ∧ t.cores = [] ∧ t.fab = State.reset.fab ∧ t.garnet = State.reset.garnet ∧ t.pkg.bringUp = .notRun ∧
       t.pkg.pllLocked = false ∧ t.pkg.fusesBlown = s.pkg.fusesBlown ∧ t.pkg.thermalFlash = s.pkg.thermalFlash ∧
       t.host.xmssNext = s.host.xmssNext ∧ t.host.mem = s.host.mem ∧ t.pkg.supplyLog = s.pkg.supplyLog ∧
       (i = .powerDownSequence → t.pkg.supplies = [] ∧ t.pkg.rstAsserted = true))) ∧
  (∀ s,
     (∀ die c, die < 8 → 95 ≤ c → s.pkg.pllLocked = true → die ∉ s.pkg.thermal → ∃ t e, exec (.thermalGate die c) s = .next t ∧
       t.groups = s.groups ∧ t.mem = s.mem ∧ t.transfers = s.transfers ∧ (∀ d, d ∈ t.pkg.thermal ↔ d = die ∨ d ∈ s.pkg.thermal) ∧
       (∀ g, dieOfCore g.core = die → t.gated g = true) ∧ t.host.eventLog = s.host.eventLog ++ [e] ∧ e.code = 0x10) ∧
     (∀ die c, c < 90 → die ∈ s.pkg.thermal → s.pkg.powerOffBy = none → ∃ t e, exec (.thermalGateRelease die c) s = .next t ∧
       t.groups = s.groups ∧ (∀ d, d ∈ t.pkg.thermal ↔ d ≠ die ∧ d ∈ s.pkg.thermal) ∧ t.host.eventLog = s.host.eventLog ++ [e] ∧
       e.code = 0x11) ∧
     (∀ die c, 105 ≤ c → s.pkg.supplies ≠ [] → s.pkg.powerOffBy = none → s.pkg.pllLocked = true →
       ∃ t e r, exec (.thermalShutdown die c) s = .next t ∧ t.host.eventLog = s.host.eventLog ++ [e] ∧ e.code = 0x12 ∧
         (∀ d, d < 8 → d ∈ t.pkg.thermal) ∧ t.pkg.powerOffBy = some (s.pkg.frame + 25000) ∧ t.pkg.thermalFlash = some r ∧
         r.events = t.host.eventLog.drop (t.host.eventLog.length - 60) ∧ t.mem = s.mem) ∧
     (∀ r, s.pkg.thermalFlash = some r → exec .thermalRecordRead s = .next (s.onPkg (fun p => { p with mctpOut := p.mctpOut ++ [r] }))) ∧
     exec .thermalRecordClear s = .next (s.onPkg (fun p => { p with thermalFlash := none })))

/-- 01 R16, R17: bring-up runs its nine steps in order, and a step that fails stops it and is reported. Behind step 3 the frame counter
starts at 0; behind step 4 the channels that did not train are mapped out; behind step 6 the failing sub-arrays are fenced; behind step 7
the link is up; behind step 9 the device is up. -/
def Obligations.BringUp : Prop :=
  ∀ s r, s.pkg.heldInReset = false → s.pkg.rstAsserted = false → s.pkg.bringUp = .notRun →
    ∃ t, exec (.bringUp r) s = .next t ∧
      (r.failedStep = none → t.pkg.bringUp = .done) ∧
      (∀ f, r.failedStep = some f → 1 ≤ f → f ≤ 9 → t.pkg.bringUp = .failed f) ∧
      let reached (n : Nat) : Prop := ∀ f, r.failedStep = some f → n < f
      (reached 2 → t.pkg.firmwareHash = r.firmwareHash) ∧
      (reached 3 → t.pkg.pllLocked = true ∧ t.pkg.frame = 0) ∧ (¬reached 3 → t.pkg.pllLocked = s.pkg.pllLocked) ∧
      (reached 4 → ∀ c, c ∈ t.pkg.mappedOut ↔ c ∈ r.untrained ∧ c < Config.channels) ∧
      (reached 4 → ∀ c ∈ r.untrained, c < Config.channels → ∀ k ∈ channelCodes c, k ∈ t.garnet.unusable) ∧
      (reached 6 → ∀ c m n, (c, m, n) ∈ r.failing → c < Config.cores → m < 4 → n < 4 → 4 * m + n ∈ (t.core c).fenced) ∧
      (reached 7 → t.host.cxlUp = true ∧ t.host.vfsVisible = true) ∧ (¬reached 7 → t.host.cxlUp = s.host.cxlUp) ∧
      t.mem.bytes = s.mem.bytes ∧ t.groups = s.groups

/-- 01 R14; 05 R139, R148: while the clock runs, a frame advances the frame number by one and the watchdog count of every group that
is watched by the frame's 1,000 cycles; no register, no byte of memory and no place of a group changes. -/
def Obligations.FrameTick : Prop :=
  ∀ s, s.pkg.pllLocked = true → s.pkg.powerOffBy = none → s.turn.x = 0 →
    ∃ t, exec .frameTick s = .next t ∧ t.pkg = { s.pkg with frame := s.pkg.frame + 1 } ∧ t.mem = s.mem ∧ t.launches = s.launches ∧
      t.ops = s.ops ∧ t.commits = s.commits ∧
      ∀ n g, s.group? n = some g → ∃ h, t.group? n = some h ∧
        h = { g with ctl := h.ctl, age := h.age, waitCycles := h.waitCycles, counters := h.counters } ∧
        h.ctl = { g.ctl with wdCount := if s.watched g then g.ctl.wdCount + 1000#64 else g.ctl.wdCount }

/-- 01 R15, Table 1.3; 03 R66, R67, R93: a host reset takes down the link, the virtual functions, every partition and every installation, and
lets no byte of HBM go; a warm reset of a die kills every group on it and clears its cores, their engines and the transfers under way. A
write of PARTCFG that is rejected changes nothing and raises event 0x32, and one that is not is stored; a partition reset removes the
partition's installations and clears its cores; and a flit that meets a closed crossing is dropped, counted, and reported with event 0x33,
while memory stays as it is. -/
def Obligations.ResetsAndPartitions : Prop :=
  (∀ s,
     (∃ t, exec .hostReset s = .next t ∧ t.installs = [] ∧ t.launches = [] ∧ t.groups = [] ∧ t.host.parts = [] ∧ t.host.ide = false ∧
       t.mem.bytes = s.mem.bytes ∧ t.host.dump = s.host.dump ∧ t.pkg.fencing = s.pkg.fencing ∧ t.pkg.mappedOut = s.pkg.mappedOut) ∧
     (s.turn.x < 8 → (s.groups.map (fun k => k.gid)).Nodup → ∃ t, exec .dieWarmReset s = .next t ∧
       (∀ n g, s.group? n = some g → dieOfCore g.core = s.turn.x → ∃ h, t.group? n = some h ∧ h.gstate = .retired) ∧
       (∀ c, dieOfCore c = s.turn.x → (t.core c).mantle = [] ∧ (t.core c).acc = [] ∧ (t.core c).tileOwner = [] ∧ (t.core c).stream = [] ∧
         (t.core c).obrecs = [] ∧ ∀ x ∈ t.transfers, x.core ≠ c))) ∧
  (∀ s p, s.host.cxlUp = true → p < 8 →
     (∀ value, s.pkg.bringUp = .done → s.partcfgRejects p value = true →
       ∃ t e, exec (.partcfgWrite p value) s = .next t ∧ t.host.parts = s.host.parts ∧ t.host.eventLog = s.host.eventLog ++ [e] ∧
         e.code = 0x32 ∧ t.groups = s.groups ∧ t.installs = s.installs) ∧
     (∀ value, s.pkg.bringUp = .done → s.partcfgRejects p value = false →
       ∃ t, exec (.partcfgWrite p value) s = .next t ∧ (t.part p).cfg = value) ∧
     (∀ value, wbit value 31 = true → wbits value 2 0 = p → wbits value 29 3 = 0 →
       ∃ t, exec (.partitionReset value) s = .next t ∧ (∀ i ∈ s.installs, i.part = p → t.inst? i.handle = none) ∧
         ∀ c, dieOfCore c ∈ (s.part p).dies → (t.core c).mantle = [] ∧ (t.core c).acc = [] ∧ (t.core c).stream = [] ∧
           (t.core c).spadUnits = []) ∧
     (∀ source target g, source < 8 → target < 8 → s.crossing source target = false → g ∈ s.groups → dieOfCore g.core = source →
       g.gstate ≠ .retired →
       ∃ t e, exec (.firewallDrop source target) s = .next t ∧ Sparse.get 0 t.host.fwDrop source = Sparse.get 0 s.host.fwDrop source + 1 ∧
         t.host.eventLog = s.host.eventLog ++ [e] ∧ e.code = 0x33 ∧ t.mem = s.mem ∧ t.groups = s.groups))

/-! ### The host's side: queues, tenants, memory, dump and trust -/

/-- 03 R61: a queue stops, with ERR set and its VECTOR raised, when the tail it reads runs further ahead of LQHEAD than the ring is long, and
when a ring read fails on the link; a stopped queue starts no packet; and clearing ERR resumes it from LQHEAD. -/
def Obligations.LaunchQueueStops : Prop :=
  ∀ s vf q, q < 8 →
    let l := s.queueOf vf q
    let vectors : List (Nat × Nat) := s.host.vectors ++ [(vf, l.vector)]
    (l.enabled = true → l.held = false → l.err = false →
      let tail := BitVec.ofNat 32 (natOfBytes (Memory.readBytes s.host.mem l.tailLine 4))
      ∃ t, exec (.tailRefetch vf q) s = .next t ∧ (t.queueOf vf q).tail = tail ∧ (t.queueOf vf q).head = l.head ∧
        (l.size < (tail - l.head).toNat → (t.queueOf vf q).err = true ∧ t.host.vectors = vectors) ∧
        ((tail - l.head).toNat ≤ l.size → (t.queueOf vf q).err = false ∧ t.host.vectors = s.host.vectors)) ∧
    (s.served vf q = true → ∃ t, exec (.launchPacketStart (.host vf q) false) s = .next t ∧ (t.queueOf vf q).err = true ∧
      (t.queueOf vf q).head = l.head ∧ t.host.vectors = vectors ∧ t.launches = s.launches) ∧
    (l.err = true → ∀ linkOk, exec (.launchPacketStart (.host vf q) linkOk) s = .next s) ∧
    (∀ value, s.lqOpen vf q = true → l.enabled = true → l.err = true → wbit value 31 = true → wbit value 30 = true →
      wbits value 29 24 = 0 → wbits value 19 16 = 0 → wbits value 7 0 = 0 → 4 ≤ wbits l.cfg 23 20 → l.overrun = false →
      ∃ t, exec (.lqErrClear vf q value) s = .next t ∧ (t.queueOf vf q).err = false ∧ (t.queueOf vf q).enabled = true ∧
        (t.queueOf vf q).head = l.head ∧ t.hostPacket vf q = s.hostPacket vf q)

/-- 03 R59, R60, R62 to R65; 05 R130, R133: enabling a queue sets LQHEAD to the tail read at that moment; a host write takes the tail lines
it touches from the launch unit; a packet that is served and passes its checks starts its launch, numbered on from the kernel's earlier
ones, and one that fails them writes status 4 and starts nothing; and a launch that has ended writes its record. -/
def Obligations.Launches : Prop :=
  ∀ s,
    (∀ vf q value, s.lqOpen vf q = true → (s.queueOf vf q).enabled = false → wbit value 31 = true → wbits value 29 24 = 0 →
      wbits value 19 16 = 0 → wbits value 7 0 = 0 → 4 ≤ wbits value 23 20 →
      let tail := BitVec.ofNat 32 (natOfBytes (Memory.readBytes s.host.mem (s.queueOf vf q).tailLine 4))
      ∃ t, exec (.lqEnable vf q value) s = .next t ∧ (t.queueOf vf q).enabled = true ∧ (t.queueOf vf q).head = tail ∧
        (t.queueOf vf q).tail = tail ∧ (t.queueOf vf q).size = 2 ^ wbits value 23 20) ∧
    (∀ addr bytes, ∃ t, exec (.tailSnoop addr bytes) s = .next t ∧ t.host.mem = Memory.writeBytes s.host.mem addr bytes ∧
      ∀ vf q, overlaps (t.queueOf vf q).tailLine ((t.queueOf vf q).tailLine + 128) addr (addr + bytes.length) = true →
        (t.queueOf vf q).held = false) ∧
    (∀ vf q i, q < 8 → s.served vf q = true →
      let p := s.hostPacket vf q
      (s.packetInst vf none p = some i → p.fits i = true → i.lost = false → s.inst? i.handle = some i →
        ∃ t l, exec (.launchPacketStart (.host vf q) true) s = .next t ∧ t.launches = s.launches ++ [l] ∧ l.handle = i.handle ∧
          l.wgCount = p.field 16 4 ∧ l.ctxBase = p.field 8 8 ∧ l.started = [] ∧ l.retired = [] ∧ l.complete = false ∧
          (∀ k, i.kernel? l.kernel = some k → l.first = k.seqNext) ∧ (t.queueOf vf q).head = (s.queueOf vf q).head + 1) ∧
      (s.packetInst vf none p = none → p.field 24 8 ≠ 0 →
        ∃ t, exec (.launchPacketStart (.host vf q) true) s = .next t ∧ t.launches = s.launches ∧
          t.host.mem = Memory.writeBytes s.host.mem (p.field 24 8) (completionBytes (BitVec.ofNat 64 (p.field 32 8)) 4 0) ∧
          (t.queueOf vf q).head = (s.queueOf vf q).head + 1)) ∧
    (∀ l, s.launch? s.turn.x = some l → s.launchOver l = true → l.pusher = none → l.compAddr ≠ 0#64 →
      ∃ t, exec .launchComplete s = .next t ∧ t.launch? s.turn.x = some { l with complete := true } ∧
        t.host.mem = Memory.writeBytes s.host.mem l.compAddr.toNat (completionBytes l.compVal l.status l.retired.length) ∧
        t.host.vectors = s.host.vectors ++ (if l.flags % 2 = 1 then [(l.fn, (s.queueOf l.fn l.queue).vector)] else []))

/-- 03 R56, R58, R68 to R70, Table 3.7: what the writes of VFCTL do to a tenant. EN is set only behind IDE; a write that is rejected changes
nothing and raises event 0x31; GATE stops issue for every group of the tenant and moves no state; banks that are set make it resident; to
clear them starts the swap-out, which ends when no dirty line of the tenant's groups is left; and to clear EN removes its installations. -/
def Obligations.Tenants : Prop :=
  ∀ s vf value, s.vfctlOpen vf = true →
    let f := s.fn vf
    let stored (t : State) : Prop := t.fn vf = { f with vfctl := vfctlStored value } ∧ t.groups = s.groups ∧ t.mem = s.mem
    (f.enabled = false → wbit value 31 = true → s.host.ide = false → exec (.vfEnable vf value) s = .next s) ∧
    (f.enabled = false → wbit value 31 = true → s.host.ide = true → s.vfctlRejects vf value = true →
      ∃ t e, exec (.vfEnable vf value) s = .next t ∧ (t.fn vf).vfctl = f.vfctl ∧ t.host.eventLog = s.host.eventLog ++ [e] ∧
        e.code = 0x31 ∧ e.fn = vf ∧ t.groups = s.groups) ∧
    (f.enabled = false → wbit value 31 = true → s.host.ide = true → s.vfctlRejects vf value = false →
      ∃ t, exec (.vfEnable vf value) s = .next t ∧ stored t ∧ (t.fn vf).enabled = true) ∧
    (f.enabled = true → wbit value 31 = true → s.host.ide = true → s.vfctlRejects vf value = false →
      (f.gate = false → wbit value 15 = true → (f.banks = 0 ∨ wbits value 23 16 ≠ 0) →
        ∃ t, exec (.vfGateSet vf value) s = .next t ∧ stored t ∧ ∀ g, g.fn = vf → t.gated g = true) ∧
      (f.gate = true → wbit value 15 = false → (f.banks = 0 ∨ wbits value 23 16 ≠ 0) →
        ∃ t, exec (.vfGateClear vf value) s = .next t ∧ stored t ∧ (t.fn vf).gate = false) ∧
      (f.banks = 0 → wbits value 23 16 ≠ 0 → ∃ t, exec (.vfBanksSet vf value) s = .next t ∧ stored t ∧
        (t.fn vf).banks ≠ 0 ∧ ∀ g, g.fn = vf → t.resident g = true) ∧
      (f.banks ≠ 0 → wbits value 23 16 = 0 → ∃ t, exec (.vfBanksClear vf value) s = .next t ∧ (t.fn vf).banks = 0 ∧
        (t.fn vf).leaving = f.banks ∧ t.installs = s.installs)) ∧
    (f.enabled = true → wbit value 31 = false → s.vfctlRejects vf value = false →
      ∃ t, exec (.vfDisable vf value) s = .next t ∧ (t.fn vf).enabled = false ∧ vf ∉ t.mem.keyLive ∧
        ∀ i ∈ s.installs, i.fn = vf → t.inst? i.handle = none) ∧
    (s.turn.x = vf → f.leaving ≠ 0 →
      (∀ c m g, m ∈ (s.core c).mantle → s.group? m.gid = some g → g.fn = vf → m.dirty = false) →
      ∃ t, exec .swapOutComplete s = .next t ∧ (t.fn vf).leaving = 0 ∧ t.groups = s.groups ∧ t.mem = s.mem ∧
        ∀ c m g, m ∈ (t.core c).mantle → t.group? m.gid = some g → g.fn ≠ vf)

/-- 03 R73, R75 to R80, R90 to R92: a region that REGBIND binds belongs to its key and reads as unscrubbed until it is scrubbed to zeros, and
a refused bind changes no memory; a line with an uncorrectable error is poisoned and reported; LINEFILL writes the whole line and clears
its poison, or is refused and changes none; and a function's pool holds only regions bound to its key. -/
def Obligations.DeviceMemory : Prop :=
  ∀ s,
    (∀ value : Word64, s.host.cxlUp = true → wbit value 3 = true → wbits value 11 4 = 0 →
      let region := wbits value 63 21
      let key := wbits value 20 12
      (s.bindStatus region key = 0 → ∃ t, exec (.regbindBind value) s = .next t ∧ Sparse.get 0 t.mem.regionKey region = key ∧
        (∀ p ∈ pagesOfRegion region, p ∈ t.mem.unscrubbed) ∧ region ∈ t.mem.toScrub ∧ t.mem.bytes = s.mem.bytes ∧
        wbits t.host.regBind 2 0 = 0) ∧
      (s.bindStatus region key ≠ 0 → ∃ t, exec (.regbindBind value) s = .next t ∧ t.mem = s.mem ∧
        wbits t.host.regBind 2 0 = s.bindStatus region key)) ∧
    (∀ r rest, s.pkg.scrubs = true → s.mem.toScrub = r :: rest → ∃ t, exec .regionScrub s = .next t ∧
      (∀ p ∈ pagesOfRegion r, p ∉ t.mem.unscrubbed ∧
        (p ∈ s.mem.unscrubbed → ∀ a, a / Config.pageBytes = p → Memory.read t.mem.bytes a = 0#8)) ∧ r ∉ t.mem.toScrub) ∧
    (∀ addr, addr < Config.physBytes →
      let line := addr / 128 * 128
      let own := 1 ≤ s.mem.keyOf line ∧ s.mem.keyOf line ≤ 256
      ∃ t, exec (.poisonDetect addr) s = .next t ∧ line ∈ t.mem.poison ∧ t.mem.bytes = s.mem.bytes ∧ t.groups = s.groups ∧
        ∃ es, t.host.eventLog = s.host.eventLog ++ es ∧ es.length = (if own then 2 else 1) ∧ ∀ e ∈ es, e.code = 0x37) ∧
    (∀ value, s.host.cxlUp = true → wbit value 31 = true → wbits value 27 0 = 0 →
      (s.linefillStatus = 0 → s.host.lfData.length = 128 → ∃ t, exec (.linefill value) s = .next t ∧ wbits t.host.lfCmd 31 28 = 0 ∧
        (∀ i, i < 128 → Memory.read t.mem.bytes (s.host.lfAddr.toNat + i) = s.host.lfData.getD i 0#8) ∧
        s.host.lfAddr.toNat ∉ t.mem.poison ∧
        ∀ a, a < s.host.lfAddr.toNat ∨ s.host.lfAddr.toNat + 128 ≤ a → Memory.read t.mem.bytes a = Memory.read s.mem.bytes a) ∧
      (s.linefillStatus ≠ 0 → ∃ t, exec (.linefill value) s = .next t ∧ t.mem = s.mem ∧
        wbits t.host.lfCmd 31 28 = s.linefillStatus)) ∧
    (∀ vf value, s.host.cxlUp = true → vf ≤ 256 → wbits value 31 20 = 0 → ∃ t, exec (.poolListRead vf value) s = .next t ∧
      (t.fn vf).poolCount = value ∧ (t.fn vf).pool.Nodup ∧ ∀ r ∈ (t.fn vf).pool, Sparse.get 0 s.mem.regionKey r = vf)

/-- 03 R55, R76, R85 to R89, R96: a fatal error with no valid dump writes one; with a valid one it adds an event to the log and leaves the dump
and everything else as it is; a function reads the dump through its window; a write of 0 to DUMPCLR.CLR keeps it, and one of 1 clears it
for every function. BAR2 reads each byte where its aperture lies, and CXL.mem writes no byte that is not key 0's; a register is written
whole at its offset, a read-only one stays as it is, and an offset without a register is ignored. -/
def Obligations.DumpAndHostAccesses : Prop :=
  (∀ s,
     (∀ cause die, s.pkg.pllLocked = true → s.host.dumpValid = false → ∃ t, exec (.fatalErrorDump cause die) s = .next t ∧
       t.host.dumpValid = true ∧ t.pkg = s.pkg ∧ t.launches = s.launches) ∧
     (∀ cause die, s.pkg.pllLocked = true → s.host.dumpValid = true → ∃ t e, exec (.fatalErrorDump cause die) s = .next t ∧
       t = { s.tick with host := { s.host with eventLog := s.host.eventLog ++ [e] } }) ∧
     (∀ vf offset, s.barOpen vf = true → s.dumpShown vf = true → ∃ t, exec (.dumpWindowRead vf offset) s = .next t ∧
       t = { s with host := { s.host with readBack := t.host.readBack } } ∧
       ∀ i, i < 128 → t.host.readBack.getD i 0#8 = s.dumpWindow vf (offset / 128 * 128 + i)) ∧
     (∀ value, s.host.cxlUp = true → wbit value 0 = false → exec (.dumpClear value) s = .next s) ∧
     (∀ value, s.host.cxlUp = true → wbits value 31 2 = 0 → wbit value 0 = true → ∃ t, exec (.dumpClear value) s = .next t ∧
       t.host.dumpValid = false ∧ t.host.eventLog = s.host.eventLog ∧ t.mem = s.mem ∧ ∀ vf, t.dumpShown vf = false)) ∧
  (∀ s,
     (∀ vf off bytes, s.barOpen vf = true → (∀ i p, i < bytes.length → (s.fn vf).bar2Phys (off + i) = some p → s.mem.clean p = true) →
       ∃ t, exec (.bar2Access vf false off bytes) s = .next t ∧
       t.mem = s.mem ∧ t.groups = s.groups ∧ t.host.readBack.length = bytes.length ∧
       ∀ i, i < bytes.length → t.host.readBack.getD i 0#8 = s.tick.bar2Read vf (off + i)) ∧
     (∀ addr bytes, s.host.cxlUp = true → s.host.ide = true →
       (∀ i, i < bytes.length → addr + i < Config.physBytes → s.mem.clean (addr + i) = true) →
       ∃ t, exec (.cxlMemAccess true addr bytes) s = .next t ∧ t.groups = s.groups ∧ t.mem.regionKey = s.mem.regionKey ∧
         (∀ a, s.mem.keyOf a ≠ 0 → Memory.read t.mem.bytes a = Memory.read s.mem.bytes a)) ∧
     (∀ f off data, s.barOpen f = true → regAt f off = none → exec (.registerWrite f off data) s = .next s) ∧
     (∀ f off data r size, s.barOpen f = true → regAt f off = some ⟨r, size, 0⟩ → data.length = size →
       ∃ t, exec (.registerWrite f off data) s = .next t ∧
         (r = .rescsel → t = s.tick.onHost (fun h => { h with resSel := BitVec.ofNat 32 (natOfBytes data) })) ∧
         (∀ v, r = .chlbase v → t = s.tick.onFn v (fun g => { g with chlBase := BitVec.ofNat 64 (natOfBytes data) })) ∧
         (∀ v q, r = .lqbase v q → (s.queueOf v q).enabled = true → t = s.tick) ∧
         (∀ v q, r = .lqhead v q → t = s.tick) ∧ (∀ n, r = .fwdrop n → t = s.tick) ∧ (r = .l2cdata → t = s.tick)))

/-- 03 R55, R82 to R84: the requests of a DOE mailbox. Each has its answer; the identity key signs at most 2^20 times, and its next index is
recorded with every signature; a session stands from KEY_EXCHANGE and FINISH to END_SESSION, and what needs one is an error without; any
other request is unsupported; keys for the link come in a session, and with them IDE is established. -/
def Obligations.DeviceTrust : Prop :=
  ∀ s f, s.doeOpen f = true →
    let answers (i : Instr) (a : SpdmAnswer) : Prop := exec i s = .next (s.tick.answer f a)
    answers (.spdmGetVersion f) (.version 0x13) ∧ answers (.spdmGetCapabilities f) .capabilities ∧
    answers (.spdmNegotiateAlgorithms f) .algorithms ∧ (∃ n, answers (.spdmGetDigests f) (.digests n)) ∧
    (∃ n, answers (.spdmGetCertificate f) (.certificate n)) ∧ answers (.spdmGetMeasurements f) (.measurements (s.measurements f)) ∧
    (∀ code, code ∉ [0x84, 0xE1, 0xE3, 0x81, 0x82, 0x83, 0xE0, 0xE4, 0xE5, 0xE9, 0xEC] →
      answers (.spdmUnsupportedRequest f code) (.error 0x07)) ∧
    (∀ i, i = .spdmChallenge f ∨ i = .spdmKeyExchange f → ∃ t a, exec i s = .next t ∧ t.host.spdmOut = s.host.spdmOut ++ [(f, a)] ∧
      (s.host.xmssNext < 2 ^ 20 → t.host.xmssNext = s.host.xmssNext + 1) ∧
      (2 ^ 20 ≤ s.host.xmssNext → t.host.xmssNext = s.host.xmssNext ∧ a = .error 0x05) ∧
      (i = .spdmKeyExchange f → s.host.xmssNext < 2 ^ 20 → f ∈ t.host.handshakes)) ∧
    (f ∈ s.host.handshakes → ∃ t, exec (.spdmFinish f) s = .next t ∧ f ∈ t.host.sessions ∧ f ∉ t.host.handshakes ∧
      t.host.spdmOut = s.host.spdmOut ++ [(f, .finished)]) ∧
    (f ∉ s.host.handshakes → answers (.spdmFinish f) (.error 0x04)) ∧
    answers (.spdmKeyUpdate f) (if f ∈ s.host.sessions then .keysUpdated else .error 0x04) ∧
    (f ∈ s.host.sessions → ∃ t, exec (.spdmEndSession f) s = .next t ∧ f ∉ t.host.sessions ∧
      t.host.spdmOut = s.host.spdmOut ++ [(f, .ended)]) ∧
    (f ∉ s.host.sessions → answers (.spdmEndSession f) (.error 0x04) ∧ exec (.ideKeyProgram f) s = .next s) ∧
    (f ∈ s.host.sessions → exec (.ideKeyProgram f) s = .next (s.onHost (fun h => { h with ideKeys := true }))) ∧
    (s.host.cxlUp = true → s.host.ideKeys = true → exec .ideEstablish s = .next (s.onHost (fun h => { h with ide := true }))) ∧
    (s.host.ideKeys = false → exec .ideEstablish s = .next s)
/-- 04 R98 to R101, R111, Tables 4.1 and 4.2; 03 R81; 10 R283: a write of INSTCMD that the device does not take raises event 0x34 and changes
nothing. An install request ends with DONE and its VECTOR; one whose image is not readable or that is refused leaves no installation, no
reservation and no fabric state behind. A remove request of the function's own installation is busy until it takes effect, when nothing of
the installation is under way any more; then its slots are free and it is gone. A die that an installation can no longer use first
suspends the installation's groups there, and moves nothing. -/
def Obligations.Installations : Prop :=
  (∀ s v value, s.barOpen v = true →
    let f := s.fn v
    let ended (t : State) : Prop := wbit (t.fn v).instCmd 28 = true ∧ wbit (t.fn v).instCmd 29 = false ∧
      t.host.vectors = s.host.vectors ++ [(v, wbits value 27 24)]
    let same (t : State) : Prop := t.installs = s.installs ∧ t.garnet = s.garnet ∧ t.fab = s.fab ∧ t.groups = s.groups
    (∀ i, (i = .install v value ∧ wbits value 31 30 = 1) ∨ (i = .remove v value ∧ wbits value 31 30 = 2) → f.instRejects value = true →
      ∃ t e, exec i s = .next t ∧ same t ∧ t.mem = s.mem ∧ (t.fn v).instCmd = f.instCmd ∧ t.host.eventLog = s.host.eventLog ++ [e] ∧
        e.code = 0x34 ∧ e.fn = v) ∧
    (wbits value 31 30 = 1 → f.instRejects value = false →
      let r := (s.tick.onFn v (fun f => f.instFields value)).awaitImage v
      (r.imageOf v = none → ∃ t, exec (.install v value) s = .next t ∧ ended t ∧ same t) ∧
      (∀ img, r.imageOf v = some img →
        (r.hashListed v img.hash = false → ∃ t, exec (.install v value) s = .next t ∧ ended t ∧ same t) ∧
        ((r.admission v img).refused ≠ none → ∃ t, exec (.install v value) s = .next t ∧ t.installs = s.installs ∧ t.garnet = s.garnet ∧
          t.fab = s.fab) ∧
        ((r.admission v img).refused = none → ∃ t, exec (.install v value) s = .next t ∧ t.installs = (r.admission v img).state.installs))) ∧
    (wbits value 31 30 = 2 → f.instRejects value = false →
      (∀ i, s.inst? f.instHandle = some i → i.fn = v → i.removing = false → ∃ t, exec (.remove v value) s = .next t ∧
        wbit (t.fn v).instCmd 29 = true ∧ t.inst? f.instHandle = some { i with removing := true } ∧ t.groups = s.groups ∧ t.mem = s.mem ∧
        t.host.vectors = s.host.vectors) ∧
      (s.inst? f.instHandle = none → ∃ t, exec (.remove v value) s = .next t ∧ ended t ∧ same t))) ∧
  (∀ s h i, s.inst? h = some i → i.removing = true →
    (s.quiet h = true → ∃ t, exec (.removeTakeEffect h) s = .next t ∧ t.inst? h = none ∧ t.groups = s.groups ∧
      t.installs = s.installs.filter (fun j => j.handle != h) ∧ (∀ e ∈ t.garnet.held, e.2 ≠ h) ∧
      wbit (t.fn i.fn).instCmd 28 = true ∧ wbit (t.fn i.fn).instCmd 29 = false) ∧
    (s.quiet h = false → exec (.removeTakeEffect h) s = .next s)) ∧
  (∀ s die, (s.installs.map (fun i => i.handle)).Nodup → (∀ i ∈ s.installs, die ∉ i.withdrawing) →
    ∃ t, exec (.dieWithdrawal die) s = .next t ∧ t.groups = s.groups ∧ t.mem = s.mem ∧ t.garnet = s.garnet ∧
      ∀ i ∈ s.installs, t.inst? i.handle = some (if i.floor &&& s.dieCap die ≠ i.floor ∧ (s.part i.part).dies.contains die = true ∧
        die ∉ i.withdrawn ∧ i.lost = false then { i with withdrawing := insertSorted die i.withdrawing } else i))

/-- 04 R112, R113, R120, R123; 07 R208: a request leaves its core for its instance's queue, or, with no instance to serve it, is served at
once; a slot serves the request that has waited longest at its owner, and is donated when none waits; a resource that has become
unusable stays so, and a request of no installation that does not touch it moves. A write of L2FAR is stored, and once it takes effect no
far line is lost: each stays, or its dirty bytes wait for the fabric. -/
def Obligations.ReservedSlotsAndFarWays : Prop :=
  (∀ s,
     let code := s.turn.x
     let count (t : State) (c : Nat) : ResourceCount := Sparse.get {} t.garnet.counts c
     let mine (n : Inst) : Bool := n.anchor == code && n.slots.contains s.turn.y && !n.lost
     let owner := s.installs.find? (fun i => decide (i.effective ≤ s.pkg.frame) && i.insts.any mine)
     (∀ i n, owner = some i → s.inst? i.handle = some i → i.insts.find? mine = some n →
       let now (m : Inst) : Installation := { i with insts := i.insts.map (fun k => if mine k then m else k) }
       (n.waiting = [] → ∃ t, exec .slotService s = .next t ∧ t.inst? i.handle = some (now { n with donated := n.donated + 1 }) ∧
         (count t code).donated = (count s code).donated + 1 ∧ (count t code).used = (count s code).used ∧ t.ops = s.ops ∧
         t.commits = s.commits ∧ t.mem = s.mem) ∧
       (∀ w ws, n.waiting = w :: ws → ∃ t, exec .slotService s = .next t ∧
         t.inst? i.handle = some (now { n with waiting := ws, used := n.used + 1, late := n.late + s.turn.z / 4 }) ∧
         (count t code).used = (count s code).used + 1 ∧ (count t code).donated = (count s code).donated ∧ t.mem = s.mem ∧
         (∀ o, s.op? w.1 = some o → t.op? w.1 = some (o.onLine w.2 (fun l => { l with served := true })) ∧ t.commits = s.commits) ∧
         (s.op? w.1 = none → t.ops = s.ops ∧
           t.commits = s.commits.map (fun c => if c.id == w.1 then { c with served := true } else c)))) ∧
     (owner = none → ∃ t, exec .slotService s = .next t ∧ t.installs = s.installs ∧ t.ops = s.ops ∧ t.commits = s.commits ∧
       (Sparse.get 0#32 s.garnet.held (512 * code + s.turn.y) = 0#32 → (count t code).donated = (count s code).donated ∧
         (count t code).used = (count s code).used))) ∧
  (∀ s,
     let queued (g : Group) (slot : Nat) (write : Bool) (sp : Space) (phys line : Nat) (i : Installation) : Installation :=
       { i with insts := i.insts.map (fun n =>
         if n.serves g.kernel slot g.core write sp phys then { n with waiting := n.waiting ++ [(s.turn.x, line)] } else n) }
     (∀ o g sp l, s.op? s.turn.x = some o → o.line? s.turn.y = some (sp, l) → s.group? o.gid = some g → l.left = false →
       ∃ t, exec .reservedRequestDepart s = .next t ∧ t.groups = s.groups ∧ t.mem = s.mem ∧
         (∀ i, s.inst? g.ctl.handle = some i → s.servable g l.slot false sp l.phys = true →
           t.inst? g.ctl.handle = some (queued g l.slot false sp l.phys l.addr i) ∧
           t.op? s.turn.x = some (o.onLine l.addr (fun l => { l with left := true }))) ∧
         (s.servable g l.slot false sp l.phys = false → t.installs = s.installs ∧
           t.op? s.turn.x = some (o.onLine l.addr (fun l => { l with left := true, served := true })))) ∧
     (∀ c g, s.op? s.turn.x = none → s.commits.find? (fun c => c.id == s.turn.x) = some c → s.group? c.gid = some g →
       c.left = false → c.accepted = true → ∃ t, exec .reservedRequestDepart s = .next t ∧ t.groups = s.groups ∧ t.mem = s.mem ∧
         (∀ i, s.inst? g.ctl.handle = some i → s.servable g c.slot true c.space c.phys = true →
           t.inst? g.ctl.handle = some (queued g c.slot true c.space c.phys c.block i) ∧
           t.commits = s.commits.map (fun k => if k.id == c.id then { k with left := true } else k)) ∧
         (s.servable g c.slot true c.space c.phys = false → t.installs = s.installs ∧
           t.commits = s.commits.map (fun k => if k.id == c.id then { k with left := true, served := true } else k)))) ∧
  (∀ s resource, ∃ t, exec (.reservationReplacement resource) s = .next t ∧ t.groups = s.groups ∧ t.mem = s.mem ∧ t.ops = s.ops ∧
    (∀ c, c ∈ t.garnet.unusable ↔ c = resource ∨ c ∈ s.garnet.unusable) ∧
    ((∀ i ∈ s.installs, ∀ n ∈ i.insts, i.touches n resource = false) → t.installs = s.installs ∧ t.garnet.held = s.garnet.held)) ∧
  (∀ s p,
     (∀ value, 8 ≤ p ∨ wbits value 31 4 ≠ 0 → exec (.l2farWrite p value) s = .next s) ∧
     (∀ value, p < 8 → wbits value 31 4 = 0 → ∃ t, exec (.l2farWrite p value) s = .next t ∧ (t.part p).l2far = value ∧
       (t.part p).farNow = (s.part p).farNow ∧ t.fab = s.fab ∧ t.mem = s.mem) ∧
     (∃ t, exec (.l2farTakeEffect p) s = .next t ∧ (t.part p).farNow = min 8 (wbits (s.part p).l2far 3 0) ∧ t.groups = s.groups ∧
       t.mem = s.mem ∧ (∀ l ∈ t.fab.far, l ∈ s.fab.far) ∧
       ∀ l ∈ s.fab.far, l ∈ t.fab.far ∨ ∃ m ∈ s.fab.far, m.same l = true ∧
         (m.dirty = 0#128 ∨ ∃ n, (m.handle, m.addr / 2 ^ 52, farFlit m n) ∈ t.fab.waiting)))

/-- 02 R27 to R37, R43, R46, R47, Tables 2.1, 2.2 and 2.5: how a transmit channel moves between its states; what a failure of a laser or a
port revokes and reports, and a repair gives back; what the lease controller answers at the first frame boundary behind a request; when a
new rotation applies; which channels an allotment moves; and which group hears of an event. -/
def Obligations.FabricChannels : Prop :=
  (∀ s c, s.fab.chan? (chanOf s.turn.x s.turn.y) = some c →
     let n := chanOf s.turn.x s.turn.y
     let become (d : Channel) : State := s.onFab (fun f => f.putChan n d)
     (c.state = .tuning → c.guard = 0 → exec .guardElapsed s = .next (become { c with state := .standing })) ∧
     (c.state ≠ .tuning ∨ c.guard ≠ 0 → exec .guardElapsed s = .next s) ∧
     (c.state = .draining → c.queue = [] → exec .drainComplete s = .next (become { c with state := .free })) ∧
     (c.state ≠ .draining ∨ c.queue ≠ [] → exec .drainComplete s = .next s) ∧
     (∀ d, s.fab.turnDest n (turnAt s.fab.rotcfg s.pkg.frame) = some d → guardAt s.fab.rotcfg s.pkg.frame = true → c.dest ≠ d →
       ∃ kept, exec .turnBoundary s = .next (become { c with dest := d, queue := kept }) ∧ kept.Sublist c.queue ∧
         (∀ q ∈ c.queue, q.1 ≠ c.dest → q ∈ kept) ∧ ∀ q ∈ kept, q.1 = c.dest → q.2.reserved = false) ∧
     (s.turn.x < 36 → s.turn.y < 16 → ∃ t e, exec .laserFailure s = .next t ∧ t.groups = s.groups ∧ n ∈ t.fab.revoked ∧
       t.fab.chan? n = some { c with state := .revoked, queue := [], guard := 0 } ∧ t.host.eventLog = s.host.eventLog ++ [e] ∧
       e.code = 0x21) ∧
     (s.turn.x < 36 → ∃ t, exec .portFailure s = .next t ∧ t.groups = s.groups ∧ (t.fab.port s.turn.x).failed = true ∧
       (t.fab.port s.turn.x).ingress = [] ∧ (n / 16 = s.turn.x → n ∈ t.fab.revoked ∧
         t.fab.chan? n = some { c with state := .revoked, queue := [], guard := 0 })) ∧
     (c.state = .revoked → ∃ t, exec .channelRepair s = .next t ∧ t.fab.chan? n = some { c with state := .free, dest := 0 } ∧
       n ∉ t.fab.revoked ∧ (∀ turn, turn < 64 → t.fab.entry n turn = 0#32) ∧ (t.fab.port s.turn.x).failed = false)) ∧
  (∀ s r g p i, s.fab.requests = [r] → r.frame < s.pkg.frame → s.group? r.gid = some g → g.gstate ≠ .retired →
     s.fab.pool? r.handle = some p → s.inst? r.handle = some i →
     let answered (t : State) (op status count : Nat) : Prop := ∃ h, t.group? r.gid = some h ∧ h.leaseOut = g.leaseOut - 1 ∧
       h.queue 10 = g.queue 10 ++ [leaseWord op status count (wbits r.dest 11 0)]
     let bad : Bool := decide (4096 ≤ r.dest.toNat) || !s.fab.leasable p r.dest.toNat || decide (r.count.toNat = 0) || decide (18 < r.count.toNat)
     let done (n : Nat) : Nat := if n = r.count.toNat then 0 else if 0 < n then 1 else 2
     (r.kind = .lease → ∃ t, exec .leaseControllerApply s = .next t ∧ t.fab.requests = [] ∧ t.mem = s.mem ∧
       (i.streamLost = true → answered t 1 4 0 ∧ t.fab.channels = s.fab.channels) ∧
       (i.streamLost = false → bad = true → answered t 1 3 0 ∧ t.fab.channels = s.fab.channels) ∧
       (i.streamLost = false → bad = false → p.starved ≠ [] → answered t 1 2 0 ∧ t.fab.channels = s.fab.channels) ∧
       (i.streamLost = false → bad = false → p.starved = [] → ∃ n, n ≤ r.count.toNat ∧ answered t 1 (done n) n ∧
         n = (s.fab.grant p.number r.dest.toNat r.count.toNat (List.range 36)).2 ∧
         t.fab.channels = (s.fab.grant p.number r.dest.toNat r.count.toNat (List.range 36)).1.channels)) ∧
     (r.kind = .unlease → ∃ t, exec .leaseControllerApply s = .next t ∧ t.fab.requests = [] ∧ t.mem = s.mem ∧
       (i.streamLost = true → answered t 2 4 0 ∧ t.fab.channels = s.fab.channels) ∧
       (i.streamLost = false → bad = true → answered t 2 3 0 ∧ t.fab.channels = s.fab.channels) ∧
       (i.streamLost = false → bad = false → let chans := (s.drainable p.number r.dest.toNat).take r.count.toNat
         answered t 2 (done chans.length) chans.length ∧ t.fab.channels = (s.fab.drain chans).channels))) ∧
  (∀ s,
     (∀ w, rotValid w = true → exec (.rotcfgWrite w) s = .next (s.onFab (fun f => { f with rotNext := some w }))) ∧
     (∀ w, rotValid w = false → ∃ t e, exec (.rotcfgWrite w) s = .next t ∧ t.fab = s.fab ∧ t.groups = s.groups ∧
       t.host.eventLog = s.host.eventLog ++ [e] ∧ e.code = 0x25) ∧
     (∀ w, s.fab.rotNext = some w → s.pkg.frame % (rotTurns w * rotLength w) = 0 → ∃ t, exec .rotcfgTakeEffect s = .next t ∧
       t.fab = { s.fab with rotcfg := w, rotNext := none } ∧ t.groups = s.groups ∧ t.pkg = s.pkg) ∧
     (∀ w, s.fab.rotNext = some w → s.pkg.frame % (rotTurns w * rotLength w) ≠ 0 → exec .rotcfgTakeEffect s = .next s)) ∧
  (∀ s, ∃ t, exec .streamReplacement s = .next t ∧ t.groups = s.groups ∧ t.mem = s.mem ∧ t.fab.revoked = [] ∧
     ((∀ i ∈ s.installs, ∀ st ∈ i.streams, chanOf st.port st.laser ∉ s.fab.revoked) → t.installs = s.installs ∧
       t.transfers = s.transfers ∧ t.host = s.host)) ∧
  (∀ s h channels dests,
     (s.inst? h = none → ∃ t, exec (.poolAllotment h channels dests) s = .next t ∧
       Sparse.get ([], []) t.fab.pending h.toNat = (channels, dests) ∧ t.fab.channels = s.fab.channels ∧ t.fab.pools = s.fab.pools) ∧
     (∀ i p, s.inst? h = some i → s.fab.pool? h = some p → (s.fab.channels.map (fun e => e.1)).Nodup → ∃ t, exec (.poolAllotment h channels dests) s = .next t ∧ t.groups = s.groups ∧
       t.mem = s.mem ∧ (∀ n ∈ channels, s.fab.poolable n = true → s.fab.chan? n = none → t.fab.chan? n = some { pool := p.number }) ∧
       (∀ n c, s.fab.chan? n = some c → c.pool ≠ p.number → t.fab.chan? n = some c) ∧
       (∀ n c, s.fab.chan? n = some c → c.state ≠ .free → t.fab.chan? n = some c))) ∧
  (∀ s h i g w ws, s.inst? h = some i → s.eventGroup h = some g → s.group? g.gid = some g → i.events = w :: ws →
     ∃ t k, exec (.fabricEventDeliver h) s = .next t ∧ t.inst? h = some { i with events := ws, evLost := false } ∧
       t.group? g.gid = some k ∧ k.queue 11 = g.queue 11 ++ [if i.evLost then w ||| 0x8000#32 else w] ∧ g.gstate = .seated ∧
       g.ctl.handle = h ∧ (g.queue 11).length < queueDepth 11)

/-- 02 R24 to R26, R32, R36 to R41, R44, R45; 07 R209, R213, R214: what a control frame carries and what is taken from one; where a flit
that arrives goes: to a relay buffer, to its window, which is checked first, or to the ingress buffer; which flit leaves a channel; how a
fabric-send command is taken or rejected, and what its transfer reports; and a remote line that a load has asked for. -/
def Obligations.FlitsAndControlFrames : Prop :=
  (∀ s, s.turn.x < 36 → ∃ t fr, exec .controlFrameSend s = .next t ∧ t.fab.frames = s.fab.frames ++ [(s.turn.x, fr)] ∧
     fr.frame = s.pkg.frame ∧ fr.rotcfg = s.fab.rotcfg ∧ fr.aligned = !s.fab.closed ∧
     (∀ n, n ∈ fr.acks ↔ (s.turn.x, n) ∈ s.fab.acks) ∧ (∀ n, n ∈ fr.refused ↔ (s.turn.x, n) ∈ s.fab.refusals) ∧
     (∀ e, e ∈ t.fab.acks ↔ e ∈ s.fab.acks ∧ e.1 ≠ s.turn.x) ∧ t.groups = s.groups ∧ t.mem = s.mem) ∧
  (∀ s port source fr, port < 36 → source < 64 → s.fab.packageAt port source ≠ s.fab.self → (s.fab.port port).failed = false →
     ∃ t, exec (.controlFrameReceive port source fr) s = .next t ∧ t.groups = s.groups ∧ t.mem = s.mem ∧
       Sparse.get 0#64 (t.fab.port port).pauseSeen source = fr.pause ∧ (∀ e ∈ t.fab.sent, e.2.2.number ∉ fr.acks) ∧
       (s.fab.packageAt port source = 0 → t.fab.rotRef = some fr.rotcfg ∧ t.fab.joined = true ∧ t.fab.closed = !fr.aligned ∧
         (s.fab.joined = false → t.pkg.frame = fr.frame)) ∧
       (s.fab.packageAt port source ≠ 0 → t.fab.rotRef = s.fab.rotRef ∧ t.fab.closed = s.fab.closed ∧ t.pkg = s.pkg)) ∧
  (∀ s port flit, port < 36 → (s.fab.port port).failed = false → s.fab.closed = false →
     let kept (t : State) : Prop := (t.fab.port port).ingress = (s.fab.port port).ingress ++ [flit] ∧ t.mem = s.mem ∧ t.groups = s.groups
     (targetOf flit.addr.toNat ≠ s.fab.self → port < 18 → s.fab.reaches 18 (targetOf flit.addr.toNat) = true →
       ∃ t, exec (.flitReceive port flit) s = .next t ∧ (t.fab.port (18 + port)).relay = (s.fab.port (18 + port)).relay ++ [flit] ∧
         t.mem = s.mem ∧ t.groups = s.groups) ∧
     (targetOf flit.addr.toNat = s.fab.self →
       (s.turn.x ≠ 0 → ∃ t, exec (.flitReceive port flit) s = .next t ∧ kept t) ∧
       (s.turn.x = 0 → s.tick.land port flit = none → ∃ t, exec (.flitReceive port flit) s = .next t ∧ kept t) ∧
       (∀ e, s.turn.x = 0 → s.fab.importOf flit = .error e → ∃ t, exec (.flitReceive port flit) s = .next t ∧
         t.fab.refusals = s.fab.refusals ++ [(port, flit.number)] ∧ t.mem = s.mem ∧ t.groups = s.groups) ∧
       (∀ e p, s.turn.x = 0 → s.fab.importOf flit = .ok e →
         let va := e.base + bitsOf flit.addr.toNat 43 0
         s.page? e.handle va = some p → s.owners (.virt e.handle) va (va + 128) = [] → s.mem.clean (p.phys va) = true →
         ∃ t, exec (.flitReceive port flit) s = .next t ∧ t.fab.acks = s.fab.acks ++ [(port, flit.number)] ∧ t.groups = s.groups ∧
           (flit.kind = .load → t.mem.bytes = s.mem.bytes ∧ ∃ bs, t.fab.answers = s.fab.answers ++ [(flit.number, bs)]) ∧
           (flit.kind = .store ∨ flit.kind = .sendLine → ∀ a, a < p.phys va / 128 * 128 ∨ p.phys va / 128 * 128 + 128 ≤ a →
             Memory.read t.mem.bytes a = Memory.read s.mem.bytes a)))) ∧
  (∀ s, s.turn.x < 36 →
     let port := s.turn.x
     let buffer := (s.fab.port port).ingress
     let ready := buffer.findIdx? (fun f => (s.tick.land port f).isSome)
     (ready = none → ∃ t, exec .ingressDrain s = .next t ∧ t.fab = s.fab ∧ t.mem.bytes = s.mem.bytes ∧ t.groups = s.groups) ∧
     (∀ i f t, ready = some i → buffer[i]? = some f → s.tick.land port f = some t → ∃ u, exec .ingressDrain s = .next u ∧
       u.mem = t.mem ∧ u.groups = t.groups ∧ u.fab.acks = t.fab.acks ∧ (u.fab.port port).ingress = (t.fab.port port).ingress.eraseIdx i) ∧
     (∀ flit, flit ∈ (s.fab.port port).relay → 0 < s.fab.relayLasers port → (s.fab.port port).failed = false → s.fab.closed = false →
       s.fab.paused port (targetOf flit.addr.toNat) = false → ∃ t, exec (.relayForward port flit) s = .next t ∧
         (t.fab.port port).relay = (s.fab.port port).relay.erase flit ∧ t.mem = s.mem ∧ t.groups = s.groups)) ∧
  (∀ s c, let n := chanOf s.turn.x s.turn.y
     s.fab.chan? n = some c →
     (∀ q qs, s.turn.z = 0 → c.state = .standing ∨ c.state = .draining → s.fab.closed = false → c.queue = q :: qs → q.1 = c.dest →
       q.2.reserved = true → ∃ t, exec .flitSend s = .next t ∧ t.fab.chan? n = some { c with queue := qs } ∧ t.groups = s.groups) ∧
     (s.turn.z = 0 → s.fab.closed = true → exec .flitSend s = .next s) ∧
     (∀ hop w, s.turn.z ≠ 0 → s.fab.serves n s.pkg.frame = some hop → c.queue.length < 32 →
       s.transfers.find? (fun t => t.id == s.turn.z && t.kind == 9) = none →
       s.fab.waiting.find? (fun w => w.2.2.number == s.turn.z) = some w → s.fab.firstHop w.2.1 = hop →
       s.fab.pools.any (fun p => p.number == c.pool && p.handle == w.1) = true →
       ∃ t f, exec .flitSend s = .next t ∧ f = { w.2.2 with source := s.fab.self } ∧
         t.fab.chan? n = some { c with queue := c.queue ++ [(hop, f)] } ∧ (w.1, n / 16, f) ∈ t.fab.sent ∧
         (∀ v ∈ t.fab.waiting, v.2.2.number ≠ s.turn.z))) ∧
  (∀ s g w i, s.group? s.turn.x = some g → g.gstate ≠ .retired → s.copyHead g = some w → s.inst? g.ctl.handle = some i →
     wbits w 31 28 = 9 →
     let off := ((g.queue 5).getD 0 0#32).toNat
     let count := ((g.queue 5).getD 1 0#32).toNat
     let st := i.stream? g.kernel (wbits w 23 16)
     (s.sendRejects g w st off count = true → g.statusRoom 1 0 = true → ∃ t h, exec .fabricSendCommand s = .next t ∧
       t.group? s.turn.x = some h ∧ h.queue 4 = (g.queue 4).drop 1 ∧ h.queue 5 = (g.queue 5).drop 2 ∧
       h.queue 6 = g.queue 6 ++ [withResult w 2] ∧ t.transfers = s.transfers ∧ t.mem = s.mem) ∧
     (s.sendRejects g w st off count = false → ∃ tr, tr.kind = 9 ∧ tr.gid = g.gid ∧ tr.word = w ∧ tr.srcOff = off ∧ tr.count = count ∧
       tr.next = 0 ∧ (s.transferWaits g tr = false → ∃ t h, exec .fabricSendCommand s = .next t ∧
         t.transfers = s.transfers ++ [tr] ∧ t.group? s.turn.x = some h ∧ h.queue 4 = (g.queue 4).drop 1 ∧
         h.queue 5 = (g.queue 5).drop 2 ∧ t.mem = s.mem))) ∧
  (∀ s tr g, s.transfers.find? (fun t => t.id == s.turn.x && t.kind == 9) = some tr → s.group? tr.gid = some g → g.gstate ≠ .retired →
     tr.flying = [] → tr.stopped ≠ none ∨ tr.count / 128 ≤ tr.next → g.statusRoom 1 2 = true →
     ∃ t h, exec .fabricSendEnd s = .next t ∧ t.transfers = s.transfers.filter (fun u => u.id != s.turn.x) ∧
       t.group? tr.gid = some h ∧ t.mem = s.mem ∧
       h.queue 6 = g.queue 6 ++ [withResult tr.word (match tr.stopped with | some (r, _, _) => r | none => 0)]) ∧
  (∀ s id i o l handle key form image hint lines lanes acq uni g, s.op? id = some o →
     o.kind = .load form (.fabric handle key) image hint lines lanes acq uni → s.group? o.gid = some g → lines[i]? = some l →
     l.bytes = none →
     let asked : Bool := s.fab.asked.any (fun a => a.1 == id && a.2.1 == i)
     (s.fab.farLine? handle key l.addr = none → asked = false → ∃ t f, exec (.farLineFill id i .none) s = .next t ∧
       t.fab.waiting = s.fab.waiting ++ [(handle, targetOf l.addr, f)] ∧ f.kind = .load ∧ f.key = key ∧
       f.addr = BitVec.ofNat 64 l.addr ∧ t.fab.asked.any (fun a => a.1 == id && a.2.1 == i) = true ∧ t.ops = s.ops) ∧
     (∀ bs, asked = true → 0 < s.farWays handle → ∃ t f, exec (.farLineFill id i (.bytes bs)) s = .next t ∧ f ∈ t.fab.far ∧
       f.handle = handle ∧ f.key = key ∧ f.valid = BitVec.allOnes 128 ∧ f.addr = l.addr / 128 * 128 ∧ t.ops = s.ops ∧
       t.fab.asked.any (fun a => a.1 == id && a.2.1 == i) = false) ∧
     (∀ k, asked = true → (∃ j m, j ≠ i ∧ lines[j]? = some m ∧ m.bytes = none) → k.bytes = some (List.replicate 128 0#8) →
       k = { l with bytes := k.bytes, poison := false } → ∃ t, exec (.farLineFill id i .refused) s = .next t ∧
       t.op? id = some { o with kind := .load form (.fabric handle key) image hint (lines.set i k) lanes acq uni }))

/-- Workgroups and seats (05 R124, R125, R127, R131, R138 to R140, R144, 06 R156). WORKGROUP_START of a workgroup whose launch has started
and which is below MAXWG, or whose predecessor at the position has retired, resets the core and quad objects of its position and adds
its groups READY, at the kernel's entry, with their group numbers; without either it changes nothing. GROUP_SEAT seats the ready group (one without a partner) of
the core that comes first (an expired watchdog, then oldest first) at the lowest free seat, with AGE and LLS 0, and with no group
to seat it changes no group. GROUP_UNSEAT of a seated group without a partner whose wait may have exceeded ACTCFG.T makes it WAITING, off its seat and out
of the eligible set, its LLS 0; a group that waits for nothing, or with UEN = 0, stays. GROUP_WAKE of a waiting group that waits for nothing
now makes it READY. -/
def Obligations.WorkgroupsAndSeats : Prop :=
  (∀ s l i k, s.launch? s.turn.x = some l → s.inst? l.handle = some i → i.kernel? l.kernel = some k →
     let wg := s.turn.y
     let seq := l.first + wg
     let maxWg := max 1 k.record.maxWg
     let after : Bool := decide (seq < maxWg) || s.sequenceRetired l.handle l.kernel (seq - maxWg)
     (after = false → exec .workgroupStart s = .next s) ∧
     (∀ p, l.complete = false → l.status ≠ 3 → wg < l.wgCount → l.started.contains wg = false → i.withdrawing = [] → after = true →
       s.positionFor l.handle l.kernel k seq = some p → ∃ t m news, exec .workgroupStart s = .next t ∧
         t.launch? s.turn.x = some m ∧ (∀ w, w ∈ m.started ↔ w = wg ∨ w ∈ l.started) ∧
         (∀ key ∈ positionObjects k p, t.bar key = {}) ∧ t.mem.bytes = s.mem.bytes ∧ t.groups = s.groups ++ news ∧
         (∀ g ∈ news, g.gstate = .ready ∧ g.seat = none ∧ g.launch = l.id ∧ g.workgroup = wg ∧ g.kernel = l.kernel ∧ g.localNo < l.groups ∧
           g.ctl.handle = l.handle ∧ g.ctl.pc = BitVec.ofNat 64 (i.textBase + k.record.entry) ∧
           g.ctl.group = BitVec.ofNat 32 (wg * l.groups + g.localNo) ∧ g.core = coreOfLocal k.record.span p g.localNo) ∧
         (∀ n, n < l.groups → ∃ g ∈ news, g.localNo = n ∧ g.ctl.shadow = false))) ∧
  (∀ s, (∀ h ∈ s.groups, h.core = s.turn.x → s.seatable h = true → h.ctl.shadow = true) → exec .groupSeat s = .next s.tick) ∧
  (∀ s g n, (s.groups.map (fun h => h.gid)).Nodup → g ∈ s.groups → g.core = s.turn.x → s.seatable g = true → g.ctl.shadow = false →
     (∀ h ∈ s.groups, h.core = s.turn.x → s.seatable h = true → h.ctl.shadow = false → h.gid = g.gid ∨ seatBefore g h = true) →
     g.ctl.paired = false → g.ctl.handler = false → (s.freeSeats g.core).head? = some n →
     ∃ t h, exec .groupSeat s = .next t ∧ t.group? g.gid = some h ∧ h.gstate = .seated ∧ h.seat = some n ∧ h.age = 0 ∧ h.lls = 0 ∧
       h.ctl = g.ctl ∧ h.regs = g.regs ∧ t.mem = s.mem) ∧
  (∀ s g, (s.groups.map (fun h => h.gid)).Nodup → s.group? s.turn.x = some g → g.ctl.paired = false → g.ctl.shadow = false →
     let act := (s.part (match s.inst? g.ctl.handle with | none => 0 | some i => i.part)).actCfg
     (g.wait = .none ∨ wbit act 15 = false ∨ s.gated g = true → exec .groupUnseat s = .next s) ∧
     (g.gstate = .seated → g.wait ≠ .none → wbit act 15 = true → max 256 (wbits act 31 16) < g.waitCycles + Config.frameCycles →
       s.gated g = false → s.underWay g = false → ∃ t h, exec .groupUnseat s = .next t ∧ t.group? s.turn.x = some h ∧ h.gstate = .waiting ∧
         h.seat = none ∧ h.lls = 0 ∧ h.ctl = g.ctl ∧ h.regs = g.regs ∧ t.mem = s.mem ∧
         (∀ es, (t.core g.core).eligible = some es → g.gid ∉ es))) ∧
  (∀ s g, s.group? s.turn.x = some g →
     (g.gstate = .waiting → s.waitOf g = .none → ∃ t, exec .groupWake s = .next t ∧
       t.group? s.turn.x = some { g with gstate := .ready, wait := .none, waitCycles := 0 } ∧ t.mem = s.mem) ∧
     (g.gstate ≠ .waiting ∨ s.waitOf g ≠ .none → exec .groupWake s = .next s))

/-- Rails and the throttle's clocks (05 R142, R143, R145, R146, R148; 06 R179). CLAUSE_START first notes what the rail's groups wait for; while
a clause of the rail is in progress, or with no group ready, it does no more; else it takes the oldest ready group, one whose handler's
clause is ready before the others, and a group that starts a clause holds the rail in it, its RESUMEWAIT cleared. LLS_HALVING halves the LLS of every seated
group of the core and changes nothing else. THROTTLE_EVALUATION with TEN = 0 makes every group eligible; with TEN = 1 it sets
K = max(1, S - floor(L / THRESH)) (a THRESH of 0 acts as 1) and makes the K seated groups of lowest LLS eligible, ties to the lower seat.
WATCHDOG_EXPIRY whose count cannot have reached the limit changes nothing; else a group in its handler is killed, a stalled group without a
partner enters its handler with cause WDOG, another seated one traps at its next header, and an unseated one becomes READY, before
every other. -/
def Obligations.RailsAndThrottle : Prop :=
  (∀ s g, let c := s.turn.x
     let r := s.turn.y
     let u := s.tick.noteWaits c r
     ((u.rail c r).clauseOf ≠ none ∨ u.takers c r = [] → exec .clauseStart s = .next u) ∧
     (∀ cl, (u.rail c r).clauseOf = none → u.taker c r = some g → u.group? g.gid = some g → u.readiness g = .start cl →
       g.ctl.shadow = false → g.ctl.slot < cl.words.length → ∃ t h, exec .clauseStart s = .next t ∧
         (t.rail c r).clauseOf = some g.gid ∧ t.group? g.gid = some h ∧ h.clause = some cl ∧ h.stalled = none ∧
         h.ctl = { g.ctl with resumeWait := false } ∧ t.mem = s.mem)) ∧
  (∀ s c r g, State.taker s c r = some g → g ∈ s.onRailGroups c r ∧ (s.readiness g).go = true ∧
     (∀ h ∈ s.takers c r, h.ctl.handler = g.ctl.handler → h.older g = false) ∧
     (∀ h ∈ s.takers c r, h.ctl.handler = true → g.ctl.handler = true)) ∧
  (∀ s, ∃ t, exec .llsHalving s = .next t ∧ t = { s with groups := t.groups } ∧ (∀ n g, s.group? n = some g →
     t.group? n = some { g with lls := if g.core = s.turn.x ∧ g.gstate = .seated then g.lls / 2 else g.lls })) ∧
  (∀ s p, (s.groups.map (fun h => h.gid)).Nodup → s.partOfDie (dieOfCore s.turn.x) = some p →
     let cfg := (s.part p).llsCfg
     let seated := s.groups.filter (fun g => g.core == s.turn.x && g.gstate == .seated)
     let k := max 1 (seated.length - (seated.map (fun g => g.lls)).sum / max 1 (wbits cfg 31 16))
     (wbit cfg 15 = false → ∃ t, exec .throttleEvaluation s = .next t ∧ (t.core s.turn.x).eligible = none ∧ t.groups = s.groups) ∧
     (wbit cfg 15 = true → ∃ t es, exec .throttleEvaluation s = .next t ∧ (t.core s.turn.x).eligible = some es ∧
       (t.core s.turn.x).eligibleK = k ∧ es.length = min k seated.length ∧ es.Nodup ∧ (∀ n ∈ es, ∃ g ∈ seated, g.gid = n) ∧
       (∀ g ∈ seated, ∀ h ∈ seated, g.gid ∈ es → h.gid ∉ es → lowerScore h g = false) ∧ t.groups = s.groups)) ∧
  (∀ s g, (s.groups.map (fun h => h.gid)).Nodup → s.group? s.turn.x = some g → g.ctl.paired = false → g.ctl.shadow = false →
     (s.watchdogDue g = false → exec .watchdogExpiry s = .next s) ∧
     (s.watchdogDue g = true → g.ctl.handler = true → ∃ t m, exec .watchdogExpiry s = .next t ∧ t.group? s.turn.x = some m ∧ m.gstate = .retired ∧
       m.killed = true) ∧
     (∀ c st seat, s.watchdogDue g = true → g.clause = some c → g.stalled = some st → CanEnter s g seat →
       let uni := (headerOf c.header).uni.getLsbD g.ctl.slot
       let mask := if uni then maskOf ((laneList (s.tick.activeMask g)).take 1) else s.tick.activeMask g
       ∃ t m count, exec .watchdogExpiry s = .next t ∧
         Entered s t g m seat (trapRecord s g ⟨0x0D, mask, count, 0⟩ uni (c.words.getD g.ctl.slot 0#32))) ∧
     (s.watchdogDue g = true → g.ctl.handler = false → g.stalled = none → ∃ t m, exec .watchdogExpiry s = .next t ∧ t.group? s.turn.x = some m ∧
       m.wdDue = true ∧ m.ctl = g.ctl ∧ (g.gstate = .seated → m.gstate = .seated ∧ m.seat = g.seat) ∧
       (g.gstate ≠ .seated → m.gstate = .ready ∧ m.wait = .none ∧ m.urgent = true)))

/-- Register lines, context-page faults, trap entry and suspension (06 R156, R158 to R162, R164, R165, R176, R179, R182).
REGISTER_LINE_INSTALL of a line that is resident, or not named by the group's next clause, changes nothing; a fresh line comes into its bank
as the group holds it, a line that was written back comes with the words of its context page, and a context page that is
absent queues a fault at the group's die. A full bank gives up an unlocked line of its own, a clean one of an unseated group
before any other, and a dirty victim is written back whole before its space is used. FAULT_SERVICE takes the oldest fault of a die: the page
is mapped writable from the tenant's pool and every fault of the tenant on it is served; with the pool empty, or on a page that may not be
written, the group is killed; with no fault queued nothing happens. MANTLE_SCRUB counts the errors it corrected, and changes nothing else.
TRAP_ENTRY of a rail whose handler runs changes nothing; else the oldest group of the rail with TRAPPEND (one that is not suspended, and not a
shadow) enters its handler. SUSPENSION_EFFECT sets SUSPENDED of a group that a handler suspends once no clause of it is under way. -/
def Obligations.MantleAndHandlers : Prop :=
  (∀ s g, s.group? s.turn.x = some g →
     let j := s.turn.y
     let bank := bankOf (s.fn g.fn).banks j
     let line (t : State) (d : Bool) : Prop := ∃ m ∈ (t.core g.core).mantle, m.gid = g.gid ∧ m.line = j ∧ m.bank = bank ∧ m.dirty = d
     let full : Bool := decide (Config.bankLines ≤ ((s.core g.core).mantle.filter (fun m => m.bank == bank)).length)
     let asked : Prop := g.gstate ≠ .retired ∧ ((s.fn g.fn).banks ≠ 0 ∨ g.fn = 0) ∧ (s.core g.core).resident g.gid j = false ∧
       j ∈ s.neededLines g
     ((s.core g.core).resident g.gid j = true ∨ j ∉ s.neededLines g ∨ g.gstate = .retired → exec .registerLineInstall s = .next s) ∧
     (asked → full = false → g.backed.contains j = false → ∃ t, exec .registerLineInstall s = .next t ∧
       line t (g.backed.contains (256 + j) || g.lineNumber j != 0) ∧ t.groups = s.groups ∧ t.mem = s.mem) ∧
     (∀ p, asked → full = false → g.backed.contains j = true → s.contextLine g j .read = .at_ p → ∃ t h, exec .registerLineInstall s = .next t ∧
       line t false ∧ t.group? s.turn.x = some h ∧ t.mem = s.mem ∧ (∀ l, l < 32 → Sparse.get 0#32 h.regs (32 * j + l) =
         BitVec.ofNat 32 (natOfBytes (Memory.readBytes s.mem.bytes (p + 4 * l) 4))) ∧
       (∀ r, r / 32 ≠ j → Sparse.get 0#32 h.regs r = Sparse.get 0#32 g.regs r)) ∧
     (∀ va, asked → full = false → g.backed.contains j = true → s.contextLine g j .read = .fault va → ∃ t, exec .registerLineInstall s = .next t ∧
       (g.gid, va / 65536 * 65536) ∈ Sparse.get [] t.faults (dieOfCore g.core) ∧ t.groups = s.groups ∧ t.mem = s.mem) ∧
     (∀ v, asked → full = true → g.backed.contains j = false → s.victimLine g.core bank = some v → v.dirty = false →
       ∃ t, exec .registerLineInstall s = .next t ∧ line t (g.backed.contains (256 + j) || g.lineNumber j != 0) ∧
       (t.core g.core).resident v.gid v.line = false ∧ t.groups = s.groups ∧ t.mem = s.mem) ∧
     (∀ v h p, asked → full = true → g.backed.contains j = false → s.victimLine g.core bank = some v → v.dirty = true → s.group? v.gid = some h →
       h.gid ≠ g.gid → h.gstate ≠ .retired → s.contextLine h v.line .write = .at_ p → ∃ t k, exec .registerLineInstall s = .next t ∧
       line t (g.backed.contains (256 + j) || g.lineNumber j != 0) ∧ t.group? v.gid = some k ∧ k.backed.contains v.line = true ∧
       (∀ i, i < 128 → Memory.read t.mem.bytes (p + i) = BitVec.ofNat 8 (h.lineNumber v.line / 256 ^ i)) ∧
       (∀ a, a < p ∨ p + 128 ≤ a → Memory.read t.mem.bytes a = Memory.read s.mem.bytes a))) ∧
  (∀ s core bank v, State.victimLine s core bank = some v → v ∈ (s.core core).mantle ∧ v.bank = bank ∧
     (∀ h, s.group? v.gid = some h → (s.locked h).contains v.line = false) ∧
     (∀ m h, m ∈ (s.core core).mantle → m.bank = bank → m.dirty = false → s.group? m.gid = some h → h.gstate ≠ .seated →
       (s.locked h).contains m.line = false → v.dirty = false ∧ v.stamp ≤ m.stamp ∧ ∀ k, s.group? v.gid = some k → k.gstate ≠ .seated)) ∧
  (∀ s, let die := s.turn.x
     (Sparse.get [] s.faults die = [] → exec .faultService s = .next s.tick) ∧
     (∀ gid va fs g, (s.groups.map (fun h => h.gid)).Nodup → Sparse.get [] s.faults die = (gid, va) :: fs → s.group? gid = some g →
       g.gstate ≠ .retired →
       let served (t : State) : Prop := ∀ e ∈ Sparse.get [] t.faults die, e ∈ Sparse.get [] s.faults die ∧
         (e.2 = va → ∀ h, s.group? e.1 = some h → h.ctl.handle ≠ g.ctl.handle)
       (∀ p, s.page? g.ctl.handle va = some p → p.permits .write = true → ∃ t, exec .faultService s = .next t ∧
         served t ∧ t.groups = s.groups) ∧
       (∀ p, s.page? g.ctl.handle va = some p → p.permits .write = false → ∃ t h, exec .faultService s = .next t ∧
         t.group? gid = some h ∧ h.gstate = .retired ∧ h.killed = true) ∧
       (∀ i, s.page? g.ctl.handle va = none → s.inst? g.ctl.handle = some i →
         ((s.fn i.fn).freePages ≠ [] → ∃ t p k, exec .faultService s = .next t ∧ t.inst? g.ctl.handle = some k ∧ p ∈ k.pages ∧ p.va = va ∧
           p.size = 65536 ∧ p.w = true ∧ p.pooled = true ∧ t.groups = s.groups ∧ served t) ∧
         ((s.fn i.fn).freePages = [] → ∃ t h, exec .faultService s = .next t ∧ t.group? gid = some h ∧ h.gstate = .retired ∧
           h.killed = true)))) ∧
  (∀ s, ∃ t, exec .mantleScrub s = .next t ∧ t = { s with cores := t.cores } ∧
     (∀ c, t.core c = { s.core c with mcorr := (s.core c).mcorr + if c = s.turn.x then s.turn.y else 0 })) ∧
  (∀ s, let c := s.turn.x
     let r := s.turn.y
     let waits := (s.onRailGroups c r).filter (fun g => g.ctl.trapPend && !g.ctl.suspended && !g.ctl.shadow && s.pairAgrees g)
     ((s.rail c r).handler ≠ none ∨ waits = [] → exec .trapEntry s = .next s.tick) ∧
     (∀ g, (s.groups.map (fun h => h.gid)).Nodup → (s.rail c r).handler = none → g ∈ waits → (∀ h ∈ waits, h ≠ g → g.older h = true) →
       ∃ t h, exec .trapEntry s = .next t ∧ (t.rail c r).handler = some g.gid ∧ t.group? g.gid = some h ∧
         h.ctl = g.ctl.inHandler { g.ctl.trapRec with frame := BitVec.ofNat 64 s.pkg.frame } (s.trapEntryOf g) ∧ h.stalled = none ∧
         h.clause = none ∧ h.regs = g.regs ∧ (∀ n, n ≠ g.gid → t.group? n = s.group? n) ∧ t.mem = s.mem)) ∧
  (∀ s g, s.group? s.turn.x = some g →
     (g.suspendBy = [] ∨ s.underWay g = true ∨ g.gstate = .retired → exec .suspensionEffect s = .next s) ∧
     (g.suspendBy ≠ [] → s.underWay g = false → g.gstate ≠ .retired → ∃ t h, exec .suspensionEffect s = .next t ∧
       t.group? s.turn.x = some h ∧ h.ctl = { g.ctl with suspended := true } ∧ h.regs = g.regs ∧ t.mem = s.mem))

/-- Loads, atomics and other operations end (06 R167; 07 R198, R199, R206; 08 R234; 09 R251, R253; 15 R411, R416). LOAD_DATA_RETURN
of a line that may be read puts its bytes, with the core's own stores in flight on top, into the load; the last line ends the load, and
the lanes' words are its results; a line that has been read, or whose request has not been served, changes nothing. ATOMIC_PERFORM of a
request at a home on this package reads the old value there and writes the new one, and no other byte; the last request ends the atomic.
LONG_LATENCY_COMPLETE of an operation whose results were known at issue writes them, with the exceptions it raises; of a TKT it hands
out NEXT, to all lanes or one after the other; of a BARTEST it writes 1 if the phase has completed and 0 if not. -/
def Obligations.LoadsAtomicsAndResults : Prop :=
  (∀ s o g form space image hint lines lanes acquire uniform l, let id := s.turn.x
     let i := s.turn.y
     s.op? id = some o → o.kind = .load form space image hint lines lanes acquire uniform → s.group? o.gid = some g → lines[i]? = some l →
     let r := bufRec image
     let wide : Bool := match acquire with | some n => decide (2 ≤ n) | none => false
     (l.bytes ≠ none ∨ l.served = false ∨ s.lostFlit id l.addr = true → exec .loadDataReturn s = .next s.tick) ∧
     (∀ src p, l.bytes = none → l.served = true → s.lostFlit id l.addr = false → s.lineSource g r space hint wide l = some (src, p) →
       let line := { l with bytes := some (s.seenBytes o g.core space l.addr src), poison := p }
       let ls := lines.set i line
       (form = .shape ∨ ls.any (fun k => k.bytes.isNone) = true → ∃ t, exec .loadDataReturn s = .next t ∧
         t.op? id = some { o with kind := .load form space image hint ls lanes acquire uniform } ∧ t.mem.bytes = s.mem.bytes ∧
         t.commits = s.commits) ∧
       (form ≠ .shape → ls.any (fun k => k.bytes.isNone) = false → (∀ k ∈ lanes, (laneValue r form ls k).2 = false) →
         Lands o g (loadResults o image form ls lanes uniform) → ∃ t h, exec .loadDataReturn s = .next t ∧
         Ended s t o g h g.ctl (loadResults o image form ls lanes uniform) ∧ t.mem.bytes = s.mem.bytes))) ∧
  (∀ s id i o g op size space image reqs returns uniform rnd r, s.op? id = some o →
     o.kind = .atomic op size space image reqs returns uniform rnd → s.group? o.gid = some g → reqs[i]? = some r → r.done = false →
     (∀ h k, space ≠ .fabric h k) → s.lostFlit id r.addr = false → s.passes g.core space r.phys = true →
     (space = .sram ∨ s.mem.poisoned r.phys = false) →
     let v := natOfBytes (s.homeBytes space r.phys size)
     let done := r.withOld op size rnd v
     let bytes (t : State) : List Host.Cell := if space = .sram then t.mem.sram else t.mem.bytes
     let stored (t : State) : Prop :=
       (∀ j, j < size → Memory.read (bytes t) (r.phys + j) = BitVec.ofNat 8 ((performAtomic op size rnd v r.lanes).1 / 256 ^ j)) ∧
       (∀ a, a < r.phys ∨ r.phys + size ≤ a → Memory.read (bytes t) a = Memory.read (bytes s) a)
     ((reqs.set i done).any (fun q => !q.done) = true → ∃ t, exec (.atomicPerform id i .none) s = .next t ∧
       t.op? id = some { o with kind := .atomic op size space image (reqs.set i done) returns uniform rnd } ∧ stored t) ∧
     ((reqs.set i done).any (fun q => !q.done) = false → (reqs.set i done).any (fun q => q.died) = false →
       let ws := if returns then atomicResults o size (reqs.set i done) uniform else []
       Lands o g ws → ∃ t h, exec (.atomicPerform id i .none) s = .next t ∧ Ended s t o g h g.ctl ws ∧ stored t)) ∧
  (∀ s o g, let id := s.turn.x
     s.op? id = some o → s.group? o.gid = some g →
     (∀ ws exc sat, o.kind = .value ws exc sat → Lands o g ws → ∃ t h, exec .longLatencyComplete s = .next t ∧
       Ended s t o g h (g.ctl.raiseList exc sat) ws ∧ t.mem = s.mem) ∧
     (∀ ws, o.kind = .result ws → Lands o g ws → ∃ t h, exec .longLatencyComplete s = .next t ∧ Ended s t o g h g.ctl ws ∧ t.mem = s.mem) ∧
     (∀ d each, o.kind = .tkt d each →
       let next : Word := (Sparse.get ({} : Dispenser) s.tickets d).next
       let ws := (laneList o.lanes).zipIdx.map (fun l => (o.dest, l.1, if each then next + BitVec.ofNat 32 l.2 else next))
       Lands o g ws → ∃ t h, exec .longLatencyComplete s = .next t ∧ Ended s t o g h g.ctl ws ∧
         (Sparse.get ({} : Dispenser) t.tickets d).next = next + BitVec.ofNat 32 (if each then (laneList o.lanes).length else 1) ∧
         (Sparse.get ({} : Dispenser) t.tickets d).serving = (Sparse.get ({} : Dispenser) s.tickets d).serving ∧ t.mem = s.mem) ∧
     (∀ scope key phase, o.kind = .bartest scope key phase → s.objectBusy o.gid id key = false →
       let hit := (s.bar key).completed phase
       let ws := (laneList o.lanes).map (fun l => (o.dest, l, if hit then 1#32 else 0#32))
       Lands o g ws → scope < 5 → ∃ t h, exec .longLatencyComplete s = .next t ∧ Ended s t o g h g.ctl ws ∧ t.bars = s.bars ∧
         (hit = true → 2 ≤ scope → ∀ m ∈ (t.core g.core).l1, m.handle ≠ g.ctl.handle)))

/-- Stores in flight, releases, acquires and barrier objects (08 R226 to R228, R230, R231; 09 R241 to R244, R248, R249, R251, R252; 15 R413,
R418 to R420). STORE_COMMIT of a store that something holds back changes nothing; else the memory unit accepts it; an accepted one, once no
earlier one to its home is in front of it, writes the bits it covers at its home and no other, or waits in its home's window for its quantum.
RELEASE_COMPLETE of a release whose conditions do not hold leaves it outstanding; else it ends, and what follows it happens: a FENCE.ACQ
takes the core's L1 copies, TSERVE advances SERVING, IFENCE empties the instruction cache. ACQUIRE_COMPLETE, BARRIER_WAKE and TSERVE_BROADCAST
end exactly the waits whose phase has completed or whose ticket is served. BARRIER_COUNT of what fits the counters adds it, gives an arrival
the phase it was counted into, and marks a met phase as committing; what does not fit waits. BARRIER_PHASE_ADVANCE of a committing object
starts the next phase with the killed groups' lanes. -/
def Obligations.StoresReleasesAndBarriers : Prop :=
  (∀ s c, s.commits.find? (fun d => d.id == s.turn.x) = some c →
     let addr : Nat := match c.space with | .virt _ => c.phys | _ => c.block
     let reaches : Bool := c.served && !s.lostFlit c.id c.block && s.passes c.core c.space addr
     let gone (t : State) : Prop := t.commits = s.commits.filter (fun d => d.id != c.id)
     (c.accepted = false → s.blocked c.gid c.lane c.order c.space c.block c.bits = true → exec .storeCommit s = .next s.tick) ∧
     (c.accepted = false → s.blocked c.gid c.lane c.order c.space c.block c.bits = false → ∃ t, exec .storeCommit s = .next t ∧
       t.commits = s.commits.filter (fun d => d.id != c.id) ++ [{ c with accepted := true }] ∧ t.mem = s.mem ∧ t.groups = s.groups) ∧
     (c.accepted = true → reaches = false ∨ (c.quantum = none ∧ s.behind c = true) ∨ (c.quantum ≠ none ∧ s.windowRoom c = false) →
       exec .storeCommit s = .next s.tick) ∧
     (∀ q, c.accepted = true → reaches = true → c.quantum = some q → s.windowRoom c = true → ∃ t w, exec .storeCommit s = .next t ∧ gone t ∧
       t.mem = { s.mem with windows := s.mem.windows ++ [w] } ∧ w.object = q.1 ∧ w.writer = q.2 ∧ w.phase = none ∧ w.phys = c.phys ∧
       w.bits = c.bits ∧ w.data = c.data ∧ t.groups = s.groups) ∧
     (c.accepted = true → reaches = true → c.quantum = none → s.behind c = false → s.commitUnit c = [c] → (∀ h k, c.space ≠ .fabric h k) →
       (c.space = .sram ∨ (s.mem.poisoned c.phys = false ∧ c.phys % 128 = c.block % 128)) → c.block % 16 = 0 →
       let bytes (t : State) : List Host.Cell := if c.space = .sram then t.mem.sram else t.mem.bytes
       ∃ t, exec .storeCommit s = .next t ∧ gone t ∧ t.groups = s.groups ∧
       (∀ i, i < 16 → Memory.read (bytes t) (addr + i) = mergeByte (Memory.read (bytes s) (addr + i)) (byteAt c.bits i) (byteAt c.data i)) ∧
       (∀ a, a < addr ∨ addr + 16 ≤ a → Memory.read (bytes t) a = Memory.read (bytes s) a)) ∧
     (∀ h k, c.accepted = true → reaches = true → c.quantum = none → s.behind c = false → s.commitUnit c = [c] → c.space = .fabric h k →
       0 < s.farWays h → ∃ t f, exec .storeCommit s = .next t ∧ gone t ∧ t.groups = s.groups ∧ t.mem = s.mem ∧ f ∈ t.fab.far ∧ f.handle = h ∧
         f.key = k ∧ f = ({ (s.fab.farLine? h k c.block).getD (s.newFar h k c.block) with stamp := f.stamp } : FarLine).write c.block c.bits c.data)) ∧
  (∀ s o g scope before entries next, s.op? s.turn.x = some o → o.kind = .release scope before entries next → s.group? o.gid = some g → scope < 5 →
     let ready := s.releaseReady g.ctl.handle scope before entries
     (ready = false → exec .releaseComplete s = .next s.tick) ∧
     ((∃ q a, next = .push q a) ∨ (∃ l, next = .launch l) ∨ next = .exit ∨ next = .matrix → ready = true → ∃ t, exec .releaseComplete s = .next t ∧
       t.ops = s.ops.filter (fun p => p.id != o.id) ∧ t.groups = s.groups ∧ t.mem = s.mem) ∧
     (∀ acquire, next = .fence acquire → ready = true → Lands o g [] → ∃ t h, exec .releaseComplete s = .next t ∧ Ended s t o g h g.ctl [] ∧
       t.mem = s.mem ∧ (acquire = true → 2 ≤ scope → ∀ m ∈ (t.core g.core).l1, m.handle ≠ g.ctl.handle)) ∧
     (∀ d, next = .serve d → ready = true → Lands o g [] → ∃ t h, exec .releaseComplete s = .next t ∧ Ended s t o g h g.ctl [] ∧
       t.mem = s.mem ∧ (Sparse.get ({} : Dispenser) t.tickets d).serving = (Sparse.get ({} : Dispenser) s.tickets d).serving + 1 ∧
       (Sparse.get ({} : Dispenser) t.tickets d).next = (Sparse.get ({} : Dispenser) s.tickets d).next) ∧
     (next = .ifence → ready = true → s.transfersOf g = false → Lands o g [] → ∃ t h, exec .releaseComplete s = .next t ∧
       t.group? o.gid = some h ∧ h.fetchHold = false ∧ h.ctl = g.ctl ∧ (t.core g.core).icache = [] ∧ t.op? o.id = none ∧ t.mem = s.mem)) ∧
  (∀ s o g scope wait, s.op? s.turn.x = some o → o.kind = .acquire scope wait → s.group? o.gid = some g →
     (s.waitOver wait = false → exec .acquireComplete s = .next s.tick) ∧
     (s.waitOver wait = true → ∃ t h, exec .acquireComplete s = .next t ∧ t.op? o.id = none ∧ t.group? o.gid = some h ∧ t.mem = s.mem ∧
       h.ctl = g.ctl ∧ (g.gstate = .seated → h.wait ≠ .barrier) ∧
       (2 ≤ scope → ∀ m ∈ (t.core g.core).l1, m.handle ≠ g.ctl.handle))) ∧
  (∀ s, (s.ops.map (fun o => o.id)).Nodup → (∀ o ∈ s.ops, s.group? o.gid ≠ none) →
     let passed (o : OutOp) (p : AcquireWait → Bool) : Bool := match o.kind with | .acquire _ w => p w && s.waitOver w | _ => false
     (∃ t, exec .barrierWake s = .next t ∧ t.mem = s.mem ∧ t.ops = s.ops.filter (fun o =>
       !(o.gid == s.turn.x && passed o (fun w => match w with | .phase _ _ => true | _ => false)))) ∧
     (∃ t, exec .tserveBroadcast s = .next t ∧ t.mem = s.mem ∧ t.ops = s.ops.filter (fun o =>
       !(s.groups.any (fun g => g.core == s.turn.x && g.gid == o.gid) &&
         passed o (fun w => match w with | .ticket d _ => d == s.turn.y | _ => false))))) ∧
  (∀ s, (∀ w ∈ s.mem.windows, (∃ h, w.space = .virt h) → s.mem.poisoned w.phys = false) →
     let after (b : Barrier) : Barrier := if b.met then b.commitMark else b
     (∀ id o g scope before entries key requested, s.op? id = some o → o.kind = .release scope before entries (.arrive key requested) →
       s.group? o.gid = some g → scope < 5 →
       let b := s.bar key
       let lanes := b.arrivalLanes g o.lanes
       let n := (laneList lanes).length
       let counted : Barrier := { b.noteArrival g.gid lanes with arrCnt := b.arrCnt + n, byteCnt := b.byteCnt - requested }
       let ws := (laneList o.lanes).map (fun l => (o.dest, l, BitVec.ofNat 32 b.counting))
       let may : Bool := s.releaseReady g.ctl.handle scope before entries && !s.objectBusy g.gid o.id key && b.room n 0 requested
       (may = false → exec (.barrierCount (.arrival id)) s = .next s.tick) ∧
       (may = true → Lands o g ws → ∃ t h, exec (.barrierCount (.arrival id)) s = .next t ∧ t.bar key = after counted ∧
         t.group? o.gid = some h ∧ t.op? id = none ∧ (∀ w ∈ ws, t.resultWord o h w.1 w.2.1 = w.2.2) ∧
         (counted.met = false → Ended s t o g h g.ctl ws ∧ t.mem.bytes = s.mem.bytes))) ∧
     (∀ l, s.landed.find? (fun k => k.number == l.number) = some l →
       let b := s.bar l.object
       (b.room 0 l.bytes 0 = false → exec (.barrierCount (.landed l.number)) s = .next s.tick) ∧
       (b.room 0 l.bytes 0 = true → ∃ t, exec (.barrierCount (.landed l.number)) s = .next t ∧
         t.landed = s.landed.filter (fun k => k.number != l.number) ∧ t.bar l.object = after { b with byteCnt := b.byteCnt + l.bytes })) ∧
     (∀ unit index arrivals, let key := barKey 4 unit index
       let b := s.bar key
       (b.room arrivals 0 0 = false → exec (.barrierCount (.peer unit index arrivals)) s = .next s.tick) ∧
       (b.room arrivals 0 0 = true → ∃ t, exec (.barrierCount (.peer unit index arrivals)) s = .next t ∧
         t.bar key = after { b with arrCnt := b.arrCnt + arrivals })) ∧
     (let key := barKey s.turn.x s.turn.y s.turn.z
      let b := s.bar key
      let next : Barrier := { b with phase := b.phase + 1, cmt := false }
      let all (a : Sparse (Nat × Word)) (e : Nat × Nat) : Sparse (Nat × Word) := Sparse.set (0, 0#32) a e.1 (next.counting, 0xFFFFFFFF#32)
      (b.cmt = false → exec .barrierPhaseAdvance s = .next s.tick) ∧
      (b.cmt = true → barScope key ≠ 4 → ∃ t, exec .barrierPhaseAdvance s = .next t ∧
        t.bar key = after { next with arrCnt := b.arrCnt + b.killed.foldl (fun n e => n + e.2) 0, arrived := b.killed.foldl all b.arrived })))

/-- The copy engine (07 R216 to R220, R222; 08 R237; 15 R421). COPY_COMMAND and FILL_COMMAND of what may not be taken, or is of another kind,
change nothing; a command that R217 rejects pops its four parameters and pushes its word with result 2 to q6 and one word of 0 to q7; else its
transfer starts, and without RESTART the bits of its chunks are cleared. A kind without parameters ends with result 2 and nothing in q7.
COPY_CHUNK_COMPLETE of a chunk in flight sets its bit and hands its bytes to the barrier; of the next chunk sends its lines: of a chunk of one
line exactly the bytes of the range change, to the source's; a source address that does not translate stops the transfer with result 4.
COPY_TRANSFER_END pushes the status and ends the transfer, once its chunks are done or it has stopped with none in flight. -/
def Obligations.CopyEngine : Prop :=
  (∀ kind, kind = 1 ∨ kind = 2 → ∀ s g, s.group? s.turn.x = some g → g.gstate ≠ .retired →
     let i : Instr := if kind = 1 then .copyCommand else .fillCommand
     let p (n : Nat) : Nat := ((g.queue 5).getD n 0#32).toNat
     let srcOff : Nat := if kind = 1 then p 0 else 0
     let dstOff : Nat := if kind = 1 then p 1 else p 0
     let count : Nat := if kind = 1 then p 2 else p 1
     let barrier : Word := (g.queue 5).getD 3 0#32
     let popped (h : Group) : Prop := h.queue 4 = (g.queue 4).drop 1 ∧ h.queue 5 = (g.queue 5).drop 4
     (s.copyHead g = none → exec i s = .next s.tick) ∧
     (∀ w, s.copyHead g = some w → wbits w 31 28 ≠ kind → exec i s = .next s.tick) ∧
     (∀ w, s.copyHead g = some w → wbits w 31 28 = kind → 4 ≤ (g.queue 5).length →
       let src := Sparse.get 0#256 g.recs (wbits w 23 18)
       let dst := Sparse.get 0#256 g.recs (wbits w 17 12)
       let rejects := s.copyRejects g w (bufRec src) (bufRec dst) srcOff dstOff count barrier
       (rejects = true → g.statusRoom 1 1 = true → ∃ t h, exec i s = .next t ∧ t.group? s.turn.x = some h ∧ popped h ∧
         h.queue 6 = g.queue 6 ++ [withResult w 2] ∧ h.queue 7 = g.queue 7 ++ [0#32] ∧ h.bitmaps = g.bitmaps ∧ t.transfers = s.transfers ∧
         t.mem = s.mem) ∧
       (rejects = false → ∃ tr : Transfer, tr.kind = kind ∧ tr.gid = g.gid ∧ tr.word = w ∧ tr.src = (if kind = 1 then src else 0#256) ∧
         tr.dst = dst ∧ tr.srcOff = srcOff ∧ tr.dstOff = dstOff ∧ tr.count = count ∧ tr.pattern = (g.queue 5).getD 2 0#32 ∧
         tr.next = 0 ∧ tr.flying = [] ∧ tr.stopped = none ∧
         tr.object = (if wbit barrier 31 then some (s.objectOf g (wbits barrier 30 28) (wbits barrier 7 0)) else none) ∧
         (s.transferWaits g tr = true → exec i s = .next s.tick) ∧
         (s.transferWaits g tr = false → ∃ t h, exec i s = .next t ∧ t.transfers = s.transfers ++ [tr] ∧ t.group? s.turn.x = some h ∧ popped h ∧
           h.queue 6 = g.queue 6 ∧ t.mem = s.mem ∧ h.bitmap tr.map = (if wbit w 9 then g.bitmap tr.map
             else g.bitmap tr.map / 2 ^ chunksOf count * 2 ^ chunksOf count))))) ∧
  (∀ s g w, s.group? s.turn.x = some g → g.gstate ≠ .retired → s.copyHead g = some w → paramsOf (wbits w 31 28) = 0 → g.statusRoom 1 0 = true →
     ∃ t h, exec .copyUnknownKind s = .next t ∧ t.group? s.turn.x = some h ∧ h.queue 4 = (g.queue 4).drop 1 ∧ h.queue 5 = g.queue 5 ∧
       h.queue 6 = g.queue 6 ++ [withResult w 2] ∧ h.queue 7 = g.queue 7 ∧ t.transfers = s.transfers ∧ t.mem = s.mem) ∧
  (∀ s tr g, s.transfers.find? (fun t => t.id == s.turn.x) = some tr → s.group? tr.gid = some g → tr.kind ≠ 9 →
     let k := s.turn.y
     (tr.flying.contains k = true → ∃ t h u, exec .copyChunkComplete s = .next t ∧ t.group? tr.gid = some h ∧
       h.bitmap tr.map = (g.bitmap tr.map ||| 2 ^ k) ∧ t.transfers.find? (fun t => t.id == s.turn.x) = some u ∧
       u.flying = tr.flying.filter (· != k) ∧ u.stopped = tr.stopped ∧ t.mem = s.mem ∧
       t.landed.map (fun l => (l.object, l.bytes)) = s.landed.map (fun l => (l.object, l.bytes)) ++
         (match tr.object with | none => [] | some o => [(o, (tr.chunk k).2 - (tr.chunk k).1)])) ∧
     (tr.flying.contains k = false → tr.stopped = none → tr.nextChunk (g.bitmap tr.map) = some k →
       let sending : Transfer := { tr with next := k + 1, flying := tr.flying ++ [k] }
       (32 ≤ tr.flying.length → exec .copyChunkComplete s = .next s.tick) ∧
       (tr.flying.length < 32 → s.transferLost g tr = true → ∃ t, exec .copyChunkComplete s = .next t ∧ t.mem = s.mem ∧
         t.transfers.find? (fun t => t.id == s.turn.x) = some { tr with stopped := some (1, 0, false) }) ∧
       (∀ lo hi a, tr.flying.length < 32 → s.transferLost g tr = false → tr.chunkLines k = [(lo, hi)] →
         s.tick.sourceBytes g sending ((sending.lineBytes lo hi).map (fun m => m.2)) = .error a →
         ∃ t u, exec .copyChunkComplete s = .next t ∧ t.mem = s.mem ∧ t.transfers.find? (fun t => t.id == s.turn.x) = some u ∧
           u.stopped = some (4, a, false) ∧ k ∉ u.flying) ∧
       (∀ lo hi bs pg h, tr.flying.length < 32 → s.transferLost g tr = false → tr.chunkLines k = [(lo, hi)] →
         s.tick.sourceBytes g sending ((sending.lineBytes lo hi).map (fun m => m.2)) = .ok bs → (s.place g (bufRec tr.dst) lo 1).1 = .virt h →
         s.transferPage sending lo .write = some pg → (∀ b ∈ bs, b.closed = false ∧ b.soiled = none ∧ b.poison = false) →
         s.pageOpen tr.core (some pg) lo = true → s.mem.clean (pg.phys lo) = true → lo % 128 + bs.length ≤ 128 →
         s.mem.poisoned (pg.phys (lo / 128 * 128)) = false →
         let at_ (i : Nat) : Nat := pg.phys (lo / 128 * 128) + lo % 128 + i
         ∃ t u, exec .copyChunkComplete s = .next t ∧ t.transfers.find? (fun t => t.id == s.turn.x) = some u ∧ u.next = k + 1 ∧
           u.flying = tr.flying ++ [k] ∧ u.stopped = none ∧
           (∀ i b, bs[i]? = some b → Memory.read t.mem.bytes (at_ i) = b.byte) ∧
           (∀ a, a < at_ 0 ∨ at_ bs.length ≤ a → Memory.read t.mem.bytes a = Memory.read s.mem.bytes a)))) ∧
  (∀ s tr g, s.transfers.find? (fun t => t.id == s.turn.x) = some tr → s.group? tr.gid = some g → g.gstate ≠ .retired → tr.kind ≠ 9 →
     let more := tr.q7 (g.bitmap tr.map)
     let done : Bool := tr.flying.isEmpty && (tr.stopped.isSome || (tr.nextChunk (g.bitmap tr.map)).isNone)
     (done = false → exec .copyTransferEnd s = .next s.tick) ∧
     (done = true → g.statusRoom 1 more.length = true → ∃ t h, exec .copyTransferEnd s = .next t ∧
       t.transfers = s.transfers.filter (fun u => u.id != s.turn.x) ∧ t.group? tr.gid = some h ∧ t.mem = s.mem ∧ h.queue 7 = g.queue 7 ++ more ∧
       h.queue 6 = g.queue 6 ++ [withResult tr.word (match tr.stopped with | some (r, _, _) => r | none => 0)] ∧
       more.headD 0#32 = BitVec.ofNat 32 ((List.range (chunksOf tr.count)).filter (fun k => (g.bitmap tr.map).testBit k)).length))

/-- Spinel collectives (09 R256 to R260; 02 R50, R52, R53). SPINEL_COMMAND of five words whose release has completed pops them: what R258 rejects
pushes a status word with result 2 to q9; else the command takes its die's next number at its scope. COLLECTIVE_START, once every participating
die's command is there, takes them together, or ends them with result 3 when they differ. COLLECTIVE_STEP reduces a chunk left to right in die
order and writes it to every destination; a chunk that fails its check is done once more and then ends the collective with result 1, and a
pod's with results missing from peers with result 4. COLLECTIVE_END pushes each command's status once every q9 has room. PACKAGE_LEAVES_POD
ends the pod-scope collectives, the unmatched commands among them, with result 5. -/
def Obligations.SpinelCollectives : Prop :=
  (∀ s g i, s.group? s.turn.x = some g → g.gstate ≠ .retired → s.inst? g.ctl.handle = some i →
     (s.spinHead g = none → exec .spinelCommand s = .next s.tick) ∧
     (∀ ws, s.spinHead g = some ws →
       let w := ws.getD 0 0#32
       let n (k : Nat) : Nat := (ws.getD k 0#32).toNat
       let src := Sparse.get 0#256 g.recs (wbits w 17 12)
       let dst := Sparse.get 0#256 g.recs (wbits w 11 6)
       let rejects := s.spinRejects g w (bufRec src) (bufRec dst) (n 1) (n 2) (n 3) (ws.getD 4 0#32)
       let die := dieOfCore g.core
       (rejects = true → (g.queue 9).length < queueDepth 9 → ∃ t h, exec .spinelCommand s = .next t ∧ t.group? s.turn.x = some h ∧
         h.queue 8 = (g.queue 8).drop 5 ∧ h.queue 9 = g.queue 9 ++ [spinStatus w 2 false] ∧ t.spin = s.spin ∧ t.installs = s.installs) ∧
       (rejects = false → ∃ t h j, exec .spinelCommand s = .next t ∧ t.group? s.turn.x = some h ∧ h.queue 8 = (g.queue 8).drop 5 ∧
         h.queue 9 = g.queue 9 ∧ t.inst? g.ctl.handle = some j ∧ j.nextSpin die (spinScope w) = i.nextSpin die (spinScope w) + 1 ∧
         t.mem = s.mem ∧ t.spin = s.spin ++ [{
           die := die, gid := s.turn.x, handle := g.ctl.handle, number := i.nextSpin die (spinScope w), word := w, src := src, dst := dst
           srcOff := n 1, dstOff := n 2, count := n 3, barrier := ws.getD 4 0#32 }]))) ∧
  (∀ s handle scope number i, s.inst? handle = some i →
     let cs := s.spinCommands handle scope number (s.spinDies i)
     (cs = [] ∨ cs.length ≠ (s.spinDies i).length → exec (.collectiveStart handle scope number) s = .next s) ∧
     (∀ c rest, cs = c :: rest → cs.length = (s.spinDies i).length → ∃ t k, exec (.collectiveStart handle scope number) s = .next t ∧
       t.collect = s.collect ++ [k] ∧ k.commands = cs ∧ k.chunk = 0 ∧ k.handle = handle ∧ k.scope = scope ∧ k.number = number ∧
       k.result = (if rest.all c.agrees then none else some 3) ∧ (∀ d, d ∈ t.spin ↔ d ∈ s.spin ∧ d ∉ cs) ∧ t.groups = s.groups ∧ t.mem = s.mem)) ∧
  (∀ s handle scope number remote,
     (s.openCollective handle scope number = none → exec (.collectiveStep handle scope number remote) s = .next s) ∧
     (∀ c, s.openCollective handle scope number = some c →
       let w := (c.commands.map (fun d => d.word)).headD 0#32
       let fmt := wbits w 23 20
       let op := wbits w 27 24
       let gs := c.commands.filterMap (fun d => (s.group? d.gid).map (fun g => (d, g)))
       let parts := gs.map (fun p => spinElems fmt (s.tick.spinSource p.2 p.1 c.chunk))
       let whole := spinFold fmt op parts
       let with_ (f : Collective → Collective) (t : State) : Prop := t.collect = replaceFirst (fun d => d == c) (f c) s.collect
       let pod : Bool := c.scope == 1
       let peers := if pod then s.fab.rowMates.length + s.fab.otherRows.length else 0
       let lost : Bool := pod && decide (0 < peers) && (remote.parts.length != peers || (!s.fab.rowMates.isEmpty && (s.fab.collectivePort false).isNone) ||
         (!s.fab.otherRows.isEmpty && (s.fab.collectivePort true).isNone))
       let check := spinCheck fmt op parts whole
       let good : Bool := check != .fail && (!pod || peers == 0 || remote.checkOk)
       let result := if pod then s.fab.podFold fmt op whole (remote.parts.map (spinElems fmt)) else whole
       (∀ p ∈ gs, s.tick.spinWaits p.2 p.1 c.chunk = false) →
       (lost = true → ∃ t, exec (.collectiveStep handle scope number remote) s = .next t ∧
         with_ (fun c => { c with result := some 4 }) t ∧ t.groups = s.groups ∧ t.mem = s.mem) ∧
       (lost = false → good = false → ∃ t, exec (.collectiveStep handle scope number remote) s = .next t ∧
         with_ (fun c => if c.resent then { c with result := some 1 } else { c with resent := true }) t ∧ t.groups = s.groups ∧ t.mem = s.mem) ∧
       (lost = false → good = true → ∃ t, exec (.collectiveStep handle scope number remote) s = .next t ∧ t.groups = s.groups ∧
         with_ (fun c => { c with chunk := c.chunk + 1, resent := false, unchecked := c.unchecked || check == .unchecked || (pod && remote.unchecked) }) t ∧
         (∀ d g h pg, gs.getLast? = some (d, g) →
           let lo := (bufRec d.dst).base + d.dstOff + 128 * c.chunk
           lo % 128 = 0 → d.dstOff % 128 = 0 → (bufRec d.dst).swz = 0 → (s.place g (bufRec d.dst) lo 1).1 = .virt h →
           s.transferPage (d.transfer g.core) lo .write = some pg → s.mem.poisoned (pg.phys lo) = false →
           ∀ j, j < 128 → Memory.read t.mem.bytes (pg.phys lo + j) = (spinBytes fmt result).getD j 0#8)))) ∧
  (∀ s handle scope number,
     (s.endedCollective handle scope number = none → exec (.collectiveEnd handle scope number) s = .next s) ∧
     (∀ c, s.endedCollective handle scope number = some c →
       let room (d : SpinCommand) : Bool := match s.group? d.gid with
         | none => true | some g => g.gstate == .retired || decide ((g.queue 9).length < queueDepth 9)
       ((∃ d ∈ c.commands, room d = false) → exec (.collectiveEnd handle scope number) s = .next s) ∧
       ((∀ d ∈ c.commands, room d = true) → (c.commands.map (fun d => d.gid)).Nodup → ∃ t, exec (.collectiveEnd handle scope number) s = .next t ∧
         t.collect = s.collect.erase c ∧ t.mem = s.mem ∧ (∀ d ∈ c.commands, ∀ g, s.group? d.gid = some g → g.gstate ≠ .retired →
           t.group? d.gid = some (g.setQueue 9 (g.queue 9 ++ [spinStatus d.word (c.result.getD 0) c.unchecked])))))) ∧
  (∀ s package, (s.fab.present.contains package = false → exec (.packageLeavesPod package) s = .next s) ∧
     (s.fab.present.contains package = true → ∃ t, exec (.packageLeavesPod package) s = .next t ∧
       t.fab.present = s.fab.present.filter (· != package) ∧ t.groups = s.groups ∧ t.mem = s.mem ∧
       (∀ i ∈ s.installs, (∀ c ∈ t.collect, c.handle = i.handle → c.scope = 1 → c.result ≠ none) ∧
         (∀ c ∈ t.spin, c.handle = i.handle → spinScope c.word ≠ 1) ∧
         (∀ c ∈ s.spin, c.handle = i.handle → spinScope c.word = 1 → ∃ k ∈ t.collect, k.commands = [c] ∧ k.result = some 5)) ∧
       (∀ c ∈ s.collect, c.scope ≠ 1 → c ∈ t.collect) ∧ (∀ c ∈ s.spin, spinScope c.word ≠ 1 → c ∈ t.spin)))

/-- The matrix engine's own steps (10 R267, R268, R275, R277 to R279, R281, R282, R291). MATRIX_COMMAND_START starts the command whose turn it
is, once its release has completed and nothing keeps it from what it reads: an MMA stages its scratchpad operands. MATRIX_COMMAND_END of a
started command writes exactly the elements its live rows and its columns name (an MMA the sums of its staged operands, setting SATF where
one saturates, an ACCLD the record's elements, an ACCZ zeros), takes its entry out of the stream and ends it; an ACCST hands its lines to the memory
unit and stays outstanding. MATRIX_MARKER moves a marker to q3. MATRIX_SELF_TEST, between commands, clears what it tested, and fences what fails:
what a failing sub-array computed since its last test is marked. -/
def Obligations.MatrixEngine : Prop :=
  (∀ s : State, let x := s.turn.x
     let k := s.core x
     (k.nextStart = none → exec .matrixCommandStart s = .next s.tick) ∧
     (∀ e g, k.nextStart = some e → s.group? e.gid = some g →
       let held : Bool := (s.op? e.release).isSome || (s.entryReads g e).any (fun r => !(s.owners r.1 r.2.1 r.2.2.1).isEmpty) ||
         s.entryShut x g e || !k.canRun e.command
       let becomes (t : State) (f : StreamEntry) : Prop := (t.core x).stream = replaceFirst (fun n => n.number == e.number) f k.stream ∧
         t.groups = s.groups ∧ t.mem = s.mem ∧ (t.core x).acc = k.acc
       (held = true → exec .matrixCommandStart s = .next s.tick) ∧
       (held = false → e.command.isMma = false → ∃ t, exec .matrixCommandStart s = .next t ∧ becomes t { e with started := true }) ∧
       (∀ tile sh z dA dB rA rB lanes, held = false → e.command = .mma tile sh z dA dB rA rB lanes → (descOf dA).q = false → (descOf dB).q = false →
         e.stagedA = [] → e.stagedB = [] →
         let a := s.tick.stageScratch g (descOf dA) rA (mmaRows g sh lanes) (stagedUnits sh)
         let b := s.tick.stageScratch g (descOf dB) rB (mmaCols sh) (stagedUnits sh)
         let all : Bool := decide ((descOf dA).total rA (mmaRows g sh lanes) (stagedUnits sh) ≤ a.length) &&
           decide ((descOf dB).total rB (mmaCols sh) (stagedUnits sh) ≤ b.length)
         ∃ t, exec .matrixCommandStart s = .next t ∧ becomes t { e with stagedA := a, stagedB := b, started := all }))) ∧
  (∀ s e rest g o, let x := s.turn.x
     let k := s.core x
     k.stream.filter (fun e => e.marker.isNone) = e :: rest → s.group? e.gid = some g → s.op? e.op = some o → Lands o g [] →
     let word (t : State) (key : Nat) : Word := Sparse.get 0#32 (t.core x).acc key
     let live (r : Nat) : Bool := !g.ctl.dead.getLsbD (rowLane g r)
     let gone (t : State) : Prop := (t.core x).stream = k.stream.filter (fun f => f.number != e.number) ∧ t.mem = s.mem
     let ended (t : State) : Prop := gone t ∧ t.ops = s.ops.filter (fun p => p.id != o.id)
     (e.started = false → exec .matrixCommandEnd s = .next s.tick) ∧
     (∀ tile sh z dA dB rA rB lanes, e.started = true → e.command = .mma tile sh z dA dB rA rB lanes → validRows sh ≤ 64 → validCols sh ≤ 64 →
       k.perturb = none → let wide := wideTile (shapeGet sh 2)
       let rows := mmaRows g sh lanes
       let cols := mmaCols sh
       (z = true ∨ ∀ r ∈ rows, ∀ c ∈ cols, k.elementBad wide tile r c = false) →
       let sum (r i c j : Nat) : Nat × Bool := mmaElement sh z (descOf dA) (descOf dB) rA rB e.stagedA e.stagedB (k.element wide tile r c) i j
       ∃ t h, exec .matrixCommandEnd s = .next t ∧ ended t ∧ t.group? e.gid = some h ∧ h = { g with ctl := { g.ctl with satf := h.ctl.satf } } ∧
         (h.ctl.satf = true ↔ g.ctl.satf = true ∨ ∃ r i c j, rows[i]? = some r ∧ cols[j]? = some c ∧ live r = true ∧ (sum r i c j).2 = true) ∧
         (∀ r i c j, rows[i]? = some r → cols[j]? = some c → live r = true →
           (t.core x).element wide tile r c = (sum r i c j).1 % 2 ^ (if wide then 64 else 32)) ∧
         (∀ key, (∀ r ∈ rows, live r = true → ∀ c ∈ cols, key ∉ accKeys wide tile r c) → word t key = word s key)) ∧
     (∀ tile sh slot image origin stride lanes, e.started = true → e.command = .load tile sh slot image origin stride lanes → validRows sh ≤ 64 →
       validCols sh ≤ 64 → (bufRec image).reserved = false → let wide := wideTile (shapeGet sh 2)
       let moved := movedElements g sh origin stride lanes
       let read (m : Nat × Nat × Nat) : Nat × Bool := s.tick.readElement g (bufRec image) (tileElem (shapeGet sh 2)) m.2.2
       (∀ m ∈ moved, (read m).2 = false) → ∃ t, exec .matrixCommandEnd s = .next t ∧ ended t ∧ t.groups = s.groups ∧
         (∀ m ∈ moved, live m.1 = true → (t.core x).element wide tile m.1 m.2.1 = (read m).1 % 2 ^ (if wide then 64 else 32)) ∧
         (∀ key, (∀ m ∈ moved, live m.1 = true → key ∉ accKeys wide tile m.1 m.2.1) → word t key = word s key)) ∧
     (∀ tile lanes, e.started = true → e.command = .zero tile lanes false → ∃ t, exec .matrixCommandEnd s = .next t ∧ ended t ∧ t.groups = s.groups ∧
       (∀ r ∈ rowsOf g lanes 64, live r = true → ∀ c, c < 64 → (t.core x).element false tile r c = 0) ∧
       (∀ key, (∀ r ∈ rowsOf g lanes 64, live r = true → ∀ c, c < 64 → key ∉ accKeys false tile r c) → word t key = word s key)) ∧
     (∀ tile lanes, e.started = true → e.command = .zero tile lanes true → ∃ t, exec .matrixCommandEnd s = .next t ∧ ended t ∧ t.groups = s.groups ∧
       (∀ key, word t key = if key / 4096 = tile then 0#32 else word s key) ∧
       ((Sparse.get (0, 0) k.tileOwner tile).1 = g.gid + 1 → (Sparse.get (0, 0) k.tileOwner tile).2 < e.op → (t.core x).holder tile = 0)) ∧
     (∀ tile sh slot image origin stride lanes free, e.started = true → e.command = .store tile sh slot image origin stride lanes free →
       (bufRec image).reserved = false → let fmt := shapeGet sh 2
       (∀ m ∈ movedElements g sh origin stride lanes, k.elementBad (wideTile fmt) tile m.1 m.2.1 = false) →
       ∃ t new, exec .matrixCommandEnd s = .next t ∧ gone t ∧ t.groups = s.groups ∧ t.commits = s.commits ++ new ∧
         (∀ c ∈ new, c.gid = g.gid ∧ c.core = x ∧ c.op = e.op ∧ c.slot = slot ∧ c.reserved = false) ∧
         t.op? e.op = some { o with kind := .matrix e.command (some (new.map (fun c => c.id))) } ∧
         (∀ key, word t key = if free = true ∧ key / 4096 ∈ tilesOf tile fmt then 0#32 else word s key))) ∧
  (∀ s g, s.group? s.turn.x = some g → g.gstate ≠ .retired →
     (s.markerReady g = none → exec .matrixMarker s = .next s.tick) ∧
     (∀ m, s.markerReady g = some m → ∃ t h, exec .matrixMarker s = .next t ∧ t.group? s.turn.x = some h ∧ h.queue 3 = g.queue 3 ++ [m.2] ∧
       (t.core g.core).stream = (s.core g.core).stream.filter (fun f => f.number != m.1) ∧ t.mem = s.mem)) ∧
  (∀ s core failing, let k := s.core core
     (k.stream.any (fun e => e.marker.isNone && e.started) = true → exec (.matrixSelfTest core failing) s = .next s.tick) ∧
     (k.stream.any (fun e => e.marker.isNone && e.started) = false → ∃ t, exec (.matrixSelfTest core failing) s = .next t ∧
       (t.core core).accTest = [] ∧ (t.core core).mxtest = k.mxtest + 1 ∧ (t.core core).acc = k.acc ∧ t.groups = s.groups ∧ t.mem = s.mem ∧
       (∀ a, a ∈ (t.core core).fenced ↔ a ∈ k.fenced ∨ (a ∈ failing ∧ a < 16)) ∧
       (∀ n, n ∈ (t.core core).accErr ↔ n ∈ k.accErr ∨ ∃ e ∈ k.accTest, e / 16 = n ∧ e % 16 ∈ failing ∧ e % 16 ∉ k.fenced) ∧
       (∀ a ∈ failing, a < 16 → a ∉ k.fenced → (dieOfCore core, core, a) ∈ t.pkg.fencing)))

/-- 01 Table 1.3 (a power-on reset clears everything but the fuses), R14, R16; 02 Tables 2.1 to 2.4; 03 Tables 3.3, 3.4, 3.6,
3.13 to 3.17, 3.20, R67, R71, R90; 04 Table 4.1; 05 Tables 5.5 to 5.7; 07 Tables 7.3, 7.5; 09 Tables 9.1, 9.3: what reset leaves, as
far as the spec gives a value; a register it gives none for is not named here. The two memories that software fills are in
canonical form; what an unlisted byte reads as is log 7's and not stated. -/
def Obligations.ResetValues : Prop :=
  let s := State.reset
  (∀ v, s.regRead (.vfctl v) = 0 ∧ s.regRead (.dumpmap v) = 0 ∧ s.regRead (.dumpoff v) = 0 ∧
    s.regRead (.l2quota v) = if v = 0 then 0 else 6144) ∧
  (∀ v q, s.regRead (.lqbase v q) = 0 ∧ s.regRead (.lqtailaddr v q) = 0 ∧ s.regRead (.lqhead v q) = 0 ∧ s.regRead (.lqcfg v q) = 0) ∧
  (∀ f, s.regRead (.instimg f) = 0 ∧ s.regRead (.instlen f) = 0 ∧ s.regRead (.instrpt f) = 0 ∧ s.regRead (.insthandle f) = 0 ∧
    s.regRead (.instcmd f) = 0 ∧ s.regRead (.evqbase f) = 0 ∧ s.regRead (.evqcfg f) = 0 ∧ s.regRead (.evqhead f) = 0 ∧
    s.regRead (.evqtail f) = 0) ∧
  (∀ p, s.regRead (.partcfg p) = 2 * 2 ^ 28 ∧ s.regRead (.actcfg p) = 4096 * 2 ^ 16 + 2 ^ 15 ∧
    s.regRead (.llscfg p) = 64 * 2 ^ 16 + 2 ^ 15 ∧ s.regRead (.wdcfg p) = 0x0100 * 2 ^ 16 ∧ s.regRead (.l2far p) = 4) ∧
  (∀ n, s.regRead (.d2dfw n) = 0) ∧
  (∀ r ∈ [BarReg.partcmd, .regbind, .lfcmd, .dumpclr, .l2csel, .rescsel, .barsel, .berylsel], s.regRead r = 0) ∧
  s.regRead .rotcfg = 63 * 2 ^ 26 + 25 * 2 ^ 16 + 1 * 2 ^ 12 ∧ s.regRead .relaycfg = 0x0002AAAA ∧
  (∀ n, Sparse.get 0#32 s.fab.slots n = 0#32 ∧ (Sparse.get {} s.fab.imports n).valid = false ∧ Sparse.get (0 : Nat) s.mem.keyGen n = 0) ∧
  (∀ n, Sparse.get {} s.bars n = ({} : Barrier) ∧ Sparse.get {} s.tickets n = ({} : Dispenser)) ∧
  s.pkg.bringUp = .notRun ∧ s.pkg.pllLocked = false ∧ s.host.cxlUp = false ∧ s.host.vfsVisible = false ∧
  s.host.ide = false ∧ s.installs = [] ∧ s.launches = [] ∧ s.groups = [] ∧
  Memory.wf s.mem.bytes = true ∧ Memory.wf s.host.mem = true ∧ Memory.wf s.mem.sram = true
end

