-- ==== Sys2Proof/Laws/Sparse.lean ====
section
/-!
SUPPORT. Laws of the tables by number and of memories: a read after a write, and that every operation keeps the canonical
form.
-/
namespace Sys2Proof.Machine

variable {α : Type}

/-! ### Reads after writes -/

@[simp] theorem Sparse.get_nil (d : α) (i : Nat) : Sparse.get d [] i = d := rfl

theorem Sparse.get_cons (d : α) (k : Nat) (v : α) (m : Sparse α) (i : Nat) :
    Sparse.get d ((k, v) :: m) i = if k = i then v else Sparse.get d m i := rfl

theorem Sparse.get_drop (d : α) (m : Sparse α) (i j : Nat) :
    Sparse.get d (Sparse.drop m i) j = if i = j then d else Sparse.get d m j := by
  induction m with
  | nil => simp [Sparse.drop]
  | cons e m ih =>
    obtain ⟨k, v⟩ := e
    simp only [Sparse.drop] at ih ⊢
    by_cases h : k = i
    · subst h; simp only [List.filter_cons, bne_self_eq_false, Bool.false_eq_true, if_false, ih, Sparse.get_cons]
      split <;> simp_all
    · simp only [List.filter_cons, bne_iff_ne, ne_eq, h, not_false_eq_true, if_true, Sparse.get_cons, ih]
      split
      · next h1 => subst h1; simp [Ne.symm h]
      · rfl

theorem Sparse.get_put (d : α) (m : Sparse α) (i : Nat) (v : α) (j : Nat) :
    Sparse.get d (Sparse.put m i v) j = if i = j then v else Sparse.get d m j := by
  induction m with
  | nil => simp [Sparse.put, Sparse.get_cons]
  | cons e m ih =>
    obtain ⟨k, w⟩ := e
    simp only [Sparse.put]
    split
    · simp only [Sparse.get_cons]
    · split
      · next h => subst h; simp only [Sparse.get_cons]; split <;> rfl
      · next h =>
      simp only [Sparse.get_cons, ih]
      split
      · next h1 => subst h1; simp [h]
      · rfl

variable [DecidableEq α]

/-- A read after a write gives the value written there, and what stood anywhere else. -/
theorem Sparse.get_set (d : α) (m : Sparse α) (i : Nat) (v : α) (j : Nat) :
    Sparse.get d (Sparse.set d m i v) j = if i = j then v else Sparse.get d m j := by
  unfold Sparse.set
  split
  · next h => rw [Sparse.get_drop, h]
  · exact Sparse.get_put ..

@[simp] theorem Sparse.get_set_self (d : α) (m : Sparse α) (i : Nat) (v : α) :
    Sparse.get d (Sparse.set d m i v) i = v := by simp [Sparse.get_set]

theorem Sparse.get_set_ne (d : α) (m : Sparse α) {i j : Nat} (v : α) (h : i ≠ j) :
    Sparse.get d (Sparse.set d m i v) j = Sparse.get d m j := by simp [Sparse.get_set, h]

theorem Sparse.get_alter (d : α) (m : Sparse α) (i : Nat) (f : α → α) (j : Nat) :
    Sparse.get d (Sparse.alter d m i f) j = if i = j then f (Sparse.get d m i) else Sparse.get d m j := by
  simp [Sparse.alter, Sparse.get_set]

/-! ### The canonical form -/

theorem Sparse.wfAbove_cons (d : α) (b : Option Nat) (k : Nat) (v : α) (m : Sparse α) :
    Sparse.wfAbove d b ((k, v) :: m) = true ↔ (∀ n, b = some n → n < k) ∧ v ≠ d ∧ Sparse.wfAbove d (some k) m = true := by
  cases b <;> simp [Sparse.wfAbove, and_assoc]

/-- A table in canonical form above a bound is in canonical form above any lower one. -/
theorem Sparse.wfAbove_mono (d : α) {b k : Nat} {m : Sparse α} (h : Sparse.wfAbove d (some k) m = true) (hb : b < k) :
    Sparse.wfAbove d (some b) m = true := by
  cases m with
  | nil => rfl
  | cons e m =>
    obtain ⟨i, v⟩ := e
    rw [Sparse.wfAbove_cons] at h ⊢
    exact ⟨by intro n hn; cases hn; have := h.1 k rfl; omega, h.2⟩

theorem Sparse.wfAbove_filter (d : α) (p : Nat × α → Bool) {b : Option Nat} {m : Sparse α}
    (h : Sparse.wfAbove d b m = true) : Sparse.wfAbove d b (m.filter p) = true := by
  induction m generalizing b with
  | nil => rfl
  | cons e m ih =>
    obtain ⟨k, v⟩ := e
    rw [Sparse.wfAbove_cons] at h
    rw [List.filter_cons]
    split
    · exact (Sparse.wfAbove_cons ..).2 ⟨h.1, h.2.1, ih h.2.2⟩
    · apply ih
      cases b with
      | none =>
        cases m with
        | nil => rfl
        | cons e' m' => exact (Sparse.wfAbove_cons ..).2 ⟨by simp, ((Sparse.wfAbove_cons ..).1 h.2.2).2⟩
      | some n => exact Sparse.wfAbove_mono d h.2.2 (h.1 n rfl)

theorem Sparse.wfAbove_put (d : α) {b : Option Nat} {m : Sparse α} (h : Sparse.wfAbove d b m = true) {i : Nat} {v : α}
    (hv : v ≠ d) (hb : ∀ n, b = some n → n < i) : Sparse.wfAbove d b (Sparse.put m i v) = true := by
  induction m generalizing b with
  | nil => exact (Sparse.wfAbove_cons ..).2 ⟨hb, hv, rfl⟩
  | cons e m ih =>
    obtain ⟨k, w⟩ := e
    have h' := (Sparse.wfAbove_cons ..).1 h
    simp only [Sparse.put]
    split
    · next hik =>
      exact (Sparse.wfAbove_cons ..).2 ⟨hb, hv, (Sparse.wfAbove_cons ..).2 ⟨by intro n hn; cases hn; exact hik, h'.2⟩⟩
    · split
      · next hik => subst hik; exact (Sparse.wfAbove_cons ..).2 ⟨hb, hv, h'.2.2⟩
      · next h1 h2 =>
        exact (Sparse.wfAbove_cons ..).2 ⟨h'.1, h'.2.1, ih h'.2.2 (by intro n hn; cases hn; omega)⟩

/-- A write keeps the canonical form. -/
theorem Sparse.wf_set (d : α) {m : Sparse α} (h : Sparse.wf d m = true) (i : Nat) (v : α) :
    Sparse.wf d (Sparse.set d m i v) = true := by
  unfold Sparse.set Sparse.wf at *
  split
  · exact Sparse.wfAbove_filter d _ h
  · next hv => exact Sparse.wfAbove_put d h hv (by simp)

/-- Taking entries out keeps the canonical form. -/
theorem Sparse.wf_filter (d : α) {m : Sparse α} (h : Sparse.wf d m = true) (p : Nat × α → Bool) :
    Sparse.wf d (m.filter p) = true := Sparse.wfAbove_filter d p h

/-! ### Memories -/

/-- A read after a write of one byte. -/
theorem Memory.read_write (m : List Host.Cell) (a : Nat) (b : Byte) (i : Nat) :
    Memory.read (Memory.write m a b) i = if a = i then b else Memory.read m i := Sparse.get_set ..

@[simp] theorem Memory.read_nil (a : Nat) : Memory.read [] a = 0#8 := rfl

@[simp] theorem Memory.wf_nil : Memory.wf [] = true := rfl

theorem Memory.wf_write {m : List Host.Cell} (h : Memory.wf m = true) (a : Nat) (b : Byte) :
    Memory.wf (Memory.write m a b) = true := Sparse.wf_set _ h a b

theorem Memory.wf_writeBytes {m : List Host.Cell} (h : Memory.wf m = true) (a : Nat) (bs : List Byte) :
    Memory.wf (Memory.writeBytes m a bs) = true := by
  induction bs generalizing m a with
  | nil => exact h
  | cons b bs ih => exact ih (Memory.wf_write h a b) (a + 1)

theorem Memory.wf_writeMasked {m : List Host.Cell} (h : Memory.wf m = true) (a mask : Nat) (bs : List Byte) :
    Memory.wf (Memory.writeMasked m a mask bs) = true := by
  induction bs generalizing m a mask with
  | nil => exact h
  | cons b bs ih =>
    unfold Memory.writeMasked
    split
    · exact ih (Memory.wf_write h a b) ..
    · exact ih h ..

theorem Memory.wf_writeBits {m : List Host.Cell} (h : Memory.wf m = true) (a mask data n : Nat) :
    Memory.wf (Memory.writeBits m a mask data n) = true := by
  induction n generalizing m a mask data with
  | zero => exact h
  | succ n ih =>
    unfold Memory.writeBits
    simp only
    split
    · exact ih h ..
    · exact ih (Memory.wf_write h ..) ..

theorem Memory.wf_clear {m : List Host.Cell} (h : Memory.wf m = true) (a n : Nat) :
    Memory.wf (Memory.clear m a n) = true := Sparse.wf_filter _ h _

/-- Writing bytes leaves every byte before and behind them as it was. -/
theorem Memory.read_writeBytes_out (m : List Host.Cell) (a : Nat) (bs : List Byte) (i : Nat)
    (h : i < a ∨ a + bs.length ≤ i) : Memory.read (Memory.writeBytes m a bs) i = Memory.read m i := by
  induction bs generalizing m a with
  | nil => rfl
  | cons b bs ih =>
    simp only [List.length_cons] at h
    unfold Memory.writeBytes
    rw [ih _ _ (by omega), Memory.read_write, if_neg (by omega)]

/-- Writing bytes puts each at its place. -/
theorem Memory.read_writeBytes_in (m : List Host.Cell) (a : Nat) (bs : List Byte) (k : Nat) (h : k < bs.length) :
    Memory.read (Memory.writeBytes m a bs) (a + k) = bs[k] := by
  induction bs generalizing m a k with
  | nil => simp at h
  | cons b bs ih =>
    unfold Memory.writeBytes
    cases k with
    | zero => rw [Memory.read_writeBytes_out _ _ _ _ (by omega), Memory.read_write]; simp
    | succ k =>
      have := ih (Memory.write m a b) (a + 1) k (by simpa using h)
      rw [show a + (k + 1) = a + 1 + k by omega, this]; simp

/-- Writing bits leaves every byte before and behind their run as it was. -/
theorem Memory.read_writeBits_out (m : List Host.Cell) (a mask data n i : Nat) (h : i < a ∨ a + n ≤ i) :
    Memory.read (Memory.writeBits m a mask data n) i = Memory.read m i := by
  induction n generalizing m a mask data with
  | zero => rfl
  | succ n ih =>
    unfold Memory.writeBits
    simp only
    rw [ih _ _ _ _ (by omega)]
    split
    · rfl
    · rw [Memory.read_write, if_neg (by omega)]

/-- A byte that is cleared reads 0, any other as before. -/
theorem Memory.read_clear (m : List Host.Cell) (a n i : Nat) :
    Memory.read (Memory.clear m a n) i = if a ≤ i ∧ i < a + n then 0#8 else Memory.read m i := by
  unfold Memory.clear Memory.read
  induction m with
  | nil => simp
  | cons e m ih =>
    obtain ⟨k, v⟩ := e
    rw [List.filter_cons]
    by_cases hk : k = i
    · subst hk
      by_cases hr : a ≤ k ∧ k < a + n
      · rw [if_neg (by simp; omega), ih, if_pos hr, if_pos hr]
      · rw [if_pos (by simp; omega), if_neg hr, Sparse.get_cons, if_pos rfl, Sparse.get_cons, if_pos rfl]
    · split
      · rw [Sparse.get_cons, if_neg hk, Sparse.get_cons, if_neg hk, ih]
      · rw [Sparse.get_cons, if_neg hk, ih]

end Sys2Proof.Machine
end

