-- ==== Sys2Proof/Laws/State.lean ====
section
/-!
SUPPORT. One law for each field and each update of the state: which field an update leaves as it was.
-/
namespace Sys2Proof.Machine

variable (s : State)

/-! ### putGroup -/

@[simp] theorem State.putGroup_agenda (g : Group) : (s.putGroup g).agenda = s.agenda := rfl
@[simp] theorem State.putGroup_turn (g : Group) : (s.putGroup g).turn = s.turn := rfl
@[simp] theorem State.putGroup_cur (g : Group) : (s.putGroup g).cur = s.cur := rfl
@[simp] theorem State.putGroup_freeCtr (g : Group) : (s.putGroup g).freeCtr = s.freeCtr := rfl
@[simp] theorem State.putGroup_nextId (g : Group) : (s.putGroup g).nextId = s.nextId := rfl
@[simp] theorem State.putGroup_pkg (g : Group) : (s.putGroup g).pkg = s.pkg := rfl
@[simp] theorem State.putGroup_host (g : Group) : (s.putGroup g).host = s.host := rfl
@[simp] theorem State.putGroup_fab (g : Group) : (s.putGroup g).fab = s.fab := rfl
@[simp] theorem State.putGroup_garnet (g : Group) : (s.putGroup g).garnet = s.garnet := rfl
@[simp] theorem State.putGroup_installs (g : Group) : (s.putGroup g).installs = s.installs := rfl
@[simp] theorem State.putGroup_launches (g : Group) : (s.putGroup g).launches = s.launches := rfl
@[simp] theorem State.putGroup_cores (g : Group) : (s.putGroup g).cores = s.cores := rfl
@[simp] theorem State.putGroup_ops (g : Group) : (s.putGroup g).ops = s.ops := rfl
@[simp] theorem State.putGroup_commits (g : Group) : (s.putGroup g).commits = s.commits := rfl
@[simp] theorem State.putGroup_transfers (g : Group) : (s.putGroup g).transfers = s.transfers := rfl
@[simp] theorem State.putGroup_dieTlb (g : Group) : (s.putGroup g).dieTlb = s.dieTlb := rfl
@[simp] theorem State.putGroup_faults (g : Group) : (s.putGroup g).faults = s.faults := rfl
@[simp] theorem State.putGroup_mem (g : Group) : (s.putGroup g).mem = s.mem := rfl
@[simp] theorem State.putGroup_bars (g : Group) : (s.putGroup g).bars = s.bars := rfl
@[simp] theorem State.putGroup_landed (g : Group) : (s.putGroup g).landed = s.landed := rfl
@[simp] theorem State.putGroup_dropped (g : Group) : (s.putGroup g).dropped = s.dropped := rfl
@[simp] theorem State.putGroup_tickets (g : Group) : (s.putGroup g).tickets = s.tickets := rfl
@[simp] theorem State.putGroup_spin (g : Group) : (s.putGroup g).spin = s.spin := rfl
@[simp] theorem State.putGroup_collect (g : Group) : (s.putGroup g).collect = s.collect := rfl

/-! ### onGroup -/

@[simp] theorem State.onGroup_agenda (gid : Nat) (f : Group → Group) : (s.onGroup gid f).agenda = s.agenda := by unfold State.onGroup; split <;> rfl
@[simp] theorem State.onGroup_turn (gid : Nat) (f : Group → Group) : (s.onGroup gid f).turn = s.turn := by unfold State.onGroup; split <;> rfl
@[simp] theorem State.onGroup_cur (gid : Nat) (f : Group → Group) : (s.onGroup gid f).cur = s.cur := by unfold State.onGroup; split <;> rfl
@[simp] theorem State.onGroup_freeCtr (gid : Nat) (f : Group → Group) : (s.onGroup gid f).freeCtr = s.freeCtr := by unfold State.onGroup; split <;> rfl
@[simp] theorem State.onGroup_nextId (gid : Nat) (f : Group → Group) : (s.onGroup gid f).nextId = s.nextId := by unfold State.onGroup; split <;> rfl
@[simp] theorem State.onGroup_pkg (gid : Nat) (f : Group → Group) : (s.onGroup gid f).pkg = s.pkg := by unfold State.onGroup; split <;> rfl
@[simp] theorem State.onGroup_host (gid : Nat) (f : Group → Group) : (s.onGroup gid f).host = s.host := by unfold State.onGroup; split <;> rfl
@[simp] theorem State.onGroup_fab (gid : Nat) (f : Group → Group) : (s.onGroup gid f).fab = s.fab := by unfold State.onGroup; split <;> rfl
@[simp] theorem State.onGroup_garnet (gid : Nat) (f : Group → Group) : (s.onGroup gid f).garnet = s.garnet := by unfold State.onGroup; split <;> rfl
@[simp] theorem State.onGroup_installs (gid : Nat) (f : Group → Group) : (s.onGroup gid f).installs = s.installs := by unfold State.onGroup; split <;> rfl
@[simp] theorem State.onGroup_launches (gid : Nat) (f : Group → Group) : (s.onGroup gid f).launches = s.launches := by unfold State.onGroup; split <;> rfl
@[simp] theorem State.onGroup_cores (gid : Nat) (f : Group → Group) : (s.onGroup gid f).cores = s.cores := by unfold State.onGroup; split <;> rfl
@[simp] theorem State.onGroup_ops (gid : Nat) (f : Group → Group) : (s.onGroup gid f).ops = s.ops := by unfold State.onGroup; split <;> rfl
@[simp] theorem State.onGroup_commits (gid : Nat) (f : Group → Group) : (s.onGroup gid f).commits = s.commits := by unfold State.onGroup; split <;> rfl
@[simp] theorem State.onGroup_transfers (gid : Nat) (f : Group → Group) : (s.onGroup gid f).transfers = s.transfers := by unfold State.onGroup; split <;> rfl
@[simp] theorem State.onGroup_dieTlb (gid : Nat) (f : Group → Group) : (s.onGroup gid f).dieTlb = s.dieTlb := by unfold State.onGroup; split <;> rfl
@[simp] theorem State.onGroup_faults (gid : Nat) (f : Group → Group) : (s.onGroup gid f).faults = s.faults := by unfold State.onGroup; split <;> rfl
@[simp] theorem State.onGroup_mem (gid : Nat) (f : Group → Group) : (s.onGroup gid f).mem = s.mem := by unfold State.onGroup; split <;> rfl
@[simp] theorem State.onGroup_bars (gid : Nat) (f : Group → Group) : (s.onGroup gid f).bars = s.bars := by unfold State.onGroup; split <;> rfl
@[simp] theorem State.onGroup_landed (gid : Nat) (f : Group → Group) : (s.onGroup gid f).landed = s.landed := by unfold State.onGroup; split <;> rfl
@[simp] theorem State.onGroup_dropped (gid : Nat) (f : Group → Group) : (s.onGroup gid f).dropped = s.dropped := by unfold State.onGroup; split <;> rfl
@[simp] theorem State.onGroup_tickets (gid : Nat) (f : Group → Group) : (s.onGroup gid f).tickets = s.tickets := by unfold State.onGroup; split <;> rfl
@[simp] theorem State.onGroup_spin (gid : Nat) (f : Group → Group) : (s.onGroup gid f).spin = s.spin := by unfold State.onGroup; split <;> rfl
@[simp] theorem State.onGroup_collect (gid : Nat) (f : Group → Group) : (s.onGroup gid f).collect = s.collect := by unfold State.onGroup; split <;> rfl

/-! ### putCore -/

@[simp] theorem State.putCore_agenda (c : Nat) (k : Core) : (s.putCore c k).agenda = s.agenda := rfl
@[simp] theorem State.putCore_turn (c : Nat) (k : Core) : (s.putCore c k).turn = s.turn := rfl
@[simp] theorem State.putCore_cur (c : Nat) (k : Core) : (s.putCore c k).cur = s.cur := rfl
@[simp] theorem State.putCore_freeCtr (c : Nat) (k : Core) : (s.putCore c k).freeCtr = s.freeCtr := rfl
@[simp] theorem State.putCore_nextId (c : Nat) (k : Core) : (s.putCore c k).nextId = s.nextId := rfl
@[simp] theorem State.putCore_pkg (c : Nat) (k : Core) : (s.putCore c k).pkg = s.pkg := rfl
@[simp] theorem State.putCore_host (c : Nat) (k : Core) : (s.putCore c k).host = s.host := rfl
@[simp] theorem State.putCore_fab (c : Nat) (k : Core) : (s.putCore c k).fab = s.fab := rfl
@[simp] theorem State.putCore_garnet (c : Nat) (k : Core) : (s.putCore c k).garnet = s.garnet := rfl
@[simp] theorem State.putCore_installs (c : Nat) (k : Core) : (s.putCore c k).installs = s.installs := rfl
@[simp] theorem State.putCore_launches (c : Nat) (k : Core) : (s.putCore c k).launches = s.launches := rfl
@[simp] theorem State.putCore_groups (c : Nat) (k : Core) : (s.putCore c k).groups = s.groups := rfl
@[simp] theorem State.putCore_ops (c : Nat) (k : Core) : (s.putCore c k).ops = s.ops := rfl
@[simp] theorem State.putCore_commits (c : Nat) (k : Core) : (s.putCore c k).commits = s.commits := rfl
@[simp] theorem State.putCore_transfers (c : Nat) (k : Core) : (s.putCore c k).transfers = s.transfers := rfl
@[simp] theorem State.putCore_dieTlb (c : Nat) (k : Core) : (s.putCore c k).dieTlb = s.dieTlb := rfl
@[simp] theorem State.putCore_faults (c : Nat) (k : Core) : (s.putCore c k).faults = s.faults := rfl
@[simp] theorem State.putCore_mem (c : Nat) (k : Core) : (s.putCore c k).mem = s.mem := rfl
@[simp] theorem State.putCore_bars (c : Nat) (k : Core) : (s.putCore c k).bars = s.bars := rfl
@[simp] theorem State.putCore_landed (c : Nat) (k : Core) : (s.putCore c k).landed = s.landed := rfl
@[simp] theorem State.putCore_dropped (c : Nat) (k : Core) : (s.putCore c k).dropped = s.dropped := rfl
@[simp] theorem State.putCore_tickets (c : Nat) (k : Core) : (s.putCore c k).tickets = s.tickets := rfl
@[simp] theorem State.putCore_spin (c : Nat) (k : Core) : (s.putCore c k).spin = s.spin := rfl
@[simp] theorem State.putCore_collect (c : Nat) (k : Core) : (s.putCore c k).collect = s.collect := rfl

/-! ### onCore -/

@[simp] theorem State.onCore_agenda (c : Nat) (f : Core → Core) : (s.onCore c f).agenda = s.agenda := rfl
@[simp] theorem State.onCore_turn (c : Nat) (f : Core → Core) : (s.onCore c f).turn = s.turn := rfl
@[simp] theorem State.onCore_cur (c : Nat) (f : Core → Core) : (s.onCore c f).cur = s.cur := rfl
@[simp] theorem State.onCore_freeCtr (c : Nat) (f : Core → Core) : (s.onCore c f).freeCtr = s.freeCtr := rfl
@[simp] theorem State.onCore_nextId (c : Nat) (f : Core → Core) : (s.onCore c f).nextId = s.nextId := rfl
@[simp] theorem State.onCore_pkg (c : Nat) (f : Core → Core) : (s.onCore c f).pkg = s.pkg := rfl
@[simp] theorem State.onCore_host (c : Nat) (f : Core → Core) : (s.onCore c f).host = s.host := rfl
@[simp] theorem State.onCore_fab (c : Nat) (f : Core → Core) : (s.onCore c f).fab = s.fab := rfl
@[simp] theorem State.onCore_garnet (c : Nat) (f : Core → Core) : (s.onCore c f).garnet = s.garnet := rfl
@[simp] theorem State.onCore_installs (c : Nat) (f : Core → Core) : (s.onCore c f).installs = s.installs := rfl
@[simp] theorem State.onCore_launches (c : Nat) (f : Core → Core) : (s.onCore c f).launches = s.launches := rfl
@[simp] theorem State.onCore_groups (c : Nat) (f : Core → Core) : (s.onCore c f).groups = s.groups := rfl
@[simp] theorem State.onCore_ops (c : Nat) (f : Core → Core) : (s.onCore c f).ops = s.ops := rfl
@[simp] theorem State.onCore_commits (c : Nat) (f : Core → Core) : (s.onCore c f).commits = s.commits := rfl
@[simp] theorem State.onCore_transfers (c : Nat) (f : Core → Core) : (s.onCore c f).transfers = s.transfers := rfl
@[simp] theorem State.onCore_dieTlb (c : Nat) (f : Core → Core) : (s.onCore c f).dieTlb = s.dieTlb := rfl
@[simp] theorem State.onCore_faults (c : Nat) (f : Core → Core) : (s.onCore c f).faults = s.faults := rfl
@[simp] theorem State.onCore_mem (c : Nat) (f : Core → Core) : (s.onCore c f).mem = s.mem := rfl
@[simp] theorem State.onCore_bars (c : Nat) (f : Core → Core) : (s.onCore c f).bars = s.bars := rfl
@[simp] theorem State.onCore_landed (c : Nat) (f : Core → Core) : (s.onCore c f).landed = s.landed := rfl
@[simp] theorem State.onCore_dropped (c : Nat) (f : Core → Core) : (s.onCore c f).dropped = s.dropped := rfl
@[simp] theorem State.onCore_tickets (c : Nat) (f : Core → Core) : (s.onCore c f).tickets = s.tickets := rfl
@[simp] theorem State.onCore_spin (c : Nat) (f : Core → Core) : (s.onCore c f).spin = s.spin := rfl
@[simp] theorem State.onCore_collect (c : Nat) (f : Core → Core) : (s.onCore c f).collect = s.collect := rfl

/-! ### onRail -/

@[simp] theorem State.onRail_agenda (c r : Nat) (f : Rail → Rail) : (s.onRail c r f).agenda = s.agenda := rfl
@[simp] theorem State.onRail_turn (c r : Nat) (f : Rail → Rail) : (s.onRail c r f).turn = s.turn := rfl
@[simp] theorem State.onRail_cur (c r : Nat) (f : Rail → Rail) : (s.onRail c r f).cur = s.cur := rfl
@[simp] theorem State.onRail_freeCtr (c r : Nat) (f : Rail → Rail) : (s.onRail c r f).freeCtr = s.freeCtr := rfl
@[simp] theorem State.onRail_nextId (c r : Nat) (f : Rail → Rail) : (s.onRail c r f).nextId = s.nextId := rfl
@[simp] theorem State.onRail_pkg (c r : Nat) (f : Rail → Rail) : (s.onRail c r f).pkg = s.pkg := rfl
@[simp] theorem State.onRail_host (c r : Nat) (f : Rail → Rail) : (s.onRail c r f).host = s.host := rfl
@[simp] theorem State.onRail_fab (c r : Nat) (f : Rail → Rail) : (s.onRail c r f).fab = s.fab := rfl
@[simp] theorem State.onRail_garnet (c r : Nat) (f : Rail → Rail) : (s.onRail c r f).garnet = s.garnet := rfl
@[simp] theorem State.onRail_installs (c r : Nat) (f : Rail → Rail) : (s.onRail c r f).installs = s.installs := rfl
@[simp] theorem State.onRail_launches (c r : Nat) (f : Rail → Rail) : (s.onRail c r f).launches = s.launches := rfl
@[simp] theorem State.onRail_groups (c r : Nat) (f : Rail → Rail) : (s.onRail c r f).groups = s.groups := rfl
@[simp] theorem State.onRail_ops (c r : Nat) (f : Rail → Rail) : (s.onRail c r f).ops = s.ops := rfl
@[simp] theorem State.onRail_commits (c r : Nat) (f : Rail → Rail) : (s.onRail c r f).commits = s.commits := rfl
@[simp] theorem State.onRail_transfers (c r : Nat) (f : Rail → Rail) : (s.onRail c r f).transfers = s.transfers := rfl
@[simp] theorem State.onRail_dieTlb (c r : Nat) (f : Rail → Rail) : (s.onRail c r f).dieTlb = s.dieTlb := rfl
@[simp] theorem State.onRail_faults (c r : Nat) (f : Rail → Rail) : (s.onRail c r f).faults = s.faults := rfl
@[simp] theorem State.onRail_mem (c r : Nat) (f : Rail → Rail) : (s.onRail c r f).mem = s.mem := rfl
@[simp] theorem State.onRail_bars (c r : Nat) (f : Rail → Rail) : (s.onRail c r f).bars = s.bars := rfl
@[simp] theorem State.onRail_landed (c r : Nat) (f : Rail → Rail) : (s.onRail c r f).landed = s.landed := rfl
@[simp] theorem State.onRail_dropped (c r : Nat) (f : Rail → Rail) : (s.onRail c r f).dropped = s.dropped := rfl
@[simp] theorem State.onRail_tickets (c r : Nat) (f : Rail → Rail) : (s.onRail c r f).tickets = s.tickets := rfl
@[simp] theorem State.onRail_spin (c r : Nat) (f : Rail → Rail) : (s.onRail c r f).spin = s.spin := rfl
@[simp] theorem State.onRail_collect (c r : Nat) (f : Rail → Rail) : (s.onRail c r f).collect = s.collect := rfl

/-! ### putInst -/

@[simp] theorem State.putInst_agenda (i : Installation) : (s.putInst i).agenda = s.agenda := rfl
@[simp] theorem State.putInst_turn (i : Installation) : (s.putInst i).turn = s.turn := rfl
@[simp] theorem State.putInst_cur (i : Installation) : (s.putInst i).cur = s.cur := rfl
@[simp] theorem State.putInst_freeCtr (i : Installation) : (s.putInst i).freeCtr = s.freeCtr := rfl
@[simp] theorem State.putInst_nextId (i : Installation) : (s.putInst i).nextId = s.nextId := rfl
@[simp] theorem State.putInst_pkg (i : Installation) : (s.putInst i).pkg = s.pkg := rfl
@[simp] theorem State.putInst_host (i : Installation) : (s.putInst i).host = s.host := rfl
@[simp] theorem State.putInst_fab (i : Installation) : (s.putInst i).fab = s.fab := rfl
@[simp] theorem State.putInst_garnet (i : Installation) : (s.putInst i).garnet = s.garnet := rfl
@[simp] theorem State.putInst_launches (i : Installation) : (s.putInst i).launches = s.launches := rfl
@[simp] theorem State.putInst_groups (i : Installation) : (s.putInst i).groups = s.groups := rfl
@[simp] theorem State.putInst_cores (i : Installation) : (s.putInst i).cores = s.cores := rfl
@[simp] theorem State.putInst_ops (i : Installation) : (s.putInst i).ops = s.ops := rfl
@[simp] theorem State.putInst_commits (i : Installation) : (s.putInst i).commits = s.commits := rfl
@[simp] theorem State.putInst_transfers (i : Installation) : (s.putInst i).transfers = s.transfers := rfl
@[simp] theorem State.putInst_dieTlb (i : Installation) : (s.putInst i).dieTlb = s.dieTlb := rfl
@[simp] theorem State.putInst_faults (i : Installation) : (s.putInst i).faults = s.faults := rfl
@[simp] theorem State.putInst_mem (i : Installation) : (s.putInst i).mem = s.mem := rfl
@[simp] theorem State.putInst_bars (i : Installation) : (s.putInst i).bars = s.bars := rfl
@[simp] theorem State.putInst_landed (i : Installation) : (s.putInst i).landed = s.landed := rfl
@[simp] theorem State.putInst_dropped (i : Installation) : (s.putInst i).dropped = s.dropped := rfl
@[simp] theorem State.putInst_tickets (i : Installation) : (s.putInst i).tickets = s.tickets := rfl
@[simp] theorem State.putInst_spin (i : Installation) : (s.putInst i).spin = s.spin := rfl
@[simp] theorem State.putInst_collect (i : Installation) : (s.putInst i).collect = s.collect := rfl

/-! ### onInst -/

@[simp] theorem State.onInst_agenda (h : Word) (f : Installation → Installation) : (s.onInst h f).agenda = s.agenda := by unfold State.onInst; split <;> rfl
@[simp] theorem State.onInst_turn (h : Word) (f : Installation → Installation) : (s.onInst h f).turn = s.turn := by unfold State.onInst; split <;> rfl
@[simp] theorem State.onInst_cur (h : Word) (f : Installation → Installation) : (s.onInst h f).cur = s.cur := by unfold State.onInst; split <;> rfl
@[simp] theorem State.onInst_freeCtr (h : Word) (f : Installation → Installation) : (s.onInst h f).freeCtr = s.freeCtr := by unfold State.onInst; split <;> rfl
@[simp] theorem State.onInst_nextId (h : Word) (f : Installation → Installation) : (s.onInst h f).nextId = s.nextId := by unfold State.onInst; split <;> rfl
@[simp] theorem State.onInst_pkg (h : Word) (f : Installation → Installation) : (s.onInst h f).pkg = s.pkg := by unfold State.onInst; split <;> rfl
@[simp] theorem State.onInst_host (h : Word) (f : Installation → Installation) : (s.onInst h f).host = s.host := by unfold State.onInst; split <;> rfl
@[simp] theorem State.onInst_fab (h : Word) (f : Installation → Installation) : (s.onInst h f).fab = s.fab := by unfold State.onInst; split <;> rfl
@[simp] theorem State.onInst_garnet (h : Word) (f : Installation → Installation) : (s.onInst h f).garnet = s.garnet := by unfold State.onInst; split <;> rfl
@[simp] theorem State.onInst_launches (h : Word) (f : Installation → Installation) : (s.onInst h f).launches = s.launches := by unfold State.onInst; split <;> rfl
@[simp] theorem State.onInst_groups (h : Word) (f : Installation → Installation) : (s.onInst h f).groups = s.groups := by unfold State.onInst; split <;> rfl
@[simp] theorem State.onInst_cores (h : Word) (f : Installation → Installation) : (s.onInst h f).cores = s.cores := by unfold State.onInst; split <;> rfl
@[simp] theorem State.onInst_ops (h : Word) (f : Installation → Installation) : (s.onInst h f).ops = s.ops := by unfold State.onInst; split <;> rfl
@[simp] theorem State.onInst_commits (h : Word) (f : Installation → Installation) : (s.onInst h f).commits = s.commits := by unfold State.onInst; split <;> rfl
@[simp] theorem State.onInst_transfers (h : Word) (f : Installation → Installation) : (s.onInst h f).transfers = s.transfers := by unfold State.onInst; split <;> rfl
@[simp] theorem State.onInst_dieTlb (h : Word) (f : Installation → Installation) : (s.onInst h f).dieTlb = s.dieTlb := by unfold State.onInst; split <;> rfl
@[simp] theorem State.onInst_faults (h : Word) (f : Installation → Installation) : (s.onInst h f).faults = s.faults := by unfold State.onInst; split <;> rfl
@[simp] theorem State.onInst_mem (h : Word) (f : Installation → Installation) : (s.onInst h f).mem = s.mem := by unfold State.onInst; split <;> rfl
@[simp] theorem State.onInst_bars (h : Word) (f : Installation → Installation) : (s.onInst h f).bars = s.bars := by unfold State.onInst; split <;> rfl
@[simp] theorem State.onInst_landed (h : Word) (f : Installation → Installation) : (s.onInst h f).landed = s.landed := by unfold State.onInst; split <;> rfl
@[simp] theorem State.onInst_dropped (h : Word) (f : Installation → Installation) : (s.onInst h f).dropped = s.dropped := by unfold State.onInst; split <;> rfl
@[simp] theorem State.onInst_tickets (h : Word) (f : Installation → Installation) : (s.onInst h f).tickets = s.tickets := by unfold State.onInst; split <;> rfl
@[simp] theorem State.onInst_spin (h : Word) (f : Installation → Installation) : (s.onInst h f).spin = s.spin := by unfold State.onInst; split <;> rfl
@[simp] theorem State.onInst_collect (h : Word) (f : Installation → Installation) : (s.onInst h f).collect = s.collect := by unfold State.onInst; split <;> rfl

/-! ### putLaunch -/

@[simp] theorem State.putLaunch_agenda (l : Launch) : (s.putLaunch l).agenda = s.agenda := rfl
@[simp] theorem State.putLaunch_turn (l : Launch) : (s.putLaunch l).turn = s.turn := rfl
@[simp] theorem State.putLaunch_cur (l : Launch) : (s.putLaunch l).cur = s.cur := rfl
@[simp] theorem State.putLaunch_freeCtr (l : Launch) : (s.putLaunch l).freeCtr = s.freeCtr := rfl
@[simp] theorem State.putLaunch_nextId (l : Launch) : (s.putLaunch l).nextId = s.nextId := rfl
@[simp] theorem State.putLaunch_pkg (l : Launch) : (s.putLaunch l).pkg = s.pkg := rfl
@[simp] theorem State.putLaunch_host (l : Launch) : (s.putLaunch l).host = s.host := rfl
@[simp] theorem State.putLaunch_fab (l : Launch) : (s.putLaunch l).fab = s.fab := rfl
@[simp] theorem State.putLaunch_garnet (l : Launch) : (s.putLaunch l).garnet = s.garnet := rfl
@[simp] theorem State.putLaunch_installs (l : Launch) : (s.putLaunch l).installs = s.installs := rfl
@[simp] theorem State.putLaunch_groups (l : Launch) : (s.putLaunch l).groups = s.groups := rfl
@[simp] theorem State.putLaunch_cores (l : Launch) : (s.putLaunch l).cores = s.cores := rfl
@[simp] theorem State.putLaunch_ops (l : Launch) : (s.putLaunch l).ops = s.ops := rfl
@[simp] theorem State.putLaunch_commits (l : Launch) : (s.putLaunch l).commits = s.commits := rfl
@[simp] theorem State.putLaunch_transfers (l : Launch) : (s.putLaunch l).transfers = s.transfers := rfl
@[simp] theorem State.putLaunch_dieTlb (l : Launch) : (s.putLaunch l).dieTlb = s.dieTlb := rfl
@[simp] theorem State.putLaunch_faults (l : Launch) : (s.putLaunch l).faults = s.faults := rfl
@[simp] theorem State.putLaunch_mem (l : Launch) : (s.putLaunch l).mem = s.mem := rfl
@[simp] theorem State.putLaunch_bars (l : Launch) : (s.putLaunch l).bars = s.bars := rfl
@[simp] theorem State.putLaunch_landed (l : Launch) : (s.putLaunch l).landed = s.landed := rfl
@[simp] theorem State.putLaunch_dropped (l : Launch) : (s.putLaunch l).dropped = s.dropped := rfl
@[simp] theorem State.putLaunch_tickets (l : Launch) : (s.putLaunch l).tickets = s.tickets := rfl
@[simp] theorem State.putLaunch_spin (l : Launch) : (s.putLaunch l).spin = s.spin := rfl
@[simp] theorem State.putLaunch_collect (l : Launch) : (s.putLaunch l).collect = s.collect := rfl

/-! ### onLaunch -/

@[simp] theorem State.onLaunch_agenda (n : Nat) (f : Launch → Launch) : (s.onLaunch n f).agenda = s.agenda := by unfold State.onLaunch; split <;> rfl
@[simp] theorem State.onLaunch_turn (n : Nat) (f : Launch → Launch) : (s.onLaunch n f).turn = s.turn := by unfold State.onLaunch; split <;> rfl
@[simp] theorem State.onLaunch_cur (n : Nat) (f : Launch → Launch) : (s.onLaunch n f).cur = s.cur := by unfold State.onLaunch; split <;> rfl
@[simp] theorem State.onLaunch_freeCtr (n : Nat) (f : Launch → Launch) : (s.onLaunch n f).freeCtr = s.freeCtr := by unfold State.onLaunch; split <;> rfl
@[simp] theorem State.onLaunch_nextId (n : Nat) (f : Launch → Launch) : (s.onLaunch n f).nextId = s.nextId := by unfold State.onLaunch; split <;> rfl
@[simp] theorem State.onLaunch_pkg (n : Nat) (f : Launch → Launch) : (s.onLaunch n f).pkg = s.pkg := by unfold State.onLaunch; split <;> rfl
@[simp] theorem State.onLaunch_host (n : Nat) (f : Launch → Launch) : (s.onLaunch n f).host = s.host := by unfold State.onLaunch; split <;> rfl
@[simp] theorem State.onLaunch_fab (n : Nat) (f : Launch → Launch) : (s.onLaunch n f).fab = s.fab := by unfold State.onLaunch; split <;> rfl
@[simp] theorem State.onLaunch_garnet (n : Nat) (f : Launch → Launch) : (s.onLaunch n f).garnet = s.garnet := by unfold State.onLaunch; split <;> rfl
@[simp] theorem State.onLaunch_installs (n : Nat) (f : Launch → Launch) : (s.onLaunch n f).installs = s.installs := by unfold State.onLaunch; split <;> rfl
@[simp] theorem State.onLaunch_groups (n : Nat) (f : Launch → Launch) : (s.onLaunch n f).groups = s.groups := by unfold State.onLaunch; split <;> rfl
@[simp] theorem State.onLaunch_cores (n : Nat) (f : Launch → Launch) : (s.onLaunch n f).cores = s.cores := by unfold State.onLaunch; split <;> rfl
@[simp] theorem State.onLaunch_ops (n : Nat) (f : Launch → Launch) : (s.onLaunch n f).ops = s.ops := by unfold State.onLaunch; split <;> rfl
@[simp] theorem State.onLaunch_commits (n : Nat) (f : Launch → Launch) : (s.onLaunch n f).commits = s.commits := by unfold State.onLaunch; split <;> rfl
@[simp] theorem State.onLaunch_transfers (n : Nat) (f : Launch → Launch) : (s.onLaunch n f).transfers = s.transfers := by unfold State.onLaunch; split <;> rfl
@[simp] theorem State.onLaunch_dieTlb (n : Nat) (f : Launch → Launch) : (s.onLaunch n f).dieTlb = s.dieTlb := by unfold State.onLaunch; split <;> rfl
@[simp] theorem State.onLaunch_faults (n : Nat) (f : Launch → Launch) : (s.onLaunch n f).faults = s.faults := by unfold State.onLaunch; split <;> rfl
@[simp] theorem State.onLaunch_mem (n : Nat) (f : Launch → Launch) : (s.onLaunch n f).mem = s.mem := by unfold State.onLaunch; split <;> rfl
@[simp] theorem State.onLaunch_bars (n : Nat) (f : Launch → Launch) : (s.onLaunch n f).bars = s.bars := by unfold State.onLaunch; split <;> rfl
@[simp] theorem State.onLaunch_landed (n : Nat) (f : Launch → Launch) : (s.onLaunch n f).landed = s.landed := by unfold State.onLaunch; split <;> rfl
@[simp] theorem State.onLaunch_dropped (n : Nat) (f : Launch → Launch) : (s.onLaunch n f).dropped = s.dropped := by unfold State.onLaunch; split <;> rfl
@[simp] theorem State.onLaunch_tickets (n : Nat) (f : Launch → Launch) : (s.onLaunch n f).tickets = s.tickets := by unfold State.onLaunch; split <;> rfl
@[simp] theorem State.onLaunch_spin (n : Nat) (f : Launch → Launch) : (s.onLaunch n f).spin = s.spin := by unfold State.onLaunch; split <;> rfl
@[simp] theorem State.onLaunch_collect (n : Nat) (f : Launch → Launch) : (s.onLaunch n f).collect = s.collect := by unfold State.onLaunch; split <;> rfl

/-! ### onFn -/

@[simp] theorem State.onFn_agenda (v : Nat) (f : Fn → Fn) : (s.onFn v f).agenda = s.agenda := rfl
@[simp] theorem State.onFn_turn (v : Nat) (f : Fn → Fn) : (s.onFn v f).turn = s.turn := rfl
@[simp] theorem State.onFn_cur (v : Nat) (f : Fn → Fn) : (s.onFn v f).cur = s.cur := rfl
@[simp] theorem State.onFn_freeCtr (v : Nat) (f : Fn → Fn) : (s.onFn v f).freeCtr = s.freeCtr := rfl
@[simp] theorem State.onFn_nextId (v : Nat) (f : Fn → Fn) : (s.onFn v f).nextId = s.nextId := rfl
@[simp] theorem State.onFn_pkg (v : Nat) (f : Fn → Fn) : (s.onFn v f).pkg = s.pkg := rfl
@[simp] theorem State.onFn_fab (v : Nat) (f : Fn → Fn) : (s.onFn v f).fab = s.fab := rfl
@[simp] theorem State.onFn_garnet (v : Nat) (f : Fn → Fn) : (s.onFn v f).garnet = s.garnet := rfl
@[simp] theorem State.onFn_installs (v : Nat) (f : Fn → Fn) : (s.onFn v f).installs = s.installs := rfl
@[simp] theorem State.onFn_launches (v : Nat) (f : Fn → Fn) : (s.onFn v f).launches = s.launches := rfl
@[simp] theorem State.onFn_groups (v : Nat) (f : Fn → Fn) : (s.onFn v f).groups = s.groups := rfl
@[simp] theorem State.onFn_cores (v : Nat) (f : Fn → Fn) : (s.onFn v f).cores = s.cores := rfl
@[simp] theorem State.onFn_ops (v : Nat) (f : Fn → Fn) : (s.onFn v f).ops = s.ops := rfl
@[simp] theorem State.onFn_commits (v : Nat) (f : Fn → Fn) : (s.onFn v f).commits = s.commits := rfl
@[simp] theorem State.onFn_transfers (v : Nat) (f : Fn → Fn) : (s.onFn v f).transfers = s.transfers := rfl
@[simp] theorem State.onFn_dieTlb (v : Nat) (f : Fn → Fn) : (s.onFn v f).dieTlb = s.dieTlb := rfl
@[simp] theorem State.onFn_faults (v : Nat) (f : Fn → Fn) : (s.onFn v f).faults = s.faults := rfl
@[simp] theorem State.onFn_mem (v : Nat) (f : Fn → Fn) : (s.onFn v f).mem = s.mem := rfl
@[simp] theorem State.onFn_bars (v : Nat) (f : Fn → Fn) : (s.onFn v f).bars = s.bars := rfl
@[simp] theorem State.onFn_landed (v : Nat) (f : Fn → Fn) : (s.onFn v f).landed = s.landed := rfl
@[simp] theorem State.onFn_dropped (v : Nat) (f : Fn → Fn) : (s.onFn v f).dropped = s.dropped := rfl
@[simp] theorem State.onFn_tickets (v : Nat) (f : Fn → Fn) : (s.onFn v f).tickets = s.tickets := rfl
@[simp] theorem State.onFn_spin (v : Nat) (f : Fn → Fn) : (s.onFn v f).spin = s.spin := rfl
@[simp] theorem State.onFn_collect (v : Nat) (f : Fn → Fn) : (s.onFn v f).collect = s.collect := rfl

/-! ### onPart -/

@[simp] theorem State.onPart_agenda (p : Nat) (f : Partition → Partition) : (s.onPart p f).agenda = s.agenda := rfl
@[simp] theorem State.onPart_turn (p : Nat) (f : Partition → Partition) : (s.onPart p f).turn = s.turn := rfl
@[simp] theorem State.onPart_cur (p : Nat) (f : Partition → Partition) : (s.onPart p f).cur = s.cur := rfl
@[simp] theorem State.onPart_freeCtr (p : Nat) (f : Partition → Partition) : (s.onPart p f).freeCtr = s.freeCtr := rfl
@[simp] theorem State.onPart_nextId (p : Nat) (f : Partition → Partition) : (s.onPart p f).nextId = s.nextId := rfl
@[simp] theorem State.onPart_pkg (p : Nat) (f : Partition → Partition) : (s.onPart p f).pkg = s.pkg := rfl
@[simp] theorem State.onPart_fab (p : Nat) (f : Partition → Partition) : (s.onPart p f).fab = s.fab := rfl
@[simp] theorem State.onPart_garnet (p : Nat) (f : Partition → Partition) : (s.onPart p f).garnet = s.garnet := rfl
@[simp] theorem State.onPart_installs (p : Nat) (f : Partition → Partition) : (s.onPart p f).installs = s.installs := rfl
@[simp] theorem State.onPart_launches (p : Nat) (f : Partition → Partition) : (s.onPart p f).launches = s.launches := rfl
@[simp] theorem State.onPart_groups (p : Nat) (f : Partition → Partition) : (s.onPart p f).groups = s.groups := rfl
@[simp] theorem State.onPart_cores (p : Nat) (f : Partition → Partition) : (s.onPart p f).cores = s.cores := rfl
@[simp] theorem State.onPart_ops (p : Nat) (f : Partition → Partition) : (s.onPart p f).ops = s.ops := rfl
@[simp] theorem State.onPart_commits (p : Nat) (f : Partition → Partition) : (s.onPart p f).commits = s.commits := rfl
@[simp] theorem State.onPart_transfers (p : Nat) (f : Partition → Partition) : (s.onPart p f).transfers = s.transfers := rfl
@[simp] theorem State.onPart_dieTlb (p : Nat) (f : Partition → Partition) : (s.onPart p f).dieTlb = s.dieTlb := rfl
@[simp] theorem State.onPart_faults (p : Nat) (f : Partition → Partition) : (s.onPart p f).faults = s.faults := rfl
@[simp] theorem State.onPart_mem (p : Nat) (f : Partition → Partition) : (s.onPart p f).mem = s.mem := rfl
@[simp] theorem State.onPart_bars (p : Nat) (f : Partition → Partition) : (s.onPart p f).bars = s.bars := rfl
@[simp] theorem State.onPart_landed (p : Nat) (f : Partition → Partition) : (s.onPart p f).landed = s.landed := rfl
@[simp] theorem State.onPart_dropped (p : Nat) (f : Partition → Partition) : (s.onPart p f).dropped = s.dropped := rfl
@[simp] theorem State.onPart_tickets (p : Nat) (f : Partition → Partition) : (s.onPart p f).tickets = s.tickets := rfl
@[simp] theorem State.onPart_spin (p : Nat) (f : Partition → Partition) : (s.onPart p f).spin = s.spin := rfl
@[simp] theorem State.onPart_collect (p : Nat) (f : Partition → Partition) : (s.onPart p f).collect = s.collect := rfl

/-! ### putOp -/

@[simp] theorem State.putOp_agenda (o : OutOp) : (s.putOp o).agenda = s.agenda := rfl
@[simp] theorem State.putOp_turn (o : OutOp) : (s.putOp o).turn = s.turn := rfl
@[simp] theorem State.putOp_cur (o : OutOp) : (s.putOp o).cur = s.cur := rfl
@[simp] theorem State.putOp_freeCtr (o : OutOp) : (s.putOp o).freeCtr = s.freeCtr := rfl
@[simp] theorem State.putOp_nextId (o : OutOp) : (s.putOp o).nextId = s.nextId := rfl
@[simp] theorem State.putOp_pkg (o : OutOp) : (s.putOp o).pkg = s.pkg := rfl
@[simp] theorem State.putOp_host (o : OutOp) : (s.putOp o).host = s.host := rfl
@[simp] theorem State.putOp_fab (o : OutOp) : (s.putOp o).fab = s.fab := rfl
@[simp] theorem State.putOp_garnet (o : OutOp) : (s.putOp o).garnet = s.garnet := rfl
@[simp] theorem State.putOp_installs (o : OutOp) : (s.putOp o).installs = s.installs := rfl
@[simp] theorem State.putOp_launches (o : OutOp) : (s.putOp o).launches = s.launches := rfl
@[simp] theorem State.putOp_groups (o : OutOp) : (s.putOp o).groups = s.groups := rfl
@[simp] theorem State.putOp_cores (o : OutOp) : (s.putOp o).cores = s.cores := rfl
@[simp] theorem State.putOp_commits (o : OutOp) : (s.putOp o).commits = s.commits := rfl
@[simp] theorem State.putOp_transfers (o : OutOp) : (s.putOp o).transfers = s.transfers := rfl
@[simp] theorem State.putOp_dieTlb (o : OutOp) : (s.putOp o).dieTlb = s.dieTlb := rfl
@[simp] theorem State.putOp_faults (o : OutOp) : (s.putOp o).faults = s.faults := rfl
@[simp] theorem State.putOp_mem (o : OutOp) : (s.putOp o).mem = s.mem := rfl
@[simp] theorem State.putOp_bars (o : OutOp) : (s.putOp o).bars = s.bars := rfl
@[simp] theorem State.putOp_landed (o : OutOp) : (s.putOp o).landed = s.landed := rfl
@[simp] theorem State.putOp_dropped (o : OutOp) : (s.putOp o).dropped = s.dropped := rfl
@[simp] theorem State.putOp_tickets (o : OutOp) : (s.putOp o).tickets = s.tickets := rfl
@[simp] theorem State.putOp_spin (o : OutOp) : (s.putOp o).spin = s.spin := rfl
@[simp] theorem State.putOp_collect (o : OutOp) : (s.putOp o).collect = s.collect := rfl

/-! ### dropOp -/

@[simp] theorem State.dropOp_agenda (id : Nat) : (s.dropOp id).agenda = s.agenda := rfl
@[simp] theorem State.dropOp_turn (id : Nat) : (s.dropOp id).turn = s.turn := rfl
@[simp] theorem State.dropOp_cur (id : Nat) : (s.dropOp id).cur = s.cur := rfl
@[simp] theorem State.dropOp_freeCtr (id : Nat) : (s.dropOp id).freeCtr = s.freeCtr := rfl
@[simp] theorem State.dropOp_nextId (id : Nat) : (s.dropOp id).nextId = s.nextId := rfl
@[simp] theorem State.dropOp_pkg (id : Nat) : (s.dropOp id).pkg = s.pkg := rfl
@[simp] theorem State.dropOp_host (id : Nat) : (s.dropOp id).host = s.host := rfl
@[simp] theorem State.dropOp_fab (id : Nat) : (s.dropOp id).fab = s.fab := rfl
@[simp] theorem State.dropOp_garnet (id : Nat) : (s.dropOp id).garnet = s.garnet := rfl
@[simp] theorem State.dropOp_installs (id : Nat) : (s.dropOp id).installs = s.installs := rfl
@[simp] theorem State.dropOp_launches (id : Nat) : (s.dropOp id).launches = s.launches := rfl
@[simp] theorem State.dropOp_groups (id : Nat) : (s.dropOp id).groups = s.groups := rfl
@[simp] theorem State.dropOp_cores (id : Nat) : (s.dropOp id).cores = s.cores := rfl
@[simp] theorem State.dropOp_ops (id : Nat) : (s.dropOp id).ops = s.ops.filter (fun o => o.id != id) := rfl
@[simp] theorem State.dropOp_commits (id : Nat) : (s.dropOp id).commits = s.commits := rfl
@[simp] theorem State.dropOp_transfers (id : Nat) : (s.dropOp id).transfers = s.transfers := rfl
@[simp] theorem State.dropOp_dieTlb (id : Nat) : (s.dropOp id).dieTlb = s.dieTlb := rfl
@[simp] theorem State.dropOp_faults (id : Nat) : (s.dropOp id).faults = s.faults := rfl
@[simp] theorem State.dropOp_mem (id : Nat) : (s.dropOp id).mem = s.mem := rfl
@[simp] theorem State.dropOp_bars (id : Nat) : (s.dropOp id).bars = s.bars := rfl
@[simp] theorem State.dropOp_landed (id : Nat) : (s.dropOp id).landed = s.landed := rfl
@[simp] theorem State.dropOp_dropped (id : Nat) : (s.dropOp id).dropped = s.dropped := rfl
@[simp] theorem State.dropOp_tickets (id : Nat) : (s.dropOp id).tickets = s.tickets := rfl
@[simp] theorem State.dropOp_spin (id : Nat) : (s.dropOp id).spin = s.spin := rfl
@[simp] theorem State.dropOp_collect (id : Nat) : (s.dropOp id).collect = s.collect := rfl

/-! ### onMem -/

@[simp] theorem State.onMem_agenda (f : DeviceMem → DeviceMem) : (s.onMem f).agenda = s.agenda := rfl
@[simp] theorem State.onMem_turn (f : DeviceMem → DeviceMem) : (s.onMem f).turn = s.turn := rfl
@[simp] theorem State.onMem_cur (f : DeviceMem → DeviceMem) : (s.onMem f).cur = s.cur := rfl
@[simp] theorem State.onMem_freeCtr (f : DeviceMem → DeviceMem) : (s.onMem f).freeCtr = s.freeCtr := rfl
@[simp] theorem State.onMem_nextId (f : DeviceMem → DeviceMem) : (s.onMem f).nextId = s.nextId := rfl
@[simp] theorem State.onMem_pkg (f : DeviceMem → DeviceMem) : (s.onMem f).pkg = s.pkg := rfl
@[simp] theorem State.onMem_host (f : DeviceMem → DeviceMem) : (s.onMem f).host = s.host := rfl
@[simp] theorem State.onMem_fab (f : DeviceMem → DeviceMem) : (s.onMem f).fab = s.fab := rfl
@[simp] theorem State.onMem_garnet (f : DeviceMem → DeviceMem) : (s.onMem f).garnet = s.garnet := rfl
@[simp] theorem State.onMem_installs (f : DeviceMem → DeviceMem) : (s.onMem f).installs = s.installs := rfl
@[simp] theorem State.onMem_launches (f : DeviceMem → DeviceMem) : (s.onMem f).launches = s.launches := rfl
@[simp] theorem State.onMem_groups (f : DeviceMem → DeviceMem) : (s.onMem f).groups = s.groups := rfl
@[simp] theorem State.onMem_cores (f : DeviceMem → DeviceMem) : (s.onMem f).cores = s.cores := rfl
@[simp] theorem State.onMem_ops (f : DeviceMem → DeviceMem) : (s.onMem f).ops = s.ops := rfl
@[simp] theorem State.onMem_commits (f : DeviceMem → DeviceMem) : (s.onMem f).commits = s.commits := rfl
@[simp] theorem State.onMem_transfers (f : DeviceMem → DeviceMem) : (s.onMem f).transfers = s.transfers := rfl
@[simp] theorem State.onMem_dieTlb (f : DeviceMem → DeviceMem) : (s.onMem f).dieTlb = s.dieTlb := rfl
@[simp] theorem State.onMem_faults (f : DeviceMem → DeviceMem) : (s.onMem f).faults = s.faults := rfl
@[simp] theorem State.onMem_mem (f : DeviceMem → DeviceMem) : (s.onMem f).mem = f s.mem := rfl
@[simp] theorem State.onMem_bars (f : DeviceMem → DeviceMem) : (s.onMem f).bars = s.bars := rfl
@[simp] theorem State.onMem_landed (f : DeviceMem → DeviceMem) : (s.onMem f).landed = s.landed := rfl
@[simp] theorem State.onMem_dropped (f : DeviceMem → DeviceMem) : (s.onMem f).dropped = s.dropped := rfl
@[simp] theorem State.onMem_tickets (f : DeviceMem → DeviceMem) : (s.onMem f).tickets = s.tickets := rfl
@[simp] theorem State.onMem_spin (f : DeviceMem → DeviceMem) : (s.onMem f).spin = s.spin := rfl
@[simp] theorem State.onMem_collect (f : DeviceMem → DeviceMem) : (s.onMem f).collect = s.collect := rfl

/-! ### onFab -/

@[simp] theorem State.onFab_agenda (f : Fabric → Fabric) : (s.onFab f).agenda = s.agenda := rfl
@[simp] theorem State.onFab_turn (f : Fabric → Fabric) : (s.onFab f).turn = s.turn := rfl
@[simp] theorem State.onFab_cur (f : Fabric → Fabric) : (s.onFab f).cur = s.cur := rfl
@[simp] theorem State.onFab_freeCtr (f : Fabric → Fabric) : (s.onFab f).freeCtr = s.freeCtr := rfl
@[simp] theorem State.onFab_nextId (f : Fabric → Fabric) : (s.onFab f).nextId = s.nextId := rfl
@[simp] theorem State.onFab_pkg (f : Fabric → Fabric) : (s.onFab f).pkg = s.pkg := rfl
@[simp] theorem State.onFab_host (f : Fabric → Fabric) : (s.onFab f).host = s.host := rfl
@[simp] theorem State.onFab_fab (f : Fabric → Fabric) : (s.onFab f).fab = f s.fab := rfl
@[simp] theorem State.onFab_garnet (f : Fabric → Fabric) : (s.onFab f).garnet = s.garnet := rfl
@[simp] theorem State.onFab_installs (f : Fabric → Fabric) : (s.onFab f).installs = s.installs := rfl
@[simp] theorem State.onFab_launches (f : Fabric → Fabric) : (s.onFab f).launches = s.launches := rfl
@[simp] theorem State.onFab_groups (f : Fabric → Fabric) : (s.onFab f).groups = s.groups := rfl
@[simp] theorem State.onFab_cores (f : Fabric → Fabric) : (s.onFab f).cores = s.cores := rfl
@[simp] theorem State.onFab_ops (f : Fabric → Fabric) : (s.onFab f).ops = s.ops := rfl
@[simp] theorem State.onFab_commits (f : Fabric → Fabric) : (s.onFab f).commits = s.commits := rfl
@[simp] theorem State.onFab_transfers (f : Fabric → Fabric) : (s.onFab f).transfers = s.transfers := rfl
@[simp] theorem State.onFab_dieTlb (f : Fabric → Fabric) : (s.onFab f).dieTlb = s.dieTlb := rfl
@[simp] theorem State.onFab_faults (f : Fabric → Fabric) : (s.onFab f).faults = s.faults := rfl
@[simp] theorem State.onFab_mem (f : Fabric → Fabric) : (s.onFab f).mem = s.mem := rfl
@[simp] theorem State.onFab_bars (f : Fabric → Fabric) : (s.onFab f).bars = s.bars := rfl
@[simp] theorem State.onFab_landed (f : Fabric → Fabric) : (s.onFab f).landed = s.landed := rfl
@[simp] theorem State.onFab_dropped (f : Fabric → Fabric) : (s.onFab f).dropped = s.dropped := rfl
@[simp] theorem State.onFab_tickets (f : Fabric → Fabric) : (s.onFab f).tickets = s.tickets := rfl
@[simp] theorem State.onFab_spin (f : Fabric → Fabric) : (s.onFab f).spin = s.spin := rfl
@[simp] theorem State.onFab_collect (f : Fabric → Fabric) : (s.onFab f).collect = s.collect := rfl

/-! ### onHost -/

@[simp] theorem State.onHost_agenda (f : HostSide → HostSide) : (s.onHost f).agenda = s.agenda := rfl
@[simp] theorem State.onHost_turn (f : HostSide → HostSide) : (s.onHost f).turn = s.turn := rfl
@[simp] theorem State.onHost_cur (f : HostSide → HostSide) : (s.onHost f).cur = s.cur := rfl
@[simp] theorem State.onHost_freeCtr (f : HostSide → HostSide) : (s.onHost f).freeCtr = s.freeCtr := rfl
@[simp] theorem State.onHost_nextId (f : HostSide → HostSide) : (s.onHost f).nextId = s.nextId := rfl
@[simp] theorem State.onHost_pkg (f : HostSide → HostSide) : (s.onHost f).pkg = s.pkg := rfl
@[simp] theorem State.onHost_host (f : HostSide → HostSide) : (s.onHost f).host = f s.host := rfl
@[simp] theorem State.onHost_fab (f : HostSide → HostSide) : (s.onHost f).fab = s.fab := rfl
@[simp] theorem State.onHost_garnet (f : HostSide → HostSide) : (s.onHost f).garnet = s.garnet := rfl
@[simp] theorem State.onHost_installs (f : HostSide → HostSide) : (s.onHost f).installs = s.installs := rfl
@[simp] theorem State.onHost_launches (f : HostSide → HostSide) : (s.onHost f).launches = s.launches := rfl
@[simp] theorem State.onHost_groups (f : HostSide → HostSide) : (s.onHost f).groups = s.groups := rfl
@[simp] theorem State.onHost_cores (f : HostSide → HostSide) : (s.onHost f).cores = s.cores := rfl
@[simp] theorem State.onHost_ops (f : HostSide → HostSide) : (s.onHost f).ops = s.ops := rfl
@[simp] theorem State.onHost_commits (f : HostSide → HostSide) : (s.onHost f).commits = s.commits := rfl
@[simp] theorem State.onHost_transfers (f : HostSide → HostSide) : (s.onHost f).transfers = s.transfers := rfl
@[simp] theorem State.onHost_dieTlb (f : HostSide → HostSide) : (s.onHost f).dieTlb = s.dieTlb := rfl
@[simp] theorem State.onHost_faults (f : HostSide → HostSide) : (s.onHost f).faults = s.faults := rfl
@[simp] theorem State.onHost_mem (f : HostSide → HostSide) : (s.onHost f).mem = s.mem := rfl
@[simp] theorem State.onHost_bars (f : HostSide → HostSide) : (s.onHost f).bars = s.bars := rfl
@[simp] theorem State.onHost_landed (f : HostSide → HostSide) : (s.onHost f).landed = s.landed := rfl
@[simp] theorem State.onHost_dropped (f : HostSide → HostSide) : (s.onHost f).dropped = s.dropped := rfl
@[simp] theorem State.onHost_tickets (f : HostSide → HostSide) : (s.onHost f).tickets = s.tickets := rfl
@[simp] theorem State.onHost_spin (f : HostSide → HostSide) : (s.onHost f).spin = s.spin := rfl
@[simp] theorem State.onHost_collect (f : HostSide → HostSide) : (s.onHost f).collect = s.collect := rfl

/-! ### onPkg -/

@[simp] theorem State.onPkg_agenda (f : Package → Package) : (s.onPkg f).agenda = s.agenda := rfl
@[simp] theorem State.onPkg_turn (f : Package → Package) : (s.onPkg f).turn = s.turn := rfl
@[simp] theorem State.onPkg_cur (f : Package → Package) : (s.onPkg f).cur = s.cur := rfl
@[simp] theorem State.onPkg_freeCtr (f : Package → Package) : (s.onPkg f).freeCtr = s.freeCtr := rfl
@[simp] theorem State.onPkg_nextId (f : Package → Package) : (s.onPkg f).nextId = s.nextId := rfl
@[simp] theorem State.onPkg_pkg (f : Package → Package) : (s.onPkg f).pkg = f s.pkg := rfl
@[simp] theorem State.onPkg_host (f : Package → Package) : (s.onPkg f).host = s.host := rfl
@[simp] theorem State.onPkg_fab (f : Package → Package) : (s.onPkg f).fab = s.fab := rfl
@[simp] theorem State.onPkg_garnet (f : Package → Package) : (s.onPkg f).garnet = s.garnet := rfl
@[simp] theorem State.onPkg_installs (f : Package → Package) : (s.onPkg f).installs = s.installs := rfl
@[simp] theorem State.onPkg_launches (f : Package → Package) : (s.onPkg f).launches = s.launches := rfl
@[simp] theorem State.onPkg_groups (f : Package → Package) : (s.onPkg f).groups = s.groups := rfl
@[simp] theorem State.onPkg_cores (f : Package → Package) : (s.onPkg f).cores = s.cores := rfl
@[simp] theorem State.onPkg_ops (f : Package → Package) : (s.onPkg f).ops = s.ops := rfl
@[simp] theorem State.onPkg_commits (f : Package → Package) : (s.onPkg f).commits = s.commits := rfl
@[simp] theorem State.onPkg_transfers (f : Package → Package) : (s.onPkg f).transfers = s.transfers := rfl
@[simp] theorem State.onPkg_dieTlb (f : Package → Package) : (s.onPkg f).dieTlb = s.dieTlb := rfl
@[simp] theorem State.onPkg_faults (f : Package → Package) : (s.onPkg f).faults = s.faults := rfl
@[simp] theorem State.onPkg_mem (f : Package → Package) : (s.onPkg f).mem = s.mem := rfl
@[simp] theorem State.onPkg_bars (f : Package → Package) : (s.onPkg f).bars = s.bars := rfl
@[simp] theorem State.onPkg_landed (f : Package → Package) : (s.onPkg f).landed = s.landed := rfl
@[simp] theorem State.onPkg_dropped (f : Package → Package) : (s.onPkg f).dropped = s.dropped := rfl
@[simp] theorem State.onPkg_tickets (f : Package → Package) : (s.onPkg f).tickets = s.tickets := rfl
@[simp] theorem State.onPkg_spin (f : Package → Package) : (s.onPkg f).spin = s.spin := rfl
@[simp] theorem State.onPkg_collect (f : Package → Package) : (s.onPkg f).collect = s.collect := rfl

/-! ### tick -/

@[simp] theorem State.tick_agenda : (s.tick).agenda = s.agenda := rfl
@[simp] theorem State.tick_turn : (s.tick).turn = s.turn := rfl
@[simp] theorem State.tick_cur : (s.tick).cur = s.cur := rfl
@[simp] theorem State.tick_freeCtr  : (s.tick).freeCtr = s.freeCtr + 1 := rfl
@[simp] theorem State.tick_nextId : (s.tick).nextId = s.nextId := rfl
@[simp] theorem State.tick_pkg : (s.tick).pkg = s.pkg := rfl
@[simp] theorem State.tick_host : (s.tick).host = s.host := rfl
@[simp] theorem State.tick_fab : (s.tick).fab = s.fab := rfl
@[simp] theorem State.tick_garnet : (s.tick).garnet = s.garnet := rfl
@[simp] theorem State.tick_installs : (s.tick).installs = s.installs := rfl
@[simp] theorem State.tick_launches : (s.tick).launches = s.launches := rfl
@[simp] theorem State.tick_groups : (s.tick).groups = s.groups := rfl
@[simp] theorem State.tick_cores : (s.tick).cores = s.cores := rfl
@[simp] theorem State.tick_ops : (s.tick).ops = s.ops := rfl
@[simp] theorem State.tick_commits : (s.tick).commits = s.commits := rfl
@[simp] theorem State.tick_transfers : (s.tick).transfers = s.transfers := rfl
@[simp] theorem State.tick_dieTlb : (s.tick).dieTlb = s.dieTlb := rfl
@[simp] theorem State.tick_faults : (s.tick).faults = s.faults := rfl
@[simp] theorem State.tick_mem : (s.tick).mem = s.mem := rfl
@[simp] theorem State.tick_bars : (s.tick).bars = s.bars := rfl
@[simp] theorem State.tick_landed : (s.tick).landed = s.landed := rfl
@[simp] theorem State.tick_dropped : (s.tick).dropped = s.dropped := rfl
@[simp] theorem State.tick_tickets : (s.tick).tickets = s.tickets := rfl
@[simp] theorem State.tick_spin : (s.tick).spin = s.spin := rfl
@[simp] theorem State.tick_collect : (s.tick).collect = s.collect := rfl

/-! ### fresh -/

@[simp] theorem State.fresh_agenda : (s.fresh.2).agenda = s.agenda := rfl
@[simp] theorem State.fresh_turn : (s.fresh.2).turn = s.turn := rfl
@[simp] theorem State.fresh_cur : (s.fresh.2).cur = s.cur := rfl
@[simp] theorem State.fresh_freeCtr : (s.fresh.2).freeCtr = s.freeCtr := rfl
@[simp] theorem State.fresh_nextId  : (s.fresh.2).nextId = s.nextId + 1 := rfl
@[simp] theorem State.fresh_pkg : (s.fresh.2).pkg = s.pkg := rfl
@[simp] theorem State.fresh_host : (s.fresh.2).host = s.host := rfl
@[simp] theorem State.fresh_fab : (s.fresh.2).fab = s.fab := rfl
@[simp] theorem State.fresh_garnet : (s.fresh.2).garnet = s.garnet := rfl
@[simp] theorem State.fresh_installs : (s.fresh.2).installs = s.installs := rfl
@[simp] theorem State.fresh_launches : (s.fresh.2).launches = s.launches := rfl
@[simp] theorem State.fresh_groups : (s.fresh.2).groups = s.groups := rfl
@[simp] theorem State.fresh_cores : (s.fresh.2).cores = s.cores := rfl
@[simp] theorem State.fresh_ops : (s.fresh.2).ops = s.ops := rfl
@[simp] theorem State.fresh_commits : (s.fresh.2).commits = s.commits := rfl
@[simp] theorem State.fresh_transfers : (s.fresh.2).transfers = s.transfers := rfl
@[simp] theorem State.fresh_dieTlb : (s.fresh.2).dieTlb = s.dieTlb := rfl
@[simp] theorem State.fresh_faults : (s.fresh.2).faults = s.faults := rfl
@[simp] theorem State.fresh_mem : (s.fresh.2).mem = s.mem := rfl
@[simp] theorem State.fresh_bars : (s.fresh.2).bars = s.bars := rfl
@[simp] theorem State.fresh_landed : (s.fresh.2).landed = s.landed := rfl
@[simp] theorem State.fresh_dropped : (s.fresh.2).dropped = s.dropped := rfl
@[simp] theorem State.fresh_tickets : (s.fresh.2).tickets = s.tickets := rfl
@[simp] theorem State.fresh_spin : (s.fresh.2).spin = s.spin := rfl
@[simp] theorem State.fresh_collect : (s.fresh.2).collect = s.collect := rfl

end Sys2Proof.Machine
end

