-- ==== Sys2Proof/Laws/Group.lean ====
section
/-!
SUPPORT. Groups, cores and rails by number: what a lookup finds after an update.
-/
namespace Sys2Proof.Machine

/-! ### Replacing in a list -/

theorem find?_replaceFirst_self {α : Type} (p : α → Bool) (x : α) (l : List α) (hx : p x = true)
    (h : (l.find? p).isSome = true) : (replaceFirst p x l).find? p = some x := by
  induction l with
  | nil => simp at h
  | cons y ys ih =>
    unfold replaceFirst
    split
    · simp [hx]
    · next hy => simp only [List.find?_cons, hy] at h ⊢; exact ih h

theorem find?_replaceFirst_other {α : Type} (p q : α → Bool) (x : α) (l : List α) (hx : q x = false)
    (hpq : ∀ y, p y = true → q y = false) : (replaceFirst p x l).find? q = l.find? q := by
  induction l with
  | nil => rfl
  | cons y ys ih =>
    unfold replaceFirst
    split
    · next hy => simp [hx, hpq y hy]
    · simp only [List.find?_cons, ih]

theorem replaceFirst_none {α : Type} (p : α → Bool) (x : α) (l : List α) (h : l.find? p = none) :
    replaceFirst p x l = l := by
  induction l with
  | nil => rfl
  | cons y ys ih =>
    rw [List.find?_cons] at h
    unfold replaceFirst
    split <;> simp_all

/-! ### Groups -/

variable (s : State)

theorem State.group?_gid {s : State} {n : Nat} {g : Group} (h : s.group? n = some g) : g.gid = n := by
  have := List.find?_some h; simpa using this

/-- A group put back is found at its number. -/
theorem State.group?_putGroup_self {s : State} {g h : Group} (hh : s.group? g.gid = some h) :
    (s.putGroup g).group? g.gid = some g := by
  unfold State.group? State.putGroup
  exact find?_replaceFirst_self _ _ _ (by simp) (by unfold State.group? at hh; rw [hh]; rfl)

/-- Putting a group back changes no other group. -/
theorem State.group?_putGroup_ne {g : Group} {n : Nat} (hn : n ≠ g.gid) : (s.putGroup g).group? n = s.group? n := by
  unfold State.group? State.putGroup
  exact find?_replaceFirst_other _ _ _ _ (by simp [Ne.symm hn]) (by simp; intro y hy; omega)

theorem State.putGroup_absent {g : Group} (h : s.group? g.gid = none) : s.putGroup g = s := by
  unfold State.putGroup; rw [replaceFirst_none _ _ _ h]

theorem State.onGroup_some {s : State} {n : Nat} {g : Group} (h : s.group? n = some g) (f : Group → Group) :
    s.onGroup n f = s.putGroup (f g) := by unfold State.onGroup; rw [h]

theorem State.onGroup_none {s : State} {n : Nat} (h : s.group? n = none) (f : Group → Group) : s.onGroup n f = s := by
  unfold State.onGroup; rw [h]

theorem State.group?_onGroup_self {s : State} {n : Nat} {g : Group} {f : Group → Group} (h : s.group? n = some g)
    (hf : (f g).gid = n) : (s.onGroup n f).group? n = some (f g) := by
  rw [State.onGroup_some h]
  have := State.group?_putGroup_self (s := s) (g := f g) (h := g) (by rw [hf]; exact h)
  rwa [hf] at this

theorem State.group?_onGroup_ne {n m : Nat} {f : Group → Group} (hf : ∀ g, (f g).gid = g.gid) (hn : m ≠ n) :
    (s.onGroup n f).group? m = s.group? m := by
  cases h : s.group? n with
  | none => rw [State.onGroup_none h]
  | some g =>
    rw [State.onGroup_some h]
    exact State.group?_putGroup_ne s (by rw [hf, State.group?_gid h]; exact hn)

/-- A lookup depends on the list of groups alone. -/
theorem State.group?_congr {s t : State} (h : t.groups = s.groups) (n : Nat) : t.group? n = s.group? n := by
  unfold State.group?; rw [h]

@[simp] theorem State.group?_tick (n : Nat) : s.tick.group? n = s.group? n := rfl
@[simp] theorem State.group?_fresh (n : Nat) : s.fresh.2.group? n = s.group? n := rfl
@[simp] theorem State.group?_onCore (c : Nat) (f : Core → Core) (n : Nat) : (s.onCore c f).group? n = s.group? n := rfl
@[simp] theorem State.group?_onRail (c r : Nat) (f : Rail → Rail) (n : Nat) : (s.onRail c r f).group? n = s.group? n := rfl
@[simp] theorem State.group?_onMem (f : DeviceMem → DeviceMem) (n : Nat) : (s.onMem f).group? n = s.group? n := rfl
@[simp] theorem State.group?_onFab (f : Fabric → Fabric) (n : Nat) : (s.onFab f).group? n = s.group? n := rfl
@[simp] theorem State.group?_onHost (f : HostSide → HostSide) (n : Nat) : (s.onHost f).group? n = s.group? n := rfl
@[simp] theorem State.group?_onFn (v : Nat) (f : Fn → Fn) (n : Nat) : (s.onFn v f).group? n = s.group? n := rfl
@[simp] theorem State.group?_dropOp (id n : Nat) : (s.dropOp id).group? n = s.group? n := rfl
@[simp] theorem State.group?_onInst (h : Word) (f : Installation → Installation) (n : Nat) :
    (s.onInst h f).group? n = s.group? n := State.group?_congr (by simp) n
@[simp] theorem State.group?_onLaunch (l : Nat) (f : Launch → Launch) (n : Nat) :
    (s.onLaunch l f).group? n = s.group? n := State.group?_congr (by simp) n

/-! ### Cores and rails -/

theorem State.core_putCore (c : Nat) (k : Core) (d : Nat) : (s.putCore c k).core d = if c = d then k else s.core d := by
  unfold State.core State.putCore; exact Sparse.get_set ..

theorem State.core_onCore (c : Nat) (f : Core → Core) (d : Nat) :
    (s.onCore c f).core d = if c = d then f (s.core c) else s.core d := State.core_putCore ..

theorem State.rail_onRail (c r : Nat) (f : Rail → Rail) (d q : Nat) :
    (s.onRail c r f).rail d q = if c = d ∧ r = q then f (s.rail c r) else s.rail d q := by
  unfold State.rail State.onRail
  rw [State.core_onCore]
  by_cases hc : c = d
  · subst hc
    simp only [if_true, true_and]
    rw [Sparse.get_alter]
  · simp [hc]

/-- A core depends on the table of cores alone. -/
theorem State.core_congr {s t : State} (h : t.cores = s.cores) (c : Nat) : t.core c = s.core c := by
  unfold State.core; rw [h]

@[simp] theorem State.core_putGroup (g : Group) (c : Nat) : (s.putGroup g).core c = s.core c := rfl
@[simp] theorem State.core_tick (c : Nat) : s.tick.core c = s.core c := rfl
@[simp] theorem State.core_fresh (c : Nat) : s.fresh.2.core c = s.core c := rfl
@[simp] theorem State.core_onGroup (n : Nat) (f : Group → Group) (c : Nat) : (s.onGroup n f).core c = s.core c :=
  State.core_congr (by simp) c
@[simp] theorem State.rail_putGroup (g : Group) (c r : Nat) : (s.putGroup g).rail c r = s.rail c r := rfl
@[simp] theorem State.rail_tick (c r : Nat) : s.tick.rail c r = s.rail c r := rfl
@[simp] theorem State.rail_onGroup (n : Nat) (f : Group → Group) (c r : Nat) : (s.onGroup n f).rail c r = s.rail c r := by
  unfold State.rail; rw [State.core_onGroup]

/-! ### Installations -/

theorem State.inst?_congr {s t : State} (h : t.installs = s.installs) (k : Word) : t.inst? k = s.inst? k := by
  unfold State.inst?; rw [h]

end Sys2Proof.Machine
end

