-- ==== Sys2Proof/Laws/Reg.lean ====
section
/-!
SUPPORT. Registers: what stands in a register after a write (06 R154, R161, R177), and what a write leaves alone.
-/
namespace Sys2Proof.Machine

/-! ### What a context line depends on -/

theorem State.translate_congr {s t : State} (hi : t.installs = s.installs) (h : Word) (va : Nat) (k : AccessKind) :
    t.translate h va k = s.translate h va k := by
  unfold State.translate State.page?; rw [State.inst?_congr hi]

/-- What the place and words of a group's context block depend on is the same in two states. -/
structure SameContext (s t : State) (g h : Group) : Prop where
  installs : t.installs = s.installs
  launches : t.launches = s.launches
  bytes    : t.mem.bytes = s.mem.bytes
  launch   : h.launch = g.launch
  shadow   : h.ctl.shadow = g.ctl.shadow
  group    : h.ctl.group = g.ctl.group
  handle   : h.ctl.handle = g.ctl.handle

theorem SameContext.word {s t : State} {g h : Group} (c : SameContext s t g h) (off : Nat) :
    t.contextWord h off = s.contextWord g off := by
  have hb : t.contextBase h = s.contextBase g := by
    unfold State.contextBase State.launch?
    rw [c.launches, c.launch, c.shadow, c.group]
  unfold State.contextWord
  rw [hb, c.handle, State.translate_congr c.installs, c.bytes]

theorem SameContext.refl (s : State) (g : Group) : SameContext s s g g := ⟨rfl, rfl, rfl, rfl, rfl, rfl, rfl⟩

theorem SameContext.trans {s t u : State} {g h k : Group} (a : SameContext s t g h) (b : SameContext t u h k) :
    SameContext s u g k :=
  ⟨b.installs.trans a.installs, b.launches.trans a.launches, b.bytes.trans a.bytes, b.launch.trans a.launch,
    b.shadow.trans a.shadow, b.group.trans a.group, b.handle.trans a.handle⟩

/-! ### Setting 32 lanes of a line -/

theorem get_setLanes (f : Nat → Word) (r : Nat) (ls : List Nat) (m : Sparse Word) (r' t : Nat) (hl : ∀ l ∈ ls, l < 32)
    (ht : t < 32) :
    Sparse.get 0#32 (ls.foldl (fun m l => Sparse.set 0#32 m (32 * r + l) (f l)) m) (32 * r' + t) =
      if r' = r ∧ t ∈ ls then f t else Sparse.get 0#32 m (32 * r' + t) := by
  induction ls generalizing m with
  | nil => simp
  | cons l ls ih =>
    rw [List.foldl_cons, ih _ (fun k hk => hl k (List.mem_cons_of_mem _ hk)), Sparse.get_set]
    have hl' := hl l List.mem_cons_self
    by_cases h1 : r' = r
    · subst h1
      by_cases h2 : t ∈ ls
      · simp [h2]
      · by_cases h3 : l = t
        · subst h3; simp
        · have : ¬ 32 * r' + l = 32 * r' + t := by omega
          simp [h2, Ne.symm h3, h3]
    · have : ¬ 32 * r + l = 32 * r' + t := by omega
      simp [h1, this]

/-! ### Residency -/

theorem Core.resident_map (k : Core) (f : MantleLine → MantleLine) (hf : ∀ m, (f m).gid = m.gid ∧ (f m).line = m.line)
    (gid line : Nat) : ({ k with mantle := k.mantle.map f } : Core).resident gid line = k.resident gid line := by
  unfold Core.resident
  simp only [List.any_map]
  congr 1
  funext m
  simp [Function.comp, hf m]

/-- Marking a line as written changes no residency. -/
theorem State.resident_touchLine (s : State) (g : Group) (r c gid line : Nat) :
    ((s.touchLine g r).core c).resident gid line = (s.core c).resident gid line := by
  unfold State.touchLine
  rw [State.core_onCore]
  split
  · next h =>
    subst h
    apply Core.resident_map
    intro m; split <;> exact ⟨rfl, rfl⟩
  · rfl

/-! ### A write of one lane of a line -/

/-- What the writes of an instruction's results change: register words of its group (with the marks that go with them), its
rail's window, the marks of its lines in the Mantle, and which outstanding results they overwrite. -/
structure WroteRegs (s t : State) (g h : Group) : Prop where
  found  : t.group? g.gid = some h
  group  : h = { g with regs := h.regs, regErr := h.regErr, backed := h.backed }
  others : ∀ n, n ≠ g.gid → t.group? n = s.group? n
  rest   : t = { s with groups := t.groups, cores := t.cores, ops := t.ops }
  cores  : ∀ c, c ≠ g.core → t.core c = s.core c
  mine   : t.core g.core = { s.core g.core with mantle := (t.core g.core).mantle, rails := (t.core g.core).rails }
  lines  : ∀ gid line, (t.core g.core).resident gid line = (s.core g.core).resident gid line
  rails  : ∀ r, t.rail g.core r = { s.rail g.core r with window := (t.rail g.core r).window }
  other  : ∀ r, g.seat.map railOfSeat ≠ some r → t.rail g.core r = s.rail g.core r
  ops    : t.ops.map (fun o => { o with clobbered := [] }) = s.ops.map (fun o => { o with clobbered := [] })

theorem WroteRegs.context {s t : State} {g h : Group} (p : WroteRegs s t g h) : SameContext s t g h := by
  obtain ⟨_, hg, _, hr, _, _, _, _, _, _⟩ := p
  refine ⟨?_, ?_, ?_, ?_, ?_, ?_, ?_⟩ <;> first | rw [hr] | rw [hg]

theorem WroteRegs.refl {s : State} {g : Group} (h : s.group? g.gid = some g) : WroteRegs s s g g :=
  ⟨h, rfl, fun _ _ => rfl, rfl, fun _ _ => rfl, rfl, fun _ _ => rfl, fun _ => rfl, fun _ _ => rfl, rfl⟩

theorem WroteRegs.trans {s t u : State} {g h k : Group} (a : WroteRegs s t g h) (b : WroteRegs t u h k) :
    WroteRegs s u g k := by
  have gid : h.gid = g.gid := by rw [a.group]
  have core : h.core = g.core := by rw [a.group]
  have seat : h.seat = g.seat := by rw [a.group]
  refine ⟨by rw [← gid]; exact b.found, ?_, ?_, ?_, ?_, ?_, ?_, ?_, ?_, b.ops.trans a.ops⟩
  · have := b.group; rw [a.group] at this; exact this
  · intro n hn; rw [b.others n (by rw [gid]; exact hn), a.others n hn]
  · have := b.rest; rw [a.rest] at this; exact this
  · intro c hc; rw [b.cores c (by rw [core]; exact hc), a.cores c hc]
  · have := b.mine; rw [core, a.mine] at this; exact this
  · intro x y; have := b.lines x y; rw [core] at this; rw [this, a.lines]
  · intro r; have := b.rails r; rw [core, a.rails r] at this; exact this
  · intro r hr; have := b.other r (by rw [seat]; exact hr); rw [core] at this; rw [this, a.other r hr]

/-- Where the words and marks of a group stay, so do the words of its lines. -/
theorem WroteRegs.lineWord_same {s t : State} {g h : Group} (p : WroteRegs s t g h) (hr : h.regs = g.regs)
    (hb : h.backed = g.backed) (r l : Nat) : t.lineWord h r l = s.lineWord g r l := by
  have gid : h.gid = g.gid := by rw [p.group]
  have core : h.core = g.core := by rw [p.group]
  unfold State.lineWord
  rw [hr, hb, gid, core, p.lines]
  split
  · exact p.context.word _
  · rfl

/-- A register line the device takes in hand again keeps its words. -/
theorem State.holdLine_spec {s : State} {g : Group} (hg : s.group? g.gid = some g) (r : Nat) :
    ∃ h, WroteRegs s (s.holdLine g.gid r) g h ∧
      (h.backed.contains r && !((s.holdLine g.gid r).core h.core).resident h.gid r) = false ∧
      ∀ r' t, r' < 256 → r < 256 → t < 32 → (s.holdLine g.gid r).lineWord h r' t = s.lineWord g r' t := by
  unfold State.holdLine
  rw [hg]
  simp only
  by_cases hb : (g.backed.contains r && !(s.core g.core).resident g.gid r) = true
  · rw [if_pos hb]
    let h : Group := { g with
      regs := (List.range 32).foldl (fun m t => Sparse.set 0#32 m (32 * r + t) (s.contextWord g (128 * r + 4 * t))) g.regs
      backed := (256 + r) :: g.backed.filter (· != r) }
    have hput : WroteRegs s (s.putGroup h) g h :=
      ⟨State.group?_putGroup_self (g := h) hg, rfl, fun n hn => State.group?_putGroup_ne s hn, rfl, fun _ _ => rfl, rfl,
        fun _ _ => rfl, fun _ => rfl, fun _ _ => rfl, rfl⟩
    refine ⟨h, hput, by simp [h], ?_⟩
    intro r' t hr' hr ht
    have hctx := hput.context
    by_cases hrr : r' = r
    · subst hrr
      simp only [State.lineWord]
      rw [if_neg (by simp [h]), if_pos hb]
      have := get_setLanes (fun t => s.contextWord g (128 * r' + 4 * t)) r' (List.range 32) g.regs r' t
        (fun l hl => by simpa using hl) ht
      simp only [List.mem_range, ht, and_self, if_true] at this
      exact this
    · simp only [State.lineWord]
      have hc : h.backed.contains r' = g.backed.contains r' := by
        simp only [h, List.contains_cons]
        rw [show (r' == 256 + r) = false by simp; omega, Bool.false_or]
        rw [Bool.eq_iff_iff]
        simp [hrr]
      rw [hc]
      have hres : ((s.putGroup h).core h.core).resident h.gid r' = (s.core g.core).resident g.gid r' := rfl
      rw [hres]
      split
      · exact hctx.word _
      · have := get_setLanes (fun t => s.contextWord g (128 * r + 4 * t)) r (List.range 32) g.regs r' t
          (fun l hl => by simpa using hl) ht
        rw [if_neg (by simp [hrr])] at this
        exact this
  · rw [if_neg hb]
    exact ⟨g, WroteRegs.refl hg, by simpa using hb, fun _ _ _ _ _ => rfl⟩

/-- Marking a line as written, and putting its group back with new words. -/
theorem wroteRegs_touch {s : State} {g : Group} (hg : s.group? g.gid = some g) (r : Nat) (regs : Sparse Word) (errs : List Nat) :
    WroteRegs s ((s.touchLine g r).putGroup { g with regs := regs, regErr := errs }) g { g with regs := regs, regErr := errs } := by
  have hg' : (s.touchLine g r).group? g.gid = some g := hg
  refine ⟨State.group?_putGroup_self (g := { g with regs := regs, regErr := errs }) hg', rfl, ?_, rfl, ?_, ?_, ?_, ?_, ?_, rfl⟩
  · intro n hn; rw [State.group?_putGroup_ne (s.touchLine g r) (g := { g with regs := regs, regErr := errs }) hn]; rfl
  · intro c hc
    rw [State.core_putGroup]
    unfold State.touchLine
    rw [State.core_onCore, if_neg (Ne.symm hc)]
  · rw [State.core_putGroup]
    unfold State.touchLine
    rw [State.core_onCore, if_pos rfl]
  · intro x y
    rw [State.core_putGroup]
    exact State.resident_touchLine ..
  · intro q
    rw [State.rail_putGroup]
    unfold State.touchLine State.rail
    rw [State.core_onCore, if_pos rfl]
  · intro q _
    rw [State.rail_putGroup]
    unfold State.touchLine State.rail
    rw [State.core_onCore, if_pos rfl]

/-- A write of a lane of a register line: that word is the new one, every other word of the group as before. -/
theorem State.putReg_spec {s : State} {g : Group} (hg : s.group? g.gid = some g) (r l : Nat) (x : Word) :
    ∃ h, WroteRegs s (s.putReg g.gid r l x) g h ∧
      ∀ r' l', r' < 256 → r < 256 → l' < 32 → l < 32 →
        (s.putReg g.gid r l x).lineWord h r' l' = if r' = r ∧ l' = l then x else s.lineWord g r' l' := by
  obtain ⟨h1, hw1, hres1, hv1⟩ := State.holdLine_spec hg r
  have gid1 : h1.gid = g.gid := by rw [hw1.group]
  have core1 : h1.core = g.core := by rw [hw1.group]
  have hf1 : (s.holdLine g.gid r).group? h1.gid = some h1 := by rw [gid1]; exact hw1.found
  have hput := wroteRegs_touch hf1 r (Sparse.set 0#32 h1.regs (32 * r + l) x) (h1.regErr.filter (· != 32 * r + l))
  have hdef : s.putReg g.gid r l x = ((s.holdLine g.gid r).touchLine h1 r).putGroup
      { h1 with regs := Sparse.set 0#32 h1.regs (32 * r + l) x, regErr := h1.regErr.filter (· != 32 * r + l) } := by
    unfold State.putReg
    simp only [hw1.found]
  rw [hdef]
  refine ⟨_, hw1.trans hput, ?_⟩
  intro r' l' hr' hr hl' hl
  rw [← hv1 r' l' hr' hr hl']
  have hres2 := hput.lines h1.gid r'
  simp only [State.lineWord]
  rw [hres2]
  by_cases hrr : r' = r
  · subst hrr
    simp only [hres1, Bool.false_eq_true, if_false, Sparse.get_set, true_and]
    by_cases hll : l' = l
    · rw [if_pos (by omega), if_pos hll]
    · rw [if_neg (by omega), if_neg hll]
  · rw [if_neg (show ¬(r' = r ∧ l' = l) by simp [hrr])]
    split
    · exact hput.context.word _
    · rw [Sparse.get_set, if_neg (by omega)]

/-- A write of a register lane by an instruction: that word is the new one, every other register word as before (06 R154,
R177). A window register has a seated group. -/
theorem State.writeReg_spec {s : State} {g : Group} (hg : s.group? g.gid = some g) (r l : Nat) (x : Word)
    (hseat : g.ctl.handler = true → g.seat.isSome = true) (hr : r < 256) (hl : l < 32) :
    ∃ h, WroteRegs s (s.writeReg g.gid r l x) g h ∧
      ∀ r' l', r' < 256 → l' < 32 →
        (s.writeReg g.gid r l x).heldReg h r' l' = if r' = r ∧ l' = l then x else s.heldReg g r' l' := by
  unfold State.writeReg
  rw [hg]
  simp only
  by_cases hwin : g.inWindow r = true
  · rw [if_pos hwin]
    have hh : g.ctl.handler = true := by unfold Group.inWindow at hwin; simp at hwin; exact hwin.1
    obtain ⟨n, hn⟩ := Option.isSome_iff_exists.1 (hseat hh)
    rw [hn]
    simp only
    have hW : WroteRegs s (s.onRail g.core (railOfSeat n)
        (fun rl => { rl with window := Sparse.set 0#32 rl.window (32 * r + l) x })) g g := by
      refine ⟨hg, rfl, fun _ _ => rfl, rfl, ?_, ?_, ?_, ?_, ?_, rfl⟩
      · intro c hc; unfold State.onRail; rw [State.core_onCore, if_neg (Ne.symm hc)]
      · unfold State.onRail; rw [State.core_onCore, if_pos rfl]
      · intro a b; unfold State.onRail; rw [State.core_onCore, if_pos rfl]; rfl
      · intro q; rw [State.rail_onRail]
        split
        · next h => rw [h.2]
        · rfl
      · intro q hq; rw [State.rail_onRail, if_neg]; rintro ⟨-, rfl⟩; exact hq (by rw [hn]; rfl)
    refine ⟨g, hW, ?_⟩
    intro r' l' hr' hl'
    unfold State.heldReg
    by_cases hw' : g.inWindow r' = true
    · rw [if_pos hw', if_pos hw', hn]
      simp only
      rw [State.rail_onRail, if_pos ⟨rfl, rfl⟩]
      simp only [Sparse.get_set]
      by_cases h2 : r' = r ∧ l' = l
      · rw [if_pos h2, if_pos (by omega)]
      · rw [if_neg h2, if_neg (by omega)]
    · rw [if_neg hw', if_neg hw', if_neg (by rintro ⟨rfl, -⟩; exact hw' hwin)]
      exact hW.lineWord_same rfl rfl r' l'
  · rw [if_neg hwin]
    obtain ⟨h, hw, hv⟩ := State.putReg_spec hg r l x
    let t := s.putReg g.gid r l x
    let t' : State := { t with ops := t.ops.map (fun o =>
      if o.gid == g.gid && o.writes r l then { o with clobbered := (r, l) :: o.clobbered } else o) }
    have hops : t'.ops.map (fun o => { o with clobbered := [] }) = s.ops.map (fun o => { o with clobbered := [] }) := by
      rw [← hw.ops]
      simp only [t', List.map_map]
      apply List.map_congr_left
      intro o _
      simp only [Function.comp]
      split <;> rfl
    refine ⟨h, ⟨hw.found, hw.group, hw.others, ?_, hw.cores, hw.mine, hw.lines, hw.rails, hw.other, hops⟩, ?_⟩
    · have := hw.rest
      show t' = _
      simp only [t', t]
      rw [this]
    · intro r' l' hr' hl'
      have hin : h.inWindow r' = g.inWindow r' := by unfold Group.inWindow; rw [hw.group]
      have hheld : t'.heldReg h r' l' = t.heldReg h r' l' := rfl
      show t'.heldReg h r' l' = _
      rw [hheld]
      unfold State.heldReg
      rw [hin]
      by_cases hw' : g.inWindow r' = true
      · rw [if_pos hw', if_pos hw', if_neg (by rintro ⟨rfl, -⟩; exact hwin hw')]
        have hseat' : h.seat = g.seat := by rw [hw.group]
        have hcore' : h.core = g.core := by rw [hw.group]
        rw [hseat', hcore']
        cases hs : g.seat with
        | none => rfl
        | some n =>
          simp only
          have hk : (t.core g.core).rails = (s.core g.core).rails := by
            obtain ⟨h1, hw1, _, _⟩ := State.holdLine_spec hg r
            have : t = ((s.holdLine g.gid r).touchLine h1 r).putGroup
              { h1 with regs := Sparse.set 0#32 h1.regs (32 * r + l) x, regErr := h1.regErr.filter (· != 32 * r + l) } := by
                simp only [t]; unfold State.putReg; simp only [hw1.found]
            rw [this, State.core_putGroup]
            have hc1 : h1.core = g.core := by rw [hw1.group]
            unfold State.touchLine
            rw [State.core_onCore, if_pos hc1]
            simp only
            rw [hc1]
            unfold State.holdLine
            rw [hg]
            simp only
            split <;> rfl
          unfold State.rail
          rw [hk]
      · rw [if_neg hw', if_neg hw']
        exact hv r' l' hr' hr hl' hl

end Sys2Proof.Machine
end

