-- ==== Sys2Proof/Laws/Issue.lean ====
section
/-!
SUPPORT. The frame of an instruction (13 R348): what issuing one comes to, what its writes and its move to the next slot
do, and what a per-lane instruction has done.
-/
namespace Sys2Proof.Machine

/-! ### Issuing -/

theorem State.putGroup_self {s : State} {g : Group} (h : s.group? g.gid = some g) : s.putGroup g = s := by
  unfold State.putGroup
  have : ∀ l : List Group, l.find? (fun k => k.gid == g.gid) = some g → replaceFirst (fun k => k.gid == g.gid) g l = l := by
    intro l
    induction l with
    | nil => intro _; rfl
    | cons y ys ih =>
      intro hl
      rw [List.find?_cons] at hl
      unfold replaceFirst
      split at hl
      · next hy => rw [if_pos hy]; cases hl; rfl
      · next hy => rw [if_neg (by simp [hy]), ih hl]
  rw [this _ h]

/-- A pop takes words of queues and nothing else. -/
theorem Group.popField_spec {g g' : Group} {q n : Nat} {ws : List Word} (h : g.popField q n = some (g', ws)) :
    ∃ qs, g' = { g with queues := qs } := by
  unfold Group.popField at h
  split at h
  · cases h; exact ⟨_, rfl⟩
  · simp only at h
    split at h
    · cases h
    · cases h; exact ⟨_, rfl⟩

theorem Ctx.popOne_spec {x : Ctx} {g g' : Group} {f : Fld} {ws : List Word} (h : x.popOne g f = some (g', ws)) :
    ∃ qs, g' = { g with queues := qs } := by
  unfold Ctx.popOne at h
  split at h
  · exact Group.popField_spec h
  · cases h; exact ⟨_, rfl⟩

/-- The pops of an instruction: they take words of its group's queues, and the words stand in the instruction. -/
theorem Ctx.takePops_spec {x x' : Ctx} {s u : State} (h : x.takePops s = some (u, x')) :
    ∃ g qs, s.group? x.gid = some g ∧ u = s.putGroup { g with queues := qs } ∧
      x' = { x with popA := x'.popA, popB := x'.popB, popD := x'.popD } := by
  unfold Ctx.takePops at h
  cases hg : s.group? x.gid with
  | none => simp [hg] at h
  | some g =>
    simp only [hg] at h
    cases h1 : x.popOne g .a with
    | none => simp [h1] at h
    | some p1 =>
      simp only [h1] at h
      cases h2 : x.popOne p1.1 .b with
      | none => simp [h2] at h
      | some p2 =>
        simp only [h2] at h
        cases h3 : x.popOne p2.1 .d with
        | none => simp [h3] at h
        | some p3 =>
          simp only [h3, Option.some.injEq, Prod.mk.injEq] at h
          obtain ⟨q1, e1⟩ := Ctx.popOne_spec (ws := p1.2) (g' := p1.1) h1
          obtain ⟨q2, e2⟩ := Ctx.popOne_spec (ws := p2.2) (g' := p2.1) h2
          obtain ⟨q3, e3⟩ := Ctx.popOne_spec (ws := p3.2) (g' := p3.1) h3
          refine ⟨g, q3, rfl, ?_, ?_⟩
          · rw [← h.1, e3, e2, e1]
          · rw [← h.2]

variable {s u : State} {g : Group} {c : FetchedClause} {form : Form} {op d a b : Byte} {x : Ctx}

/-- The state in which an instruction reads, and the instruction, as the pops leave them. -/
theorem Issues.popped (i : Issues s g c form op d a b x u) :
    ∃ qs, u = s.tick.putGroup { g with queues := qs } ∧ u.group? g.gid = some { g with queues := qs } ∧
      x = { s.tick.ctxOf g form op.toNat d.toNat a.toNat b.toNat with popA := x.popA, popB := x.popB, popD := x.popD } := by
  obtain ⟨k, qs, hk, hu, hx⟩ := Ctx.takePops_spec i.pops
  have hg := i.group
  have hk' : s.group? g.gid = some k := hk
  rw [hg] at hk'
  cases hk'
  refine ⟨qs, hu, ?_, hx⟩
  rw [hu]
  exact State.group?_putGroup_self (s := s.tick) (g := { g with queues := qs }) (h := g) hg

/-- The numbers and lanes of the instruction that issues. -/
theorem Issues.ctx (i : Issues s g c form op d a b x u) :
    x.gid = g.gid ∧ x.g = g ∧ x.form = form ∧ x.d = d.toNat ∧ x.a = a.toNat ∧ x.b = b.toNat ∧
      x.S = laneList (s.tick.actLanes g form) ∧ x.uni = g.uniform form ∧
      x.L = (if g.uniform form then (laneList (s.tick.actLanes g form)).take 1 else laneList (s.tick.actLanes g form)) := by
  obtain ⟨_, _, _, hx⟩ := i.popped
  rw [hx]
  exact ⟨rfl, rfl, rfl, rfl, rfl, rfl, rfl, rfl, rfl⟩

/-- An instruction that issues with its full effect does what its meaning says, inside the frame (13 R348). -/
theorem issue_ready (i : Issues s g c form op d a b x u) (body : Ctx → State → Act) :
    issue form op d a b body s = .next (x.finish s.tick (mkWord op d a b) (body x u)) := by
  obtain ⟨hgid, hxg, hform, -⟩ := i.ctx
  unfold issue
  rw [i.cur]
  simp only [i.group]
  congr 1
  unfold State.issueIn
  rw [i.legal]
  simp only
  rw [if_neg (by simpa using i.lanes)]
  unfold Ctx.issueActive
  rw [if_neg (by show ¬(g.ctl.shadow = true); rw [i.first]; simp)]
  rw [i.pops]
  simp only [i.waits]
  by_cases hl : g.ctl.leads = true
  · obtain ⟨hp, hs⟩ := i.alone hl
    have hpp : (s.tick.ctxOf g form op.toNat d.toNat a.toNat b.toNat).popsAny = false := by
      obtain ⟨_, _, _, hx⟩ := i.popped
      rw [← hp, hx]; rfl
    have hss : (s.tick.ctxOf g form op.toNat d.toNat a.toNat b.toNat).syncs = false := by
      obtain ⟨_, _, _, hx⟩ := i.popped
      rw [← hs, hx]; rfl
    rw [hpp, hss]
    simp
  · have : (s.tick.ctxOf g form op.toNat d.toNat a.toNat b.toNat).g.ctl.leads = false := by
      show g.ctl.leads = false
      simpa using hl
    rw [this]
    simp

/-! ### Writing lanes -/

theorem WroteRegs.seat_ok {s t : State} {g h : Group} (w : WroteRegs s t g h)
    (hs : g.ctl.handler = true → g.seat.isSome = true) : h.ctl.handler = true → h.seat.isSome = true := by
  rw [w.group]; exact hs

/-- A write of one lane of d. -/
theorem Ctx.writeLane_spec {x : Ctx} {s : State} {g : Group} (hx : x.gid = g.gid) (hg : s.group? g.gid = some g)
    (hs : g.ctl.handler = true → g.seat.isSome = true) {l : Nat} (hl : l < 32) (hd : x.d + 1 < 256) (v : Word64) :
    ∃ h, WroteRegs s (x.writeLane s l v) g h ∧ Holds (x.writeLane s l v) h (x.kind .d) x.d l v ∧
      RegsKept s (x.writeLane s l v) g h x.d (if x.kind .d = .pair then 2 else 1) [l] := by
  obtain ⟨h1, w1, v1⟩ := State.writeReg_spec hg x.d l (loWord v) hs (by omega) hl
  by_cases hk : x.kind .d = .pair
  · have gid1 : h1.gid = g.gid := by rw [w1.group]
    obtain ⟨h2, w2, v2⟩ := State.writeReg_spec (g := h1) (by rw [gid1]; exact w1.found) (x.d + 1) l (hiWord v)
      (w1.seat_ok hs) hd hl
    have e : x.writeLane s l v = (s.writeReg g.gid x.d l (loWord v)).writeReg h1.gid (x.d + 1) l (hiWord v) := by
      unfold Ctx.writeLane; rw [hk, hx, gid1]
    rw [e]
    refine ⟨h2, w1.trans w2, ⟨?_, fun _ => ?_⟩, ?_⟩
    · rw [v2 _ _ (by omega) hl, if_neg (by omega), v1 _ _ (by omega) hl, if_pos ⟨rfl, rfl⟩]
    · rw [v2 _ _ (by omega) hl, if_pos ⟨rfl, rfl⟩]
    · intro r l' hr hl' hn
      rw [if_pos hk] at hn
      simp only [List.mem_singleton] at hn
      rw [v2 _ _ hr hl', if_neg (by omega), v1 _ _ hr hl', if_neg (by omega)]
  · have e : x.writeLane s l v = s.writeReg g.gid x.d l (loWord v) := by
      unfold Ctx.writeLane; rw [hx]; split
      · next h => exact absurd h hk
      · rfl
    rw [e]
    refine ⟨h1, w1, ⟨?_, fun h => absurd h hk⟩, ?_⟩
    · rw [v1 _ _ (by omega) hl, if_pos ⟨rfl, rfl⟩]
    · intro r l' hr hl' hn
      rw [if_neg hk] at hn
      simp only [List.mem_singleton] at hn
      rw [v1 _ _ hr hl', if_neg (by omega)]

/-- Writes of d in some lanes, none of them dying: every lane holds its value, and nothing else has changed. -/
theorem Ctx.writeLanes_spec {x : Ctx} {s : State} {g : Group} (hx : x.gid = g.gid) (hg : s.group? g.gid = some g)
    (hs : g.ctl.handler = true → g.seat.isSome = true) (hd : x.d + 1 < 256) (hdy : x.dying = [])
    {outs : List (Nat × Word64)} (hl : ∀ o ∈ outs, o.1 < 32) (hn : (outs.map (fun o => o.1)).Nodup) :
    ∃ h, WroteRegs s (x.writeLanes s outs) g h ∧ (∀ o ∈ outs, Holds (x.writeLanes s outs) h (x.kind .d) x.d o.1 o.2) ∧
      RegsKept s (x.writeLanes s outs) g h x.d (if x.kind .d = .pair then 2 else 1) (outs.map (fun o => o.1)) := by
  induction outs generalizing s g with
  | nil => exact ⟨g, WroteRegs.refl hg, by simp, fun _ _ _ _ _ => rfl⟩
  | cons o os ih =>
    obtain ⟨l, v⟩ := o
    have hl1 : l < 32 := hl (l, v) List.mem_cons_self
    obtain ⟨h1, w1, v1, k1⟩ := Ctx.writeLane_spec hx hg hs hl1 hd v
    have gid1 : h1.gid = g.gid := by rw [w1.group]
    simp only [List.map_cons, List.nodup_cons] at hn
    obtain ⟨h2, w2, v2, k2⟩ := ih (s := x.writeLane s l v) (g := h1) (by rw [gid1]; exact hx) (by rw [gid1]; exact w1.found)
      (w1.seat_ok hs) (fun o ho => hl o (List.mem_cons_of_mem _ ho)) hn.2
    have e : x.writeLanes s ((l, v) :: os) = x.writeLanes (x.writeLane s l v) os := by
      show x.writeLanes (if x.dying.contains l then s else x.writeLane s l v) os = _
      rw [hdy]; rfl
    rw [e]
    refine ⟨h2, w1.trans w2, ?_, ?_⟩
    · intro o ho
      rcases List.mem_cons.1 ho with rfl | ho
      · refine ⟨?_, fun hk => ?_⟩
        · rw [k2 _ _ (by omega) hl1 (by rintro ⟨hm, -⟩; exact hn.1 hm)]; exact v1.1
        · rw [k2 _ _ hd hl1 (by rintro ⟨hm, -⟩; exact hn.1 hm)]; exact v1.2 hk
      · exact v2 o ho
    · intro r l' hr hl' hc
      simp only [List.map_cons, List.mem_cons] at hc
      rw [k2 r l' hr hl' (by rintro ⟨hm, h⟩; exact hc ⟨.inr hm, h⟩),
        k1 r l' hr hl' (by rintro ⟨hm, h⟩; exact hc ⟨.inl (by simpa using hm), h⟩)]

/-! ### Words that stay -/

/-- What a group's register words depend on is the same in two states. -/
theorem State.heldReg_congr {s t : State} {g h : Group} (c : SameContext s t g h) (hr : h.regs = g.regs)
    (hb : h.backed = g.backed) (hh : h.ctl.handler = g.ctl.handler) (hseat : h.seat = g.seat) (hcore : h.core = g.core)
    (hgid : h.gid = g.gid) (hres : ∀ x y, (t.core g.core).resident x y = (s.core g.core).resident x y)
    (hwin : ∀ q, (t.rail g.core q).window = (s.rail g.core q).window) (r l : Nat) : t.heldReg h r l = s.heldReg g r l := by
  unfold State.heldReg Group.inWindow
  rw [hh, hseat, hcore]
  split
  · cases g.seat with
    | none => rfl
    | some n => simp only; rw [hwin]
  · unfold State.lineWord
    rw [hb, hcore, hgid, hres, hr]
    split
    · exact c.word _
    · rfl

/-! ### The move behind an instruction -/

/-- A group put back with its clause ended, and its rail free. -/
theorem State.leaveRail_spec {s : State} {g h : Group} (hg : s.group? g.gid = some g) (hgid : h.gid = g.gid)
    (hcore : h.core = g.core) (hseat : h.seat = g.seat) : OnlyGroup s ((s.putGroup h).leaveRail h) g h ∧
      (∀ x y, (((s.putGroup h).leaveRail h).core g.core).resident x y = (s.core g.core).resident x y) ∧
      (∀ q, (((s.putGroup h).leaveRail h).rail g.core q).window = (s.rail g.core q).window) := by
  have hf : (s.putGroup h).group? g.gid = some h := by
    have := State.group?_putGroup_self (g := h) (h := g) (by rw [hgid]; exact hg); rwa [hgid] at this
  have ho : ∀ n, n ≠ g.gid → (s.putGroup h).group? n = s.group? n :=
    fun n hn => State.group?_putGroup_ne s (by rw [hgid]; exact hn)
  unfold State.leaveRail
  rw [hseat]
  cases hs : g.seat with
  | none =>
    refine ⟨⟨hf, ho, fun _ => rfl, rfl, fun _ _ => rfl, rfl, fun _ => rfl, fun _ _ => rfl, rfl⟩, fun _ _ => rfl, fun _ => rfl⟩
  | some n =>
    simp only
    rw [hcore]
    refine ⟨⟨hf, ho, fun _ => rfl, rfl, ?_, ?_, ?_, ?_, rfl⟩, ?_, ?_⟩
    · intro m hm; unfold State.onRail; rw [State.core_onCore, if_neg (Ne.symm hm)]; rfl
    · unfold State.onRail; rw [State.core_onCore, if_pos rfl]; rfl
    · intro q; rw [State.rail_onRail]; split
      · next h => rw [← h.2]; rfl
      · rfl
    · intro q hq; rw [State.rail_onRail, if_neg]
      · rfl
      · rintro ⟨-, rfl⟩; exact hq (by rw [hs]; rfl)
    · intro x y; unfold State.onRail; rw [State.core_onCore, if_pos rfl]; rfl
    · intro q; rw [State.rail_onRail]; split
      · next h => rw [← h.2]; rfl
      · rfl

/-- The move behind an instruction: its group goes on at the next slot or clause, and no register word has changed
(06 R166). -/
theorem State.nextSlot_spec {s : State} {g : Group} {c : FetchedClause} (hg : s.group? g.gid = some g)
    (hc : g.clause = some c) (lits cycles : Nat) (long : Bool) :
    ∃ h, OnlyGroup s (s.nextSlot g.gid lits cycles long) g h ∧ OnlyContext g h ∧ h.ctl = g.ctl.behind c lits ∧
      h.queues = g.queues ∧ h.stalled = none ∧
      (∀ r l, (s.nextSlot g.gid lits cycles long).heldReg h r l = s.heldReg g r l) := by
  unfold State.nextSlot
  rw [hg]
  simp only [hc, Option.map_some]
  have hw : ∀ (P : FetchedClause → Nat), (∀ c n, P { c with longs := n } = P c) →
      P (if long = true then { c with longs := c.longs + 1 } else c) = P c := by
    intro P hP; split
    · exact hP ..
    · rfl
  have hw1 := hw (fun c => c.words.length) (fun _ _ => rfl)
  have hw2 := hw (fun c => c.lits.length) (fun _ _ => rfl)
  by_cases hlt : g.ctl.slot + 1 < c.words.length
  · rw [if_pos (by rw [hw1]; exact hlt)]
    let h : Group := { g with
      stalled := none
      clause := some (if long = true then { c with longs := c.longs + 1 } else c)
      ctl := { g.ctl with slot := g.ctl.slot + 1, litPos := g.ctl.litPos + lits }
      counters := { g.counters with issue := g.counters.issue + cycles } }
    refine ⟨h, ⟨State.group?_putGroup_self (g := h) (h := g) hg, fun n hn => State.group?_putGroup_ne s (g := h) hn, fun _ => rfl,
      rfl, fun _ _ => rfl, rfl, fun _ => rfl, fun _ _ => rfl, rfl⟩, ⟨rfl⟩, ?_, rfl, rfl, ?_⟩
    · unfold Control.behind; rw [if_pos hlt]
    · intro r l
      exact State.heldReg_congr ⟨rfl, rfl, rfl, rfl, rfl, rfl, rfl⟩ rfl rfl rfl rfl rfl rfl (fun _ _ => rfl) (fun _ => rfl) r l
  · rw [if_neg (by rw [hw1]; exact hlt)]
    unfold State.endClause
    simp only [hw1, hw2]
    let h : Group := { g with
      stalled := none
      clause := none
      done := if g.ctl.handler = true then g.done else g.done + 1
      ctl := { g.ctl with pc := g.ctl.pc + BitVec.ofNat 64 (4 * (1 + (c.words.length + c.lits.length))), slot := 0, litPos := 0
                          resumeWait := false, wdCount := 0#64 }
      counters := { g.counters with issue := g.counters.issue + cycles, clauses := g.counters.clauses + 1 } }
    obtain ⟨h1, h2, h3⟩ := State.leaveRail_spec (h := h) hg rfl rfl rfl
    refine ⟨h, h1, ⟨rfl⟩, ?_, rfl, rfl, ?_⟩
    · unfold Control.behind; rw [if_neg hlt]; simp only [h, Nat.add_assoc]
    · intro r l
      refine State.heldReg_congr ⟨?_, ?_, ?_, rfl, rfl, rfl, rfl⟩ rfl rfl rfl rfl rfl rfl h2 h3 r l
      · have := h1.rest; rw [this]
      · have := h1.rest; rw [this]
      · have := h1.rest; rw [this]

/-! ### Composition -/

theorem OnlyGroup.refl {s : State} {g : Group} (hg : s.group? g.gid = some g) : OnlyGroup s s g g :=
  ⟨hg, fun _ _ => rfl, fun _ => rfl, rfl, fun _ _ => rfl, rfl, fun _ => rfl, fun _ _ => rfl, rfl⟩

theorem OnlyGroup.trans {s t u : State} {g h k : Group} (a : OnlyGroup s t g h) (b : OnlyGroup t u h k) (gid : h.gid = g.gid)
    (core : h.core = g.core) (seat : h.seat = g.seat) : OnlyGroup s u g k := by
  refine ⟨by rw [← gid]; exact b.found, ?_, fun x => (b.bytes x).trans (a.bytes x), ?_, ?_, ?_, ?_, ?_, b.ops.trans a.ops⟩
  · intro n hn; rw [b.others n (by rw [gid]; exact hn), a.others n hn]
  · have := b.rest; rw [a.rest] at this; exact this
  · intro c hc; rw [b.cores c (by rw [core]; exact hc), a.cores c hc]
  · have := b.mine; rw [core, a.mine] at this; exact this
  · intro r; have := b.rails r; rw [core, a.rails r] at this; exact this
  · intro r hr; have := b.other r (by rw [seat]; exact hr); rw [core] at this; rw [this, a.other r hr]

theorem WroteRegs.onlyGroup {s t : State} {g h : Group} (w : WroteRegs s t g h) : OnlyGroup s t g h := by
  refine ⟨w.found, w.others, ?_, ?_, w.cores, w.mine, ?_, w.other, w.ops⟩
  · intro a; rw [w.context.bytes]
  · have := w.rest; rw [this]
  · intro r; have := w.rails r; rw [this]

/-- A group put back with changes that are its own. -/
theorem State.putGroup_only {s : State} {g h : Group} (hg : s.group? g.gid = some g) (hgid : h.gid = g.gid) :
    OnlyGroup s (s.putGroup h) g h := by
  refine ⟨?_, fun n hn => State.group?_putGroup_ne s (by rw [hgid]; exact hn), fun _ => rfl, rfl, fun _ _ => rfl, rfl,
    fun _ => rfl, fun _ _ => rfl, rfl⟩
  have := State.group?_putGroup_self (g := h) (h := g) (by rw [hgid]; exact hg); rwa [hgid] at this

theorem State.tick_only {s : State} {g : Group} (hg : s.group? g.gid = some g) : OnlyGroup s s.tick g g :=
  ⟨hg, fun _ _ => rfl, fun _ => rfl, rfl, fun _ _ => rfl, rfl, fun _ => rfl, fun _ _ => rfl, rfl⟩

/-! ### Lanes -/

theorem laneList_lt {m : Word} {l : Nat} (h : l ∈ laneList m) : l < 32 := by
  unfold laneList at h; simp at h; exact h.1

theorem laneList_nodup (m : Word) : (laneList m).Nodup := by
  unfold laneList; exact List.Nodup.sublist List.filter_sublist List.nodup_range

theorem Issues.lane_lt (i : Issues s g c form op d a b x u) {l : Nat} (h : l ∈ x.S) : l < 32 := by
  obtain ⟨-, -, -, -, -, -, hS, -, -⟩ := i.ctx
  rw [hS] at h; exact laneList_lt h

/-- The lanes that are written are S. -/
theorem Issues.spread_lanes (i : Issues s g c form op d a b x u) {α : Type} (f : Nat → α) :
    (x.spread (x.L.map (fun t => (t, f t)))).map (fun o => o.1) = x.S := by
  obtain ⟨-, -, -, -, -, -, hS, hu, hL⟩ := i.ctx
  unfold Ctx.spread
  by_cases h : g.uniform form = true
  · rw [hu, if_pos h, hL, if_pos h]
    cases hl : laneList (s.tick.actLanes g form) with
    | nil => exact absurd hl i.lanes
    | cons l ls => simp [hS, hl, Function.comp_def]
  · rw [hu, if_neg h, hL, if_neg h, hS]
    simp [Function.comp_def]

theorem Ctx.spread_map {α β : Type} (x : Ctx) (outs : List (Nat × α)) (f : α → β) :
    x.spread (outs.map (fun o => (o.1, f o.2))) = (x.spread outs).map (fun o => (o.1, f o.2)) := by
  unfold Ctx.spread
  split
  · cases outs <;> simp [Function.comp_def]
  · rfl

/-- Raising exceptions touches FPSTAT and SATF alone. -/
theorem Control.raise_shape (k : Control) (t : Nat) (e : BitVec 5) : k.raise t e = { k with fpstat := (k.raise t e).fpstat } := by
  unfold Control.raise; split <;> rfl

theorem Control.raiseAll_shape (k : Control) (outs : List (Nat × LaneOut)) :
    k.raiseAll outs = { k with fpstat := (k.raiseAll outs).fpstat, satf := (k.raiseAll outs).satf } := by
  have : ∀ (os : List (Nat × LaneOut)) (k : Control), os.foldl (fun c o => c.raise o.1 o.2.exc) k =
      { k with fpstat := (os.foldl (fun c o => c.raise o.1 o.2.exc) k).fpstat } := by
    intro os
    induction os with
    | nil => intro _; rfl
    | cons o os ih =>
      intro k
      rw [List.foldl_cons, ih, Control.raise_shape]
  unfold Control.raiseAll
  rw [this]

/-- What a per-lane instruction with a register (or pair) for d does (13 R348): it completes, and its lanes hold its values. -/
theorem issueLanes_done (i : Issues s g c form op d a b x u) (f : Ctx → State → Nat → LaneOut) (hw : form.dWrite = true)
    (hk : x.kind .d = .reg ∨ x.kind .d = .pair) (hd : d.toNat < 240) (hdy : x.dying = [])
    (hfpx : fpxTrap (modeTraps g.ctl.mode) (x.results u f) = none) :
    ∃ t h, issueLanes form op d a b f s = .next t ∧ LaneDone s t g c x u h (x.spread (x.results u f)) := by
  obtain ⟨qs, hu, hgu, hx⟩ := i.popped
  obtain ⟨hgid, hxg, hform, hxd, hxa, hxb, hS, huni, hL⟩ := i.ctx
  let g1 : Group := { g with queues := qs }
  let outs := x.spread (x.results u f)
  have hlanes : outs.map (fun o => o.1) = x.S := i.spread_lanes (fun t => f x u t)
  have hnodup : (outs.map (fun o => o.1)).Nodup := by rw [hlanes, hS]; exact laneList_nodup _
  have hlt : ∀ o ∈ outs, o.1 < 32 := by
    intro o ho
    apply i.lane_lt; rw [← hlanes]; exact List.mem_map_of_mem ho
  have hpush : x.pushes = false := by
    unfold Ctx.pushes; rw [hxd]; simp; omega
  -- the writes
  have hwd : x.writeD u ((x.results u f).map (fun o => (o.1, o.2.val))) = x.writeLanes u (outs.map (fun o => (o.1, o.2.val))) := by
    unfold Ctx.writeD; rw [hpush, Ctx.spread_map x (x.results u f) LaneOut.val]; rfl
  have hlt' : ∀ o ∈ outs.map (fun o => (o.1, o.2.val)), o.1 < 32 := by
    intro o ho; obtain ⟨o', ho', rfl⟩ := List.mem_map.1 ho; exact hlt o' ho'
  have hmap : (outs.map (fun o => (o.1, o.2.val))).map (fun o => o.1) = outs.map (fun o => o.1) := by
    simp [Function.comp_def]
  obtain ⟨h2, w2, v2, k2⟩ := Ctx.writeLanes_spec (x := x) (s := u) (g := g1) (by rw [hgid]) hgu i.seat (by rw [hxd]; omega) hdy
    hlt' (by rw [hmap]; exact hnodup)
  let s2 := x.writeLanes u (outs.map (fun o => (o.1, o.2.val)))
  have gid2 : h2.gid = g.gid := by rw [w2.group]
  have core2 : h2.core = g.core := by rw [w2.group]
  have seat2 : h2.seat = g.seat := by rw [w2.group]
  have ctl2 : h2.ctl = g.ctl := by rw [w2.group]
  have f2 : s2.group? h2.gid = some h2 := by rw [gid2]; exact w2.found
  -- the exceptions
  let h3 : Group := h2.onCtl (fun c => c.raiseAll outs)
  let s3 := s2.onGroup x.gid (fun g => g.onCtl (fun c => c.raiseAll outs))
  have e3 : s3 = s2.putGroup h3 := by
    show s2.onGroup x.gid _ = _
    rw [hgid, State.onGroup_some (g := h2) (by rw [← gid2]; exact f2)]
  have o3 : OnlyGroup s2 s3 h2 h3 := by rw [e3]; exact State.putGroup_only f2 rfl
  have f3 : s3.group? h3.gid = some h3 := o3.found
  have c3 : h3.clause = some c := by
    show h2.clause = some c; rw [w2.group]; exact i.clause
  have held3 : ∀ r l, s3.heldReg h3 r l = s2.heldReg h2 r l := by
    intro r l
    have hs := Control.raiseAll_shape h2.ctl outs
    refine State.heldReg_congr (s := s2) (t := s3) (g := h2) (h := h3) ⟨?_, ?_, ?_, rfl, ?_, ?_, ?_⟩ rfl rfl ?_ rfl rfl rfl ?_ ?_ r l
    · rw [e3]; rfl
    · rw [e3]; rfl
    · rw [e3]; rfl
    · show (h2.ctl.raiseAll outs).shadow = _; rw [hs]
    · show (h2.ctl.raiseAll outs).group = _; rw [hs]
    · show (h2.ctl.raiseAll outs).handle = _; rw [hs]
    · show (h2.ctl.raiseAll outs).handler = _; rw [hs]
    · intro a b; rw [e3]; rfl
    · intro q; rw [e3]; rfl
  -- the move
  obtain ⟨h4, o4, c4, k4, q4, -, held4⟩ := State.nextSlot_spec f3 c3 form.lits x.cycles form.long
  have gid3 : h3.gid = g.gid := gid2
  let t := s3.nextSlot h3.gid form.lits x.cycles form.long
  have hnext : issueLanes form op d a b f s = .next t := by
    unfold issueLanes
    rw [issue_ready i]
    congr 1
    unfold laneEffect
    have : x.mode = g.ctl.mode := by unfold Ctx.mode; rw [hxg]
    simp only [this, hfpx]
    rw [hwd]
    show x.finish s.tick (mkWord op d a b) (.done s3) = t
    unfold Ctx.finish
    have hsl : x.sendLost s.tick s3 = none := by unfold Ctx.sendLost; rw [hpush]; rfl
    simp only [hsl, hdy, List.map_nil, hform]
    show (s3.nextSlot x.gid form.lits x.cycles form.long).killLanes [] = t
    unfold State.killLanes
    rw [hgid, ← gid3]; rfl
  refine ⟨t, h4, hnext, ?_, ⟨?_, ?_, ?_, ?_, ?_⟩⟩
  · intro o ho
    have := v2 (o.1, o.2.val) (List.mem_map.2 ⟨o, ho, rfl⟩)
    refine ⟨?_, fun hp => ?_⟩
    · rw [held4, held3]; exact this.1
    · rw [held4, held3]; exact this.2 hp
  · rw [k4]
    show (h2.ctl.raiseAll outs).behind c form.lits = _
    rw [ctl2, hform]
  · intro r l hr hl hn
    rw [held4, held3, k2 r l hr hl]
    · have hs : u.heldReg g1 r l = s.heldReg g r l := by
        refine State.heldReg_congr ⟨?_, ?_, ?_, rfl, rfl, rfl, rfl⟩ rfl rfl rfl rfl rfl rfl ?_ ?_ r l
        · rw [hu]; rfl
        · rw [hu]; rfl
        · rw [hu]; rfl
        · intro a b; rw [hu]; rfl
        · intro q; rw [hu]; rfl
      exact hs
    · rw [hmap]
      rintro ⟨hm, h1, h2'⟩
      refine hn ⟨hm, h1, ?_⟩
      rcases hk with hk | hk <;> rw [hk] at h2' ⊢ <;> simpa [Kind.span] using h2'
  · rw [q4, hgu]
    show some qs = some h2.queues
    rw [w2.group]
  · constructor
    have e4 := c4.rest
    rw [e4]
    show ({ h2.onCtl (fun c => c.raiseAll outs) with
      regs := h4.regs, regErr := h4.regErr, backed := h4.backed, queues := h4.queues, ctl := h4.ctl, clause := h4.clause
      stalled := h4.stalled, done := h4.done, counters := h4.counters } : Group) = _
    rw [w2.group]
    rfl
  · have o1 : OnlyGroup s u g g1 := by
      rw [hu]
      exact (State.tick_only i.group).trans (State.putGroup_only (s := s.tick) i.group rfl) rfl rfl rfl
    have o2 := w2.onlyGroup
    have a := o1.trans o2 rfl rfl rfl
    have b' := a.trans o3 gid2 core2 seat2
    exact b'.trans o4 gid2 core2 seat2

end Sys2Proof.Machine
end

