-- ==== Sys2Proof/Laws/Done.lean ====
section
/-!
SUPPORT. What an instruction comes to whose effect is on its own group: writes of registers, a change of the control area, and
the move behind it or a branch.
-/
namespace Sys2Proof.Machine

variable {s u : State} {g : Group} {c : FetchedClause} {form : Form} {op d a b : Byte} {x : Ctx}

/-- Issuing with an effect that is done: the move behind it follows. -/
theorem issue_done (i : Issues s g c form op d a b x u) {body : Ctx → State → Act} {t : State} (hb : body x u = .done t)
    (hp : x.pushes = false) (hdy : x.dying = []) :
    issue form op d a b body s = .next (t.nextSlot g.gid form.lits x.cycles form.long) := by
  obtain ⟨hgid, hxg, hform, -⟩ := i.ctx
  rw [issue_ready i, hb]
  unfold Ctx.finish
  have hsl : x.sendLost s.tick t = none := by unfold Ctx.sendLost; rw [hp]; rfl
  simp only [hsl, hdy, List.map_nil, hform, hgid]
  rfl

/-- Issuing with an effect that branches. -/
theorem issue_jump (i : Issues s g c form op d a b x u) {body : Ctx → State → Act} {t : State} {dst : Word64}
    (hb : body x u = .jump t dst) (hp : x.pushes = false) (hdy : x.dying = []) :
    issue form op d a b body s = .next (t.branch g.gid dst x.cycles) := by
  obtain ⟨hgid, hxg, hform, -⟩ := i.ctx
  rw [issue_ready i, hb]
  unfold Ctx.finish
  have hsl : x.sendLost s.tick t = none := by unfold Ctx.sendLost; rw [hp]; rfl
  simp only [hsl, hdy, List.map_nil, hgid]
  rfl

/-- A branch that is taken: the group goes on at the target, and no register word has changed (13 R352). -/
theorem State.branch_spec {s : State} {g : Group} (hg : s.group? g.gid = some g) (dst : Word64) (cycles : Nat) :
    ∃ h, OnlyGroup s (s.branch g.gid dst cycles) g h ∧ OnlyContext g h ∧ h.ctl = g.ctl.branched dst ∧ h.queues = g.queues ∧
      (∀ r l, (s.branch g.gid dst cycles).heldReg h r l = s.heldReg g r l) := by
  unfold State.branch
  rw [hg]
  simp only
  let h : Group := { g with
    stalled := none, clause := none
    done := if g.ctl.handler then g.done else g.done + 1
    ctl := { g.ctl with pc := dst, slot := 0, litPos := 0, resumeWait := false, wdCount := 0#64 }
    counters := { g.counters with issue := g.counters.issue + cycles, clauses := g.counters.clauses + 1 } }
  obtain ⟨h1, h2, h3⟩ := State.leaveRail_spec (h := h) hg rfl rfl rfl
  refine ⟨h, h1, ⟨rfl⟩, rfl, rfl, ?_⟩
  intro r l
  refine State.heldReg_congr ⟨?_, ?_, ?_, rfl, rfl, rfl, rfl⟩ rfl rfl rfl rfl rfl rfl h2 h3 r l
  · have := h1.rest; rw [this]
  · have := h1.rest; rw [this]
  · have := h1.rest; rw [this]

/-- A change of the control area that leaves what register words depend on. -/
structure KeepsView (k m : Control) : Prop where
  handler : m.handler = k.handler
  shadow  : m.shadow = k.shadow
  group   : m.group = k.group
  handle  : m.handle = k.handle

theorem KeepsView.refl (k : Control) : KeepsView k k := ⟨rfl, rfl, rfl, rfl⟩

/-- A change of the control area of a group. -/
theorem State.onCtl_spec {s : State} {g : Group} (hg : s.group? g.gid = some g) (f : Control → Control)
    (hf : KeepsView g.ctl (f g.ctl)) :
    OnlyGroup s (s.onGroup g.gid (fun g => g.onCtl f)) g (g.onCtl f) ∧ OnlyContext g (g.onCtl f) ∧
      (∀ r l, (s.onGroup g.gid (fun g => g.onCtl f)).heldReg (g.onCtl f) r l = s.heldReg g r l) := by
  rw [State.onGroup_some hg]
  exact ⟨State.putGroup_only hg rfl, ⟨rfl⟩, fun r l =>
    State.heldReg_congr (s := s) (t := s.putGroup (g.onCtl f)) (g := g) (h := g.onCtl f)
      ⟨rfl, rfl, rfl, rfl, hf.shadow, hf.group, hf.handle⟩ rfl rfl hf.handler rfl rfl rfl (fun _ _ => rfl) (fun _ => rfl) r l⟩

theorem OnlyContext.trans {g h k : Group} (a : OnlyContext g h) (b : OnlyContext h k) : OnlyContext g k := by
  constructor
  have := b.rest
  rw [a.rest] at this
  exact this

/-- The group behind the pops of an instruction: its queues have changed, its words have not. -/
theorem Issues.held (i : Issues s g c form op d a b x u) :
    ∃ k, u.group? g.gid = some k ∧ k = { g with queues := k.queues } ∧ OnlyGroup s u g k ∧
      ∀ r l, u.heldReg k r l = s.heldReg g r l := by
  obtain ⟨qs, hu, hgu, -⟩ := i.popped
  refine ⟨_, hgu, rfl, ?_, ?_⟩
  · rw [hu]
    exact (State.tick_only i.group).trans (State.putGroup_only (s := s.tick) i.group rfl) rfl rfl rfl
  · intro r l
    rw [hu]
    exact State.heldReg_congr ⟨rfl, rfl, rfl, rfl, rfl, rfl, rfl⟩ rfl rfl rfl rfl rfl rfl (fun _ _ => rfl) (fun _ => rfl) r l

theorem State.nextSlot_spec' {s : State} {g : Group} {c : FetchedClause} {n : Nat} (hg : s.group? n = some g)
    (hc : g.clause = some c) (lits cycles : Nat) (long : Bool) :
    ∃ h, OnlyGroup s (s.nextSlot n lits cycles long) g h ∧ OnlyContext g h ∧ h.ctl = g.ctl.behind c lits ∧
      h.queues = g.queues ∧ h.stalled = none ∧ (∀ r l, (s.nextSlot n lits cycles long).heldReg h r l = s.heldReg g r l) := by
  have := State.group?_gid hg; subst this
  exact State.nextSlot_spec hg hc lits cycles long

theorem State.branch_spec' {s : State} {g : Group} {n : Nat} (hg : s.group? n = some g) (dst : Word64) (cycles : Nat) :
    ∃ h, OnlyGroup s (s.branch n dst cycles) g h ∧ OnlyContext g h ∧ h.ctl = g.ctl.branched dst ∧ h.queues = g.queues ∧
      (∀ r l, (s.branch n dst cycles).heldReg h r l = s.heldReg g r l) := by
  have := State.group?_gid hg; subst this
  exact State.branch_spec hg dst cycles

theorem State.onCtl_spec' {s : State} {g : Group} {n : Nat} (hg : s.group? n = some g) (f : Control → Control)
    (hf : KeepsView g.ctl (f g.ctl)) :
    OnlyGroup s (s.onGroup n (fun g => g.onCtl f)) g (g.onCtl f) ∧ OnlyContext g (g.onCtl f) ∧
      (∀ r l, (s.onGroup n (fun g => g.onCtl f)).heldReg (g.onCtl f) r l = s.heldReg g r l) := by
  have := State.group?_gid hg; subst this
  exact State.onCtl_spec hg f hf

/-- Results written, then the control area changed. -/
theorem wrote_then {s w : State} {g h : Group} {n : Nat} (hn : g.gid = n) (hw : WroteRegs s w g h) (f : Control → Control)
    (hf : KeepsView g.ctl (f g.ctl)) :
    OnlyGroup s (w.onGroup n (fun g => g.onCtl f)) g (h.onCtl f) ∧ OnlyContext g (h.onCtl f) ∧
      (h.onCtl f).ctl = f g.ctl ∧ (h.onCtl f).queues = g.queues ∧ (h.onCtl f).clause = g.clause ∧
      (∀ r l, (w.onGroup n (fun g => g.onCtl f)).heldReg (h.onCtl f) r l = w.heldReg h r l) := by
  subst hn
  have ctl : h.ctl = g.ctl := by rw [hw.group]
  obtain ⟨o, k, v⟩ := State.onCtl_spec' hw.found f (by rw [ctl]; exact hf)
  refine ⟨hw.onlyGroup.trans o (by rw [hw.group]) (by rw [hw.group]) (by rw [hw.group]), ?_, ?_, ?_, ?_, v⟩
  · constructor; unfold Group.onCtl; rw [hw.group]
  · show f h.ctl = _; rw [ctl]
  · show h.queues = _; rw [hw.group]
  · show h.clause = _; rw [hw.group]

/-- An instruction that has written some registers and changed its control area, and then moved on: all it has done. -/
theorem done_wrote (i : Issues s g c form op d a b x u) {body : Ctx → State → Act} {w : State} {k h2 : Group}
    (hk1 : u.group? g.gid = some k) (hw : WroteRegs u w k h2) (f : Control → Control) (hf : KeepsView g.ctl (f g.ctl))
    {d' n : Nat} {lanes : List Nat} (hk : RegsKept u w k h2 d' n lanes)
    (hb : body x u = .done (w.onGroup g.gid (fun g => g.onCtl f))) (hp : x.pushes = false) (hdy : x.dying = []) :
    ∃ t h, issue form op d a b body s = .next t ∧ GroupDone s t g h u ((f g.ctl).behind c form.lits) d' n lanes ∧
      (∀ r l, t.heldReg h r l = w.heldReg h2 r l) := by
  obtain ⟨k', hgu, hkk, ou, hu⟩ := i.held
  rw [hk1] at hgu
  cases hgu
  have kgid : k.gid = g.gid := by rw [hkk]
  have kcore : k.core = g.core := by rw [hkk]
  have kseat : k.seat = g.seat := by rw [hkk]
  have kctl : k.ctl = g.ctl := by rw [hkk]
  have kcl : k.clause = some c := by rw [hkk]; exact i.clause
  obtain ⟨o2, k2, e2, q2, cl2, v2⟩ := wrote_then kgid hw f (by rw [kctl]; exact hf)
  have gid2 : (h2.onCtl f).gid = k.gid := by show h2.gid = _; rw [hw.group]
  have core2 : (h2.onCtl f).core = k.core := by show h2.core = _; rw [hw.group]
  have seat2 : (h2.onCtl f).seat = k.seat := by show h2.seat = _; rw [hw.group]
  have f2 := o2.found
  rw [kgid] at f2
  obtain ⟨h4, o4, c4, e4, q4, -, v4⟩ := State.nextSlot_spec' f2 (by rw [cl2]; exact kcl) form.lits x.cycles form.long
  refine ⟨_, h4, issue_done i hb hp hdy, ⟨?_, ?_, ?_, ?_, ?_⟩, ?_⟩
  · rw [e4, e2, kctl]
  · intro r l hr hl hn
    rw [v4, v2, hk r l hr hl hn, hu]
  · rw [hk1, q4, q2]; rfl
  · have a1 : OnlyContext g k := ⟨by rw [hkk]⟩
    exact a1.trans (k2.trans c4)
  · exact ou.trans (o2.trans o4 gid2 core2 seat2) kgid kcore kseat
  · intro r l; rw [v4, v2]

/-- The same for an instruction that branches. -/
theorem jump_wrote (i : Issues s g c form op d a b x u) {body : Ctx → State → Act} {w : State} {k h2 : Group} {dst : Word64}
    (hk1 : u.group? g.gid = some k) (hw : WroteRegs u w k h2) {d' n : Nat} {lanes : List Nat}
    (hk : RegsKept u w k h2 d' n lanes) (hb : body x u = .jump w dst) (hp : x.pushes = false) (hdy : x.dying = []) :
    ∃ t h, issue form op d a b body s = .next t ∧ GroupDone s t g h u (g.ctl.branched dst) d' n lanes ∧
      (∀ r l, t.heldReg h r l = w.heldReg h2 r l) := by
  obtain ⟨k', hgu, hkk, ou, hu⟩ := i.held
  rw [hk1] at hgu
  cases hgu
  have kgid : k.gid = g.gid := by rw [hkk]
  have kcore : k.core = g.core := by rw [hkk]
  have kseat : k.seat = g.seat := by rw [hkk]
  have kctl : k.ctl = g.ctl := by rw [hkk]
  have f2 := hw.found
  rw [kgid] at f2
  obtain ⟨h4, o4, c4, e4, q4, v4⟩ := State.branch_spec' f2 dst x.cycles
  refine ⟨_, h4, issue_jump i hb hp hdy, ⟨?_, ?_, ?_, ?_, ?_⟩, v4⟩
  · rw [e4]; show h2.ctl.branched dst = _; rw [hw.group, ← kctl]
  · intro r l hr hl hn
    rw [v4, hk r l hr hl hn, hu]
  · rw [hk1, q4]; show some k.queues = some h2.queues; rw [hw.group]
  · have a1 : OnlyContext g k := ⟨by rw [hkk]⟩
    have a2 : OnlyContext k h2 := ⟨by rw [hw.group]⟩
    exact a1.trans (a2.trans c4)
  · exact ou.trans (hw.onlyGroup.trans o4 (by rw [hw.group]) (by rw [hw.group]) (by rw [hw.group])) kgid kcore kseat

/-- No register has changed. -/
theorem RegsKept.refl (s : State) (g : Group) (d n : Nat) (lanes : List Nat) : RegsKept s s g g d n lanes :=
  fun _ _ _ _ _ => rfl

/-- A change of nothing is none. -/
theorem State.onGroup_id {s : State} {g : Group} {n : Nat} (hg : s.group? n = some g) :
    s.onGroup n (fun g => g.onCtl (fun k => k)) = s := by
  have := State.group?_gid hg; subst this
  rw [State.onGroup_some hg]; exact State.putGroup_self hg

/-- An instruction that changes its control area alone. -/
theorem done_ctl (i : Issues s g c form op d a b x u) {body : Ctx → State → Act} (f : Control → Control)
    (hf : KeepsView g.ctl (f g.ctl)) (hb : body x u = .done (u.onGroup g.gid (fun g => g.onCtl f))) (hp : x.pushes = false)
    (hdy : x.dying = []) (d' n : Nat) (lanes : List Nat) :
    ∃ t h, issue form op d a b body s = .next t ∧ GroupDone s t g h u ((f g.ctl).behind c form.lits) d' n lanes := by
  obtain ⟨k, hgu, hkk, -, -⟩ := i.held
  have kgid : k.gid = g.gid := by rw [hkk]
  obtain ⟨t, h, e, hd, -⟩ := done_wrote i hgu (WroteRegs.refl (by rw [kgid]; exact hgu)) f hf (RegsKept.refl u _ d' n lanes) hb hp hdy
  exact ⟨t, h, e, hd⟩

/-- An instruction that changes nothing and moves on. -/
theorem done_same (i : Issues s g c form op d a b x u) {body : Ctx → State → Act} (hb : body x u = .done u)
    (hp : x.pushes = false) (hdy : x.dying = []) (d' n : Nat) (lanes : List Nat) :
    ∃ t h, issue form op d a b body s = .next t ∧ GroupDone s t g h u (g.ctl.behind c form.lits) d' n lanes := by
  obtain ⟨k, hgu, -, -, -⟩ := i.held
  exact done_ctl i (fun k => k) (KeepsView.refl _) (by rw [hb, State.onGroup_id hgu]) hp hdy d' n lanes

/-- An instruction that changes nothing and branches. -/
theorem jump_same (i : Issues s g c form op d a b x u) {body : Ctx → State → Act} {dst : Word64} (hb : body x u = .jump u dst)
    (hp : x.pushes = false) (hdy : x.dying = []) (d' n : Nat) (lanes : List Nat) :
    ∃ t h, issue form op d a b body s = .next t ∧ GroupDone s t g h u (g.ctl.branched dst) d' n lanes := by
  obtain ⟨k, hgu, hkk, -, -⟩ := i.held
  have kgid : k.gid = g.gid := by rw [hkk]
  obtain ⟨t, h, e, hd, -⟩ := jump_wrote i hgu (WroteRegs.refl (by rw [kgid]; exact hgu)) (RegsKept.refl u _ d' n lanes) hb hp hdy
  exact ⟨t, h, e, hd⟩

/-- An instruction that gives each lane of S a value for d, changes its control area and moves on: all it has done. -/
theorem done_values (i : Issues s g c form op d a b x u) {body : Ctx → State → Act} (v : Nat → Word64) (f : Control → Control)
    (hf : KeepsView g.ctl (f g.ctl)) (hk : x.kind .d = .reg ∨ x.kind .d = .pair) (hd : d.toNat < 240) (hdy : x.dying = [])
    (hb : body x u = .done ((x.writeD u (x.L.map (fun l => (l, v l)))).onGroup g.gid (fun g => g.onCtl f))) :
    ∃ t h, issue form op d a b body s = .next t ∧ (∀ o ∈ x.spread (x.L.map (fun l => (l, v l))), Holds t h (x.kind .d) x.d o.1 o.2) ∧
      GroupDone s t g h u ((f g.ctl).behind c form.lits) x.d (x.kind .d).span x.S := by
  obtain ⟨k, hgu, hkk, -, -⟩ := i.held
  obtain ⟨hgid, hxg, hform, hxd, -, -, hS, -⟩ := i.ctx
  have kgid : k.gid = g.gid := by rw [hkk]
  have hpush : x.pushes = false := by unfold Ctx.pushes; rw [hxd]; simp; omega
  have hlanes : (x.spread (x.L.map (fun l => (l, v l)))).map (fun o => o.1) = x.S := i.spread_lanes v
  have hlt : ∀ o ∈ x.spread (x.L.map (fun l => (l, v l))), o.1 < 32 := by
    intro o ho; apply i.lane_lt; rw [← hlanes]; exact List.mem_map_of_mem ho
  obtain ⟨h2, w2, v2, k2⟩ := Ctx.writeLanes_spec (x := x) (s := u) (g := k) (by rw [hgid, kgid]) (by rw [kgid]; exact hgu)
    (by rw [hkk]; exact i.seat) (by rw [hxd]; omega) hdy hlt (by rw [hlanes, hS]; exact laneList_nodup _)
  have hw : x.writeD u (x.L.map (fun l => (l, v l))) = x.writeLanes u (x.spread (x.L.map (fun l => (l, v l)))) := by
    unfold Ctx.writeD; rw [hpush]; rfl
  have hsp : (if x.kind .d = .pair then 2 else 1) = (x.kind .d).span := by
    rcases hk with hk | hk <;> rw [hk] <;> rfl
  rw [hsp, hlanes] at k2
  rw [hw] at hb
  obtain ⟨t, h, e, gd, hv⟩ := done_wrote i hgu w2 f hf k2 hb hpush hdy
  refine ⟨t, h, e, ?_, gd⟩
  intro o ho
  obtain ⟨v3, v4⟩ := v2 o ho
  exact ⟨by rw [hv]; exact v3, fun hp => by rw [hv]; exact v4 hp⟩

end Sys2Proof.Machine
end

