-- ==== Sys2Proof/Laws/Near.lean ====
section
/-!
SUPPORT. What sending an access, an operation or a release comes to (15 R407 to R415; 08 R226): everything an instruction of memory
or synchronisation can do at issue.
-/
namespace Sys2Proof.Machine

variable {s t u : State} {g h k : Group} {c : FetchedClause} {form : Form} {op d a b : Byte} {x : Ctx}

theorem Near.refl (hg : s.group? g.gid = some g) : Near s s g g :=
  ⟨hg, fun _ _ => rfl, fun _ => rfl, rfl, fun _ _ => rfl, rfl, fun _ _ => rfl, fun _ _ _ _ => rfl, ⟨rfl⟩⟩

theorem OnlyContext.gid (o : OnlyContext g h) : h.gid = g.gid := by rw [o.rest]
theorem OnlyContext.core (o : OnlyContext g h) : h.core = g.core := by rw [o.rest]
theorem OnlyContext.seat (o : OnlyContext g h) : h.seat = g.seat := by rw [o.rest]

theorem Near.trans (a : Near s t g h) (b : Near t u h k) : Near s u g k := by
  have gid := a.context.gid
  have core := a.context.core
  have seat := a.context.seat
  refine ⟨by rw [← gid]; exact b.found, ?_, fun x => (b.bytes x).trans (a.bytes x), ?_, ?_, ?_, ?_, ?_, a.context.trans b.context⟩
  · intro n hn; rw [b.others n (by rw [gid]; exact hn), a.others n hn]
  · have := b.rest; rw [a.rest] at this; exact this
  · intro n hn; rw [b.cores n (by rw [core]; exact hn), a.cores n hn]
  · have := b.mine; rw [core, a.mine] at this; exact this
  · intro r hr; have := b.other r (by rw [seat]; exact hr); rw [core] at this; rw [this, a.other r hr]
  · intro r l hr hl; rw [b.regs r l hr hl, a.regs r l hr hl]

/-- What acts on the group alone, and leaves its register words, is near. -/
theorem OnlyGroup.near (o : OnlyGroup s t g h) (ctx : OnlyContext g h) (regs : ∀ r l, t.heldReg h r l = s.heldReg g r l) :
    Near s t g h := by
  refine ⟨o.found, o.others, o.bytes, ?_, o.cores, ?_, o.other, fun r l _ _ => regs r l, ctx⟩
  · have := o.rest; rw [this]
  · have := o.mine; rw [this]

theorem Issues.near (i : Issues s g c form op d a b x u) : ∃ k, u.group? g.gid = some k ∧ k = { g with queues := k.queues } ∧
    Near s u g k := by
  obtain ⟨k, hk, hkk, o, r⟩ := i.held
  exact ⟨k, hk, hkk, o.near ⟨by rw [hkk]⟩ r⟩

/-- A group put back with a new control area, queues or counters. -/
theorem State.putGroup_near (hg : s.group? g.gid = some g) (ctx : OnlyContext g h) (hr : h.regs = g.regs) (hb : h.backed = g.backed)
    (hv : KeepsView g.ctl h.ctl) : Near s (s.putGroup h) g h :=
  (State.putGroup_only hg ctx.gid).near ctx (fun r l => State.heldReg_congr (s := s) (t := s.putGroup h) (g := g) (h := h)
    ⟨rfl, rfl, rfl, by rw [ctx.rest], hv.shadow, hv.group, hv.handle⟩ hr hb hv.handler ctx.seat ctx.core ctx.gid (fun _ _ => rfl)
    (fun _ => rfl) r l)

theorem State.onGroup_near {n : Nat} (hg : s.group? n = some g) (f : Group → Group) (ctx : OnlyContext g (f g))
    (hr : (f g).regs = g.regs) (hb : (f g).backed = g.backed) (hv : KeepsView g.ctl (f g).ctl) :
    Near s (s.onGroup n f) g (f g) := by
  have := State.group?_gid hg; subst this
  rw [State.onGroup_some hg]
  exact State.putGroup_near hg ctx hr hb hv

/-- A change of what is in flight, of numbers, or of the die's translation cache. -/
theorem near_flight (hg : s.group? g.gid = some g) (n : Nat) (ops : List OutOp) (cs : List Commit) (tlb : Sparse (List TlbEntry)) :
    Near s { s with nextId := n, ops := ops, commits := cs, dieTlb := tlb } g g :=
  ⟨hg, fun _ _ => rfl, fun _ => rfl, rfl, fun _ _ => rfl, rfl, fun _ _ => rfl, fun _ _ _ _ => rfl, ⟨rfl⟩⟩

/-- A change of a core's caches, stream or claims. -/
theorem near_core (hg : s.group? g.gid = some g) (f : Core → Core)
    (hf : ∀ k, f k = { k with tlb := (f k).tlb, l1 := (f k).l1, stream := (f k).stream, tileOwner := (f k).tileOwner }) :
    Near s (s.onCore g.core f) g g := by
  have hrails : ((s.onCore g.core f).core g.core).rails = (s.core g.core).rails := by
    rw [State.core_onCore, if_pos rfl, hf]
  have hmantle : ((s.onCore g.core f).core g.core).mantle = (s.core g.core).mantle := by
    rw [State.core_onCore, if_pos rfl, hf]
  refine ⟨hg, fun _ _ => rfl, fun _ => rfl, rfl, ?_, ?_, ?_, ?_, ⟨rfl⟩⟩
  · intro n hn; rw [State.core_onCore, if_neg (Ne.symm hn)]
  · rw [State.core_onCore, if_pos rfl]; conv => lhs; rw [hf]
    rw [hf]
  · intro r _; unfold State.rail; rw [hrails]
  · intro r l _ _
    refine State.heldReg_congr (s := s) (t := s.onCore g.core f) (g := g) (h := g) ⟨rfl, rfl, rfl, rfl, rfl, rfl, rfl⟩ rfl rfl rfl rfl rfl
      rfl ?_ ?_ r l
    · intro x y; unfold Core.resident; rw [hmantle]
    · intro q; unfold State.rail; rw [hrails]

/-! ### What sending costs (04 R115, 07 R211) -/

theorem State.noteTlb_near (hg : s.group? g.gid = some g) (handle : Word) (line : Nat) :
    Near s (s.noteTlb g.core handle line) g g ∧ (s.noteTlb g.core handle line).ops = s.ops ∧
      (s.noteTlb g.core handle line).commits = s.commits := by
  unfold State.noteTlb
  cases s.page? handle line with
  | none => exact ⟨Near.refl hg, rfl, rfl⟩
  | some p =>
    refine ⟨?_, rfl, rfl⟩
    exact (near_core hg (fun k => { k with tlb := addTlb 128 (Config.tlbDrops s.freeCtr) ⟨handle, p.va⟩ k.tlb }) (fun _ => rfl)).trans
      (near_flight (s := s.onCore g.core (fun k => { k with tlb := addTlb 128 (Config.tlbDrops s.freeCtr) ⟨handle, p.va⟩ k.tlb })) hg
        s.nextId s.ops s.commits _)

theorem noteTlbs_near (ls : List Nat) (handle : Word) {s : State} (hg : s.group? g.gid = some g) :
    Near s (ls.foldl (fun t line => t.noteTlb g.core handle line) s) g g ∧
      (ls.foldl (fun t line => t.noteTlb g.core handle line) s).ops = s.ops ∧
      (ls.foldl (fun t line => t.noteTlb g.core handle line) s).commits = s.commits := by
  induction ls generalizing s with
  | nil => exact ⟨Near.refl hg, rfl, rfl⟩
  | cons l ls ih =>
    obtain ⟨n1, o1, c1⟩ := State.noteTlb_near hg handle l
    obtain ⟨n2, o2, c2⟩ := ih n1.found
    exact ⟨n1.trans n2, o2.trans o1, c2.trans c1⟩

/-- A change of the control area alone that leaves what register words depend on. -/
theorem State.onCtl_near {n : Nat} (hg : s.group? n = some g) (f : Control → Control) (hf : KeepsView g.ctl (f g.ctl)) :
    Near s (s.onGroup n (fun g => g.onCtl f)) g (g.onCtl f) :=
  State.onGroup_near hg (fun g => g.onCtl f) ⟨rfl⟩ rfl rfl hf

/-- Charging an access: ALC rises by its requests where the allowance meters them, and nothing else is seen (04 R115). -/
theorem Ctx.charge_near {x : Ctx} (hx : x.gid = g.gid) (hc : x.g.core = g.core) (hg : s.group? g.gid = some g) (r : BufRec) (space : Space)
    (ps : List Probe) : ∃ h, Near s (x.charge s r space ps) g h ∧ (x.charge s r space ps).ops = s.ops ∧
      (x.charge s r space ps).commits = s.commits ∧ h.clause = g.clause ∧ h.queues = g.queues ∧
      h.ctl = (if x.metered r then { g.ctl with alc := g.ctl.alc + BitVec.ofNat 32 (requestsOf ps).length } else g.ctl) := by
  unfold Ctx.charge
  simp only [hx, hc]
  by_cases hm : x.metered r = true
  · simp only [hm, if_true]
    let f : Group → Group := fun g =>
      (g.onCtl (fun c => { c with alc := c.alc + BitVec.ofNat 32 (requestsOf ps).length })).count
        (fun c => { c with alwReq := c.alwReq + (requestsOf ps).length })
    have n1 : Near s (s.onGroup g.gid f) g (f g) := State.onGroup_near hg f ⟨rfl⟩ rfl rfl ⟨rfl, rfl, rfl, rfl⟩
    have e1 : (s.onGroup g.gid f).ops = s.ops := by simp
    have e2 : (s.onGroup g.gid f).commits = s.commits := by simp
    cases space with
    | virt h =>
      simp only
      split
      · exact ⟨f g, n1, e1, e2, rfl, rfl, rfl⟩
      · obtain ⟨n2, o2, c2⟩ := noteTlbs_near (g := f g) (distinct (ps.flatMap (fun p => p.lines))) h n1.found
        exact ⟨f g, n1.trans n2, o2.trans e1, c2.trans e2, rfl, rfl, rfl⟩
    | sram => exact ⟨f g, n1, e1, e2, rfl, rfl, rfl⟩
    | fabric _ _ => exact ⟨f g, n1, e1, e2, rfl, rfl, rfl⟩
  · simp only [hm, Bool.false_eq_true, if_false]
    cases space with
    | virt h =>
      simp only
      split
      · exact ⟨g, Near.refl hg, rfl, rfl, rfl, rfl, rfl⟩
      · obtain ⟨n2, o2, c2⟩ := noteTlbs_near (distinct (ps.flatMap (fun p => p.lines))) h hg
        exact ⟨g, n2, o2, c2, rfl, rfl, rfl⟩
    | sram => exact ⟨g, Near.refl hg, rfl, rfl, rfl, rfl, rfl⟩
    | fabric _ _ => exact ⟨g, Near.refl hg, rfl, rfl, rfl, rfl, rfl⟩

/-! ### Sending and moving on -/

theorem State.leaveRail_ops (s : State) (g : Group) : (s.leaveRail g).ops = s.ops ∧ (s.leaveRail g).commits = s.commits := by
  unfold State.leaveRail; split <;> exact ⟨rfl, rfl⟩

theorem State.endClause_ops (s : State) (g : Group) : (s.endClause g).ops = s.ops ∧ (s.endClause g).commits = s.commits := by
  unfold State.endClause; exact State.leaveRail_ops ..

/-- The move behind an instruction changes nothing in flight. -/
theorem State.nextSlot_ops (s : State) (n lits cycles : Nat) (long : Bool) :
    (s.nextSlot n lits cycles long).ops = s.ops ∧ (s.nextSlot n lits cycles long).commits = s.commits := by
  unfold State.nextSlot
  split
  · exact ⟨rfl, rfl⟩
  · simp only
    split
    · exact ⟨rfl, rfl⟩
    · split
      · exact ⟨rfl, rfl⟩
      · exact State.endClause_ops ..

/-- An instruction that has sent something and moved on. -/
theorem sent_done (i : Issues s g c form op d a b x u) {body : Ctx → State → Act} {w : State} {h0 : Group}
    (hk : u.group? g.gid = some k) (hn : Near u w k h0) (hcl : h0.clause = k.clause) (hb : body x u = .done w) (hp : x.pushes = false)
    (hdy : x.dying = []) :
    ∃ t h, issue form op d a b body s = .next t ∧ Near s t g h ∧ t.ops = w.ops ∧ t.commits = w.commits ∧
      h.ctl = h0.ctl.behind c form.lits ∧ h.queues = h0.queues := by
  obtain ⟨k', hk', hkk, n1⟩ := i.near
  rw [hk] at hk'; cases hk'
  have kgid : k.gid = g.gid := by rw [hkk]
  have f2 := hn.found
  rw [kgid] at f2
  obtain ⟨h, o4, c4, e4, q4, -, v4⟩ := State.nextSlot_spec' f2 (c := c) (by rw [hcl, hkk]; exact i.clause) form.lits x.cycles form.long
  obtain ⟨p1, p2⟩ := State.nextSlot_ops w g.gid form.lits x.cycles form.long
  exact ⟨_, h, issue_done i hb hp hdy, n1.trans (hn.trans (o4.near c4 v4)), p1, p2, e4, q4⟩

/-- An instruction that starts an operation has nothing else to do. -/
theorem Ctx.start_near {x : Ctx} (hg : s.group? g.gid = some g) (words : Nat) (kind : OpKind) :
    Near s (x.start s words kind) g g ∧ (x.start s words kind).ops = s.ops ++ [x.newOp s.nextId words kind] ∧
      (x.start s words kind).commits = s.commits :=
  ⟨near_flight hg _ _ _ _, rfl, rfl⟩

/-! ### Loads and stores (15 R411, R413) -/

/-- A load that passes its tests: its operation is outstanding, ALC is charged, and nothing else is seen. -/
theorem load_done (i : Issues s g c form op d a b x u) (lf : LoadForm) (words : Nat) (acq : Bool) {space : Space} {ps : List Probe}
    (ht : x.tests u (bufRec (Sparse.get 0#256 g.recs x.b)) x.b lf.bytes .read (lf != .shape) = .go space ps)
    (ha : ps.flatMap (fun p => u.atomicsOver g.gid p.lane space p.addr (p.addr + p.span)) = []) (hp : x.pushes = false)
    (hdy : x.dying = []) :
    ∃ t h o, issue form op d a b (fun x s => x.load s lf words acq) s = .next t ∧ Near s t g h ∧ t.ops = u.ops ++ [o] ∧
      t.commits = u.commits ∧ o.gid = g.gid ∧ o.flag = x.flag ∧ o.lanes = x.sMask ∧ o.dest = x.d ∧ o.destWords = words ∧
      (∃ image hint lines lanes acquire, o.kind = .load lf space image hint lines lanes acquire x.uni ∧
        image = Sparse.get 0#256 g.recs x.b ∧ lines = u.loadLines (bufRec image) x.b space ps ∧ lanes = x.loadLanes space ps ∧
        acquire = if acq && (bufRec image).scope != 0 then some (bufRec image).scope else none) ∧
      h.ctl = (if x.metered (bufRec (Sparse.get 0#256 g.recs x.b)) then
        { g.ctl with alc := g.ctl.alc + BitVec.ofNat 32 (requestsOf ps).length } else g.ctl).behind c form.lits := by
  obtain ⟨hgid, hxg, hform, -⟩ := i.ctx
  obtain ⟨k, hk, hkk, -⟩ := i.near
  have kgid : k.gid = g.gid := by rw [hkk]
  have kcore : k.core = g.core := by rw [hkk]
  have kctl : k.ctl = g.ctl := by rw [hkk]
  obtain ⟨h1, n1, o1, c1, cl1, -, e1⟩ := Ctx.charge_near (x := x) (s := u) (g := k) (by rw [hgid, kgid]) (by rw [hxg, kcore])
    (by rw [kgid]; exact hk) (bufRec (Sparse.get 0#256 g.recs x.b)) space ps
  let w := x.charge u (bufRec (Sparse.get 0#256 g.recs x.b)) space ps
  have g1 : h1.gid = k.gid := n1.context.gid
  let image := Sparse.get 0#256 g.recs x.b
  let kind : OpKind := .load lf space image (if (bufRec image).cpol = 0 then modeCpol x.mode else (bufRec image).cpol)
    (u.loadLines (bufRec image) x.b space ps) (x.loadLanes space ps)
    (if acq && (bufRec image).scope != 0 then some (bufRec image).scope else none) x.uni
  obtain ⟨n2, o2, c2⟩ := Ctx.start_near (x := x) (s := w) (g := h1) (by rw [g1]; exact n1.found) words kind
  have hb : x.load u lf words acq = .done (x.start w words kind) := by
    unfold Ctx.load
    simp only [hxg, hgid]
    rw [ht]
    simp only [ha, List.isEmpty_nil, Bool.not_true, Bool.false_eq_true, if_false]
    rfl
  obtain ⟨t, h, e, nn, p1, p2, q1, -⟩ := sent_done (body := fun x s => x.load s lf words acq) i hk (n1.trans n2) cl1 hb hp hdy
  refine ⟨t, h, x.newOp w.nextId words kind, e, nn, ?_, ?_, hgid, rfl, rfl, rfl, rfl, ?_, ?_⟩
  · rw [p1, o2]; show (x.charge u _ space ps).ops ++ _ = _; rw [o1]
  · rw [p2, c2]; exact c1
  · exact ⟨_, _, _, _, _, rfl, rfl, rfl, rfl, rfl⟩
  · rw [q1, e1, kctl]

/-- A store that passes its tests: its entries stand at the tail of the pending-store buffer, and no byte of memory has
changed. -/
theorem store_done (i : Issues s g c form op d a b x u) (size : Nat) {space : Space} {ps : List Probe}
    (ht : x.tests u (bufRec (Sparse.get 0#256 g.recs x.b)) x.b size .write true = .go space ps)
    (hr : (x.entries u (bufRec (Sparse.get 0#256 g.recs x.b)) space ps size none).length ≤ g.ctl.psbFree) (hp : x.pushes = false)
    (hdy : x.dying = []) :
    ∃ t h, issue form op d a b (fun x s => x.store s size) s = .next t ∧ Near s t g h ∧ t.ops = u.ops ∧ t.commits = u.commits ∧
      h.ctl = (let r := bufRec (Sparse.get 0#256 g.recs x.b)
        let k := if x.metered r then { g.ctl with alc := g.ctl.alc + BitVec.ofNat 32 (requestsOf ps).length } else g.ctl
        { k with psb := g.ctl.psb ++ x.entries u r space ps size none }).behind c form.lits := by
  obtain ⟨hgid, hxg, hform, -⟩ := i.ctx
  obtain ⟨k, hk, hkk, -⟩ := i.near
  have kgid : k.gid = g.gid := by rw [hkk]
  have kcore : k.core = g.core := by rw [hkk]
  have kctl : k.ctl = g.ctl := by rw [hkk]
  let r := bufRec (Sparse.get 0#256 g.recs x.b)
  let es := x.entries u r space ps size none
  obtain ⟨h1, n1, o1, c1, cl1, -, e1⟩ := Ctx.charge_near (x := x) (s := u) (g := k) (by rw [hgid, kgid]) (by rw [hxg, kcore])
    (by rw [kgid]; exact hk) r space ps
  have f1 := n1.found
  rw [kgid] at f1
  have n2 := State.onCtl_near f1 (fun c => { c with psb := c.psb ++ es }) ⟨rfl, rfl, rfl, rfl⟩
  have hb : x.store u size = .done ((x.charge u r space ps).onGroup g.gid (fun g => g.onCtl (fun c => { c with psb := c.psb ++ es }))) := by
    unfold Ctx.store
    simp only [hxg]
    rw [ht]
    simp only
    rw [if_neg (by show ¬(g.ctl.psbFree < es.length); exact Nat.not_lt.2 hr)]
    unfold State.placeEntries
    rw [hgid]
  obtain ⟨t, h, e, nn, p1, p2, q1, -⟩ := sent_done (body := fun x s => x.store s size) i hk (n1.trans n2) cl1 hb hp hdy
  refine ⟨t, h, e, nn, ?_, ?_, ?_⟩
  · rw [p1]; simp [o1]
  · rw [p2]; simp [c1]
  · rw [q1]
    show ({ h1.ctl with psb := h1.ctl.psb ++ es } : Control).behind c form.lits = _
    rw [e1, kctl]
    by_cases hm : x.metered r = true <;> simp [r, hm, es]

/-! ### The checks -/

/-- When no check finds anything, each found nothing. -/
theorem firstOf_none : ∀ {fs : List Finding}, firstOf fs = none → ∀ f ∈ fs, f = none
  | [], _, f, hf => by cases hf
  | some v :: fs, h, _, _ => by simp [firstOf] at h
  | none :: fs, h, f, hf => by
    rcases List.mem_cons.1 hf with rfl | hm
    · rfl
    · exact firstOf_none (fs := fs) h f hm

end Sys2Proof.Machine
end

