-- ==== Sys2Proof/Laws/Effect.lean ====
section
/-!
SUPPORT. What an instruction comes to, from its effect alone: the move behind it, a branch, or an operation that has started.
-/
namespace Sys2Proof.Machine

variable {s t u w : State} {g h k : Group} {c : FetchedClause} {form : Form} {op d a b : Byte} {x : Ctx}

/-- The move behind an instruction. -/
theorem nextSlot_behind {n : Nat} (hg : w.group? n = some k) (hc : k.clause = some c) (lits cycles : Nat) (long : Bool) :
    Behind w (w.nextSlot n lits cycles long) n c lits := by
  obtain ⟨h, o, oc, e, q, -, v⟩ := State.nextSlot_spec' hg hc lits cycles long
  obtain ⟨p1, p2⟩ := State.nextSlot_ops w n lits cycles long
  exact ⟨k, h, hg, o, oc, e, q, p2, p1, v⟩

/-- A branch changes nothing in flight. -/
theorem State.branch_ops (s : State) (n : Nat) (dst : Word64) (cycles : Nat) :
    (s.branch n dst cycles).ops = s.ops ∧ (s.branch n dst cycles).commits = s.commits := by
  unfold State.branch
  split
  · exact ⟨rfl, rfl⟩
  · exact State.leaveRail_ops ..

theorem branch_taken {n : Nat} (hg : w.group? n = some k) (dst : Word64) (cycles : Nat) :
    Branches w (w.branch n dst cycles) n dst := by
  obtain ⟨h, o, oc, e, q, v⟩ := State.branch_spec' hg dst cycles
  obtain ⟨p1, p2⟩ := State.branch_ops w n dst cycles
  exact ⟨k, h, hg, o, oc, e, q, p2, p1, v⟩

/-- An instruction whose effect leaves its group in its clause moves on behind it. -/
theorem effect_behind (i : Issues s g c form op d a b x u) {body : Ctx → State → Act} (hb : body x u = .done w)
    (hw : w.group? g.gid = some k) (hc : k.clause = some c) (hp : x.pushes = false) (hdy : x.dying = []) :
    ∃ t, issue form op d a b body s = .next t ∧ Behind w t g.gid c form.lits :=
  ⟨_, issue_done i hb hp hdy, nextSlot_behind hw hc _ _ _⟩

/-- An instruction whose effect is a branch takes it. -/
theorem effect_branches (i : Issues s g c form op d a b x u) {body : Ctx → State → Act} {dst : Word64} (hb : body x u = .jump w dst)
    (hw : w.group? g.gid = some k) (hp : x.pushes = false) (hdy : x.dying = []) :
    ∃ t, issue form op d a b body s = .next t ∧ Branches w t g.gid dst :=
  ⟨_, issue_jump i hb hp hdy, branch_taken hw dst _⟩

/-- The group behind the pops is still in its clause. -/
theorem Issues.stands (i : Issues s g c form op d a b x u) : ∃ k, u.group? g.gid = some k ∧ k.clause = some c ∧
    k = { g with queues := k.queues } := by
  obtain ⟨k, hk, hkk, -⟩ := i.held
  exact ⟨k, hk, by rw [hkk]; exact i.clause, hkk⟩

/-- An instruction that starts an operation and does nothing else. -/
theorem effect_starts (i : Issues s g c form op d a b x u) {body : Ctx → State → Act} {words : Nat} {kind : OpKind}
    (hb : body x u = .done (x.start u words kind)) (hp : x.pushes = false) (hdy : x.dying = []) :
    ∃ t h, issue form op d a b body s = .next t ∧ Near s t g h ∧ h.ctl = g.ctl.behind c form.lits ∧
      (u.group? g.gid).map (fun k => k.queues) = some h.queues ∧ t.commits = u.commits ∧
      t.ops = u.ops ++ [x.newOp u.nextId words kind] := by
  obtain ⟨k, hk, -, hkk⟩ := i.stands
  have kgid : k.gid = g.gid := by rw [hkk]
  obtain ⟨n2, o2, c2⟩ := Ctx.start_near (x := x) (s := u) (g := k) (by rw [kgid]; exact hk) words kind
  obtain ⟨t, h, e, nn, p1, p2, q1, q2⟩ := sent_done i hk n2 rfl hb hp hdy
  refine ⟨t, h, e, nn, ?_, ?_, ?_, ?_⟩
  · rw [q1, hkk]
  · rw [hk, q2]; rfl
  · rw [p2, c2]
  · rw [p1, o2]

/-- A long-latency instruction that issues pushes nothing: its destination is no queue (06 R170). -/
theorem Issues.no_push (i : Issues s g c form op d a b x u) (hl : form.long = true) : x.pushes = false := by
  obtain ⟨hgid, hxg, hform, hxd, -⟩ := i.ctx
  refine Bool.eq_false_iff.2 (fun hp => ?_)
  unfold Ctx.pushes at hp
  simp only [Bool.and_eq_true, decide_eq_true_eq, beq_iff_eq] at hp
  obtain ⟨⟨hw, hk⟩, hd⟩ := hp
  rw [hform] at hw
  unfold Ctx.kind at hk
  simp only [hform] at hk
  have hty : x.ty = modeType g.ctl.mode := by unfold Ctx.ty; rw [hxg]
  rw [hty] at hk
  have hleg := i.legal
  unfold State.findingsAt Form.findings at hleg
  have h3 := firstOf_none hleg
  have hq := h3 (findIf (queueMisuse (form.d.under (modeType (s.tick.checkOf g).mode)) d.toNat form.dRead form.dWrite form.long)
    1 3) (by simp)
  have hm : (s.tick.checkOf g).mode = g.ctl.mode := rfl
  rw [hm] at hq
  have hmis : queueMisuse (form.d.under (modeType g.ctl.mode)) d.toNat form.dRead form.dWrite form.long = true := by
    rw [hk, hl, hw]
    unfold queueMisuse
    have : decide (240 ≤ d.toNat) = true := by simp; omega
    simp [this, Kind.span]
  rw [hmis] at hq
  simp [findIf] at hq

/-- An instruction without a register destination pushes nothing. -/
theorem Issues.no_push' (i : Issues s g c form op d a b x u) (hw : form.dWrite = false) : x.pushes = false := by
  obtain ⟨-, -, hform, -⟩ := i.ctx
  unfold Ctx.pushes; rw [hform, hw]; rfl

/-- The lanes of a mask. -/
theorem mem_laneList (m : Word) (l : Nat) : l ∈ laneList m ↔ l < 32 ∧ m.getLsbD l = true := by
  unfold laneList; simp

/-- The bits of a mask of lanes. -/
theorem getLsbD_maskOf (ls : List Nat) (j : Nat) : (maskOf ls).getLsbD j = decide (j < 32 ∧ j ∈ ls) := by
  induction ls with
  | nil => simp [maskOf]
  | cons l ls ih =>
    rw [maskOf, BitVec.getLsbD_or, ih, laneBit]
    by_cases hj : j < 32
    · simp only [BitVec.getLsbD_shiftLeft, hj, List.mem_cons, true_and]
      by_cases h : j = l
      · subst h; simp
      · have h1 : (1#32).getLsbD (j - l) = true ↔ j - l = 0 := by
          rw [BitVec.getLsbD_one]; simp
        by_cases h2 : j < l
        · simp [h2, h]
        · have : (1#32).getLsbD (j - l) = false := by
            rw [Bool.eq_false_iff]; intro hh; have := h1.1 hh; omega
          simp [this, h]
    · simp [hj, BitVec.getLsbD_of_ge _ _ (Nat.le_of_not_lt hj)]

/-- Register writes leave the rest of a group. -/
theorem clause_wroteRegs {s w : State} {g h : Group} (hw : WroteRegs s w g h) : h.clause = g.clause ∧ h.gid = g.gid ∧ h.ctl = g.ctl ∧ h.seat = g.seat := by
  rw [hw.group]; simp

/-- A write of a register leaves a group in its clause. -/
theorem stands_write {w : State} {n : Nat} {k : Group} (hw : w.group? n = some k) (r l : Nat) (v : Word) :
    ∃ h, (w.writeReg n r l v).group? n = some h ∧ h.clause = k.clause := by
  have := State.group?_gid hw; subst this
  unfold State.writeReg; rw [hw]; simp only
  split
  · split
    · exact ⟨k, hw, rfl⟩
    · exact ⟨k, by simpa using hw, rfl⟩
  · obtain ⟨h, hh, -⟩ := State.putReg_spec hw r l v
    exact ⟨h, hh.found, (clause_wroteRegs hh).1⟩

/-- So does a run of changes that each leave it. -/
theorem stands_fold {w : State} {n : Nat} {k : Group} (hw : w.group? n = some k) (S : List Nat) (f : State → Nat → State)
    (hf : ∀ w k l, w.group? n = some k → ∃ h, (f w l).group? n = some h ∧ h.clause = k.clause) :
    ∃ h, (S.foldl f w).group? n = some h ∧ h.clause = k.clause := by
  induction S generalizing w k with
  | nil => exact ⟨k, hw, rfl⟩
  | cons l S ih =>
    obtain ⟨h, h1, h2⟩ := hf w k l hw
    obtain ⟨h', h3, h4⟩ := ih (w := f w l) (k := h) h1
    exact ⟨h', h3, h4.trans h2⟩

/-- So does a change of the control area. -/
theorem stands_ctl {w : State} {n : Nat} {k : Group} (hw : w.group? n = some k) (f : Control → Control) :
    ∃ h, (w.onGroup n (fun g => g.onCtl f)).group? n = some h ∧ h.clause = k.clause := by
  have := State.group?_gid hw; subst this
  rw [State.onGroup_some hw]
  exact ⟨k.onCtl f, State.group?_putGroup_self (g := k.onCtl f) (h := k) hw, rfl⟩

/-- A write of every lane leaves a group in its clause. -/
theorem wroteAll_stands (x : Ctx) (w : State) (n k) (hx : x.gid = n) (hw : w.group? n = some k) (d v) : ∃ h, (x.wroteAll w d v).group? n = some h ∧ h.clause = k.clause := by
  subst hx
  exact stands_fold hw _ _ (fun w k l h => stands_write h _ _ _)

/-- A change of the control area leaves a group in its clause. -/
theorem ctl_stands (x : Ctx) (w : State) (n k) (hx : x.gid = n) (hw : w.group? n = some k) (f) : ∃ h, (x.control w f).group? n = some h ∧ h.clause = k.clause := by
  subst hx; exact stands_ctl hw f

/-- An instruction of class 1 acts once. -/
theorem Issues.acts_once (i : Issues s g c form op d a b x u) (h1 : form.one = true) : x.uni = true := by
  obtain ⟨-, -, -, -, -, -, -, hu, -⟩ := i.ctx
  rw [hu]; unfold Group.uniform; simp [h1]

/-- The kind of d. -/
theorem Issues.kind_d (i : Issues s g c form op d a b x u) : x.kind .d = form.d.under x.ty := by
  obtain ⟨-, -, hf, -⟩ := i.ctx; unfold Ctx.kind; rw [hf]

/-- L is S, or its lowest lane. -/
theorem Issues.lanes_L (i : Issues s g c form op d a b x u) : x.L = if x.uni then x.S.take 1 else x.S := by
  obtain ⟨-, -, -, -, -, -, hS, hu, hL⟩ := i.ctx; rw [hL, hS, hu]

/-- An instruction that issues has an active lane. -/
theorem Issues.lanes_S (i : Issues s g c form op d a b x u) : x.S ≠ [] := by
  obtain ⟨-, -, -, -, -, -, hS, hu, hL⟩ := i.ctx; rw [hS]; exact i.lanes

/-- An instruction that acts on Live. -/
theorem Issues.lanes_live (i : Issues s g c form op d a b x u) (h : form.live = true) : x.S = laneList g.ctl.live := by
  obtain ⟨-, -, -, -, -, -, hS, -⟩ := i.ctx; rw [hS]; unfold State.actLanes; rw [if_pos h]

/-- Writing one word to some lanes. -/
theorem writeLanes_all (hdy : x.dying = []) (hk : x.kind .d = .reg) (w : State) (v : Word) (S : List Nat) :
    x.writeLanes w (S.map (fun t => (t, v.setWidth 64))) = S.foldl (fun t l => t.writeReg x.gid x.d l v) w := by
  induction S generalizing w with
  | nil => rfl
  | cons l S ih =>
    rw [List.map_cons, Ctx.writeLanes, ih, hdy]
    simp only [List.contains_nil, Bool.false_eq_true, if_false, List.foldl_cons]
    unfold Ctx.writeLane; rw [hk]; simp only
    congr 2; unfold loWord; apply BitVec.eq_of_getLsbD_eq; intro i hi; simp [hi]; intro h; have := BitVec.lt_of_getLsbD h; omega

/-- A uniform instruction writes its one word to every lane of S. -/
theorem writeD_all (hdy : x.dying = []) (hk : x.kind .d = .reg) (hu : x.uni = true) (hp : x.pushes = false) (w : State) (v : Word) (lane : Nat) :
    x.writeD w [(lane, v.setWidth 64)] = x.wroteAll w x.d v := by
  unfold Ctx.writeD; rw [hp]
  simp only [Bool.false_eq_true, if_false]
  unfold Ctx.spread; rw [hu]; simp only [if_true]
  unfold Ctx.wroteAll
  generalize x.S = S
  induction S generalizing w with
  | nil => rfl
  | cons l S ih =>
    rw [List.map_cons, Ctx.writeLanes, ih, hdy]
    simp only [List.contains_nil, Bool.false_eq_true, if_false, List.foldl_cons]
    unfold Ctx.writeLane; rw [hk]; simp only
    congr 2; unfold loWord; apply BitVec.eq_of_getLsbD_eq; intro i hi; simp [hi]; intro h; have := BitVec.lt_of_getLsbD h; omega

/-- An instruction that gives every lane one word writes it to every lane of S. -/
theorem writeD_L (i : Issues s g c form op d a b x u) (hdy : x.dying = []) (hk : x.kind .d = .reg) (hp : x.pushes = false) (w : State) (v : Word) :
    x.writeD w (x.L.map (fun t => (t, v.setWidth 64))) = x.wroteAll w x.d v := by
  unfold Ctx.writeD; rw [hp]
  simp only [Bool.false_eq_true, if_false]
  unfold Ctx.wroteAll
  rw [← writeLanes_all hdy hk]
  congr 1
  unfold Ctx.spread
  rw [i.lanes_L]
  split
  · have := i.lanes_S
    cases hS : x.S with
    | nil => exact absurd hS this
    | cons l S => simp
  · rfl

/-- A branch does what its effect says. -/
theorem jumps_of {mk form op ok taken eff target} {body : Ctx → State → Act}
    (he : ∀ d a b s, exec (mk d a b) s = issue (form d a b) op d a b body s)
    (hb : ∀ s g c d a b x u, Issues s g c (form d a b) op d a b x u → x.dying = [] → x.pushes = false → ok x u →
      (taken x u → body x u = .jump (eff x u) (target x u)) ∧ (¬taken x u → body x u = .done (eff x u)))
    (hk : ∀ x w n k, x.gid = n → w.group? n = some k → ∃ h, (eff x w).group? n = some h ∧ h.clause = k.clause) :
    Jumps mk form op ok taken eff target := by
  intro s g c d a b x u i hdy hp hok
  obtain ⟨b1, b2⟩ := hb s g c d a b x u i hdy hp hok
  obtain ⟨k, k1, k2, -⟩ := i.stands
  obtain ⟨h, h1, h2⟩ := hk x u g.gid k i.ctx.1 k1
  rw [he]
  by_cases ht : taken x u
  · obtain ⟨t, e, hh⟩ := effect_branches i (b1 ht) h1 hp hdy
    exact ⟨t, e, fun _ => hh, fun hn => absurd ht hn⟩
  · obtain ⟨t, e, hh⟩ := effect_behind i (b2 ht) h1 (h2.trans k2) hp hdy
    exact ⟨t, e, fun hn => absurd hn ht, fun _ => hh⟩

/-- An instruction does what its effect says. -/
theorem completes_of {mk form op ok eff} {body : Byte → Byte → Byte → Ctx → State → Act}
    (he : ∀ d a b s, exec (mk d a b) s = issue (form d a b) op d a b (body d a b) s)
    (hb : ∀ s g c d a b x u, Issues s g c (form d a b) op d a b x u → x.dying = [] → x.pushes = false → ok x u →
      body d a b x u = .done (eff x u))
    (hk : ∀ x w n k, x.gid = n → w.group? n = some k → ok x w → ∃ h, (eff x w).group? n = some h ∧ h.clause = k.clause) :
    Completes mk form op ok eff := by
  intro s g c d a b x u i hdy hp hok
  obtain ⟨k, k1, k2, -⟩ := i.stands
  obtain ⟨h, h1, h2⟩ := hk x u g.gid k i.ctx.1 k1 hok
  rw [he]
  exact effect_behind i (hb s g c d a b x u i hdy hp hok) h1 (h2.trans k2) hp hdy

end Sys2Proof.Machine
end

