-- ==== Sys2Proof/Laws/Release.lean ====
section
/-!
SUPPORT. What a release does at issue (08 R226): it sends the entries of its lanes and stands as an operation.
-/
namespace Sys2Proof.Machine

variable {s t u : State} {g h k : Group} {c : FetchedClause} {form : Form} {op d a b : Byte} {x : Ctx}

/-- A control area that differs in SDROP alone. -/
def SdropOnly (k m : Control) : Prop := m = { k with sdrop := m.sdrop }

theorem SdropOnly.view {k m : Control} (h : SdropOnly k m) : KeepsView k m := by
  rw [h]; exact ⟨rfl, rfl, rfl, rfl⟩

/-- A buffer laid in a control area that differs in SDROP alone. -/
theorem SdropOnly.psb {k m : Control} (h : SdropOnly k m) (p : List PsbEntry) (q : Nat) :
    { m with psb := p, psbHead := q } = { k with psb := p, psbHead := q, sdrop := m.sdrop } := by
  unfold SdropOnly at h; rw [h]

theorem scopeRaised {k m : Control} {n : Nat} (h : m = { k with psb := m.psb, psbHead := m.psbHead, sdrop := m.sdrop }) :
    { m with psbScope := max m.psbScope n } =
      { k with psb := m.psb, psbHead := m.psbHead, psbScope := max k.psbScope n, sdrop := m.sdrop } := by
  rw [h]

theorem State.sendStore_near (hg : s.group? g.gid = some g) (st : PsbStore) (op : Nat) (quantum : Option (Nat × Nat)) :
    ∃ h cs, Near s (s.sendStore g st op quantum).1 g h ∧ (s.sendStore g st op quantum).1.ops = s.ops ∧
      (s.sendStore g st op quantum).1.commits = s.commits ++ cs ∧ h.clause = g.clause ∧ h.queues = g.queues ∧
      SdropOnly g.ctl h.ctl ∧ h.regs = g.regs ∧ h.backed = g.backed := by
  unfold State.sendStore
  simp only
  split
  · exact ⟨g, _, near_flight hg _ _ _ _, rfl, rfl, rfl, rfl, rfl, rfl, rfl⟩
  · exact ⟨g, _, near_flight hg _ _ _ _, rfl, rfl, rfl, rfl, rfl, rfl, rfl⟩
  · split
    · exact ⟨g, _, near_flight hg _ _ _ _, rfl, rfl, rfl, rfl, rfl, rfl, rfl⟩
    · exact ⟨_, [], State.onCtl_near hg _ ⟨rfl, rfl, rfl, rfl⟩, by simp, by simp, rfl, rfl, rfl, rfl, rfl⟩

/-- Sending a store reads of its group only its number, core and context. -/
theorem State.sendStore_congr (s : State) (g h : Group) (e1 : h.gid = g.gid) (e2 : h.core = g.core) (st : PsbStore) (op : Nat)
    (q : Option (Nat × Nat)) : s.sendStore h st op q = s.sendStore g st op q := by
  unfold State.sendStore; rw [e1, e2]

theorem State.sendStores_near (sts : List PsbStore) (op : Nat) (quantum : Nat → Option (Nat × Nat)) {s : State} {g g0 : Group}
    (hg : s.group? g.gid = some g) (e1 : g0.gid = g.gid) (e2 : g0.core = g.core) :
    ∃ h cs, Near s (s.sendStores g0 op quantum sts).1 g h ∧ (s.sendStores g0 op quantum sts).1.ops = s.ops ∧
      (s.sendStores g0 op quantum sts).1.commits = s.commits ++ cs ∧ h.clause = g.clause ∧ h.queues = g.queues ∧
      SdropOnly g.ctl h.ctl := by
  induction sts generalizing s g with
  | nil => exact ⟨g, [], Near.refl hg, rfl, by simp [State.sendStores], rfl, rfl, rfl⟩
  | cons st sts ih =>
    unfold State.sendStores
    simp only
    rw [State.sendStore_congr s g g0 e1 e2]
    obtain ⟨h1, c1, n1, o1, m1, k1, q1, d1, -, -⟩ := State.sendStore_near hg st op (quantum st.entry.lane)
    obtain ⟨h2, c2, n2, o2, m2, k2, q2, d2⟩ := ih (g := h1) (by rw [n1.context.gid]; exact n1.found) (e1.trans n1.context.gid.symm)
      (e2.trans n1.context.core.symm)
    refine ⟨h2, c1 ++ c2, n1.trans n2, o2.trans o1, ?_, k2.trans k1, q2.trans q1, ?_⟩
    · rw [m2, m1, List.append_assoc]
    · unfold SdropOnly at *; rw [d2, d1]

/-- Sending the entries of a buffer that a test picks: they have left it, or are held in it. -/
theorem State.sendEntries_near {n : Nat} (hg : s.group? n = some g) (p : PsbEntry → Bool) (op : Nat)
    (quantum : Nat → Option (Nat × Nat)) (keep : Bool) :
    ∃ h cs, Near s (s.sendEntries n p op quantum keep).1 g h ∧ (s.sendEntries n p op quantum keep).1.ops = s.ops ∧
      (s.sendEntries n p op quantum keep).1.commits = s.commits ++ cs ∧ h.clause = g.clause ∧ h.queues = g.queues ∧
      h.ctl = { g.ctl with psb := h.ctl.psb, psbHead := h.ctl.psbHead, sdrop := h.ctl.sdrop } ∧
      (keep = false → h.ctl.psb = g.ctl.psb.filter (fun e => !(e.held.isNone && p e))) ∧
      (keep = true → h.ctl.psb.length = g.ctl.psb.length) := by
  unfold State.sendEntries
  rw [hg]
  simp only
  let q (e : PsbEntry) : Bool := e.held.isNone && p e
  have hgid := State.group?_gid hg
  obtain ⟨h1, cs, n1, o1, m1, k1, q1, d1⟩ := State.sendStores_near (psbStores (g.ctl.psb.filter q)) op quantum
    (by rw [hgid]; exact hg) rfl rfl
  let w := (s.sendStores g op quantum (psbStores (g.ctl.psb.filter q))).1
  have f1 : w.group? n = some h1 := by rw [← hgid]; exact n1.found
  let f2 : Control → Control := fun c =>
    if keep then { c with psb := c.psb.map (fun e => if q e then { e with held := some op } else e) } else c.takeOut q
  have hf2 : ∀ m : Control, f2 m = { m with psb := (f2 m).psb, psbHead := (f2 m).psbHead } := by
    intro m; simp only [f2]; split <;> rfl
  have n2 : Near w (w.onGroup n (fun g => g.onCtl f2)) h1 (h1.onCtl f2) :=
    State.onCtl_near f1 f2 (by rw [hf2]; exact ⟨rfl, rfl, rfl, rfl⟩)
  refine ⟨h1.onCtl f2, cs, n1.trans n2, ?_, ?_, k1, q1, ?_, ?_, ?_⟩
  · rw [State.onGroup_ops]; exact o1
  · rw [State.onGroup_commits]; exact m1
  · show f2 h1.ctl = { g.ctl with psb := (f2 h1.ctl).psb, psbHead := (f2 h1.ctl).psbHead, sdrop := (f2 h1.ctl).sdrop }
    have hs : (f2 h1.ctl).sdrop = h1.ctl.sdrop := by rw [hf2]
    rw [hs]
    exact (hf2 _).trans (d1.psb _ _)
  · intro hn
    show (f2 h1.ctl).psb = _
    simp only [f2, hn, Bool.false_eq_true, if_false, Control.takeOut]
    rw [d1]
  · intro hn
    show (f2 h1.ctl).psb.length = _
    simp only [f2, hn, if_true, List.length_map]
    rw [d1]

/-- A release at issue: the entries of its lanes have left the buffer (an arrival's are held in it), they are on their way, and the
operation stands behind the others (08 R226, R230). -/
theorem State.startRelease_near (hg : s.group? g.gid = some g) (o : OutOp) (ho : o.gid = g.gid) (scope : Nat) (object : Option Nat)
    (next : ReleaseThen) :
    ∃ h cs before entries, Near s (s.startRelease o scope object next) g h ∧
      (s.startRelease o scope object next).ops = s.ops ++ [{ o with kind := .release scope before entries next }] ∧
      (s.startRelease o scope object next).commits = s.commits ++ cs ∧ h.clause = g.clause ∧ h.queues = g.queues ∧
      h.ctl = { g.ctl with psb := h.ctl.psb, psbHead := h.ctl.psbHead, psbScope := max g.ctl.psbScope scope, sdrop := h.ctl.sdrop } ∧
      (object = none → h.ctl.psb = g.ctl.psb.filter (fun e => !(e.held.isNone && o.lanes.getLsbD e.lane))) ∧
      (object.isSome = true → h.ctl.psb.length = g.ctl.psb.length) := by
  unfold State.startRelease
  rw [ho, hg]
  simp only
  obtain ⟨h1, cs, n1, o1, m1, k1, q1, e1, p1, p2⟩ := State.sendEntries_near hg (fun e => o.lanes.getLsbD e.lane) o.id
    (fun lane => object.map (fun k => (k, s.writerIndex g lane))) object.isSome
  generalize s.sendEntries g.gid (fun e => o.lanes.getLsbD e.lane) o.id (fun lane => object.map (fun k => (k, s.writerIndex g lane)))
    object.isSome = r at *
  let f3 : Control → Control := fun c => { c with psbScope := max c.psbScope scope }
  have g1 : r.1.group? g.gid = some h1 := n1.found
  have n2 : Near r.1 (r.1.onGroup g.gid (fun g => g.onCtl f3)) h1 (h1.onCtl f3) := State.onCtl_near g1 f3 ⟨rfl, rfl, rfl, rfl⟩
  have n12 := n1.trans n2
  generalize hr2 : r.1.onGroup g.gid (fun g => g.onCtl f3) = w at *
  have eops : w.ops = s.ops := by rw [← hr2, State.onGroup_ops]; exact o1
  have ecs : w.commits = s.commits ++ cs := by rw [← hr2, State.onGroup_commits]; exact m1
  have f4 : w.group? (h1.onCtl f3).gid = some (h1.onCtl f3) := by rw [n12.context.gid]; exact n12.found
  refine ⟨h1.onCtl f3, cs, s.earlier g.gid o.lanes,
    if (decide (scope ≤ 1) && object.isNone) = true then w.notAccepted r.2 else r.2, n12.trans (near_flight f4 _ _ _ _), ?_, ecs, k1, q1,
    ?_, ?_, ?_⟩
  · rw [← eops]
  · exact scopeRaised e1
  · intro hn
    exact p1 (by rw [hn]; rfl)
  · intro hn
    exact p2 hn

/-- Sending and releasing change no core. -/
theorem State.sendStores_cores (sts : List PsbStore) (g : Group) (op : Nat) (q : Nat → Option (Nat × Nat)) (s : State) :
    (s.sendStores g op q sts).1.cores = s.cores := by
  induction sts generalizing s with
  | nil => rfl
  | cons st sts ih =>
    unfold State.sendStores
    simp only
    rw [ih]
    unfold State.sendStore
    simp only
    split
    · rfl
    · rfl
    · split
      · rfl
      · exact State.onGroup_cores ..

theorem State.startRelease_cores (s : State) (o : OutOp) (scope : Nat) (object : Option Nat) (next : ReleaseThen) :
    (s.startRelease o scope object next).cores = s.cores := by
  unfold State.startRelease
  split
  · rfl
  · simp only
    rw [State.onGroup_cores]
    unfold State.sendEntries
    split
    · rfl
    · simp only
      rw [State.onGroup_cores, State.sendStores_cores]

end Sys2Proof.Machine
end

