-- ==== Sys2Proof/Laws/Results.lean ====
section
/-!
SUPPORT. What makes a per-lane instruction complete (13 R348).
-/
namespace Sys2Proof.Machine

variable {s u : State} {g : Group} {c : FetchedClause} {form : Form} {op d a b : Byte} {x : Ctx}

theorem Ctx.results_congr (x : Ctx) (s : State) (f f' : Ctx → State → Nat → LaneOut) (h : ∀ l, f x s l = f' x s l) :
    x.results s f = x.results s f' := by
  unfold Ctx.results; apply List.map_congr_left; intro l _; rw [h]

/-- An instruction whose meaning is a per-lane one. -/
theorem laneResult_of {mk : Byte → Byte → Byte → Instr} {form : Byte → Byte → Form} {op : Byte} {f f' : Ctx → State → Nat → LaneOut}
    (h : ∀ x s l, f x s l = f' x s l) (hw : ∀ a b, (form a b).dWrite = true)
    (hk : ∀ a b ty, (form a b).d.under ty = .reg ∨ (form a b).d.under ty = .pair)
    (he : ∀ d a b s, exec (mk d a b) s = issueLanes (form a b) op d a b f' s) : LaneResult mk form op f := by
  intro s g c d a b x u i hdy hd hx
  rw [he]
  have : x.results u f = x.results u f' := Ctx.results_congr _ _ _ _ (fun l => h x u l)
  rw [this] at hx ⊢
  obtain ⟨_, _, hf, _⟩ := i.ctx
  exact issueLanes_done i f' (hw a b) (by unfold Ctx.kind; rw [hf]; exact hk a b _) hd hdy hx

/-- The same for one that raises no exception. -/
theorem intResult_of {mk : Byte → Byte → Byte → Instr} {form : Byte → Byte → Form} {op : Byte} {f f' : Ctx → State → Nat → LaneOut}
    (h : ∀ x s l, f x s l = f' x s l) (hq : ∀ x s l, (f' x s l).exc = 0#5) (hw : ∀ a b, (form a b).dWrite = true)
    (hk : ∀ a b ty, (form a b).d.under ty = .reg ∨ (form a b).d.under ty = .pair)
    (he : ∀ d a b s, exec (mk d a b) s = issueLanes (form a b) op d a b f' s) : IntResult mk form op f := by
  intro s g c d a b x u i hdy hd
  refine laneResult_of h hw hk he s g c d a b x u i hdy hd ?_
  unfold fpxTrap
  have : trappingLanes (modeTraps g.ctl.mode) (x.results u f) = [] := by
    unfold trappingLanes Ctx.results
    rw [List.filter_eq_nil_iff]
    intro o ho
    obtain ⟨l, _, rfl⟩ := List.mem_map.1 ho
    rw [h]; simp [hq]
  rw [this]

/-- The kinds a typed field has: a register, or a pair. -/
theorem Kind.under_typed (ty : Nat) : Kind.typed.under ty = .reg ∨ Kind.typed.under ty = .pair := by
  unfold Kind.under; simp only; split <;> simp

theorem Kind.under_cvt (f ty : Nat) : (Kind.cvt f).under ty = .reg ∨ (Kind.cvt f).under ty = .pair := by
  unfold Kind.under; simp only; split <;> simp

/-- Integer results raise no floating-point exception (13 R379). -/
@[simp] theorem arith_exc (i : IntType) (m : Bool) (v : Int) : (arith i m v).exc = 0#5 := by unfold arith; split <;> rfl
@[simp] theorem LaneOut.plain_exc (v : Word64) : (LaneOut.plain v).exc = 0#5 := rfl
@[simp] theorem Ctx.bitsOut_exc (x : Ctx) (n : Nat) : (x.bitsOut n).exc = 0#5 := rfl
@[simp] theorem flagOut_exc (p : Bool) : (flagOut p).exc = 0#5 := rfl

/-- A cross-lane instruction that raises no enabled exception (14 R399). -/
theorem crossEffect_done (i : Issues s g c form op d a b x u) (f : Ctx → State → Nat → CrossOut)
    (hk : x.kind .d = .reg ∨ x.kind .d = .pair) (hd : d.toNat < 240) (hdy : x.dying = [])
    (hfpx : fpxTrap (modeTraps g.ctl.mode) (x.results u (fun x u l => (f x u l).out)) = none) :
    ∃ t h, issue form op d a b (crossEffect f) s = .next t ∧ CrossDone s t g c x u h f := by
  obtain ⟨hgid, hxg, hform, -⟩ := i.ctx
  have hm : x.mode = g.ctl.mode := by unfold Ctx.mode; rw [hxg]
  have hr : (x.L.map (fun t => (t, f x u t))).map (fun o => (o.1, o.2.out)) = x.results u (fun x u l => (f x u l).out) := by
    unfold Ctx.results; rw [List.map_map]; rfl
  have hb : crossEffect f x u = .done ((x.writeD u (x.L.map (fun l => (l, (f x u l).out.val)))).onGroup g.gid (fun k => k.onCtl (fun k =>
      let k' := k.raiseAll (x.spread (x.results u (fun x u l => (f x u l).out)))
      { k' with deadSrc := k'.deadSrc ||| x.deadSources u f }))) := by
    unfold crossEffect
    simp only [hr, hm, hfpx]
    rw [hgid]
    have hv : (x.results u (fun x u l => (f x u l).out)).map (fun o => (o.1, o.2.val)) =
        x.L.map (fun l => (l, (f x u l).out.val)) := by
      unfold Ctx.results; rw [List.map_map]; rfl
    rw [hv]
    rfl
  obtain ⟨t, h, e, hv, gd⟩ := done_values i _ (fun k =>
      let k' := k.raiseAll (x.spread (x.results u (fun x u l => (f x u l).out)))
      { k' with deadSrc := k'.deadSrc ||| x.deadSources u f }) (by
    have hs := Control.raiseAll_shape g.ctl (x.spread (x.results u (fun x u l => (f x u l).out)))
    simp only; rw [hs]; exact ⟨rfl, rfl, rfl, rfl⟩) hk hd hdy hb
  exact ⟨t, h, e, ⟨hv, by rw [hform]; exact gd⟩⟩

/-- An instruction that starts an operation. -/
theorem starts_of {mk : Byte → Byte → Byte → Instr} {form : Byte → Byte → Byte → Form} {op : Byte} {ok : Ctx → State → Prop} {words : Ctx → Nat}
    {kind : Ctx → State → OpKind} {body : Byte → Byte → Byte → Ctx → State → Act}
    (he : ∀ d a b s, exec (mk d a b) s = issue (form d a b) op d a b (body d a b) s) (hl : ∀ d a b, (form d a b).long = true)
    (hb : ∀ s g c d a b x u, Issues s g c (form d a b) op d a b x u → x.dying = [] → ok x u → body d a b x u = .done (x.start u (words x) (kind x u))) :
    Starts mk form op ok words kind := by
  intro s g c d a b x u i hdy hok
  rw [he]
  exact effect_starts i (hb s g c d a b x u i hdy hok) (i.no_push (hl d a b)) hdy

/-- Results that raise nothing trap nothing. -/
theorem fpxTrap_quiet (x : Ctx) (u : State) (m : BitVec 5) (f : Ctx → State → Nat → LaneOut) (h : ∀ l, (f x u l).exc = 0#5) : fpxTrap m (x.results u f) = none := by
  unfold fpxTrap
  have : trappingLanes m (x.results u f) = [] := by
    unfold trappingLanes Ctx.results
    rw [List.filter_eq_nil_iff]
    intro o ho
    obtain ⟨l, _, rfl⟩ := List.mem_map.1 ho
    simp [h]
  rw [this]

/-- With no exception enabled nothing traps. -/
theorem fpxTrap_off (outs : List (Nat × LaneOut)) : fpxTrap 0#5 outs = none := by
  unfold fpxTrap
  have : trappingLanes 0#5 outs = [] := by
    unfold trappingLanes
    rw [List.filter_eq_nil_iff]; simp
  rw [this]

/-- A cross-lane instruction. -/
theorem crossResult_of {mk : Byte → Byte → Byte → Instr} {form : Form} {op : Byte} {f f' : Ctx → State → Nat → CrossOut} (h : ∀ x s l, f x s l = f' x s l)
    (hk : ∀ ty, form.d.under ty = .reg ∨ form.d.under ty = .pair)
    (he : ∀ d a b s, exec (mk d a b) s = issue form op d a b (crossEffect f') s) : CrossResult mk form op f := by
  have : f = f' := by funext x s l; exact h x s l
  subst this
  intro s g c d a b x u i hdy hd hx
  rw [he]
  exact crossEffect_done i f (by rw [i.kind_d]; exact hk _) hd hdy hx

end Sys2Proof.Machine
end

