-- ==== Sys2Proof/Laws/Stands.lean ====
section
/-!
SUPPORT. What keeps a group in its clause: the effects an instruction is made of leave the clause under way.
-/
namespace Sys2Proof.Machine

variable {w : State} {k : Group} {n : Nat}

/-- A change of the group keeps it in its clause. -/
theorem stands_on (hw : w.group? n = some k) (f : Group → Group) (h1 : (f k).gid = k.gid) (h2 : (f k).clause = k.clause) :
    ∃ h, (w.onGroup n f).group? n = some h ∧ h.clause = k.clause :=
  ⟨f k, State.group?_onGroup_self hw (h1.trans (State.group?_gid hw)), h2⟩

theorem writeBackFar_groups (s : State) (l : FarLine) : (s.writeBackFar l).groups = s.groups := by
  unfold State.writeBackFar; split <;> rfl

/-- Dropping far lines changes no group. -/
theorem dropFar_groups (s : State) (h : Word) : (s.dropFar h).groups = s.groups := by
  unfold State.dropFar State.flushFar
  simp only [State.onFab_groups]
  generalize List.filter _ _ = ls
  induction ls generalizing s with
  | nil => rfl
  | cons l ls ih => exact (ih _).trans (writeBackFar_groups s l)

theorem noteTlb_groups (s : State) (c : Nat) (h : Word) (l : Nat) : (s.noteTlb c h l).groups = s.groups := by
  unfold State.noteTlb; split <;> rfl

theorem noteTlbs_groups (c : Nat) (h : Word) (ls : List Nat) (s : State) :
    (ls.foldl (fun t line => t.noteTlb c h line) s).groups = s.groups := by
  induction ls generalizing s with
  | nil => rfl
  | cons l ls ih => exact (ih _).trans (noteTlb_groups s c h l)

/-- Charging an access keeps the clause. -/
theorem stands_charge (x : Ctx) (hn : x.gid = n) (hw : w.group? n = some k) (r sp ps) : ∃ h, (x.charge w r sp ps).group? n = some h ∧ h.clause = k.clause := by
  subst hn
  have h1 : ∃ h, (if x.metered r then w.onGroup x.gid (fun g =>
        (g.onCtl (fun c => { c with alc := c.alc + BitVec.ofNat 32 (requestsOf ps).length })).count
          (fun c => { c with alwReq := c.alwReq + (requestsOf ps).length })) else w).group? x.gid = some h ∧ h.clause = k.clause := by
    split
    · exact stands_on hw _ rfl rfl
    · exact ⟨k, hw, rfl⟩
  obtain ⟨h, a1, b1⟩ := h1
  refine ⟨h, ?_, b1⟩
  rw [← a1]
  unfold Ctx.charge
  cases sp with
  | sram => rfl
  | fabric _ _ => rfl
  | virt hd =>
    simp only
    split
    · rfl
    · exact State.group?_congr (noteTlbs_groups _ _ _ _) _

/-- Starting a release keeps the clause. -/
theorem stands_release (hw : w.group? n = some k) (o : OutOp) (ho : o.gid = n) (sc ob nx) : ∃ h, (w.startRelease o sc ob nx).group? n = some h ∧ h.clause = k.clause := by
  have e := State.group?_gid hw
  subst e
  obtain ⟨h, cs, bf, en, nn, h1, h2, h3, -⟩ := State.startRelease_near hw o ho sc ob nx
  exact ⟨h, nn.found, h3⟩

end Sys2Proof.Machine
end

