-- ==== Sys2Proof/Laws/Kill.lean ====
section
/-!
SUPPORT. Killing a group (06 R178): a group that has retired stays so, whatever else settling does, and a kill retires its group.
-/
namespace Sys2Proof.Machine

variable {s t u : State} {g h k : Group}

/-- From s to t no group's number has changed, and a retired group is still retired, a killed one still killed. -/
def StaysRetired (s t : State) : Prop :=
  t.groups.map (fun g => g.gid) = s.groups.map (fun g => g.gid) ∧
    ((s.groups.map (fun g => g.gid)).Nodup → ∀ n h, s.group? n = some h → h.gstate = .retired →
      ∃ k, t.group? n = some k ∧ k.gstate = .retired ∧ (h.killed = true → k.killed = true))

theorem StaysRetired.refl (s : State) : StaysRetired s s := ⟨rfl, fun _ _ h hh hr => ⟨h, hh, hr, id⟩⟩

theorem StaysRetired.trans (a : StaysRetired s t) (b : StaysRetired t u) : StaysRetired s u := by
  refine ⟨b.1.trans a.1, fun hn n h hh hr => ?_⟩
  obtain ⟨k, k1, k2, k3⟩ := a.2 hn n h hh hr
  obtain ⟨l, l1, l2, l3⟩ := b.2 (by rw [a.1]; exact hn) n k k1 k2
  exact ⟨l, l1, l2, fun hk => l3 (k3 hk)⟩

/-- What changes no group. -/
theorem StaysRetired.of_groups (e : t.groups = s.groups) : StaysRetired s t := by
  refine ⟨by rw [e], fun _ n h hh hr => ⟨h, ?_, hr, id⟩⟩
  rw [State.group?_congr e]; exact hh

theorem map_replaceFirst {p : Group → Bool} {x : Group} (l : List Group) (hp : ∀ y, p y = true → y.gid = x.gid) :
    (replaceFirst p x l).map (fun g => g.gid) = l.map (fun g => g.gid) := by
  induction l with
  | nil => rfl
  | cons y ys ih =>
    unfold replaceFirst
    split
    · next h => rw [List.map_cons, List.map_cons, hp y h]
    · rw [List.map_cons, List.map_cons, ih]

/-- A group put back that stays retired if it was. -/
theorem StaysRetired.put (h : Group) (hs : ∀ k, s.group? h.gid = some k → k.gstate = .retired → h.gstate = .retired ∧
    (k.killed = true → h.killed = true)) : StaysRetired s (s.putGroup h) := by
  refine ⟨map_replaceFirst _ (fun y hy => by simpa using hy), fun _ n k hk hr => ?_⟩
  by_cases hn : n = h.gid
  · subst hn
    obtain ⟨h1, h2⟩ := hs k hk hr
    exact ⟨h, State.group?_putGroup_self hk, h1, h2⟩
  · exact ⟨k, by rw [State.group?_putGroup_ne s hn]; exact hk, hr, id⟩

theorem StaysRetired.on {n : Nat} {f : Group → Group} (hf : ∀ g, (f g).gid = g.gid ∧ (g.gstate = .retired → (f g).gstate = .retired) ∧
    (g.killed = true → (f g).killed = true)) : StaysRetired s (s.onGroup n f) := by
  cases hg : s.group? n with
  | none => rw [State.onGroup_none hg]; exact StaysRetired.refl s
  | some g =>
    rw [State.onGroup_some hg]
    have e := State.group?_gid hg
    refine StaysRetired.put _ (fun k hk hr => ?_)
    rw [(hf g).1, e, hg] at hk
    cases hk
    exact ⟨(hf g).2.1 hr, (hf g).2.2⟩

/-- A change of every group that keeps numbers, states and kills. -/
theorem StaysRetired.all {f : Group → Group} (e : t.groups = s.groups.map f)
    (hf : ∀ g, (f g).gid = g.gid ∧ (f g).gstate = g.gstate ∧ (f g).killed = g.killed) : StaysRetired s t := by
  refine ⟨by rw [e, List.map_map]; congr 1; funext g; exact (hf g).1, fun _ n h hh hr => ⟨f h, ?_, by rw [(hf h).2.1]; exact hr,
    fun hk => by rw [(hf h).2.2]; exact hk⟩⟩
  unfold State.group? at hh ⊢
  rw [e, List.find?_map]
  have : ((fun g => g.gid == n) ∘ f) = (fun g : Group => g.gid == n) := by funext g; simp [(hf g).1]
  rw [this, hh]
  rfl

theorem StaysRetired.fold {α β : Type} (f : State × β → α → State × β) (hf : ∀ a x, StaysRetired a.1 (f a x).1) (ls : List α) (a : State × β) :
    StaysRetired a.1 (ls.foldl f a).1 := by
  induction ls generalizing a with
  | nil => exact StaysRetired.refl _
  | cons l ls ih => exact (hf a l).trans (ih _)

/-! ### Barriers -/

theorem touchL2_groups (s : State) (a : Nat) : (s.touchL2 a).groups = s.groups := by
  unfold State.touchL2
  simp only
  split
  · rfl
  · split
    · rfl
    · have key : ∀ (v : Option L2Line) (f : L2Line → DeviceMem → DeviceMem),
          (match v with | none => s | some v => s.onMem (f v)).groups = s.groups := by intro v f; cases v <;> rfl
      exact key _ (fun v m => { m with l2 := m.l2.filter (fun l => l.addr != v.addr) ++ [_] })

theorem writeHome_groups (s : State) (sp : Space) (a n b d : Nat) : (s.writeHome sp a n b d).1.groups = s.groups := by
  unfold State.writeHome
  cases sp with
  | virt _ =>
    simp only
    split
    · rfl
    · exact touchL2_groups s a
  | sram => rfl
  | fabric _ _ => rfl

theorem putFar_groups (s : State) (n : Nat) (l : FarLine) : (s.putFar n l).groups = s.groups := by
  unfold State.putFar
  simp only
  split
  · rfl
  · split
    · exact writeBackFar_groups ..
    · exact writeBackFar_groups ..

theorem writeWindows_groups (ws : List Window) (s : State) : (s.writeWindows ws).1.groups = s.groups := by
  induction ws generalizing s with
  | nil => rfl
  | cons w ws ih =>
    unfold State.writeWindows
    simp only
    rw [ih]
    cases hw : w.space with
    | fabric h k => exact putFar_groups ..
    | sram => exact writeHome_groups ..
    | virt h => exact writeHome_groups ..

theorem tryComplete_stays (s : State) (key : Nat) : StaysRetired s (s.tryComplete key).1 := by
  unfold State.tryComplete
  split
  · unfold State.commitQuantum
    simp only
    refine StaysRetired.all (f := fun g => g.onCtl (fun c => { c with psb := c.psb.filter (fun e =>
        match e.held with | none => true | some o => !((List.map (fun w => w.op) (List.filter (fun w => w.object == key &&
          w.phase == some (s.bar key).phase.toNat) (s.onBar key Barrier.commitMark).mem.windows)).contains o)) })) ?_ (fun g => ⟨rfl, rfl, rfl⟩)
    simp only [State.onMem_groups]
    rw [writeWindows_groups]
    rfl
  · exact StaysRetired.refl s

theorem countBar_stays (s : State) (key a b r : Nat) : StaysRetired s (s.countBar key a b r).1 :=
  (StaysRetired.of_groups rfl).trans (tryComplete_stays (s.onBar key (fun k => { k with
    arrCnt := k.arrCnt + a, byteCnt := k.byteCnt + (b : Int) - r })) key)

theorem countDeadLane_stays (s : State) (gid lane : Nat) : StaysRetired s (s.countDeadLane gid lane).1 := by
  unfold State.countDeadLane
  simp only
  refine StaysRetired.fold _ (fun a key => ?_) _ (s, [])
  have h1 : StaysRetired a.1 (a.1.onBar key (fun b => b.noteArrival gid (laneBit lane))) := StaysRetired.of_groups rfl
  exact h1.trans (countBar_stays _ key 1 0 0)

theorem countKilled_stays (s : State) (g : Group) : StaysRetired s (s.countKilled g).1 := by
  unfold State.countKilled
  simp only
  refine StaysRetired.fold _ (fun a key => ?_) _ (s, [])
  split
  · exact StaysRetired.refl _
  · have h1 : StaysRetired a.1 (a.1.onBar key (fun b =>
        { (b.noteArrival g.gid g.ctl.exist) with
          killed := Sparse.set 0 b.killed g.gid (laneList g.ctl.exist).length })) := StaysRetired.of_groups rfl
    exact h1.trans (countBar_stays _ key _ 0 0)

/-! ### Entering handlers, retiring, dying -/

theorem leaveRail_groups (s : State) (g : Group) : (s.leaveRail g).groups = s.groups := by
  unfold State.leaveRail; split <;> rfl

theorem freeWindow_groups (s : State) (g : Group) : (s.freeWindow g).groups = s.groups := by
  unfold State.freeWindow; split <;> rfl

theorem oldestOf_mem {gs : List Group} {g : Group} (h : oldestOf gs = some g) : g ∈ gs := by
  induction gs generalizing g with
  | nil => cases h
  | cons k ks ih =>
    unfold oldestOf at h
    cases ho : oldestOf ks with
    | none => rw [ho] at h; cases h; exact List.mem_cons_self
    | some m =>
      rw [ho] at h
      simp only at h
      split at h
      · cases h; exact List.mem_cons_of_mem _ (ih ho)
      · cases h; exact List.mem_cons_self

/-- A group of the list is the one its number finds, when numbers do not repeat. -/
theorem group?_of_mem (hn : (s.groups.map (fun g => g.gid)).Nodup) (hg : g ∈ s.groups) : s.group? g.gid = some g := by
  unfold State.group?
  induction hs : s.groups generalizing s with
  | nil => rw [hs] at hg; cases hg
  | cons y ys ih =>
    rw [hs] at hn hg
    rw [List.map_cons, List.nodup_cons] at hn
    rw [List.find?_cons]
    rcases List.mem_cons.1 hg with rfl | hm
    · simp
    · have : y.gid ≠ g.gid := fun e => hn.1 (by rw [e]; exact List.mem_map_of_mem hm)
      rw [show (y.gid == g.gid) = false by simp [this]]
      exact ih (s := { s with groups := ys }) hn.2 hm rfl

theorem enterOldest_stays (s : State) (c r : Nat) : StaysRetired s (s.enterOldest c r) := by
  unfold State.enterOldest
  split
  · exact StaysRetired.refl s
  · cases ho : oldestOf _ with
    | none => exact StaysRetired.refl s
    | some g =>
      have hm := (List.mem_filter.1 (oldestOf_mem ho)).1
      unfold State.onRailGroups at hm
      have hin : g ∈ s.groups := (List.mem_filter.1 hm).1
      have hst : g.gstate = .seated := by
        have := (List.mem_filter.1 hm).2
        simp at this
        exact this.1.2
      simp only
      unfold State.enterHandler
      split
      · exact StaysRetired.refl s
      · refine ⟨map_replaceFirst _ (fun y hy => by simpa using hy), fun hn => ?_⟩
        refine ((StaysRetired.put (s := s) _ (fun k hk hr => ?_)).trans (StaysRetired.of_groups rfl)).2 hn
        have := group?_of_mem hn hin
        have hk' : s.group? g.gid = some k := hk
        rw [this] at hk'
        cases hk'
        rw [hst] at hr; cases hr

theorem resumeAll_stays (s : State) (n : Nat) : StaysRetired s (s.resumeAll n) := by
  unfold State.resumeAll
  refine StaysRetired.all rfl (fun g => ?_)
  split <;> exact ⟨rfl, rfl, rfl⟩

/-- Withdrawing a handler's suspensions changes nothing else of a group. -/
theorem group?_resumeAll (s : State) (b n : Nat) : (s.resumeAll b).group? n = (s.group? n).map (fun g => g.resumed b) := by
  unfold State.resumeAll State.group?
  simp only [List.find?_map]
  congr 2
  · funext k
    unfold Group.resumed
    simp only [List.contains_iff_mem]
  · funext k
    simp only [Function.comp]
    split <;> rfl

theorem retireWorkgroup_groups (s : State) (l w : Nat) : (s.retireWorkgroup l w).groups = s.groups := by
  unfold State.retireWorkgroup
  simp only
  split
  · rfl
  · split <;> rfl

/-- Retiring a group (05 R133). -/
theorem retire_spec {n : Nat} (hg : s.group? n = some g) : StaysRetired s (s.retire n) ∧
    ((s.groups.map (fun g => g.gid)).Nodup → ∃ h, (s.retire n).group? n = some h ∧ h.gstate = .retired ∧ (g.killed = true → h.killed = true)) := by
  have e := State.group?_gid hg
  unfold State.retire
  rw [hg]
  simp only
  generalize hs1 : ((s.leaveRail g).freeWindow g).resumeAll n = s1
  have st1 : StaysRetired s s1 := by
    rw [← hs1]
    exact (StaysRetired.of_groups (by rw [freeWindow_groups, leaveRail_groups])).trans (resumeAll_stays _ n)
  have hg1 : ∃ g1, s1.group? n = some g1 ∧ g1.killed = g.killed ∧ g1.gid = n := by
    rw [← hs1]
    have hw : ((s.leaveRail g).freeWindow g).group? n = some g := by
      rw [State.group?_congr (s := s) (by rw [freeWindow_groups, leaveRail_groups])]; exact hg
    rw [group?_resumeAll, hw]
    refine ⟨g.resumed n, rfl, ?_, ?_⟩
    · unfold Group.resumed; split <;> rfl
    · unfold Group.resumed; split <;> exact e
  obtain ⟨g1, hg1, hk1, e1⟩ := hg1
  let f : Group → Group := fun g => { g with
      gstate := .retired, seat := none, wait := .none, lls := 0, age := 0, stalled := none, clause := none
      fetchHold := false, wdDue := false, queues := [], suspendBy := [], leaseOut := 0
      ctl := { g.ctl with laWords := 0, launchBuf := Vector.replicate 32 0#32, trapPend := false, suspended := false } }
  have st2 : StaysRetired s1 (s1.onGroup n f) := StaysRetired.on (fun g => ⟨rfl, fun _ => rfl, id⟩)
  have hg2 : (s1.onGroup n f).group? n = some (f g1) := State.group?_onGroup_self hg1 e1
  have tail : ∀ w : State, w.groups = (s1.onGroup n f).groups → StaysRetired s (match g.seat with
      | none => w | some seat => w.enterOldest g.core (railOfSeat seat)) ∧ ((s.groups.map (fun g => g.gid)).Nodup →
      ∃ h, (match g.seat with | none => w | some seat => w.enterOldest g.core (railOfSeat seat)).group? n = some h ∧ h.gstate = .retired ∧
        (g.killed = true → h.killed = true)) := by
    intro w hw
    have hgw : w.group? n = some (f g1) := by rw [State.group?_congr hw]; exact hg2
    have st3 := (st1.trans st2).trans (StaysRetired.of_groups hw)
    have hk : g.killed = true → (f g1).killed = true := fun h => hk1.trans h
    cases g.seat with
    | none => exact ⟨st3, fun _ => ⟨f g1, hgw, rfl, hk⟩⟩
    | some seat =>
      have st4 := enterOldest_stays w g.core (railOfSeat seat)
      refine ⟨st3.trans st4, fun hn => ?_⟩
      obtain ⟨k, k1, k2, k3⟩ := st4.2 (by rw [st3.1]; exact hn) n _ hgw rfl
      exact ⟨k, k1, k2, fun h => k3 (hk h)⟩
  refine tail _ ?_
  rw [retireWorkgroup_groups]
  show (State.onCore _ _ _).groups = _
  rw [State.onCore_groups]
  split
  · rfl
  · simp [f]

theorem killed_mark {n : Nat} : StaysRetired s (s.onGroup n (fun g => { g with killed := true })) :=
  StaysRetired.on (fun _ => ⟨rfl, id, fun _ => rfl⟩)

theorem abandon_stays (s : State) (n : Nat) : StaysRetired s (s.abandon n) := by
  unfold State.abandon
  refine StaysRetired.all rfl (fun g => ?_)
  split <;> exact ⟨rfl, rfl, rfl⟩

/-- Each job of settling leaves retired groups retired. -/
theorem doJob_stays (s : State) (j : Job) : StaysRetired s (s.doJob j).1 := by
  cases j with
  | dies n t =>
    unfold State.doJob
    simp only
    generalize hs1 : s.onGroup n _ = s1
    have st1 : StaysRetired s s1 := by rw [← hs1]; exact StaysRetired.on (fun g => ⟨rfl, id, id⟩)
    have st2 := countDeadLane_stays s1 n t
    split
    · exact st1.trans st2
    · exact st1.trans st2
  | kill n =>
    unfold State.doJob
    simp only
    split
    · exact StaysRetired.refl s
    · next g hg =>
      generalize hs1 : (s.launchStatus g.launch _).abandon n = s1
      have st1 : StaysRetired s s1 := by
        rw [← hs1]
        have h0 : StaysRetired s (s.launchStatus g.launch (if (g.ctl.handler && g.ctl.trapRec.cause == 0x10#16) = true then 2 else 1)) :=
          StaysRetired.of_groups (by unfold State.launchStatus; simp)
        exact h0.trans (abandon_stays _ n)
      have st2 : StaysRetired s1 (if g.ctl.shadow = true then (s1, []) else s1.countKilled g).1 := by
        split
        · exact StaysRetired.refl _
        · exact countKilled_stays s1 g
      generalize (if g.ctl.shadow = true then (s1, []) else s1.countKilled g) = p at *
      have st3 := killed_mark (s := p.1) (n := n)
      have st4 : StaysRetired (p.1.onGroup n (fun g => { g with killed := true })) ((p.1.onGroup n (fun g => { g with killed := true })).retire n) := by
        cases hq : (p.1.onGroup n (fun g => { g with killed := true })).group? n with
        | none => unfold State.retire; rw [hq]; exact StaysRetired.refl _
        | some k => exact (retire_spec hq).1
      exact st1.trans (st2.trans (st3.trans st4))

theorem settle_stays (s : State) (n : Nat) (js : List Job) : StaysRetired s (s.settle n js) := by
  induction n generalizing s js with
  | zero => unfold State.settle; exact StaysRetired.refl s
  | succ n ih =>
    unfold State.settle
    split
    · exact StaysRetired.refl s
    · exact (doJob_stays s _).trans (ih _ _)

/-- A kill retires its group (06 R178). -/
theorem killGroup_retires {n : Nat} (hn : (s.groups.map (fun g => g.gid)).Nodup) (hg : s.group? n = some g) (hr : g.gstate ≠ .retired) :
    ∃ h, (s.killGroup n).group? n = some h ∧ h.gstate = .retired ∧ h.killed = true := by
  unfold State.killGroup State.fuel
  rw [show 256 * (s.groups.length + 1) = (256 * (s.groups.length + 1) - 1) + 1 by omega]
  unfold State.settle
  have hst : s.stands (.kill n) = true := by unfold State.stands; simp only [hg]; simpa using hr
  rw [show [Job.kill n].dropWhile (fun j => !s.stands j) = [.kill n] by simp [hst]]
  simp only
  have st := doJob_stays s (.kill n)
  have key : ∃ h, (s.doJob (.kill n)).1.group? n = some h ∧ h.gstate = .retired ∧ h.killed = true := by
    unfold State.doJob
    simp only [hg]
    generalize hs1 : (s.launchStatus g.launch _).abandon n = s1
    have st1 : StaysRetired s s1 := by
      rw [← hs1]
      have h0 : StaysRetired s (s.launchStatus g.launch (if (g.ctl.handler && g.ctl.trapRec.cause == 0x10#16) = true then 2 else 1)) :=
        StaysRetired.of_groups (by unfold State.launchStatus; simp)
      exact h0.trans (abandon_stays _ n)
    have st2 : StaysRetired s1 (if g.ctl.shadow = true then (s1, []) else s1.countKilled g).1 := by
      split
      · exact StaysRetired.refl _
      · exact countKilled_stays s1 g
    generalize (if g.ctl.shadow = true then (s1, []) else s1.countKilled g) = p at *
    have gids : (p.1.groups.map (fun g => g.gid)) = s.groups.map (fun g => g.gid) := (st1.trans st2).1
    have hp : ∃ k, p.1.group? n = some k := by
      have : n ∈ s.groups.map (fun g => g.gid) := by
        have := List.mem_of_find?_eq_some hg
        exact List.mem_map.2 ⟨g, this, State.group?_gid hg⟩
      rw [← gids] at this
      obtain ⟨k, hk, e⟩ := List.mem_map.1 this
      exact ⟨k, by rw [← e]; exact group?_of_mem (by rw [gids]; exact hn) hk⟩
    obtain ⟨k, hk⟩ := hp
    have hq : (p.1.onGroup n (fun g => { g with killed := true })).group? n = some { k with killed := true } :=
      State.group?_onGroup_self (f := fun g => { g with killed := true }) hk (show k.gid = n from State.group?_gid hk)
    obtain ⟨h, h1, h2, h3⟩ := (retire_spec hq).2 (by
      have := (killed_mark (s := p.1) (n := n)).1
      rw [this, gids]; exact hn)
    exact ⟨h, h1, h2, h3 rfl⟩
  obtain ⟨h, h1, h2, h3⟩ := key
  obtain ⟨k, k1, k2, k3⟩ := (settle_stays (s.doJob (.kill n)).1 _ _).2 (by rw [st.1]; exact hn) n h h1 h2
  exact ⟨k, k1, k2, k3 h3⟩

/-- Retiring a group changes no memory. -/
theorem retire_mem (s : State) (n : Nat) : (s.retire n).mem = s.mem := by
  have e1 : ∀ (w : State) c r, (w.enterOldest c r).mem = w.mem := by
    intro w c r
    unfold State.enterOldest
    split
    · rfl
    · split
      · rfl
      · unfold State.enterHandler; split <;> rfl
  have e2 : ∀ (w : State) l g, (w.retireWorkgroup l g).mem = w.mem := by
    intro w l g
    unfold State.retireWorkgroup
    simp only
    split
    · rfl
    · split <;> rfl
  have e3 : ∀ (w : State) (g : Group), ((w.leaveRail g).freeWindow g).mem = w.mem := by
    intro w g
    unfold State.freeWindow State.leaveRail
    split <;> rfl
  unfold State.retire
  split
  · rfl
  · next g _ =>
    simp only
    have key : ∀ w : State, w.mem = s.mem → (match g.seat with | none => w | some seat => w.enterOldest g.core (railOfSeat seat)).mem = s.mem := by
      intro w hw
      split
      · exact hw
      · rw [e1]; exact hw
    refine key _ ?_
    rw [e2, State.onCore_mem]
    have h1 : ∀ f, ((((s.leaveRail g).freeWindow g).resumeAll n).onGroup n f).mem = s.mem := by
      intro f; rw [State.onGroup_mem]; exact e3 s g
    split
    · exact h1 _
    · rw [State.onInst_mem]; exact h1 _

end Sys2Proof.Machine
end

