-- ==== Sys2Proof/Laws/Ended.lean ====
section
/-!
SUPPORT. An operation ends: its results are written, and it is outstanding no longer (06 R167, R168).
-/
namespace Sys2Proof.Machine

variable {s t : State} {g h : Group} {o : OutOp}

/-- A write of a register line leaves the rails as they are. -/
theorem State.putReg_rail (hg : s.group? g.gid = some g) (r l : Nat) (x : Word) (c q : Nat) :
    (s.putReg g.gid r l x).rail c q = s.rail c q := by
  have hold : (s.holdLine g.gid r).cores = s.cores := by
    unfold State.holdLine
    rw [hg]
    simp only
    split <;> rfl
  unfold State.putReg
  simp only
  split
  · unfold State.rail State.core; rw [hold]
  · next k _ =>
    rw [State.rail_putGroup]
    unfold State.touchLine State.rail
    rw [State.core_onCore]
    split
    · next e => subst e; unfold State.core; rw [hold]
    · unfold State.core; rw [hold]

/-- A result that nothing else has overtaken is written: its word is the new one, every other one as before. -/
theorem State.writeResult_spec (hg : s.group? g.gid = some g) (ho : o.gid = g.gid) (hs : o.handler = true → g.seat.isSome = true)
    (hc : o.clobbered = []) (r l : Nat) (x : Word) (hr : r < 256) (hl : l < 32) (hd : g.ctl.dead.getLsbD l = false) :
    ∃ h, WroteRegs s (s.writeResult o r l x) g h ∧ ∀ r' l', r' < 256 → l' < 32 →
      (s.writeResult o r l x).resultWord o h r' l' = if r' = r ∧ l' = l then x else s.resultWord o g r' l' := by
  unfold State.writeResult
  rw [ho, hg]
  simp only
  rw [if_neg (by rw [hd]; simp), if_neg (by rw [hc]; simp)]
  by_cases hw : (o.handler && decide (r < 8)) = true
  · rw [if_pos hw]
    have hh : o.handler = true := by simp at hw; exact hw.1
    obtain ⟨n, hn⟩ := Option.isSome_iff_exists.1 (hs hh)
    rw [hn]
    simp only
    have hW : WroteRegs s (s.onRail g.core (railOfSeat n)
        (fun rl => { rl with window := Sparse.set 0#32 rl.window (32 * r + l) x })) g g := by
      refine ⟨hg, rfl, fun _ _ => rfl, rfl, ?_, ?_, ?_, ?_, ?_, rfl⟩
      · intro c hc; unfold State.onRail; rw [State.core_onCore, if_neg (Ne.symm hc)]
      · unfold State.onRail; rw [State.core_onCore, if_pos rfl]
      · intro a b; unfold State.onRail; rw [State.core_onCore, if_pos rfl]; rfl
      · intro q; rw [State.rail_onRail]
        split
        · next h => rw [h.2]
        · rfl
      · intro q hq; rw [State.rail_onRail, if_neg]; rintro ⟨-, rfl⟩; exact hq (by rw [hn]; rfl)
    refine ⟨g, hW, ?_⟩
    intro r' l' hr' hl'
    unfold State.resultWord
    by_cases hw' : (o.handler && decide (r' < 8)) = true
    · rw [if_pos hw', if_pos hw', hn]
      simp only
      rw [State.rail_onRail, if_pos ⟨rfl, rfl⟩]
      simp only [Sparse.get_set]
      by_cases h2 : r' = r ∧ l' = l
      · rw [if_pos h2, if_pos (by omega)]
      · rw [if_neg h2, if_neg (by omega)]
    · rw [if_neg hw', if_neg hw', if_neg (by rintro ⟨rfl, -⟩; exact hw' hw)]
      exact hW.lineWord_same rfl rfl r' l'
  · rw [if_neg hw]
    obtain ⟨h, hwr, hv⟩ := State.putReg_spec hg r l x
    let t := s.putReg g.gid r l x
    let t' : State := { t with ops := t.ops.map (fun p =>
      if p.gid == g.gid && p.id != o.id && p.writes r l then { p with clobbered := (r, l) :: p.clobbered } else p) }
    have hops : t'.ops.map (fun p => { p with clobbered := [] }) = s.ops.map (fun p => { p with clobbered := [] }) := by
      rw [← hwr.ops]
      simp only [t', List.map_map]
      apply List.map_congr_left
      intro p _
      simp only [Function.comp]
      split <;> rfl
    refine ⟨h, ⟨hwr.found, hwr.group, hwr.others, ?_, hwr.cores, hwr.mine, hwr.lines, hwr.rails, hwr.other, hops⟩, ?_⟩
    · have := hwr.rest
      show t' = _
      simp only [t', t]
      conv => lhs; rw [this]
    · intro r' l' hr' hl'
      show State.resultWord t' o h r' l' = _
      unfold State.resultWord
      by_cases hw' : (o.handler && decide (r' < 8)) = true
      · rw [if_pos hw', if_pos hw', if_neg (by rintro ⟨rfl, -⟩; exact hw hw')]
        have e1 : h.seat = g.seat := by rw [hwr.group]
        have e2 : h.core = g.core := by rw [hwr.group]
        rw [e1, e2]
        cases hn : g.seat with
        | none => rfl
        | some n =>
          simp only
          -- the window is not written by a write of a register line
          have : t'.rail g.core (railOfSeat n) = s.rail g.core (railOfSeat n) := by
            show t.rail g.core (railOfSeat n) = _
            exact State.putReg_rail hg r l x g.core (railOfSeat n)
          rw [this]
      · rw [if_neg hw', if_neg hw']
        have : t'.lineWord h r' l' = t.lineWord h r' l' := rfl
        rw [this]
        exact hv r' l' hr' hr hl' hl

/-- Results that land are written, in order, and every other word stays as it was. -/
theorem State.writeResults_spec (ws : List (Nat × Nat × Word)) {s : State} {g : Group} (hg : s.group? g.gid = some g) (hl : Lands o g ws) :
    ∃ h, WroteRegs s (s.writeResults o ws) g h ∧
      (∀ r l v, (r, l, v) ∈ ws → (s.writeResults o ws).resultWord o h r l = v) ∧
      (∀ r l, r < 256 → l < 32 → (∀ v, (r, l, v) ∉ ws) → (s.writeResults o ws).resultWord o h r l = s.resultWord o g r l) := by
  induction ws generalizing s g with
  | nil => exact ⟨g, WroteRegs.refl hg, fun _ _ _ h => (by cases h), fun _ _ _ _ _ => rfl⟩
  | cons w ws ih =>
    obtain ⟨r, l, x⟩ := w
    obtain ⟨b1, b2, b3⟩ := hl.live (r, l, x) (List.mem_cons_self)
    obtain ⟨h1, w1, v1⟩ := State.writeResult_spec hg hl.owner hl.seat hl.clean r l x b1 b2 b3
    have e1 : h1.gid = g.gid := by rw [w1.group]
    have ec : h1.ctl = g.ctl := by rw [w1.group]
    have es : h1.seat = g.seat := by rw [w1.group]
    have hnd := hl.once
    simp only [List.map_cons, List.nodup_cons] at hnd
    have hl1 : Lands o h1 ws := ⟨by rw [hl.owner, e1], by rw [ec]; exact hl.alone, by rw [es]; exact hl.seat, hl.clean,
      fun w hw => by rw [ec]; exact hl.live w (List.mem_cons_of_mem _ hw), hnd.2⟩
    obtain ⟨h2, w2, v2, k2⟩ := ih (by rw [e1]; exact w1.found) hl1
    refine ⟨h2, w1.trans w2, ?_, ?_⟩
    · intro r' l' v hv
      rcases List.mem_cons.mp hv with e | hv
      · cases e
        show ((s.writeResult o r l x).writeResults o ws).resultWord o h2 r l = x
        rw [k2 r l b1 b2 (fun v hv => hnd.1 (List.mem_map.mpr ⟨(r, l, v), hv, rfl⟩)), v1 r l b1 b2, if_pos ⟨rfl, rfl⟩]
      · exact v2 r' l' v hv
    · intro r' l' hr hl' hn
      show ((s.writeResult o r l x).writeResults o ws).resultWord o h2 r' l' = _
      rw [k2 r' l' hr hl' (fun v hv => hn v (List.mem_cons_of_mem _ hv)), v1 r' l' hr hl', if_neg]
      rintro ⟨rfl, rfl⟩
      exact hn x List.mem_cons_self

/-- An operation of a group without a partner ends (06 R167). -/
theorem State.endOp_spec (hg : s.group? g.gid = some g) {ws : List (Nat × Nat × Word)} (hl : Lands o g ws) :
    ∃ h, Ended s (s.endOp o ws) o g h g.ctl ws ∧ (s.endOp o ws) = { s with
      groups := (s.endOp o ws).groups, cores := (s.endOp o ws).cores, ops := (s.endOp o ws).ops } := by
  obtain ⟨h, w, v, k⟩ := State.writeResults_spec ws hg hl
  have ec : h.ctl = g.ctl := by rw [w.group]
  have hend : s.endOp o ws = (s.writeResults o ws).dropOp o.id := by
    unfold State.endOp
    simp only
    rw [State.group?_dropOp, hl.owner, w.found]
    simp only
    rw [if_neg (by rw [ec, hl.alone]; simp)]
  rw [hend]
  have hrest := w.rest
  have hmem : (s.writeResults o ws).mem = s.mem := by rw [hrest]
  have hcom : (s.writeResults o ws).commits = s.commits := by rw [hrest]
  refine ⟨h, ⟨?_, v, fun r l a b c _ => k r l a b c, ec, ?_, ?_, ?_, hcom⟩, ?_⟩
  · rw [State.group?_dropOp]; exact w.found
  · rw [w.group]; exact ⟨rfl, rfl, rfl, rfl, rfl, rfl⟩
  · intro n hn
    rw [State.group?_dropOp, w.others n hn]
  · show ((s.writeResults o ws).ops.filter (fun p => p.id != o.id)).map _ = _
    have hf : ∀ (l : List OutOp), (l.filter (fun p => p.id != o.id)).map (fun p => { p with clobbered := [] }) =
        (l.map (fun p => { p with clobbered := [] })).filter (fun p => p.id != o.id) := by
      intro l
      induction l with
      | nil => rfl
      | cons a l ih =>
        simp only [List.filter_cons, List.map_cons]
        split <;> simp [ih]
    rw [hf, hf, w.ops]
  · show ({ s.writeResults o ws with ops := _ } : State) = _
    rw [hrest]
    rfl

/-- Two states in which a group's words are the same: between them only scores, copies in caches, and bytes of memory may differ. -/
structure Alike (s u : State) (g k : Group) : Prop where
  found    : u.group? g.gid = some k
  group    : k = { g with lls := k.lls }
  others   : ∀ n, n ≠ g.gid → (u.group? n).map (fun m => { m with lls := 0 }) = (s.group? n).map (fun m => { m with lls := 0 })
  ops      : u.ops = s.ops
  commits  : u.commits = s.commits
  installs : u.installs = s.installs
  launches : u.launches = s.launches
  rails    : ∀ r, u.rail g.core r = s.rail g.core r
  lines    : ∀ gid line, (u.core g.core).resident gid line = (s.core g.core).resident gid line

theorem Alike.refl (hg : s.group? g.gid = some g) : Alike s s g g :=
  ⟨hg, rfl, fun _ _ => rfl, rfl, rfl, rfl, rfl, fun _ => rfl, fun _ _ => rfl⟩

theorem Alike.trans {s t u : State} {g h k : Group} (a : Alike s t g h) (b : Alike t u h k) : Alike s u g k := by
  have e1 : h.gid = g.gid := by rw [a.group]
  have e2 : h.core = g.core := by rw [a.group]
  refine ⟨by rw [← e1]; exact b.found, ?_, fun n hn => ?_, b.ops.trans a.ops, b.commits.trans a.commits, b.installs.trans a.installs,
    b.launches.trans a.launches, fun r => ?_, fun x y => ?_⟩
  · have := b.group; rw [a.group] at this; exact this
  · rw [b.others n (by rw [e1]; exact hn), a.others n hn]
  · rw [← a.rails r, ← e2, b.rails r]
  · rw [← a.lines x y, ← e2, b.lines x y]

theorem Alike.word {u : State} {k : Group} (a : Alike s u g k) (o : OutOp) (r l : Nat) (hb : u.mem.bytes = s.mem.bytes ∨ g.backed.contains r = false) :
    u.resultWord o k r l = s.resultWord o g r l := by
  obtain ⟨_, hk, _, _, _, hi, hln, hr, hres⟩ := a
  unfold State.resultWord
  have e1 : k.seat = g.seat := by rw [hk]
  have e2 : k.core = g.core := by rw [hk]
  have e3 : k.backed = g.backed := by rw [hk]
  have e4 : k.gid = g.gid := by rw [hk]
  have e5 : k.regs = g.regs := by rw [hk]
  split
  · rw [e1, e2]
    cases g.seat with
    | none => rfl
    | some n => simp only; rw [hr]
  · unfold State.lineWord
    rw [e2, e3, e4, e5, hres]
    rcases hb with hb | hb
    · have : u.contextWord k (128 * r + 4 * l) = s.contextWord g (128 * r + 4 * l) :=
        SameContext.word ⟨hi, hln, hb, by rw [hk], by rw [hk], by rw [hk], by rw [hk]⟩ _
      rw [this]
    · rw [hb]; rfl

/-- An operation that ends in a state alike ends in the first. -/
theorem Ended.alike {u : State} {k : Group} {c : Control} {ws : List (Nat × Nat × Word)} (a : Alike s u g k) (e : Ended u t o k h c ws)
    (hm : t.mem.bytes = u.mem.bytes) : Ended s t o g h c ws := by
  obtain ⟨f, v, kp, ct, cx, ot, ov, st⟩ := e
  have hk := a.group
  have e1 : k.gid = g.gid := by rw [hk]
  have e3 : k.backed = g.backed := by rw [hk]
  refine ⟨by rw [← e1]; exact f, v, ?_, ct, ?_, ?_, ?_, st.trans a.commits⟩
  · intro r l hr hl hn hb
    rw [kp r l hr hl hn (by rw [e3]; rcases hb with hb | hb; exact Or.inl hm; exact Or.inr hb)]
    refine a.word o r l ?_
    rcases hb with hb | hb
    · exact Or.inl (hm ▸ hb)
    · exact Or.inr hb
  · rw [hk] at cx; exact cx
  · intro n hn; rw [ot n (by rw [e1]; exact hn), a.others n hn]
  · rw [ov, a.ops]

/-- A change of a core's caches leaves a group's words alone. -/
theorem Alike.onCore (hg : s.group? g.gid = some g) (c : Nat) (f : Core → Core) (hf : ∀ k, (f k).mantle = k.mantle ∧ (f k).rails = k.rails) :
    Alike s (s.onCore c f) g g := by
  refine ⟨hg, rfl, fun _ _ => rfl, rfl, rfl, rfl, rfl, fun r => ?_, fun x y => ?_⟩
  · unfold State.rail
    rw [State.core_onCore]
    split
    · next e => subst e; rw [(hf _).2]
    · rfl
  · rw [State.core_onCore]
    split
    · next e => subst e; unfold Core.resident; rw [(hf _).1]
    · rfl

/-- What the memory side and the fabric side hold leaves a group's words alone, apart from bytes of memory. -/
theorem Alike.of_parts {u : State} (hg : s.group? g.gid = some g) (h1 : u.groups = s.groups) (h2 : u.ops = s.ops) (h3 : u.commits = s.commits)
    (h4 : u.installs = s.installs) (h5 : u.launches = s.launches) (h6 : u.cores = s.cores) : Alike s u g g := by
  refine ⟨(State.group?_congr h1 _).trans hg, rfl, fun n _ => by rw [State.group?_congr h1], h2, h3, h4, h5, fun r => ?_, fun x y => ?_⟩
  · unfold State.rail; rw [State.core_congr h6]
  · rw [State.core_congr h6]

theorem writeBackFar_rest (s : State) (l : FarLine) : s.writeBackFar l = { s with
    fab := (s.writeBackFar l).fab, nextId := (s.writeBackFar l).nextId } := by
  unfold State.writeBackFar
  split <;> rfl

theorem flushFar_rest (s : State) (h : Word) : s.flushFar h = { s with fab := (s.flushFar h).fab, nextId := (s.flushFar h).nextId } := by
  have key : ∀ (ls : List FarLine) (s : State), ls.foldl (fun t l => t.writeBackFar l) s = { s with
      fab := (ls.foldl (fun t l => t.writeBackFar l) s).fab, nextId := (ls.foldl (fun t l => t.writeBackFar l) s).nextId } := by
    intro ls
    induction ls with
    | nil => intro s; rfl
    | cons l ls ih =>
      intro s
      simp only [List.foldl_cons]
      rw [ih, writeBackFar_rest s l]
  unfold State.flushFar
  simp only
  rw [key]
  rfl

/-- An acquire takes cached copies away, and leaves the rest of the machine (08 R228). -/
theorem acquireEffect_alike (hg : s.group? g.gid = some g) (c : Nat) (w : Word) (n : Nat) :
    Alike s (s.acquireEffect c w n) g g ∧ (s.acquireEffect c w n).mem = s.mem ∧ (s.acquireEffect c w n).bars = s.bars := by
  have h1 : ∃ u, s.acquireEffect c w n = (if 5 ≤ n then u.dropFar w else u) ∧ Alike s u g g ∧ u.mem = s.mem ∧ u.bars = s.bars := by
    refine ⟨if 2 ≤ n then s.onCore c (fun k => k.dropL1 w) else s, rfl, ?_, ?_, ?_⟩
    · split
      · exact Alike.onCore hg c _ (fun _ => ⟨rfl, rfl⟩)
      · exact Alike.refl hg
    · split <;> rfl
    · split <;> rfl
  obtain ⟨u, e, a, m, b⟩ := h1
  rw [e]
  split
  · have hd : u.dropFar w = { u with fab := (u.dropFar w).fab, nextId := (u.dropFar w).nextId } := by
      unfold State.dropFar
      rw [flushFar_rest]
      rfl
    rw [hd]
    exact ⟨a.trans (Alike.of_parts a.found rfl rfl rfl rfl rfl rfl), m, b⟩
  · exact ⟨a, m, b⟩

/-- A change of a group's score leaves every group's words alone. -/
theorem Alike.onScore (hg : s.group? g.gid = some g) (n : Nat) (f : Group → Group) (hf : ∀ m, f m = { m with lls := (f m).lls }) :
    ∃ k, Alike s (s.onGroup n f) g k ∧ (s.onGroup n f).mem = s.mem := by
  have hid : ∀ m, (f m).gid = m.gid := fun m => by rw [hf]
  have hz : ∀ m, ({ f m with lls := 0 } : Group) = { m with lls := 0 } := fun m => by rw [hf]
  have hrest : s.onGroup n f = { s with groups := (s.onGroup n f).groups } := by unfold State.onGroup; split <;> rfl
  have hothers : ∀ q, ((s.onGroup n f).group? q).map (fun m => { m with lls := 0 }) = (s.group? q).map (fun m => { m with lls := 0 }) := by
    intro q
    by_cases e : q = n
    · subst e
      cases hv : s.group? q with
      | none => rw [State.onGroup_none hv, hv]
      | some m =>
        rw [State.group?_onGroup_self hv ((hid m).trans (State.group?_gid hv))]
        exact congrArg some (hz m)
    · rw [State.group?_onGroup_ne s hid e]
  by_cases e : n = g.gid
  · refine ⟨f g, ⟨?_, hf g, fun q _ => hothers q, ?_, ?_, ?_, ?_, fun r => ?_, fun x y => ?_⟩, by rw [hrest]⟩
    · rw [e]; exact State.group?_onGroup_self hg (hid g)
    all_goals rw [hrest]
    all_goals rfl
  · refine ⟨g, ⟨?_, rfl, fun q _ => hothers q, ?_, ?_, ?_, ?_, fun r => ?_, fun x y => ?_⟩, by rw [hrest]⟩
    · rw [State.group?_onGroup_ne s hid (Ne.symm e)]; exact hg
    all_goals rw [hrest]
    all_goals rfl

/-- A look into the victim tags changes scores alone (05 R144). -/
theorem victimHit_alike (hg : s.group? g.gid = some g) (c : Nat) (w : Word) (a : Nat) :
    ∃ k, Alike s (s.victimHit c w a) g k ∧ (s.victimHit c w a).mem = s.mem := by
  unfold State.victimHit
  simp only
  split
  · exact ⟨g, Alike.refl hg, rfl⟩
  · next v _ =>
    have a0 := Alike.onCore hg c (fun k => { k with victims := k.victims.filter (fun w => w.order != v.order) }) (fun _ => ⟨rfl, rfl⟩)
    obtain ⟨k, a1, m1⟩ := Alike.onScore a0.found v.owner (fun g => if g.gstate = .seated then { g with lls := min 65535 (g.lls + 1) } else g)
      (fun m => by split <;> rfl)
    exact ⟨k, a0.trans a1, m1⟩

end Sys2Proof.Machine
end

