-- ==== Sys2Proof/Laws/Report.lean ====
section
/-!
SUPPORT. What raising an event changes (03 R95): the host's side alone, and of it the queue of one function, the host's memory, the
vectors raised and the log. And the sets that lists of numbers stand for.
-/
namespace Sys2Proof.Machine

variable (s : State) (q code func a b d : Nat)

theorem State.writeEvent_rest (e : HostEvent) : s.writeEvent q e = { s with host := { s.host with
    fns := (s.writeEvent q e).host.fns, mem := (s.writeEvent q e).host.mem, vectors := (s.writeEvent q e).host.vectors } } := by
  unfold State.writeEvent; simp only; repeat' split
  all_goals rfl

/-- The entry an event leaves in the log. -/
def State.logEntry : HostEvent :=
  ⟨code, func, s.pkg.frame % 2 ^ 32, BitVec.ofNat 64 a, BitVec.ofNat 64 b, BitVec.ofNat 64 d⟩

theorem State.event_rest : s.event q code func a b d = { s with host := { s.host with
    fns := (s.event q code func a b d).host.fns, mem := (s.event q code func a b d).host.mem
    vectors := (s.event q code func a b d).host.vectors, eventLog := s.host.eventLog ++ [s.logEntry code func a b d] } } := by
  have h := s.writeEvent_rest q (s.logEntry code func a b d)
  unfold State.event
  unfold State.logEntry at h ⊢
  simp only
  rw [h]
  rfl

@[simp] theorem State.event_agenda : (s.event q code func a b d).agenda = s.agenda := by rw [State.event_rest]
@[simp] theorem State.event_pkg : (s.event q code func a b d).pkg = s.pkg := by rw [State.event_rest]
@[simp] theorem State.event_fab : (s.event q code func a b d).fab = s.fab := by rw [State.event_rest]
@[simp] theorem State.event_garnet : (s.event q code func a b d).garnet = s.garnet := by rw [State.event_rest]
@[simp] theorem State.event_installs : (s.event q code func a b d).installs = s.installs := by rw [State.event_rest]
@[simp] theorem State.event_launches : (s.event q code func a b d).launches = s.launches := by rw [State.event_rest]
@[simp] theorem State.event_groups : (s.event q code func a b d).groups = s.groups := by rw [State.event_rest]
@[simp] theorem State.event_cores : (s.event q code func a b d).cores = s.cores := by rw [State.event_rest]
@[simp] theorem State.event_ops : (s.event q code func a b d).ops = s.ops := by rw [State.event_rest]
@[simp] theorem State.event_commits : (s.event q code func a b d).commits = s.commits := by rw [State.event_rest]
@[simp] theorem State.event_transfers : (s.event q code func a b d).transfers = s.transfers := by rw [State.event_rest]
@[simp] theorem State.event_mem : (s.event q code func a b d).mem = s.mem := by rw [State.event_rest]
@[simp] theorem State.event_bars : (s.event q code func a b d).bars = s.bars := by rw [State.event_rest]
@[simp] theorem State.event_log : (s.event q code func a b d).host.eventLog = s.host.eventLog ++ [s.logEntry code func a b d] := by
  rw [State.event_rest]
@[simp] theorem State.event_parts : (s.event q code func a b d).host.parts = s.host.parts := by rw [State.event_rest]
@[simp] theorem State.logEntry_code : (s.logEntry code func a b d).code = code := rfl

/-- An event moves at most the queue registers of a function. -/
theorem State.event_fn (v : Nat) : (s.event q code func a b d).fn v = { s.fn v with
    evqCfg := ((s.event q code func a b d).fn v).evqCfg, evqTail := ((s.event q code func a b d).fn v).evqTail } := by
  have key : ∀ e, (s.writeEvent q e).fn v = { s.fn v with
      evqCfg := ((s.writeEvent q e).fn v).evqCfg, evqTail := ((s.writeEvent q e).fn v).evqTail } := by
    intro e
    have alter : ∀ (f : Fn → Fn), (∀ x, f x = { x with evqCfg := (f x).evqCfg, evqTail := (f x).evqTail }) → ∀ g : HostSide → HostSide,
        (∀ h, (g h).fns = h.fns) → ((s.onFn q f).onHost g).fn v = { s.fn v with
          evqCfg := (((s.onFn q f).onHost g).fn v).evqCfg, evqTail := (((s.onFn q f).onHost g).fn v).evqTail } := by
      intro f hf g hg
      have e2 : ((s.onFn q f).onHost g).fn v = if q = v then f (s.fn q) else s.fn v := by
        unfold State.fn State.onHost
        rw [show (g (s.onFn q f).host).fns = Sparse.alter {} s.host.fns q f from hg _]
        exact Sparse.get_alter ..
      rw [e2]
      split
      · subst_vars; exact hf _
      · rfl
    unfold State.writeEvent
    simp only
    split
    · rfl
    · split
      · exact alter _ (fun _ => rfl) id (fun _ => rfl)
      · exact alter _ (fun _ => rfl) _ (fun _ => rfl)
  exact key _

/-! ### Lists of numbers as sets -/

theorem mem_insertSorted (n m : Nat) (l : List Nat) : m ∈ insertSorted n l ↔ m = n ∨ m ∈ l := by
  induction l with
  | nil => exact List.mem_singleton.trans (by simp)
  | cons x xs ih =>
    unfold insertSorted
    split
    · exact List.mem_cons
    · split
      · subst_vars; rw [List.mem_cons]; constructor
        · exact Or.inr
        · rintro (h | h)
          · exact Or.inl h
          · exact h
      · rw [List.mem_cons, ih, List.mem_cons]
        constructor
        · rintro (h | h | h)
          · exact Or.inr (Or.inl h)
          · exact Or.inl h
          · exact Or.inr (Or.inr h)
        · rintro (h | h | h)
          · exact Or.inr (Or.inl h)
          · exact Or.inl h
          · exact Or.inr (Or.inr h)

theorem mem_insertAll (m : Nat) (ns l : List Nat) : m ∈ ns.foldl (fun l c => insertSorted c l) l ↔ m ∈ ns ∨ m ∈ l := by
  induction ns generalizing l with
  | nil => simp
  | cons n ns ih =>
    rw [List.foldl_cons, ih, mem_insertSorted, List.mem_cons]
    constructor
    · rintro (h | h | h)
      · exact Or.inl (Or.inr h)
      · exact Or.inl (Or.inl h)
      · exact Or.inr h
    · rintro ((h | h) | h)
      · exact Or.inr (Or.inl h)
      · exact Or.inl h
      · exact Or.inr (Or.inr h)

/-- What holds of the default and of every changed entry holds of what a changed map reads. -/
theorem Sparse.get_mapAll {α : Type} [DecidableEq α] {P : α → Prop} {d : α} (m : Sparse α) {f : Nat → α → α} {i : Nat} (hd : P d)
    (hf : ∀ v, P (f i v)) : P (Sparse.get d (Sparse.mapAll d m f) i) := by
  unfold Sparse.mapAll
  induction m with
  | nil => exact hd
  | cons e m ih =>
    rw [List.map_cons, List.filter_cons]
    split
    · unfold Sparse.get
      split
      · next h => subst h; exact hf _
      · exact ih
    · exact ih

end Sys2Proof.Machine
end

