-- ==== Sys2Proof/Laws/HostMemory.lean ====
section
/-!
SUPPORT. What a write at home, a scrub and a whole-line write do to device memory (03 R75, R80, R92).
-/
namespace Sys2Proof.Machine

variable (s : State)

/-- A write at home touches memory alone. -/
theorem State.touchL2_rest (a : Nat) : s.touchL2 a = { s with mem := { s.mem with l2 := (s.touchL2 a).mem.l2 } } := by
  unfold State.touchL2
  simp only
  split
  · rfl
  · split
    · rfl
    · have key : ∀ (v : Option L2Line) (f : L2Line → DeviceMem → DeviceMem), (∀ l m, f l m = { m with l2 := (f l m).l2 }) →
          (match v with | none => s | some v => s.onMem (f v)) =
            { s with mem := { s.mem with l2 := (match v with | none => s | some v => s.onMem (f v)).mem.l2 } } := by
        intro v f hf
        cases v with
        | none => rfl
        | some v => exact congrArg (fun m => ({ s with mem := m } : State)) (hf v s.mem)
      exact key _ (fun v m => { m with l2 := m.l2.filter (fun l => l.addr != v.addr) ++ [_] }) (fun _ _ => rfl)

/-- A write to device memory changes bytes, poison and the cache of memory alone. -/
theorem State.writeHome_rest (h : Word) (p n b d : Nat) : (s.writeHome (.virt h) p n b d).1 = { s with mem := { s.mem with
    l2 := (s.writeHome (.virt h) p n b d).1.mem.l2, bytes := (s.writeHome (.virt h) p n b d).1.mem.bytes
    poison := (s.writeHome (.virt h) p n b d).1.mem.poison } } := by
  unfold State.writeHome
  simp only
  split
  · rfl
  · simp only
    rw [State.touchL2_rest]
    rfl

/-- The bytes outside a write stay. -/
theorem State.writeHome_out (h : Word) (p n b d a : Nat) (ho : a < p ∨ p + n ≤ a) :
    Memory.read (s.writeHome (.virt h) p n b d).1.mem.bytes a = Memory.read s.mem.bytes a := by
  unfold State.writeHome
  simp only
  split
  · rfl
  · show Memory.read (Memory.writeBits (s.touchL2 p).mem.bytes p b d n) a = _
    rw [Memory.read_writeBits_out _ _ _ _ _ _ ho, State.touchL2_rest]

/-! ### Bytes of numbers -/

theorem natOfBytes_byte (bs : List Byte) (i : Nat) (h : i < bs.length) : BitVec.ofNat 8 (natOfBytes bs / 256 ^ i) = bs[i] := by
  induction bs generalizing i with
  | nil => cases h
  | cons b bs ih =>
    unfold natOfBytes
    cases i with
    | zero =>
      rw [Nat.pow_zero, Nat.div_one]
      apply BitVec.eq_of_toNat_eq
      rw [BitVec.toNat_ofNat, show 2 ^ 8 = 256 from rfl, Nat.add_mul_mod_self_left, Nat.mod_eq_of_lt b.isLt]
      rfl
    | succ i =>
      have hb := b.isLt
      rw [Nat.pow_succ, Nat.mul_comm (256 ^ i) 256, ← Nat.div_div_eq_div_mul, Nat.add_mul_div_left _ _ (show 0 < 256 by decide), Nat.div_eq_of_lt hb, Nat.zero_add]
      exact ih i (Nat.lt_of_succ_lt_succ h)

/-- A write of every bit of a run puts each byte of the number at its place. -/
theorem Memory.read_writeBits_whole (m : List Host.Cell) (a data n i : Nat) (h : i < n) :
    Memory.read (Memory.writeBits m a (256 ^ n - 1) data n) (a + i) = BitVec.ofNat 8 (data / 256 ^ i) := by
  induction n generalizing m a data i with
  | zero => cases h
  | succ n ih =>
    unfold Memory.writeBits
    simp only
    have hp : 0 < 256 ^ n := Nat.pow_pos (by decide)
    have e1 : BitVec.ofNat 8 (256 ^ (n + 1) - 1) = 0xFF#8 := by
      apply BitVec.eq_of_toNat_eq
      rw [BitVec.toNat_ofNat, Nat.pow_succ]
      show (256 ^ n * 256 - 1) % 256 = 255
      omega
    have e2 : (256 ^ (n + 1) - 1) / 256 = 256 ^ n - 1 := by rw [Nat.pow_succ]; omega
    rw [e1, e2, if_neg (by decide)]
    cases i with
    | zero =>
      rw [Memory.read_writeBits_out _ _ _ _ _ _ (Or.inl (by omega)), Memory.read_write, if_pos (by omega), Nat.pow_zero, Nat.div_one]
      apply BitVec.eq_of_getLsbD_eq
      intro k hk
      rw [BitVec.getLsbD_or, BitVec.getLsbD_and, BitVec.getLsbD_and]
      have : ∀ k, k < 8 → (0xFF#8).getLsbD k = true ∧ (~~~(0xFF#8)).getLsbD k = false := by decide
      rw [(this k hk).1, (this k hk).2, Bool.and_false, Bool.and_true, Bool.false_or]
    | succ i =>
      rw [show a + (i + 1) = a + 1 + i by omega, ih _ _ _ _ (by omega), Nat.pow_succ, Nat.mul_comm (256 ^ i), Nat.div_div_eq_div_mul]

/-! ### Scrubbing -/

/-- A byte that reads 0 reads 0 when further pages are zeroed. -/
theorem DeviceMem.zeroPages_zero (ps : List Nat) (m : DeviceMem) (a : Nat) (h : Memory.read m.bytes a = 0#8) :
    Memory.read (ps.foldl DeviceMem.zeroPage m).bytes a = 0#8 := by
  induction ps generalizing m with
  | nil => exact h
  | cons p ps ih =>
    refine ih _ ?_
    show Memory.read (Memory.clear m.bytes _ _) a = 0#8
    rw [Memory.read_clear, h]
    split <;> rfl

/-- The pages that are zeroed read 0. -/
theorem DeviceMem.zeroPages_read (ps : List Nat) (m : DeviceMem) (a : Nat) (h : a / Config.pageBytes ∈ ps) :
    Memory.read (ps.foldl DeviceMem.zeroPage m).bytes a = 0#8 := by
  induction ps generalizing m with
  | nil => cases h
  | cons p ps ih =>
    rcases List.mem_cons.1 h with e | h
    · refine DeviceMem.zeroPages_zero ps _ a ?_
      show Memory.read (Memory.clear m.bytes _ _) a = 0#8
      rw [Memory.read_clear, if_pos]
      have hp : Config.pageBytes = 65536 := rfl
      rw [hp] at e ⊢
      omega
    · exact ih _ h

theorem DeviceMem.zeroPages_unscrubbed (ps : List Nat) (m : DeviceMem) (p : Nat) :
    p ∈ (ps.foldl DeviceMem.zeroPage m).unscrubbed ↔ p ∈ m.unscrubbed ∧ p ∉ ps := by
  induction ps generalizing m with
  | nil => exact ⟨fun h => ⟨h, fun h => nomatch h⟩, fun h => h.1⟩
  | cons q ps ih =>
    rw [List.foldl_cons, ih]
    show p ∈ m.unscrubbed.filter (· != q) ∧ p ∉ ps ↔ _
    rw [List.mem_filter, List.mem_cons]
    constructor
    · rintro ⟨⟨a, b⟩, c⟩
      refine ⟨a, ?_⟩
      rintro (e | h)
      · rw [e] at b; exact absurd b (by simp)
      · exact c h
    · rintro ⟨a, b⟩
      refine ⟨⟨a, ?_⟩, fun h => b (Or.inr h)⟩
      have : p ≠ q := fun e => b (Or.inl e)
      simpa using this

theorem DeviceMem.zeroPages_toScrub (ps : List Nat) (m : DeviceMem) : (ps.foldl DeviceMem.zeroPage m).toScrub = m.toScrub := by
  induction ps generalizing m with
  | nil => rfl
  | cons p ps ih => exact (ih _).trans rfl

end Sys2Proof.Machine
end

