-- ==== Sys2Proof/Laws/Lookup.lean ====
section
/-!
SUPPORT. What a function's registers, a partition's, a queue's, a launch and an installation read as behind a change of one of them; and
that an installation that is freed is gone (04 R101).
-/
namespace Sys2Proof.Machine

variable (s : State)

theorem State.fn_onFn (v : Nat) (f : Fn → Fn) (w : Nat) : (s.onFn v f).fn w = if v = w then f (s.fn v) else s.fn w := by
  unfold State.fn State.onFn; exact Sparse.get_alter ..

@[simp] theorem State.fn_onFn_self (v : Nat) (f : Fn → Fn) : (s.onFn v f).fn v = f (s.fn v) := by rw [State.fn_onFn, if_pos rfl]

theorem State.part_onPart (p : Nat) (f : Partition → Partition) (q : Nat) :
    (s.onPart p f).part q = if p = q then f (s.part p) else s.part q := by
  unfold State.part State.onPart; exact Sparse.get_alter ..

@[simp] theorem State.part_onPart_self (p : Nat) (f : Partition → Partition) : (s.onPart p f).part p = f (s.part p) := by
  rw [State.part_onPart, if_pos rfl]

@[simp] theorem State.queueOf_onLq_self (v q : Nat) (f : LaunchQueue → LaunchQueue) : (s.onLq v q f).queueOf v q = f (s.queueOf v q) := by
  unfold State.queueOf State.onLq; rw [State.fn_onFn_self]
  show Sparse.get {} (Sparse.alter {} (s.fn v).queues q f) q = _
  rw [Sparse.get_alter, if_pos rfl]

theorem State.launch?_putLaunch {n : Nat} {l : Launch} (k : Launch) (h : s.launch? n = some l) (e : k.id = n) :
    (s.putLaunch k).launch? n = some k := by
  subst e
  exact find?_replaceFirst_self _ k _ (beq_self_eq_true _) (by rw [show s.launches.find? _ = _ from h]; rfl)

theorem State.inst?_putInst {n : Word} {i : Installation} (k : Installation) (h : s.inst? n = some i) (e : k.handle = n) :
    (s.putInst k).inst? n = some k := by
  subst e
  exact find?_replaceFirst_self _ k _ (beq_self_eq_true _) (by rw [show s.installs.find? _ = _ from h]; rfl)

theorem State.inst?_onInst {n : Word} {i : Installation} {f : Installation → Installation} (h : s.inst? n = some i)
    (e : (f i).handle = n) : (s.onInst n f).inst? n = some (f i) := by
  unfold State.onInst; rw [h]; exact State.inst?_putInst s (f i) h e

/-! ### Installations that are freed -/

theorem State.freeInstall_installs (i : Installation) : (s.freeInstall i).installs = s.installs.filter (fun j => j.handle != i.handle) := rfl

/-- What a list of installations leaves when each is freed: those of other handles. -/
theorem freeAll_installs (is : List Installation) : ∀ s : State, (is.foldl State.freeInstall s).installs =
    s.installs.filter (fun j => is.all (fun i => j.handle != i.handle)) := by
  induction is with
  | nil => intro s; exact (List.filter_eq_self.2 (fun _ _ => rfl)).symm
  | cons i is ih =>
    intro s
    rw [List.foldl_cons, ih, State.freeInstall_installs, List.filter_filter]
    congr 1
    funext j
    rw [List.all_cons, Bool.and_comm]

theorem freeAll_gone {is : List Installation} {i : Installation} (h : i ∈ is) (s : State) : (is.foldl State.freeInstall s).inst? i.handle = none := by
  unfold State.inst?
  rw [freeAll_installs]
  refine List.find?_eq_none.2 (fun j hj => ?_)
  have := List.all_eq_true.1 (List.mem_filter.1 hj).2 i h
  simpa using this

/-- Every installation that is removed is gone. -/
theorem removeAll_gone {gone : Installation → Bool} {i : Installation} (h : i ∈ s.installs) (hg : gone i = true) :
    (s.removeAll gone).inst? i.handle = none := by
  unfold State.removeAll
  exact freeAll_gone (List.mem_filter.2 ⟨h, hg⟩) _

end Sys2Proof.Machine
end

