-- ==== Sys2Proof/Laws/PerInstr.lean ====
section
/-!
SUPPORT. One lemma for each instruction: its word decodes back to it, with every operand at every value (12 R315, R325).
-/
namespace Sys2Proof.Laws.EncodeDecode

/-- The word of an instruction decodes to that instruction; a step of another agent has no word. -/
def Statement (i : Instr) : Prop := ∀ w, encode i = some w → decodeWord w = .ok i

theorem place {n i j : Nat} {x : BitVec n} (h : i = j) : x.getLsbD i = x.getLsbD j := h ▸ rfl

/-- A word of four fields reads back as its fields. -/
theorem word_fields {op d a b : Byte} {i : Instr} (row : Nat → Word → Except DecodeError Instr)
    (hrow : ∀ w, opField w = op → decodeWord w = row (op.toNat % 16) w)
    (hi : ∀ w, dField w = d → aField w = a → bField w = b → row (op.toNat % 16) w = .ok i) : decodeWord (mkWord op d a b) = .ok i := by
  have f : opField (mkWord op d a b) = op ∧ dField (mkWord op d a b) = d ∧ aField (mkWord op d a b) = a ∧
      bField (mkWord op d a b) = b := by
    refine ⟨?_, ?_, ?_, ?_⟩ <;> apply BitVec.eq_of_getLsbD_eq <;> intro k hk <;>
      simp only [opField, dField, aField, bField, mkWord, BitVec.getLsbD_extractLsb', BitVec.getLsbD_append, hk, ← BitVec.getLsbD_eq_getElem, decide_true, Bool.true_and, if_true] <;>
      (repeat' split) <;> first | omega | exact place (by omega) | simp_all
  rw [hrow _ f.1]
  exact hi _ f.2.1 f.2.2.1 f.2.2.2

/-- A word of an opcode and 24 field bits reads back as both. -/
theorem word_wide (op : Byte) (n : BitVec 24) : opField (op ++ n) = op ∧ (op ++ n).extractLsb' 0 24 = n := by
  refine ⟨?_, ?_⟩ <;> apply BitVec.eq_of_getLsbD_eq <;> intro k hk <;>
    simp only [opField, BitVec.getLsbD_extractLsb', BitVec.getLsbD_append, hk, ← BitVec.getLsbD_eq_getElem, decide_true, Bool.true_and, if_true] <;>
    (repeat' split) <;> first | omega | exact place (by omega) | simp_all

theorem nop (n : BitVec 24) : Statement (.nop n) := by
  intro w h; cases h
  obtain ⟨ho, hn⟩ := word_wide 0x00#8 n
  unfold decodeWord; rw [ho]; unfold decodeRow0; exact congrArg (fun k => Except.ok (Instr.nop k)) hn

theorem brk (n : BitVec 24) : Statement (.brk n) := by
  intro w h; cases h
  obtain ⟨ho, hn⟩ := word_wide 0x01#8 n
  unfold decodeWord; rw [ho]; unfold decodeRow0; exact congrArg (fun k => Except.ok (Instr.brk k)) hn

theorem exit (d a b : Byte) : Statement (.exit d a b) := by
  intro w h; cases h
  exact word_fields decodeRow0 (fun w h => by unfold decodeWord; rw [h]; rfl) (fun w hd ha hb => by rw [← hd, ← ha, ← hb]; rfl)

theorem swtrap (d a b : Byte) : Statement (.swtrap d a b) := by
  intro w h; cases h
  exact word_fields decodeRow0 (fun w h => by unfold decodeWord; rw [h]; rfl) (fun w hd ha hb => by rw [← hd, ← ha, ← hb]; rfl)

theorem tret (d a b : Byte) : Statement (.tret d a b) := by
  intro w h; cases h
  exact word_fields decodeRow0 (fun w h => by unfold decodeWord; rw [h]; rfl) (fun w hd ha hb => by rw [← hd, ← ha, ← hb]; rfl)

theorem ctxrd (d a b : Byte) : Statement (.ctxrd d a b) := by
  intro w h; cases h
  exact word_fields decodeRow0 (fun w h => by unfold decodeWord; rw [h]; rfl) (fun w hd ha hb => by rw [← hd, ← ha, ← hb]; rfl)

theorem ctxwr (d a b : Byte) : Statement (.ctxwr d a b) := by
  intro w h; cases h
  exact word_fields decodeRow0 (fun w h => by unfold decodeWord; rw [h]; rfl) (fun w hd ha hb => by rw [← hd, ← ha, ← hb]; rfl)

theorem ctxctl (d a b : Byte) : Statement (.ctxctl d a b) := by
  intro w h; cases h
  exact word_fields decodeRow0 (fun w h => by unfold decodeWord; rw [h]; rfl) (fun w hd ha hb => by rw [← hd, ← ha, ← hb]; rfl)

theorem setmode (d a b : Byte) : Statement (.setmode d a b) := by
  intro w h; cases h
  exact word_fields decodeRow0 (fun w h => by unfold decodeWord; rw [h]; rfl) (fun w hd ha hb => by rw [← hd, ← ha, ← hb]; rfl)

theorem modeset (d a b : Byte) : Statement (.modeset d a b) := by
  intro w h; cases h
  exact word_fields decodeRow0 (fun w h => by unfold decodeWord; rw [h]; rfl) (fun w hd ha hb => by rw [← hd, ← ha, ← hb]; rfl)

theorem sysv (d a b : Byte) : Statement (.sysv d a b) := by
  intro w h; cases h
  exact word_fields decodeRow0 (fun w h => by unfold decodeWord; rw [h]; rfl) (fun w hd ha hb => by rw [← hd, ← ha, ← hb]; rfl)

theorem rdfps (d a b : Byte) : Statement (.rdfps d a b) := by
  intro w h; cases h
  exact word_fields decodeRow0 (fun w h => by unfold decodeWord; rw [h]; rfl) (fun w hd ha hb => by rw [← hd, ← ha, ← hb]; rfl)

theorem wrfps (d a b : Byte) : Statement (.wrfps d a b) := by
  intro w h; cases h
  exact word_fields decodeRow0 (fun w h => by unfold decodeWord; rw [h]; rfl) (fun w hd ha hb => by rw [← hd, ← ha, ← hb]; rfl)

theorem rdcnt (d a b : Byte) : Statement (.rdcnt d a b) := by
  intro w h; cases h
  exact word_fields decodeRow0 (fun w h => by unfold decodeWord; rw [h]; rfl) (fun w hd ha hb => by rw [← hd, ← ha, ← hb]; rfl)

theorem pgmap (d a b : Byte) : Statement (.pgmap d a b) := by
  intro w h; cases h
  exact word_fields decodeRow0 (fun w h => by unfold decodeWord; rw [h]; rfl) (fun w hd ha hb => by rw [← hd, ← ha, ← hb]; rfl)

theorem pgunmap (d a b : Byte) : Statement (.pgunmap d a b) := by
  intro w h; cases h
  exact word_fields decodeRow0 (fun w h => by unfold decodeWord; rw [h]; rfl) (fun w hd ha hb => by rw [← hd, ← ha, ← hb]; rfl)

theorem bra (d a b : Byte) : Statement (.bra d a b) := by
  intro w h; cases h
  exact word_fields decodeRow1 (fun w h => by unfold decodeWord; rw [h]; rfl) (fun w hd ha hb => by rw [← hd, ← ha, ← hb]; rfl)

theorem bru (d a b : Byte) : Statement (.bru d a b) := by
  intro w h; cases h
  exact word_fields decodeRow1 (fun w h => by unfold decodeWord; rw [h]; rfl) (fun w hd ha hb => by rw [← hd, ← ha, ← hb]; rfl)

theorem ifnz (d a b : Byte) : Statement (.ifnz d a b) := by
  intro w h; cases h
  exact word_fields decodeRow1 (fun w h => by unfold decodeWord; rw [h]; rfl) (fun w hd ha hb => by rw [← hd, ← ha, ← hb]; rfl)

theorem elseOp (d a b : Byte) : Statement (.elseOp d a b) := by
  intro w h; cases h
  exact word_fields decodeRow1 (fun w h => by unfold decodeWord; rw [h]; rfl) (fun w hd ha hb => by rw [← hd, ← ha, ← hb]; rfl)

theorem endif (d a b : Byte) : Statement (.endif d a b) := by
  intro w h; cases h
  exact word_fields decodeRow1 (fun w h => by unfold decodeWord; rw [h]; rfl) (fun w hd ha hb => by rw [← hd, ← ha, ← hb]; rfl)

theorem brnone (d a b : Byte) : Statement (.brnone d a b) := by
  intro w h; cases h
  exact word_fields decodeRow1 (fun w h => by unfold decodeWord; rw [h]; rfl) (fun w hd ha hb => by rw [← hd, ← ha, ← hb]; rfl)

theorem call (d a b : Byte) : Statement (.call d a b) := by
  intro w h; cases h
  exact word_fields decodeRow1 (fun w h => by unfold decodeWord; rw [h]; rfl) (fun w hd ha hb => by rw [← hd, ← ha, ← hb]; rfl)

theorem ret (d a b : Byte) : Statement (.ret d a b) := by
  intro w h; cases h
  exact word_fields decodeRow1 (fun w h => by unfold decodeWord; rw [h]; rfl) (fun w hd ha hb => by rw [← hd, ← ha, ← hb]; rfl)

theorem loop (d a b : Byte) : Statement (.loop d a b) := by
  intro w h; cases h
  exact word_fields decodeRow1 (fun w h => by unfold decodeWord; rw [h]; rfl) (fun w hd ha hb => by rw [← hd, ← ha, ← hb]; rfl)

theorem fwait (d a b : Byte) : Statement (.fwait d a b) := by
  intro w h; cases h
  exact word_fields decodeRow1 (fun w h => by unfold decodeWord; rw [h]; rfl) (fun w hd ha hb => by rw [← hd, ← ha, ← hb]; rfl)

theorem yield (d a b : Byte) : Statement (.yield d a b) := by
  intro w h; cases h
  exact word_fields decodeRow1 (fun w h => by unfold decodeWord; rw [h]; rfl) (fun w hd ha hb => by rw [← hd, ← ha, ← hb]; rfl)

theorem brx (d a b : Byte) : Statement (.brx d a b) := by
  intro w h; cases h
  exact word_fields decodeRow1 (fun w h => by unfold decodeWord; rw [h]; rfl) (fun w hd ha hb => by rw [← hd, ← ha, ← hb]; rfl)

theorem iadd (d a b : Byte) : Statement (.iadd d a b) := by
  intro w h; cases h
  exact word_fields decodeRow2 (fun w h => by unfold decodeWord; rw [h]; rfl) (fun w hd ha hb => by rw [← hd, ← ha, ← hb]; rfl)

theorem isub (d a b : Byte) : Statement (.isub d a b) := by
  intro w h; cases h
  exact word_fields decodeRow2 (fun w h => by unfold decodeWord; rw [h]; rfl) (fun w hd ha hb => by rw [← hd, ← ha, ← hb]; rfl)

theorem imul (d a b : Byte) : Statement (.imul d a b) := by
  intro w h; cases h
  exact word_fields decodeRow2 (fun w h => by unfold decodeWord; rw [h]; rfl) (fun w hd ha hb => by rw [← hd, ← ha, ← hb]; rfl)

theorem imulh (d a b : Byte) : Statement (.imulh d a b) := by
  intro w h; cases h
  exact word_fields decodeRow2 (fun w h => by unfold decodeWord; rw [h]; rfl) (fun w hd ha hb => by rw [← hd, ← ha, ← hb]; rfl)

theorem imin (d a b : Byte) : Statement (.imin d a b) := by
  intro w h; cases h
  exact word_fields decodeRow2 (fun w h => by unfold decodeWord; rw [h]; rfl) (fun w hd ha hb => by rw [← hd, ← ha, ← hb]; rfl)

theorem imax (d a b : Byte) : Statement (.imax d a b) := by
  intro w h; cases h
  exact word_fields decodeRow2 (fun w h => by unfold decodeWord; rw [h]; rfl) (fun w hd ha hb => by rw [← hd, ← ha, ← hb]; rfl)

theorem iabs (d a b : Byte) : Statement (.iabs d a b) := by
  intro w h; cases h
  exact word_fields decodeRow2 (fun w h => by unfold decodeWord; rw [h]; rfl) (fun w hd ha hb => by rw [← hd, ← ha, ← hb]; rfl)

theorem ineg (d a b : Byte) : Statement (.ineg d a b) := by
  intro w h; cases h
  exact word_fields decodeRow2 (fun w h => by unfold decodeWord; rw [h]; rfl) (fun w hd ha hb => by rw [← hd, ← ha, ← hb]; rfl)

theorem iand (d a b : Byte) : Statement (.iand d a b) := by
  intro w h; cases h
  exact word_fields decodeRow2 (fun w h => by unfold decodeWord; rw [h]; rfl) (fun w hd ha hb => by rw [← hd, ← ha, ← hb]; rfl)

theorem ior (d a b : Byte) : Statement (.ior d a b) := by
  intro w h; cases h
  exact word_fields decodeRow2 (fun w h => by unfold decodeWord; rw [h]; rfl) (fun w hd ha hb => by rw [← hd, ← ha, ← hb]; rfl)

theorem ixor (d a b : Byte) : Statement (.ixor d a b) := by
  intro w h; cases h
  exact word_fields decodeRow2 (fun w h => by unfold decodeWord; rw [h]; rfl) (fun w hd ha hb => by rw [← hd, ← ha, ← hb]; rfl)

theorem inot (d a b : Byte) : Statement (.inot d a b) := by
  intro w h; cases h
  exact word_fields decodeRow2 (fun w h => by unfold decodeWord; rw [h]; rfl) (fun w hd ha hb => by rw [← hd, ← ha, ← hb]; rfl)

theorem shr (d a b : Byte) : Statement (.shr d a b) := by
  intro w h; cases h
  exact word_fields decodeRow2 (fun w h => by unfold decodeWord; rw [h]; rfl) (fun w hd ha hb => by rw [← hd, ← ha, ← hb]; rfl)

theorem shl (d a b : Byte) : Statement (.shl d a b) := by
  intro w h; cases h
  exact word_fields decodeRow2 (fun w h => by unfold decodeWord; rw [h]; rfl) (fun w hd ha hb => by rw [← hd, ← ha, ← hb]; rfl)

theorem sar (d a b : Byte) : Statement (.sar d a b) := by
  intro w h; cases h
  exact word_fields decodeRow2 (fun w h => by unfold decodeWord; rw [h]; rfl) (fun w hd ha hb => by rw [← hd, ← ha, ← hb]; rfl)

theorem rotl (d a b : Byte) : Statement (.rotl d a b) := by
  intro w h; cases h
  exact word_fields decodeRow2 (fun w h => by unfold decodeWord; rw [h]; rfl) (fun w hd ha hb => by rw [← hd, ← ha, ← hb]; rfl)

theorem bfx (d a b : Byte) : Statement (.bfx d a b) := by
  intro w h; cases h
  exact word_fields decodeRow3 (fun w h => by unfold decodeWord; rw [h]; rfl) (fun w hd ha hb => by rw [← hd, ← ha, ← hb]; rfl)

theorem bfi (d a b : Byte) : Statement (.bfi d a b) := by
  intro w h; cases h
  exact word_fields decodeRow3 (fun w h => by unfold decodeWord; rw [h]; rfl) (fun w hd ha hb => by rw [← hd, ← ha, ← hb]; rfl)

theorem popc (d a b : Byte) : Statement (.popc d a b) := by
  intro w h; cases h
  exact word_fields decodeRow3 (fun w h => by unfold decodeWord; rw [h]; rfl) (fun w hd ha hb => by rw [← hd, ← ha, ← hb]; rfl)

theorem clz (d a b : Byte) : Statement (.clz d a b) := by
  intro w h; cases h
  exact word_fields decodeRow3 (fun w h => by unfold decodeWord; rw [h]; rfl) (fun w hd ha hb => by rw [← hd, ← ha, ← hb]; rfl)

theorem brev (d a b : Byte) : Statement (.brev d a b) := by
  intro w h; cases h
  exact word_fields decodeRow3 (fun w h => by unfold decodeWord; rw [h]; rfl) (fun w hd ha hb => by rw [← hd, ← ha, ← hb]; rfl)

theorem imad (d a b : Byte) : Statement (.imad d a b) := by
  intro w h; cases h
  exact word_fields decodeRow3 (fun w h => by unfold decodeWord; rw [h]; rfl) (fun w hd ha hb => by rw [← hd, ← ha, ← hb]; rfl)

theorem idiv (d a b : Byte) : Statement (.idiv d a b) := by
  intro w h; cases h
  exact word_fields decodeRow3 (fun w h => by unfold decodeWord; rw [h]; rfl) (fun w hd ha hb => by rw [← hd, ← ha, ← hb]; rfl)

theorem irem (d a b : Byte) : Statement (.irem d a b) := by
  intro w h; cases h
  exact word_fields decodeRow3 (fun w h => by unfold decodeWord; rw [h]; rfl) (fun w hd ha hb => by rw [← hd, ← ha, ← hb]; rfl)

theorem icmpeq (d a b : Byte) : Statement (.icmpeq d a b) := by
  intro w h; cases h
  exact word_fields decodeRow3 (fun w h => by unfold decodeWord; rw [h]; rfl) (fun w hd ha hb => by rw [← hd, ← ha, ← hb]; rfl)

theorem icmpne (d a b : Byte) : Statement (.icmpne d a b) := by
  intro w h; cases h
  exact word_fields decodeRow3 (fun w h => by unfold decodeWord; rw [h]; rfl) (fun w hd ha hb => by rw [← hd, ← ha, ← hb]; rfl)

theorem icmplt (d a b : Byte) : Statement (.icmplt d a b) := by
  intro w h; cases h
  exact word_fields decodeRow3 (fun w h => by unfold decodeWord; rw [h]; rfl) (fun w hd ha hb => by rw [← hd, ← ha, ← hb]; rfl)

theorem icmple (d a b : Byte) : Statement (.icmple d a b) := by
  intro w h; cases h
  exact word_fields decodeRow3 (fun w h => by unfold decodeWord; rw [h]; rfl) (fun w hd ha hb => by rw [← hd, ← ha, ← hb]; rfl)

theorem icmpgt (d a b : Byte) : Statement (.icmpgt d a b) := by
  intro w h; cases h
  exact word_fields decodeRow3 (fun w h => by unfold decodeWord; rw [h]; rfl) (fun w hd ha hb => by rw [← hd, ← ha, ← hb]; rfl)

theorem icmpge (d a b : Byte) : Statement (.icmpge d a b) := by
  intro w h; cases h
  exact word_fields decodeRow3 (fun w h => by unfold decodeWord; rw [h]; rfl) (fun w hd ha hb => by rw [← hd, ← ha, ← hb]; rfl)

theorem sel (d a b : Byte) : Statement (.sel d a b) := by
  intro w h; cases h
  exact word_fields decodeRow3 (fun w h => by unfold decodeWord; rw [h]; rfl) (fun w hd ha hb => by rw [← hd, ← ha, ← hb]; rfl)

theorem mov (d a b : Byte) : Statement (.mov d a b) := by
  intro w h; cases h
  exact word_fields decodeRow4 (fun w h => by unfold decodeWord; rw [h]; rfl) (fun w hd ha hb => by rw [← hd, ← ha, ← hb]; rfl)

theorem movl (d a b : Byte) : Statement (.movl d a b) := by
  intro w h; cases h
  exact word_fields decodeRow4 (fun w h => by unfold decodeWord; rw [h]; rfl) (fun w hd ha hb => by rw [← hd, ← ha, ← hb]; rfl)

theorem movi (d a b : Byte) : Statement (.movi d a b) := by
  intro w h; cases h
  exact word_fields decodeRow4 (fun w h => by unfold decodeWord; rw [h]; rfl) (fun w hd ha hb => by rw [← hd, ← ha, ← hb]; rfl)

theorem movih (d a b : Byte) : Statement (.movih d a b) := by
  intro w h; cases h
  exact word_fields decodeRow4 (fun w h => by unfold decodeWord; rw [h]; rfl) (fun w hd ha hb => by rw [← hd, ← ha, ← hb]; rfl)

theorem iaddl (d a b : Byte) : Statement (.iaddl d a b) := by
  intro w h; cases h
  exact word_fields decodeRow4 (fun w h => by unfold decodeWord; rw [h]; rfl) (fun w hd ha hb => by rw [← hd, ← ha, ← hb]; rfl)

theorem imull (d a b : Byte) : Statement (.imull d a b) := by
  intro w h; cases h
  exact word_fields decodeRow4 (fun w h => by unfold decodeWord; rw [h]; rfl) (fun w hd ha hb => by rw [← hd, ← ha, ← hb]; rfl)

theorem iandl (d a b : Byte) : Statement (.iandl d a b) := by
  intro w h; cases h
  exact word_fields decodeRow4 (fun w h => by unfold decodeWord; rw [h]; rfl) (fun w hd ha hb => by rw [← hd, ← ha, ← hb]; rfl)

theorem iorl (d a b : Byte) : Statement (.iorl d a b) := by
  intro w h; cases h
  exact word_fields decodeRow4 (fun w h => by unfold decodeWord; rw [h]; rfl) (fun w hd ha hb => by rw [← hd, ← ha, ← hb]; rfl)

theorem ixorl (d a b : Byte) : Statement (.ixorl d a b) := by
  intro w h; cases h
  exact word_fields decodeRow4 (fun w h => by unfold decodeWord; rw [h]; rfl) (fun w hd ha hb => by rw [← hd, ← ha, ← hb]; rfl)

theorem mov64 (d a b : Byte) : Statement (.mov64 d a b) := by
  intro w h; cases h
  exact word_fields decodeRow4 (fun w h => by unfold decodeWord; rw [h]; rfl) (fun w hd ha hb => by rw [← hd, ← ha, ← hb]; rfl)

theorem movl64 (d a b : Byte) : Statement (.movl64 d a b) := by
  intro w h; cases h
  exact word_fields decodeRow4 (fun w h => by unfold decodeWord; rw [h]; rfl) (fun w hd ha hb => by rw [← hd, ← ha, ← hb]; rfl)

theorem getexec (d a b : Byte) : Statement (.getexec d a b) := by
  intro w h; cases h
  exact word_fields decodeRow4 (fun w h => by unfold decodeWord; rw [h]; rfl) (fun w hd ha hb => by rw [← hd, ← ha, ← hb]; rfl)

theorem setexec (d a b : Byte) : Statement (.setexec d a b) := by
  intro w h; cases h
  exact word_fields decodeRow4 (fun w h => by unfold decodeWord; rw [h]; rfl) (fun w hd ha hb => by rw [← hd, ← ha, ← hb]; rfl)

theorem fadd (d a b : Byte) : Statement (.fadd d a b) := by
  intro w h; cases h
  exact word_fields decodeRow5 (fun w h => by unfold decodeWord; rw [h]; rfl) (fun w hd ha hb => by rw [← hd, ← ha, ← hb]; rfl)

theorem fsub (d a b : Byte) : Statement (.fsub d a b) := by
  intro w h; cases h
  exact word_fields decodeRow5 (fun w h => by unfold decodeWord; rw [h]; rfl) (fun w hd ha hb => by rw [← hd, ← ha, ← hb]; rfl)

theorem fmul (d a b : Byte) : Statement (.fmul d a b) := by
  intro w h; cases h
  exact word_fields decodeRow5 (fun w h => by unfold decodeWord; rw [h]; rfl) (fun w hd ha hb => by rw [← hd, ← ha, ← hb]; rfl)

theorem fma (d a b : Byte) : Statement (.fma d a b) := by
  intro w h; cases h
  exact word_fields decodeRow5 (fun w h => by unfold decodeWord; rw [h]; rfl) (fun w hd ha hb => by rw [← hd, ← ha, ← hb]; rfl)

theorem fms (d a b : Byte) : Statement (.fms d a b) := by
  intro w h; cases h
  exact word_fields decodeRow5 (fun w h => by unfold decodeWord; rw [h]; rfl) (fun w hd ha hb => by rw [← hd, ← ha, ← hb]; rfl)

theorem fnma (d a b : Byte) : Statement (.fnma d a b) := by
  intro w h; cases h
  exact word_fields decodeRow5 (fun w h => by unfold decodeWord; rw [h]; rfl) (fun w hd ha hb => by rw [← hd, ← ha, ← hb]; rfl)

theorem fnms (d a b : Byte) : Statement (.fnms d a b) := by
  intro w h; cases h
  exact word_fields decodeRow5 (fun w h => by unfold decodeWord; rw [h]; rfl) (fun w hd ha hb => by rw [← hd, ← ha, ← hb]; rfl)

theorem fmal (d a b : Byte) : Statement (.fmal d a b) := by
  intro w h; cases h
  exact word_fields decodeRow5 (fun w h => by unfold decodeWord; rw [h]; rfl) (fun w hd ha hb => by rw [← hd, ← ha, ← hb]; rfl)

theorem fdiv (d a b : Byte) : Statement (.fdiv d a b) := by
  intro w h; cases h
  exact word_fields decodeRow5 (fun w h => by unfold decodeWord; rw [h]; rfl) (fun w hd ha hb => by rw [← hd, ← ha, ← hb]; rfl)

theorem fsqrt (d a b : Byte) : Statement (.fsqrt d a b) := by
  intro w h; cases h
  exact word_fields decodeRow5 (fun w h => by unfold decodeWord; rw [h]; rfl) (fun w hd ha hb => by rw [← hd, ← ha, ← hb]; rfl)

theorem fmax (d a b : Byte) : Statement (.fmax d a b) := by
  intro w h; cases h
  exact word_fields decodeRow5 (fun w h => by unfold decodeWord; rw [h]; rfl) (fun w hd ha hb => by rw [← hd, ← ha, ← hb]; rfl)

theorem fmin (d a b : Byte) : Statement (.fmin d a b) := by
  intro w h; cases h
  exact word_fields decodeRow5 (fun w h => by unfold decodeWord; rw [h]; rfl) (fun w hd ha hb => by rw [← hd, ← ha, ← hb]; rfl)

theorem fmaxn (d a b : Byte) : Statement (.fmaxn d a b) := by
  intro w h; cases h
  exact word_fields decodeRow5 (fun w h => by unfold decodeWord; rw [h]; rfl) (fun w hd ha hb => by rw [← hd, ← ha, ← hb]; rfl)

theorem fminn (d a b : Byte) : Statement (.fminn d a b) := by
  intro w h; cases h
  exact word_fields decodeRow5 (fun w h => by unfold decodeWord; rw [h]; rfl) (fun w hd ha hb => by rw [← hd, ← ha, ← hb]; rfl)

theorem fabs (d a b : Byte) : Statement (.fabs d a b) := by
  intro w h; cases h
  exact word_fields decodeRow5 (fun w h => by unfold decodeWord; rw [h]; rfl) (fun w hd ha hb => by rw [← hd, ← ha, ← hb]; rfl)

theorem fneg (d a b : Byte) : Statement (.fneg d a b) := by
  intro w h; cases h
  exact word_fields decodeRow5 (fun w h => by unfold decodeWord; rw [h]; rfl) (fun w hd ha hb => by rw [← hd, ← ha, ← hb]; rfl)

theorem fexp2 (d a b : Byte) : Statement (.fexp2 d a b) := by
  intro w h; cases h
  exact word_fields decodeRow6 (fun w h => by unfold decodeWord; rw [h]; rfl) (fun w hd ha hb => by rw [← hd, ← ha, ← hb]; rfl)

theorem flog2 (d a b : Byte) : Statement (.flog2 d a b) := by
  intro w h; cases h
  exact word_fields decodeRow6 (fun w h => by unfold decodeWord; rw [h]; rfl) (fun w hd ha hb => by rw [← hd, ← ha, ← hb]; rfl)

theorem frsq (d a b : Byte) : Statement (.frsq d a b) := by
  intro w h; cases h
  exact word_fields decodeRow6 (fun w h => by unfold decodeWord; rw [h]; rfl) (fun w hd ha hb => by rw [← hd, ← ha, ← hb]; rfl)

theorem fcpys (d a b : Byte) : Statement (.fcpys d a b) := by
  intro w h; cases h
  exact word_fields decodeRow6 (fun w h => by unfold decodeWord; rw [h]; rfl) (fun w hd ha hb => by rw [← hd, ← ha, ← hb]; rfl)

theorem fceq (d a b : Byte) : Statement (.fceq d a b) := by
  intro w h; cases h
  exact word_fields decodeRow6 (fun w h => by unfold decodeWord; rw [h]; rfl) (fun w hd ha hb => by rw [← hd, ← ha, ← hb]; rfl)

theorem fcne (d a b : Byte) : Statement (.fcne d a b) := by
  intro w h; cases h
  exact word_fields decodeRow6 (fun w h => by unfold decodeWord; rw [h]; rfl) (fun w hd ha hb => by rw [← hd, ← ha, ← hb]; rfl)

theorem fclt (d a b : Byte) : Statement (.fclt d a b) := by
  intro w h; cases h
  exact word_fields decodeRow6 (fun w h => by unfold decodeWord; rw [h]; rfl) (fun w hd ha hb => by rw [← hd, ← ha, ← hb]; rfl)

theorem fcle (d a b : Byte) : Statement (.fcle d a b) := by
  intro w h; cases h
  exact word_fields decodeRow6 (fun w h => by unfold decodeWord; rw [h]; rfl) (fun w hd ha hb => by rw [← hd, ← ha, ← hb]; rfl)

theorem reduce (d a b : Byte) : Statement (.reduce d a b) := by
  intro w h; cases h
  exact word_fields decodeRow6 (fun w h => by unfold decodeWord; rw [h]; rfl) (fun w hd ha hb => by rw [← hd, ← ha, ← hb]; rfl)

theorem scan (d a b : Byte) : Statement (.scan d a b) := by
  intro w h; cases h
  exact word_fields decodeRow6 (fun w h => by unfold decodeWord; rw [h]; rfl) (fun w hd ha hb => by rw [← hd, ← ha, ← hb]; rfl)

theorem shfl (d a b : Byte) : Statement (.shfl d a b) := by
  intro w h; cases h
  exact word_fields decodeRow6 (fun w h => by unfold decodeWord; rw [h]; rfl) (fun w hd ha hb => by rw [← hd, ← ha, ← hb]; rfl)

theorem shflup (d a b : Byte) : Statement (.shflup d a b) := by
  intro w h; cases h
  exact word_fields decodeRow6 (fun w h => by unfold decodeWord; rw [h]; rfl) (fun w hd ha hb => by rw [← hd, ← ha, ← hb]; rfl)

theorem shfldn (d a b : Byte) : Statement (.shfldn d a b) := by
  intro w h; cases h
  exact word_fields decodeRow6 (fun w h => by unfold decodeWord; rw [h]; rfl) (fun w hd ha hb => by rw [← hd, ← ha, ← hb]; rfl)

theorem shflx (d a b : Byte) : Statement (.shflx d a b) := by
  intro w h; cases h
  exact word_fields decodeRow6 (fun w h => by unfold decodeWord; rw [h]; rfl) (fun w hd ha hb => by rw [← hd, ← ha, ← hb]; rfl)

theorem vote (d a b : Byte) : Statement (.vote d a b) := by
  intro w h; cases h
  exact word_fields decodeRow6 (fun w h => by unfold decodeWord; rw [h]; rfl) (fun w hd ha hb => by rw [← hd, ← ha, ← hb]; rfl)

theorem matchOp (d a b : Byte) : Statement (.matchOp d a b) := by
  intro w h; cases h
  exact word_fields decodeRow6 (fun w h => by unfold decodeWord; rw [h]; rfl) (fun w hd ha hb => by rw [← hd, ← ha, ← hb]; rfl)

theorem fence (d a b : Byte) : Statement (.fence d a b) := by
  intro w h; cases h
  exact word_fields decodeRow7 (fun w h => by unfold decodeWord; rw [h]; rfl) (fun w hd ha hb => by rw [← hd, ← ha, ← hb]; rfl)

theorem ifence (d a b : Byte) : Statement (.ifence d a b) := by
  intro w h; cases h
  exact word_fields decodeRow7 (fun w h => by unfold decodeWord; rw [h]; rfl) (fun w hd ha hb => by rw [← hd, ← ha, ← hb]; rfl)

theorem cvt (d a b : Byte) : Statement (.cvt d a b) := by
  intro w h; cases h
  exact word_fields decodeRow7 (fun w h => by unfold decodeWord; rw [h]; rfl) (fun w hd ha hb => by rw [← hd, ← ha, ← hb]; rfl)

theorem fcpack (d a b : Byte) : Statement (.fcpack d a b) := by
  intro w h; cases h
  exact word_fields decodeRow7 (fun w h => by unfold decodeWord; rw [h]; rfl) (fun w hd ha hb => by rw [← hd, ← ha, ← hb]; rfl)

theorem fcunpk (d a b : Byte) : Statement (.fcunpk d a b) := by
  intro w h; cases h
  exact word_fields decodeRow7 (fun w h => by unfold decodeWord; rw [h]; rfl) (fun w hd ha hb => by rw [← hd, ← ha, ← hb]; rfl)

theorem fclass (d a b : Byte) : Statement (.fclass d a b) := by
  intro w h; cases h
  exact word_fields decodeRow7 (fun w h => by unfold decodeWord; rw [h]; rfl) (fun w hd ha hb => by rw [← hd, ← ha, ← hb]; rfl)

theorem frint (d a b : Byte) : Statement (.frint d a b) := by
  intro w h; cases h
  exact word_fields decodeRow7 (fun w h => by unfold decodeWord; rw [h]; rfl) (fun w hd ha hb => by rw [← hd, ← ha, ← hb]; rfl)

theorem fscale (d a b : Byte) : Statement (.fscale d a b) := by
  intro w h; cases h
  exact word_fields decodeRow7 (fun w h => by unfold decodeWord; rw [h]; rfl) (fun w hd ha hb => by rw [← hd, ← ha, ← hb]; rfl)

theorem flogb (d a b : Byte) : Statement (.flogb d a b) := by
  intro w h; cases h
  exact word_fields decodeRow7 (fun w h => by unfold decodeWord; rw [h]; rfl) (fun w hd ha hb => by rw [← hd, ← ha, ← hb]; rfl)

theorem fcun (d a b : Byte) : Statement (.fcun d a b) := by
  intro w h; cases h
  exact word_fields decodeRow7 (fun w h => by unfold decodeWord; rw [h]; rfl) (fun w hd ha hb => by rw [← hd, ← ha, ← hb]; rfl)

theorem frcp (d a b : Byte) : Statement (.frcp d a b) := by
  intro w h; cases h
  exact word_fields decodeRow7 (fun w h => by unfold decodeWord; rw [h]; rfl) (fun w hd ha hb => by rw [← hd, ← ha, ← hb]; rfl)

theorem ld32 (d a b : Byte) : Statement (.ld32 d a b) := by
  intro w h; cases h
  exact word_fields decodeRow8 (fun w h => by unfold decodeWord; rw [h]; rfl) (fun w hd ha hb => by rw [← hd, ← ha, ← hb]; rfl)

theorem lda32 (d a b : Byte) : Statement (.lda32 d a b) := by
  intro w h; cases h
  exact word_fields decodeRow8 (fun w h => by unfold decodeWord; rw [h]; rfl) (fun w hd ha hb => by rw [← hd, ← ha, ← hb]; rfl)

theorem ld8 (d a b : Byte) : Statement (.ld8 d a b) := by
  intro w h; cases h
  exact word_fields decodeRow8 (fun w h => by unfold decodeWord; rw [h]; rfl) (fun w hd ha hb => by rw [← hd, ← ha, ← hb]; rfl)

theorem ld8s (d a b : Byte) : Statement (.ld8s d a b) := by
  intro w h; cases h
  exact word_fields decodeRow8 (fun w h => by unfold decodeWord; rw [h]; rfl) (fun w hd ha hb => by rw [← hd, ← ha, ← hb]; rfl)

theorem ld16 (d a b : Byte) : Statement (.ld16 d a b) := by
  intro w h; cases h
  exact word_fields decodeRow8 (fun w h => by unfold decodeWord; rw [h]; rfl) (fun w hd ha hb => by rw [← hd, ← ha, ← hb]; rfl)

theorem ld16s (d a b : Byte) : Statement (.ld16s d a b) := by
  intro w h; cases h
  exact word_fields decodeRow8 (fun w h => by unfold decodeWord; rw [h]; rfl) (fun w hd ha hb => by rw [← hd, ← ha, ← hb]; rfl)

theorem ld64 (d a b : Byte) : Statement (.ld64 d a b) := by
  intro w h; cases h
  exact word_fields decodeRow8 (fun w h => by unfold decodeWord; rw [h]; rfl) (fun w hd ha hb => by rw [← hd, ← ha, ← hb]; rfl)

theorem ld128 (d a b : Byte) : Statement (.ld128 d a b) := by
  intro w h; cases h
  exact word_fields decodeRow8 (fun w h => by unfold decodeWord; rw [h]; rfl) (fun w hd ha hb => by rw [← hd, ← ha, ← hb]; rfl)

theorem st32 (d a b : Byte) : Statement (.st32 d a b) := by
  intro w h; cases h
  exact word_fields decodeRow8 (fun w h => by unfold decodeWord; rw [h]; rfl) (fun w hd ha hb => by rw [← hd, ← ha, ← hb]; rfl)

theorem stl32 (d a b : Byte) : Statement (.stl32 d a b) := by
  intro w h; cases h
  exact word_fields decodeRow8 (fun w h => by unfold decodeWord; rw [h]; rfl) (fun w hd ha hb => by rw [← hd, ← ha, ← hb]; rfl)

theorem st8 (d a b : Byte) : Statement (.st8 d a b) := by
  intro w h; cases h
  exact word_fields decodeRow8 (fun w h => by unfold decodeWord; rw [h]; rfl) (fun w hd ha hb => by rw [← hd, ← ha, ← hb]; rfl)

theorem st16 (d a b : Byte) : Statement (.st16 d a b) := by
  intro w h; cases h
  exact word_fields decodeRow8 (fun w h => by unfold decodeWord; rw [h]; rfl) (fun w hd ha hb => by rw [← hd, ← ha, ← hb]; rfl)

theorem st64 (d a b : Byte) : Statement (.st64 d a b) := by
  intro w h; cases h
  exact word_fields decodeRow8 (fun w h => by unfold decodeWord; rw [h]; rfl) (fun w hd ha hb => by rw [← hd, ← ha, ← hb]; rfl)

theorem st128 (d a b : Byte) : Statement (.st128 d a b) := by
  intro w h; cases h
  exact word_fields decodeRow8 (fun w h => by unfold decodeWord; rw [h]; rfl) (fun w hd ha hb => by rw [← hd, ← ha, ← hb]; rfl)

theorem recwr (d a b : Byte) : Statement (.recwr d a b) := by
  intro w h; cases h
  exact word_fields decodeRow8 (fun w h => by unfold decodeWord; rw [h]; rfl) (fun w hd ha hb => by rw [← hd, ← ha, ← hb]; rfl)

theorem recrd (d a b : Byte) : Statement (.recrd d a b) := by
  intro w h; cases h
  exact word_fields decodeRow8 (fun w h => by unfold decodeWord; rw [h]; rfl) (fun w hd ha hb => by rw [← hd, ← ha, ← hb]; rfl)

theorem arrive (d a b : Byte) : Statement (.arrive d a b) := by
  intro w h; cases h
  exact word_fields decodeRow9 (fun w h => by unfold decodeWord; rw [h]; rfl) (fun w hd ha hb => by rw [← hd, ← ha, ← hb]; rfl)

theorem waitp (d a b : Byte) : Statement (.waitp d a b) := by
  intro w h; cases h
  exact word_fields decodeRow9 (fun w h => by unfold decodeWord; rw [h]; rfl) (fun w hd ha hb => by rw [← hd, ← ha, ← hb]; rfl)

theorem barinit (d a b : Byte) : Statement (.barinit d a b) := by
  intro w h; cases h
  exact word_fields decodeRow9 (fun w h => by unfold decodeWord; rw [h]; rfl) (fun w hd ha hb => by rw [← hd, ← ha, ← hb]; rfl)

theorem bartest (d a b : Byte) : Statement (.bartest d a b) := by
  intro w h; cases h
  exact word_fields decodeRow9 (fun w h => by unfold decodeWord; rw [h]; rfl) (fun w hd ha hb => by rw [← hd, ← ha, ← hb]; rfl)

theorem arrivex (d a b : Byte) : Statement (.arrivex d a b) := by
  intro w h; cases h
  exact word_fields decodeRow9 (fun w h => by unfold decodeWord; rw [h]; rfl) (fun w hd ha hb => by rw [← hd, ← ha, ← hb]; rfl)

theorem aor32 (d a b : Byte) : Statement (.aor32 d a b) := by
  intro w h; cases h
  exact word_fields decodeRow9 (fun w h => by unfold decodeWord; rw [h]; rfl) (fun w hd ha hb => by rw [← hd, ← ha, ← hb]; rfl)

theorem axor32 (d a b : Byte) : Statement (.axor32 d a b) := by
  intro w h; cases h
  exact word_fields decodeRow9 (fun w h => by unfold decodeWord; rw [h]; rfl) (fun w hd ha hb => by rw [← hd, ← ha, ← hb]; rfl)

theorem tkt (d a b : Byte) : Statement (.tkt d a b) := by
  intro w h; cases h
  exact word_fields decodeRow9 (fun w h => by unfold decodeWord; rw [h]; rfl) (fun w hd ha hb => by rw [← hd, ← ha, ← hb]; rfl)

theorem twait (d a b : Byte) : Statement (.twait d a b) := by
  intro w h; cases h
  exact word_fields decodeRow9 (fun w h => by unfold decodeWord; rw [h]; rfl) (fun w hd ha hb => by rw [← hd, ← ha, ← hb]; rfl)

theorem tserve (d a b : Byte) : Statement (.tserve d a b) := by
  intro w h; cases h
  exact word_fields decodeRow9 (fun w h => by unfold decodeWord; rw [h]; rfl) (fun w hd ha hb => by rw [← hd, ← ha, ← hb]; rfl)

theorem qstat (d a b : Byte) : Statement (.qstat d a b) := by
  intro w h; cases h
  exact word_fields decodeRow9 (fun w h => by unfold decodeWord; rw [h]; rfl) (fun w hd ha hb => by rw [← hd, ← ha, ← hb]; rfl)

theorem lease (d a b : Byte) : Statement (.lease d a b) := by
  intro w h; cases h
  exact word_fields decodeRow9 (fun w h => by unfold decodeWord; rw [h]; rfl) (fun w hd ha hb => by rw [← hd, ← ha, ← hb]; rfl)

theorem unlease (d a b : Byte) : Statement (.unlease d a b) := by
  intro w h; cases h
  exact word_fields decodeRow9 (fun w h => by unfold decodeWord; rw [h]; rfl) (fun w hd ha hb => by rw [← hd, ← ha, ← hb]; rfl)

theorem leaseq (d a b : Byte) : Statement (.leaseq d a b) := by
  intro w h; cases h
  exact word_fields decodeRow9 (fun w h => by unfold decodeWord; rw [h]; rfl) (fun w hd ha hb => by rw [← hd, ← ha, ← hb]; rfl)

theorem slotset (d a b : Byte) : Statement (.slotset d a b) := by
  intro w h; cases h
  exact word_fields decodeRow9 (fun w h => by unfold decodeWord; rw [h]; rfl) (fun w hd ha hb => by rw [← hd, ← ha, ← hb]; rfl)

theorem cas32 (d a b : Byte) : Statement (.cas32 d a b) := by
  intro w h; cases h
  exact word_fields decodeRowA (fun w h => by unfold decodeWord; rw [h]; rfl) (fun w hd ha hb => by rw [← hd, ← ha, ← hb]; rfl)

theorem cas64 (d a b : Byte) : Statement (.cas64 d a b) := by
  intro w h; cases h
  exact word_fields decodeRowA (fun w h => by unfold decodeWord; rw [h]; rfl) (fun w hd ha hb => by rw [← hd, ← ha, ← hb]; rfl)

theorem xchg32 (d a b : Byte) : Statement (.xchg32 d a b) := by
  intro w h; cases h
  exact word_fields decodeRowA (fun w h => by unfold decodeWord; rw [h]; rfl) (fun w hd ha hb => by rw [← hd, ← ha, ← hb]; rfl)

theorem aadd32 (d a b : Byte) : Statement (.aadd32 d a b) := by
  intro w h; cases h
  exact word_fields decodeRowA (fun w h => by unfold decodeWord; rw [h]; rfl) (fun w hd ha hb => by rw [← hd, ← ha, ← hb]; rfl)

theorem aadd64 (d a b : Byte) : Statement (.aadd64 d a b) := by
  intro w h; cases h
  exact word_fields decodeRowA (fun w h => by unfold decodeWord; rw [h]; rfl) (fun w hd ha hb => by rw [← hd, ← ha, ← hb]; rfl)

theorem amin32 (d a b : Byte) : Statement (.amin32 d a b) := by
  intro w h; cases h
  exact word_fields decodeRowA (fun w h => by unfold decodeWord; rw [h]; rfl) (fun w hd ha hb => by rw [← hd, ← ha, ← hb]; rfl)

theorem amax32 (d a b : Byte) : Statement (.amax32 d a b) := by
  intro w h; cases h
  exact word_fields decodeRowA (fun w h => by unfold decodeWord; rw [h]; rfl) (fun w hd ha hb => by rw [← hd, ← ha, ← hb]; rfl)

theorem aand32 (d a b : Byte) : Statement (.aand32 d a b) := by
  intro w h; cases h
  exact word_fields decodeRowA (fun w h => by unfold decodeWord; rw [h]; rfl) (fun w hd ha hb => by rw [← hd, ← ha, ← hb]; rfl)

theorem radd32 (d a b : Byte) : Statement (.radd32 d a b) := by
  intro w h; cases h
  exact word_fields decodeRowA (fun w h => by unfold decodeWord; rw [h]; rfl) (fun w hd ha hb => by rw [← hd, ← ha, ← hb]; rfl)

theorem radd64 (d a b : Byte) : Statement (.radd64 d a b) := by
  intro w h; cases h
  exact word_fields decodeRowA (fun w h => by unfold decodeWord; rw [h]; rfl) (fun w hd ha hb => by rw [← hd, ← ha, ← hb]; rfl)

theorem rmin32 (d a b : Byte) : Statement (.rmin32 d a b) := by
  intro w h; cases h
  exact word_fields decodeRowA (fun w h => by unfold decodeWord; rw [h]; rfl) (fun w hd ha hb => by rw [← hd, ← ha, ← hb]; rfl)

theorem rmax32 (d a b : Byte) : Statement (.rmax32 d a b) := by
  intro w h; cases h
  exact word_fields decodeRowA (fun w h => by unfold decodeWord; rw [h]; rfl) (fun w hd ha hb => by rw [← hd, ← ha, ← hb]; rfl)

theorem rand32 (d a b : Byte) : Statement (.rand32 d a b) := by
  intro w h; cases h
  exact word_fields decodeRowA (fun w h => by unfold decodeWord; rw [h]; rfl) (fun w hd ha hb => by rw [← hd, ← ha, ← hb]; rfl)

theorem ror32 (d a b : Byte) : Statement (.ror32 d a b) := by
  intro w h; cases h
  exact word_fields decodeRowA (fun w h => by unfold decodeWord; rw [h]; rfl) (fun w hd ha hb => by rw [← hd, ← ha, ← hb]; rfl)

theorem rxor32 (d a b : Byte) : Statement (.rxor32 d a b) := by
  intro w h; cases h
  exact word_fields decodeRowA (fun w h => by unfold decodeWord; rw [h]; rfl) (fun w hd ha hb => by rw [← hd, ← ha, ← hb]; rfl)

theorem mma (d a b : Byte) : Statement (.mma d a b) := by
  intro w h; cases h
  exact word_fields decodeRowB (fun w h => by unfold decodeWord; rw [h]; rfl) (fun w hd ha hb => by rw [← hd, ← ha, ← hb]; rfl)

theorem accld (d a b : Byte) : Statement (.accld d a b) := by
  intro w h; cases h
  exact word_fields decodeRowB (fun w h => by unfold decodeWord; rw [h]; rfl) (fun w hd ha hb => by rw [← hd, ← ha, ← hb]; rfl)

theorem accst (d a b : Byte) : Statement (.accst d a b) := by
  intro w h; cases h
  exact word_fields decodeRowB (fun w h => by unfold decodeWord; rw [h]; rfl) (fun w hd ha hb => by rw [← hd, ← ha, ← hb]; rfl)

theorem accz (d a b : Byte) : Statement (.accz d a b) := by
  intro w h; cases h
  exact word_fields decodeRowB (fun w h => by unfold decodeWord; rw [h]; rfl) (fun w hd ha hb => by rw [← hd, ← ha, ← hb]; rfl)

theorem obclaim (d a b : Byte) : Statement (.obclaim d a b) := by
  intro w h; cases h
  exact word_fields decodeRowB (fun w h => by unfold decodeWord; rw [h]; rfl) (fun w hd ha hb => by rw [← hd, ← ha, ← hb]; rfl)

theorem obrel (d a b : Byte) : Statement (.obrel d a b) := by
  intro w h; cases h
  exact word_fields decodeRowB (fun w h => by unfold decodeWord; rw [h]; rfl) (fun w hd ha hb => by rw [← hd, ← ha, ← hb]; rfl)

theorem perturb (d a b : Byte) : Statement (.perturb d a b) := by
  intro w h; cases h
  exact word_fields decodeRowB (fun w h => by unfold decodeWord; rw [h]; rfl) (fun w hd ha hb => by rw [← hd, ← ha, ← hb]; rfl)

theorem setshape (d a b : Byte) : Statement (.setshape d a b) := by
  intro w h; cases h
  exact word_fields decodeRowB (fun w h => by unfold decodeWord; rw [h]; rfl) (fun w hd ha hb => by rw [← hd, ← ha, ← hb]; rfl)

theorem ldshape (d a b : Byte) : Statement (.ldshape d a b) := by
  intro w h; cases h
  exact word_fields decodeRowB (fun w h => by unfold decodeWord; rw [h]; rfl) (fun w hd ha hb => by rw [← hd, ← ha, ← hb]; rfl)

theorem stshape (d a b : Byte) : Statement (.stshape d a b) := by
  intro w h; cases h
  exact word_fields decodeRowB (fun w h => by unfold decodeWord; rw [h]; rfl) (fun w hd ha hb => by rw [← hd, ← ha, ← hb]; rfl)

theorem shfield (d a b : Byte) : Statement (.shfield d a b) := by
  intro w h; cases h
  exact word_fields decodeRowB (fun w h => by unfold decodeWord; rw [h]; rfl) (fun w hd ha hb => by rw [← hd, ← ha, ← hb]; rfl)

theorem getshape (d a b : Byte) : Statement (.getshape d a b) := by
  intro w h; cases h
  exact word_fields decodeRowB (fun w h => by unfold decodeWord; rw [h]; rfl) (fun w hd ha hb => by rw [← hd, ← ha, ← hb]; rfl)

theorem powerSupplyRamp supply : Statement (.powerSupplyRamp supply) := nofun

theorem supplyWindowMissed supply : Statement (.supplyWindowMissed supply) := nofun

theorem bringUp report : Statement (.bringUp report) := nofun

theorem thermalGate die celsius : Statement (.thermalGate die celsius) := nofun

theorem thermalGateRelease die celsius : Statement (.thermalGateRelease die celsius) := nofun

theorem thermalShutdown die celsius : Statement (.thermalShutdown die celsius) := nofun

theorem controlFrameReceive port source frame : Statement (.controlFrameReceive port source frame) := nofun

theorem rotcfgWrite value : Statement (.rotcfgWrite value) := nofun

theorem flitReceive port flit : Statement (.flitReceive port flit) := nofun

theorem relayForward port flit : Statement (.relayForward port flit) := nofun

theorem fabricEventDeliver handle : Statement (.fabricEventDeliver handle) := nofun

theorem cxlMemAccess write addr bytes : Statement (.cxlMemAccess write addr bytes) := nofun

theorem vfEnable vf value : Statement (.vfEnable vf value) := nofun

theorem vfDisable vf value : Statement (.vfDisable vf value) := nofun

theorem vfBanksSet vf value : Statement (.vfBanksSet vf value) := nofun

theorem vfBanksClear vf value : Statement (.vfBanksClear vf value) := nofun

theorem vfGateSet vf value : Statement (.vfGateSet vf value) := nofun

theorem vfGateClear vf value : Statement (.vfGateClear vf value) := nofun

theorem lqEnable vf queue value : Statement (.lqEnable vf queue value) := nofun

theorem lqErrClear vf queue value : Statement (.lqErrClear vf queue value) := nofun

theorem tailSnoop addr bytes : Statement (.tailSnoop addr bytes) := nofun

theorem tailRefetch vf queue : Statement (.tailRefetch vf queue) := nofun

theorem launchPacketStart source linkOk : Statement (.launchPacketStart source linkOk) := nofun

theorem partcfgWrite partition value : Statement (.partcfgWrite partition value) := nofun

theorem partitionReset value : Statement (.partitionReset value) := nofun

theorem firewallDrop source target : Statement (.firewallDrop source target) := nofun

theorem regbindBind value : Statement (.regbindBind value) := nofun

theorem poisonDetect addr : Statement (.poisonDetect addr) := nofun

theorem linefill value : Statement (.linefill value) := nofun

theorem poolListRead vf value : Statement (.poolListRead vf value) := nofun

theorem bar2Access vf write offset bytes : Statement (.bar2Access vf write offset bytes) := nofun

theorem dumpWindowRead vf offset : Statement (.dumpWindowRead vf offset) := nofun

theorem fatalErrorDump cause die : Statement (.fatalErrorDump cause die) := nofun

theorem dumpClear value : Statement (.dumpClear value) := nofun

theorem registerWrite function offset data : Statement (.registerWrite function offset data) := nofun

theorem spdmGetVersion function : Statement (.spdmGetVersion function) := nofun

theorem spdmGetCapabilities function : Statement (.spdmGetCapabilities function) := nofun

theorem spdmNegotiateAlgorithms function : Statement (.spdmNegotiateAlgorithms function) := nofun

theorem spdmGetDigests function : Statement (.spdmGetDigests function) := nofun

theorem spdmGetCertificate function : Statement (.spdmGetCertificate function) := nofun

theorem spdmChallenge function : Statement (.spdmChallenge function) := nofun

theorem spdmGetMeasurements function : Statement (.spdmGetMeasurements function) := nofun

theorem spdmKeyExchange function : Statement (.spdmKeyExchange function) := nofun

theorem spdmFinish function : Statement (.spdmFinish function) := nofun

theorem spdmKeyUpdate function : Statement (.spdmKeyUpdate function) := nofun

theorem spdmEndSession function : Statement (.spdmEndSession function) := nofun

theorem spdmUnsupportedRequest function code : Statement (.spdmUnsupportedRequest function code) := nofun

theorem ideKeyProgram function : Statement (.ideKeyProgram function) := nofun

theorem install function value : Statement (.install function value) := nofun

theorem remove function value : Statement (.remove function value) := nofun

theorem removeTakeEffect handle : Statement (.removeTakeEffect handle) := nofun

theorem reservationReplacement resource : Statement (.reservationReplacement resource) := nofun

theorem farLineFill op line answer : Statement (.farLineFill op line answer) := nofun

theorem l2farWrite partition value : Statement (.l2farWrite partition value) := nofun

theorem l2farTakeEffect partition : Statement (.l2farTakeEffect partition) := nofun

theorem atomicPerform op request answer : Statement (.atomicPerform op request answer) := nofun

theorem barrierCount source : Statement (.barrierCount source) := nofun

theorem collectiveStart handle scope number : Statement (.collectiveStart handle scope number) := nofun

theorem collectiveStep handle scope number remote : Statement (.collectiveStep handle scope number remote) := nofun

theorem collectiveEnd handle scope number : Statement (.collectiveEnd handle scope number) := nofun

theorem matrixSelfTest core failing : Statement (.matrixSelfTest core failing) := nofun

theorem dieWithdrawal die : Statement (.dieWithdrawal die) := nofun

theorem poolAllotment handle channels destinations : Statement (.poolAllotment handle channels destinations) := nofun

theorem packageLeavesPod package : Statement (.packageLeavesPod package) := nofun

theorem powerDownSequence : Statement (.powerDownSequence) := nofun

theorem powerOnReset : Statement (.powerOnReset) := nofun

theorem hostReset : Statement (.hostReset) := nofun

theorem dieWarmReset : Statement (.dieWarmReset) := nofun

theorem frameTick : Statement (.frameTick) := nofun

theorem thermalRecordRead : Statement (.thermalRecordRead) := nofun

theorem thermalRecordClear : Statement (.thermalRecordClear) := nofun

theorem controlFrameSend : Statement (.controlFrameSend) := nofun

theorem leaseControllerApply : Statement (.leaseControllerApply) := nofun

theorem guardElapsed : Statement (.guardElapsed) := nofun

theorem drainComplete : Statement (.drainComplete) := nofun

theorem turnBoundary : Statement (.turnBoundary) := nofun

theorem rotcfgTakeEffect : Statement (.rotcfgTakeEffect) := nofun

theorem flitSend : Statement (.flitSend) := nofun

theorem ingressDrain : Statement (.ingressDrain) := nofun

theorem laserFailure : Statement (.laserFailure) := nofun

theorem portFailure : Statement (.portFailure) := nofun

theorem streamReplacement : Statement (.streamReplacement) := nofun

theorem channelRepair : Statement (.channelRepair) := nofun

theorem fabricSendCommand : Statement (.fabricSendCommand) := nofun

theorem fabricSendEnd : Statement (.fabricSendEnd) := nofun

theorem ideEstablish : Statement (.ideEstablish) := nofun

theorem swapOutComplete : Statement (.swapOutComplete) := nofun

theorem launchComplete : Statement (.launchComplete) := nofun

theorem regionScrub : Statement (.regionScrub) := nofun

theorem slotService : Statement (.slotService) := nofun

theorem reservedRequestDepart : Statement (.reservedRequestDepart) := nofun

theorem workgroupStart : Statement (.workgroupStart) := nofun

theorem groupSeat : Statement (.groupSeat) := nofun

theorem groupUnseat : Statement (.groupUnseat) := nofun

theorem groupWake : Statement (.groupWake) := nofun

theorem clauseStart : Statement (.clauseStart) := nofun

theorem llsHalving : Statement (.llsHalving) := nofun

theorem throttleEvaluation : Statement (.throttleEvaluation) := nofun

theorem watchdogExpiry : Statement (.watchdogExpiry) := nofun

theorem registerLineInstall : Statement (.registerLineInstall) := nofun

theorem faultService : Statement (.faultService) := nofun

theorem mantleScrub : Statement (.mantleScrub) := nofun

theorem longLatencyComplete : Statement (.longLatencyComplete) := nofun

theorem loadDataReturn : Statement (.loadDataReturn) := nofun

theorem trapEntry : Statement (.trapEntry) := nofun

theorem suspensionEffect : Statement (.suspensionEffect) := nofun

theorem copyCommand : Statement (.copyCommand) := nofun

theorem fillCommand : Statement (.fillCommand) := nofun

theorem copyUnknownKind : Statement (.copyUnknownKind) := nofun

theorem copyChunkComplete : Statement (.copyChunkComplete) := nofun

theorem copyTransferEnd : Statement (.copyTransferEnd) := nofun

theorem storeCommit : Statement (.storeCommit) := nofun

theorem releaseComplete : Statement (.releaseComplete) := nofun

theorem acquireComplete : Statement (.acquireComplete) := nofun

theorem barrierPhaseAdvance : Statement (.barrierPhaseAdvance) := nofun

theorem barrierWake : Statement (.barrierWake) := nofun

theorem tserveBroadcast : Statement (.tserveBroadcast) := nofun

theorem spinelCommand : Statement (.spinelCommand) := nofun

theorem matrixCommandStart : Statement (.matrixCommandStart) := nofun

theorem matrixCommandEnd : Statement (.matrixCommandEnd) := nofun

theorem matrixMarker : Statement (.matrixMarker) := nofun

end Sys2Proof.Laws.EncodeDecode
end

