-- ==== Sys2Proof/Laws/Shape.lean ====
section
/-!
SUPPORT. Shape registers (10 Table 10.6): what a field holds after a field has been replaced, and what Grant finds (R286).
-/
namespace Sys2Proof.Machine

theorem shapeGet_eq (sh : Word512) (c : Nat) : shapeGet sh c = (sh.extractLsb' (shapePlace c).1 (shapePlace c).2).toNat := by
  unfold shapeGet
  rw [BitVec.extractLsb'_toNat, Nat.shiftRight_eq_div_pow]

/-- The places of two fields: within the register, and one field or apart. -/
theorem shapePlace_apart (c d : Nat) (hc : c ≤ 15) (hd : d ≤ 15) :
    (shapePlace c).1 + (shapePlace c).2 ≤ 512 ∧ (c = d ∨ (shapePlace c).1 + (shapePlace c).2 ≤ (shapePlace d).1 ∨
      (shapePlace d).1 + (shapePlace d).2 ≤ (shapePlace c).1) := by
  have : ∀ c d : Fin 16, (shapePlace c.val).1 + (shapePlace c.val).2 ≤ 512 ∧ (c.val = d.val ∨
    (shapePlace c.val).1 + (shapePlace c.val).2 ≤ (shapePlace d.val).1 ∨
      (shapePlace d.val).1 + (shapePlace d.val).2 ≤ (shapePlace c.val).1) := by decide
  exact this ⟨c, by omega⟩ ⟨d, by omega⟩

theorem getLsbD_shapeSet (sh : Word512) (c v i : Nat) (hi : i < 512) :
    (shapeSet sh c v).getLsbD i = if (shapePlace c).1 ≤ i ∧ i < (shapePlace c).1 + (shapePlace c).2 then
      v.testBit (i - (shapePlace c).1) else sh.getLsbD i := by
  unfold shapeSet
  simp only [BitVec.getLsbD_or, BitVec.getLsbD_and, BitVec.getLsbD_not, BitVec.getLsbD_ofNat, hi, decide_true, Bool.true_and]
  rw [Nat.testBit_mul_two_pow, Nat.testBit_mul_two_pow, Nat.testBit_two_pow_sub_one, Nat.testBit_mod_two_pow]
  by_cases h1 : (shapePlace c).1 ≤ i
  · by_cases h2 : i < (shapePlace c).1 + (shapePlace c).2
    · rw [if_pos ⟨h1, h2⟩]
      have : i - (shapePlace c).1 < (shapePlace c).2 := by omega
      simp [h1, this]
    · rw [if_neg (by omega)]
      have : ¬ i - (shapePlace c).1 < (shapePlace c).2 := by omega
      simp [h1, this]
  · rw [if_neg (by omega)]
    have : decide (i ≥ (shapePlace c).1) = false := by simp; omega
    simp [this]

/-- A field after a field has been replaced. -/
theorem shapeGet_shapeSet (sh : Word512) (c d v : Nat) (hc : c ≤ 15) (hd : d ≤ 15) :
    shapeGet (shapeSet sh c v) d = if c = d then v % 2 ^ (shapePlace c).2 else shapeGet sh d := by
  obtain ⟨hp, -⟩ := shapePlace_apart c d hc hd
  rw [shapeGet_eq]
  by_cases h : c = d
  · subst h
    rw [if_pos rfl]
    apply Nat.eq_of_testBit_eq
    intro j
    rw [Nat.testBit_mod_two_pow, ← BitVec.getLsbD]
    rw [BitVec.getLsbD_extractLsb']
    by_cases hj : j < (shapePlace c).2
    · rw [getLsbD_shapeSet _ _ _ _ (by omega), if_pos (by omega)]
      simp [hj]
    · simp [hj]
  · rw [if_neg h, shapeGet_eq]
    congr 1
    apply BitVec.eq_of_getLsbD_eq
    intro j hj
    rw [BitVec.getLsbD_extractLsb', BitVec.getLsbD_extractLsb']
    obtain ⟨hq, -⟩ := shapePlace_apart d c hd hc
    obtain ⟨-, h1 | h1⟩ := shapePlace_apart c d hc hd
    · exact absurd h1 h
    · rw [getLsbD_shapeSet _ _ _ _ (by omega), if_neg (by omega)]

/-- What Grant orders modes by: the size, then the rows. -/
def modeKey (k : Nat) : Nat := (modeSize k).1 * (modeSize k).2 * 128 + (modeSize k).1

theorem foldl_best (l : List Nat) (init : Option Nat)
    (hb : ∀ a b, (a ∈ l ∨ init = some a) → (b ∈ l ∨ init = some b) → betterMode (some b) a = if modeKey b < modeKey a then some a else some b) :
    (l = [] ∧ l.foldl betterMode init = init) ∨
    ∃ k, l.foldl betterMode init = some k ∧ (k ∈ l ∨ init = some k) ∧ ∀ j, (j ∈ l ∨ init = some j) → modeKey j ≤ modeKey k := by
  induction l generalizing init with
  | nil => exact .inl ⟨rfl, rfl⟩
  | cons a l ih =>
    right
    rw [List.foldl_cons]
    have hn : ∃ b, betterMode init a = some b ∧ (b = a ∨ init = some b) ∧ modeKey a ≤ modeKey b ∧ ∀ j, init = some j → modeKey j ≤ modeKey b := by
      cases hi : init with
      | none => exact ⟨a, rfl, .inl rfl, Nat.le_refl _, fun j h => by cases h⟩
      | some b =>
        rw [hb a b (.inl List.mem_cons_self) (.inr hi)]
        by_cases h : modeKey b < modeKey a
        · rw [if_pos h]
          exact ⟨a, rfl, .inl rfl, Nat.le_refl _, fun j hj => by cases hj; exact Nat.le_of_lt h⟩
        · rw [if_neg h]
          exact ⟨b, rfl, .inr rfl, Nat.le_of_not_lt h, fun j hj => by cases hj; exact Nat.le_refl _⟩
    obtain ⟨b, hb1, hb2, hb3, hb4⟩ := hn
    have hsub : ∀ c, (c ∈ l ∨ betterMode init a = some c) → (c ∈ a :: l ∨ init = some c) := by
      intro c hc
      rcases hc with hc | hc
      · exact .inl (List.mem_cons_of_mem _ hc)
      · rw [hb1] at hc; cases hc
        rcases hb2 with rfl | h
        · exact .inl List.mem_cons_self
        · exact .inr h
    rcases ih (betterMode init a) (fun c d hc hd => hb c d (hsub c hc) (hsub d hd)) with ⟨hl, he⟩ | ⟨k, k1, k2, k3⟩
    · refine ⟨b, he.trans hb1, ?_, ?_⟩
      · rcases hb2 with rfl | h
        · exact .inl List.mem_cons_self
        · exact .inr h
      · rintro j (hj | hj)
        · rcases List.mem_cons.1 hj with rfl | hm
          · exact hb3
          · rw [hl] at hm; cases hm
        · exact hb4 j hj
    · refine ⟨k, k1, hsub k k2, ?_⟩
      rintro j (hj | hj)
      · rcases List.mem_cons.1 hj with rfl | hm
        · exact Nat.le_trans hb3 (k3 b (.inr hb1))
        · exact k3 j (.inl hm)
      · exact Nat.le_trans (hb4 j hj) (k3 b (.inr hb1))

/-- The mode that Grant picks (10 R286): a mode of the floor within the request, and none that is larger. -/
theorem bestMode_spec (floor : BitVec 9) (rm rn : Nat) :
    let fits (k : Nat) : Prop := k < 9 ∧ floor.getLsbD k = true ∧ (modeSize k).1 ≤ rm ∧ (modeSize k).2 ≤ rn
    (bestMode floor rm rn = none ∧ ∀ k, ¬fits k) ∨
      ∃ k, bestMode floor rm rn = some k ∧ fits k ∧ ∀ j, fits j → modeKey j ≤ modeKey k := by
  intro fits
  unfold bestMode
  generalize hl : (List.range 9).filter (fun k => floor.getLsbD k && decide ((modeSize k).1 ≤ rm) && decide ((modeSize k).2 ≤ rn)) = l
  have hm : ∀ k, k ∈ l ↔ fits k := by
    intro k; rw [← hl]; simp [fits, and_assoc]
  have hkey : ∀ a b : Fin 9, betterMode (some b.val) a.val = if modeKey b < modeKey a then some a.val else some b.val := by decide
  rcases foldl_best l none (by
    intro a b ha hb
    have ha' := (hm a).1 (by simpa using ha)
    have hb' := (hm b).1 (by simpa using hb)
    exact hkey ⟨a, ha'.1⟩ ⟨b, hb'.1⟩) with ⟨h1, h2⟩ | ⟨k, k1, k2, k3⟩
  · refine .inl ⟨h2, fun k hk => ?_⟩
    have := (hm k).2 hk
    rw [h1] at this; cases this
  · exact .inr ⟨k, k1, (hm k).1 (by simpa using k2), fun j hj => k3 j (.inl ((hm j).2 hj))⟩

end Sys2Proof.Machine
end

