-- ==== Sys2Proof/Laws/Trap.lean ====
section
/-!
SUPPORT. Taking an exception (06 R173 to R180): what raising a trap does when nothing keeps its group from its handler.
-/
namespace Sys2Proof.Machine

variable {s t u : State} {g h k : Group} {c : FetchedClause} {form : Form} {op d a b : Byte} {x : Ctx}

theorem filter_replaceFirst {α : Type} (p q : α → Bool) (x : α) (l : List α) (hx : q x = true) (h : (l.find? p).isSome = true)
    (hl : ∀ y ∈ l, q y = false) : (replaceFirst p x l).filter q = [x] := by
  induction l with
  | nil => simp at h
  | cons y ys ih =>
    have hy := hl y List.mem_cons_self
    have hys : ∀ z ∈ ys, q z = false := fun z hz => hl z (List.mem_cons_of_mem _ hz)
    unfold replaceFirst
    split
    · rw [List.filter_cons_of_pos hx]
      have : ys.filter q = [] := List.filter_eq_nil_iff.2 (fun z hz => by simp [hys z hz])
      rw [this]
    · next hp =>
      rw [List.filter_cons_of_neg (by simp [hy])]
      apply ih _ hys
      rw [List.find?_cons] at h
      simpa [hp] using h

/-- The window at handler entry holds Table 6.6 in every lane. -/
theorem get_windowFill (m : Sparse Word) (r : Nat) (v : Word) (n l : Nat) (hl : l < 32) :
    Sparse.get 0#32 (windowFill m r v) (32 * n + l) = if n = r then v else Sparse.get 0#32 m (32 * n + l) := by
  unfold windowFill
  rw [get_setLanes (fun _ => v) r (List.range 32) m n l (by simp) hl]
  simp [hl]

theorem entryWindow_get (r : TrapRec) (group : Word) (n l : Nat) (hn : n < 8) (hl : l < 32) :
    Sparse.get 0#32 (entryWindow r group) (32 * n + l) = windowWord r group n := by
  unfold entryWindow
  simp only [List.foldl, get_windowFill _ _ _ _ _ hl]
  unfold windowWord
  have : n = 0 ∨ n = 1 ∨ n = 2 ∨ n = 3 ∨ n = 4 ∨ n = 5 ∨ n = 6 ∨ n = 7 := by omega
  rcases this with rfl | rfl | rfl | rfl | rfl | rfl | rfl | rfl <;> simp

/-- The oldest of one group. -/
theorem oldestOf_single (g : Group) : oldestOf [g] = some g := rfl

/-- A trap that nothing keeps from its handler is taken (06 R173, R176). -/
theorem State.raiseTrap_entered {seat : Nat} (hg : s.group? g.gid = some g) (ce : CanEnter s g seat) (tr : Trap) (uni : Bool) (word : Word) :
    ∃ h, Entered s (s.raiseTrap g tr g.ctl.slot false uni word) g h seat (trapRecord s g tr uni word) := by
  obtain ⟨hh, ⟨hp, hs⟩, ⟨hst, hseat⟩, hsu, hfree, hfirst⟩ := ce
  unfold State.raiseTrap
  rw [if_neg (by simp [hh])]
  simp only
  let r0 : TrapRec := {
      cause := BitVec.ofNat 16 tr.cause, slot := BitVec.ofNat 8 g.ctl.slot, flags := trapFlags false uni, laneMask := tr.mask
      clause := g.ctl.pc, info0 := BitVec.ofNat 64 tr.info0, info1 := BitVec.ofNat 64 tr.info1
      frame := BitVec.ofNat 64 s.pkg.frame, word := word }
  have hr0 : r0 = trapRecord s g tr uni word := by
    unfold trapRecord
    simp only [r0]
    congr 1
    unfold trapFlags
    cases uni <;> rfl
  let cs : GroupCounters := if tr.cause = 4 then { g.counters with alwTrap := g.counters.alwTrap + 1 } else g.counters
  let g2 : Group := { g with stalled := none, ctl := { g.ctl with trapRec := r0, trapPend := true }, counters := cs }
  have e2 : (if tr.cause = 4 then ({ g with stalled := none, ctl := { g.ctl with trapRec := r0, trapPend := true } } : Group).count
      (fun c => { c with alwTrap := c.alwTrap + 1 }) else { g with stalled := none, ctl := { g.ctl with trapRec := r0, trapPend := true } }) = g2 := by
    simp only [g2, cs]
    split <;> rfl
  rw [e2]
  have hw0 : (s.putGroup g2).group? g.gid = some g2 := State.group?_putGroup_self (g := g2) (h := g) hg
  let w : State := ((s.putGroup g2).dropShapeLoads g.gid).leaveRail g2
  have hw : w.group? g.gid = some g2 := by
    simp only [w]
    unfold State.leaveRail
    rw [show g2.seat = some seat from hseat]
    exact hw0
  have hwg : w.groups = replaceFirst (fun k => k.gid == g.gid) g2 s.groups := by
    simp only [w]
    unfold State.leaveRail
    rw [show g2.seat = some seat from hseat]
    rfl
  have hwc : w.cores = ((s.putGroup g2).onRail g.core (railOfSeat seat) (fun r =>
      { r with clauseOf := if r.clauseOf = some g.gid then none else r.clauseOf })).cores := by
    simp only [w]
    unfold State.leaveRail
    rw [show g2.seat = some seat from hseat]
    rfl
  have hwr : ∀ n, w.rail g.core n = if n = railOfSeat seat then { s.rail g.core n with
      clauseOf := if (s.rail g.core n).clauseOf = some g.gid then none else (s.rail g.core n).clauseOf } else s.rail g.core n := by
    intro n
    have : w.rail g.core n = ((s.putGroup g2).onRail g.core (railOfSeat seat) (fun r =>
      { r with clauseOf := if r.clauseOf = some g.gid then none else r.clauseOf })).rail g.core n := by
      unfold State.rail; rw [State.core_congr hwc]
    rw [this, State.rail_onRail]
    by_cases hn : n = railOfSeat seat
    · subst hn; rw [if_pos ⟨rfl, rfl⟩, if_pos rfl]; rfl
    · rw [if_neg (by rintro ⟨-, h⟩; exact hn h.symm), if_neg hn]; rfl
  have hpart : w.partner g2 = none := by
    unfold State.partner
    rw [if_neg (by show ¬((g.ctl.paired || g.ctl.shadow) = true); simp [hp, hs])]
  have hpick : oldestOf ((w.onRailGroups g.core (railOfSeat seat)).filter (fun g =>
      g.ctl.trapPend && !g.ctl.suspended && !g.ctl.shadow && w.pairAgrees g)) = some g2 := by
    unfold State.onRailGroups
    rw [List.filter_filter, hwg, filter_replaceFirst]
    · rfl
    · have : w.pairAgrees g2 = true := by unfold State.pairAgrees; rw [hpart]
      rw [this]
      show (true && !g.ctl.suspended && !g.ctl.shadow && true && (g.core == g.core && g.gstate == .seated &&
        (g.seat.map railOfSeat) == some (railOfSeat seat))) = true
      rw [hsu, hs, hst, hseat]
      simp
    · unfold State.group? at hg; rw [hg]; rfl
    · intro y hy
      by_cases h1 : y.core = g.core ∧ y.seat.map railOfSeat = some (railOfSeat seat)
      · rw [hfirst y hy h1.1 h1.2]; rfl
      · have : (y.core == g.core && y.gstate == .seated && (y.seat.map railOfSeat) == some (railOfSeat seat)) = false := by
          by_cases h2 : y.core = g.core
          · have h3 : y.seat.map railOfSeat ≠ some (railOfSeat seat) := fun h => h1 ⟨h2, h⟩
            simp [h3]
          · simp [h2]
        rw [this, Bool.and_false]
  have e3 : w.afterTrap g.gid = w.enterHandler g2 := by
    unfold State.afterTrap
    rw [hw]
    simp only [hpart]
    rw [show g2.seat = some seat from hseat]
    simp only
    unfold State.enterOldest
    rw [show g2.core = g.core from rfl, if_neg (by rw [hwr, if_pos rfl]; simp [hfree]), hpick]
  show ∃ h, Entered s (w.afterTrap g.gid) g h seat (trapRecord s g tr uni word)
  rw [e3]
  have hwe : w = { s with groups := w.groups, cores := w.cores, ops := s.ops.filter (fun o => !(o.gid == g.gid && o.loadsShape)) } := by
    simp only [w]
    unfold State.leaveRail
    rw [show g2.seat = some seat from hseat]
    rfl
  have hre : ({ g2.ctl.trapRec with frame := BitVec.ofNat 64 w.pkg.frame } : TrapRec) = r0 := by
    have : w.pkg = s.pkg := by rw [hwe]
    rw [this]
  have hen : w.trapEntryOf g2 = s.trapEntryOf g := by rw [hwe]; rfl
  unfold State.enterHandler
  rw [show g2.seat = some seat from hseat]
  simp only
  rw [hre, hen]
  let h : Group := { g2 with
    seat := some seat, stalled := none, clause := none
    ctl := { g2.ctl with
      trapRec := r0, saveMode := g2.ctl.mode, saveExec := g2.ctl.exec, mode := 0xFF000000#32, exec := r0.laneMask, handler := true
      trapPend := false, wdCount := 0#64, pc := s.trapEntryOf g, slot := 0, litPos := 0 } }
  let f : Rail → Rail := fun r => { r with
    handler := some g2.gid, window := entryWindow r0 g2.ctl.group
    clauseOf := if r.clauseOf = some g2.gid then none else r.clauseOf }
  show ∃ h', Entered s ((w.putGroup h).onRail g.core (railOfSeat seat) f) g h' seat (trapRecord s g tr uni word)
  have hin : (w.putGroup h).group? g.gid = some h := State.group?_putGroup_self (s := w) (g := h) (h := g2) hw
  have hrail : ∀ n, ((w.putGroup h).onRail g.core (railOfSeat seat) f).rail g.core n =
      if n = railOfSeat seat then f (w.rail g.core n) else s.rail g.core n := by
    intro n
    rw [State.rail_onRail]
    by_cases hn : n = railOfSeat seat
    · subst hn; rw [if_pos ⟨rfl, rfl⟩, if_pos rfl]; rfl
    · rw [if_neg (by rintro ⟨-, h⟩; exact hn h.symm), if_neg hn]
      show w.rail g.core n = _
      rw [hwr, if_neg hn]
  have hmine : ((w.putGroup h).onRail g.core (railOfSeat seat) f).core g.core =
      { s.core g.core with rails := (((w.putGroup h).onRail g.core (railOfSeat seat) f).core g.core).rails } := by
    unfold State.onRail
    rw [State.core_onCore, if_pos rfl]
    show ({ w.core g.core with rails := _ } : Core) = _
    have : w.core g.core = { s.core g.core with rails := (w.core g.core).rails } := by
      rw [State.core_congr hwc]
      unfold State.onRail
      rw [State.core_onCore, if_pos rfl]
      rfl
    rw [this]
  have hline : ∀ n l, ((w.putGroup h).onRail g.core (railOfSeat seat) f).lineWord h n l = s.lineWord g n l := by
    intro n l
    unfold State.lineWord
    have hres : (((w.putGroup h).onRail g.core (railOfSeat seat) f).core h.core).resident h.gid n = (s.core g.core).resident g.gid n := by
      show (((w.putGroup h).onRail g.core (railOfSeat seat) f).core g.core).resident g.gid n = _
      rw [hmine]; rfl
    rw [hres]
    have hcw : ((w.putGroup h).onRail g.core (railOfSeat seat) f).contextWord h (128 * n + 4 * l) = s.contextWord g (128 * n + 4 * l) := by
      have sc : SameContext s ((w.putGroup h).onRail g.core (railOfSeat seat) f) g h := by
        refine ⟨?_, ?_, ?_, rfl, rfl, rfl, rfl⟩
        · show w.installs = _; rw [hwe]
        · show w.launches = _; rw [hwe]
        · show w.mem.bytes = _; rw [hwe]
      exact sc.word _
    rw [hcw]
  refine ⟨h, hin, ?_, ?_, ?_, ?_, hline, ?_, ?_, ?_, ?_, hmine, ?_, ?_⟩
  · rw [← hr0]; rfl
  · simp only [h, g2, ← hseat]
  · intro n l hn hl
    unfold State.heldReg Group.inWindow
    rw [if_pos (by show (true && decide (n < 8)) = true; simp [hn])]
    rw [show h.seat = some seat from rfl]
    simp only
    rw [show h.core = g.core from rfl, hrail, if_pos rfl]
    show Sparse.get 0#32 (entryWindow r0 g.ctl.group) _ = _
    rw [entryWindow_get _ _ _ _ hn hl, hr0]
  · intro n l hn
    unfold State.heldReg Group.inWindow
    rw [if_neg (by show ¬((true && decide (n < 8)) = true); simp; omega), if_neg (by simp [hh])]
    exact hline n l
  · intro n hn
    show (w.putGroup h).group? n = _
    rw [State.group?_putGroup_ne w (show n ≠ h.gid from hn)]
    have : w.group? n = (s.putGroup g2).group? n := State.group?_congr hwg n
    rw [this, State.group?_putGroup_ne s (show n ≠ g2.gid from hn)]
  · have : (w.putGroup h).onRail g.core (railOfSeat seat) f = { w with
      groups := ((w.putGroup h).onRail g.core (railOfSeat seat) f).groups, cores := ((w.putGroup h).onRail g.core (railOfSeat seat) f).cores } := rfl
    rw [this, hwe]
  · show w.ops = _
    rw [hwe]
  · intro n hn
    unfold State.onRail
    rw [State.core_onCore, if_neg (Ne.symm hn)]
    show w.core n = _
    rw [State.core_congr hwc]
    unfold State.onRail
    rw [State.core_onCore, if_neg (Ne.symm hn)]
    rfl
  · rw [hrail, if_pos rfl, hwr, if_pos rfl]
    simp only [f]
    congr 1
    show (if (if (s.rail g.core (railOfSeat seat)).clauseOf = some g.gid then none else (s.rail g.core (railOfSeat seat)).clauseOf) =
      some g.gid then none else _) = _
    generalize (s.rail g.core (railOfSeat seat)).clauseOf = o
    by_cases ho : o = some g.gid
    · rw [if_pos ho, if_neg (by simp)]
    · rw [if_neg ho, if_neg ho]
  · intro n hn
    rw [hrail, if_neg hn]

/-- The frame's own free values are of no account to a trap. -/
theorem Entered.of_tick {seat : Nat} {r : TrapRec} (e : Entered s.tick t g h seat r) : Entered s t g h seat r :=
  ⟨e.found, e.control, e.group, e.window, e.kept, e.own, e.others, e.rest, e.ops, e.cores, e.mine, e.rail, e.rails⟩

theorem CanEnter.tick {seat : Nat} (ce : CanEnter s g seat) : CanEnter s.tick g seat :=
  ⟨ce.outside, ce.alone, ce.placed, ce.awake, ce.free, ce.first⟩

/-- An instruction whose effect is a trap enters the handler. -/
theorem issue_traps (i : Issues s g c form op d a b x u) {seat : Nat} (ce : CanEnter s g seat) {body : Ctx → State → Act} {tr : Trap}
    (hb : body x u = .trap tr) : ∃ t h, issue form op d a b body s = .next t ∧
      Entered s t g h seat (trapRecord s g tr x.uni (mkWord op d a b)) := by
  obtain ⟨h, e⟩ := State.raiseTrap_entered (s := s.tick) i.group ce.tick tr x.uni (mkWord op d a b)
  refine ⟨_, h, ?_, e.of_tick⟩
  rw [issue_ready i, hb]
  unfold Ctx.finish
  simp only
  rw [i.ctx.2.1]

/-- An instruction that traps. -/
theorem traps_of {mk : Byte → Byte → Byte → Instr} {form : Byte → Byte → Byte → Form} {op : Byte} {ok : Ctx → State → Prop}
    {tr : Ctx → State → Trap} {body : Byte → Byte → Byte → Ctx → State → Act}
    (he : ∀ d a b s, exec (mk d a b) s = issue (form d a b) op d a b (body d a b) s)
    (hb : ∀ s g c d a b x u, Issues s g c (form d a b) op d a b x u → ok x u → body d a b x u = .trap (tr x u)) :
    Traps mk form op ok tr := by
  intro s g c d a b x u seat i ce hok
  rw [he]
  exact issue_traps i ce (hb s g c d a b x u i hok)

/-- An instruction that fails a check of R319 enters the handler (12 R319). -/
theorem issue_finds {seat cause info1 : Nat} (hc : s.cur = some g.gid) (hg : s.group? g.gid = some g) (ce : CanEnter s g seat)
    (hf : s.tick.findingsAt g form d.toNat a.toNat b.toNat = some (cause, info1)) (body : Ctx → State → Act) :
    ∃ t h, issue form op d a b body s = .next t ∧ Entered s t g h seat
      (trapRecord s g ⟨cause, s.tick.trapLanes g form, (mkWord op d a b).toNat, info1⟩ (g.uniform form) (mkWord op d a b)) := by
  obtain ⟨h, e⟩ := State.raiseTrap_entered (s := s.tick) hg ce.tick ⟨cause, s.tick.trapLanes g form, (mkWord op d a b).toNat, info1⟩
    (g.uniform form) (mkWord op d a b)
  refine ⟨_, h, ?_, e.of_tick⟩
  unfold issue
  rw [hc]
  simp only [hg]
  congr 1
  unfold State.issueIn
  rw [hf]

/-! ### What the checks leave -/

/-- The fields of an instruction that issues hold legal codes (12 R316). -/
theorem Issues.codes (i : Issues s g c form op d a b x u) : codeBad (form.d.under (modeType g.ctl.mode)) d.toNat = false ∧
    codeBad (form.a.under (modeType g.ctl.mode)) a.toNat = false ∧ codeBad (form.b.under (modeType g.ctl.mode)) b.toNat = false := by
  have h := i.legal
  unfold State.findingsAt Form.findings at h
  have hn := firstOf_none h (findIf (codeBad (form.d.under (modeType (s.tick.checkOf g).mode)) d.toNat ||
    codeBad (form.a.under (modeType (s.tick.checkOf g).mode)) a.toNat ||
    codeBad (form.b.under (modeType (s.tick.checkOf g).mode)) b.toNat ||
    (form.typed && decide (12 ≤ modeType (s.tick.checkOf g).mode)) || form.badType (modeType (s.tick.checkOf g).mode)) 1 1) (by simp)
  have hm : (s.tick.checkOf g).mode = g.ctl.mode := rfl
  rw [hm] at hn
  unfold findIf at hn
  split at hn
  · cases hn
  · next hb =>
    simp only [Bool.or_eq_true, not_or, Bool.not_eq_true] at hb
    exact ⟨hb.1.1.1.1, hb.1.1.1.2, hb.1.1.2⟩

end Sys2Proof.Machine
end

