-- ==== Sys2Proof/WellFormed.lean ====
section
/-!
DEFINITION. Which terms of the syntax are well formed: an instruction has 0 in every bit that the opcode table fixes to 0
beside its opcode, and a step of another agent names things that a K7 has. An ill-formed instruction still has its
meaning: the bits are no decoding error, they trap when it issues (12 R318).
-/
namespace Sys2Proof

/-- The bits of an instruction word, its opcode apart, that the opcode table fixes to 0 (12 R318; 15 R405; 10 R265). -/
def Instr.fixedZeros : Instr → Word
  | .nop _ => 0#32
  | .brk _ => 0#32
  | .exit _ _ _ => 0x0F0F0F#32
  | .swtrap _ _ _ => 0#32
  | .tret _ _ _ => 0x0F0F00#32
  | .ctxrd _ _ _ => 0#32
  | .ctxwr _ _ _ => 0#32
  | .ctxctl _ _ _ => 0x0F0000#32
  | .setmode _ _ _ => 0x0F0F0F#32
  | .modeset _ _ _ => 0x00000F#32
  | .sysv _ _ _ => 0x00000F#32
  | .rdfps _ _ _ => 0x000F00#32
  | .wrfps _ _ _ => 0x0F0000#32
  | .rdcnt _ _ _ => 0x000F0F#32
  | .pgmap _ _ _ => 0#32
  | .pgunmap _ _ _ => 0#32
  | .bra _ _ _ => 0x0F0F0F#32
  | .bru _ _ _ => 0x0F0000#32
  | .ifnz _ _ _ => 0x00000F#32
  | .elseOp _ _ _ => 0x0F000F#32
  | .endif _ _ _ => 0x0F000F#32
  | .brnone _ _ _ => 0x0F0F0F#32
  | .call _ _ _ => 0x000F0F#32
  | .ret _ _ _ => 0x0F000F#32
  | .loop _ _ _ => 0x000F0F#32
  | .fwait _ _ _ => 0x0F7000#32
  | .yield _ _ _ => 0x0F0F0F#32
  | .brx _ _ _ => 0x0F000F#32
  | .iadd _ _ _ => 0#32
  | .isub _ _ _ => 0#32
  | .imul _ _ _ => 0#32
  | .imulh _ _ _ => 0#32
  | .imin _ _ _ => 0#32
  | .imax _ _ _ => 0#32
  | .iabs _ _ _ => 0x00000F#32
  | .ineg _ _ _ => 0x00000F#32
  | .iand _ _ _ => 0#32
  | .ior _ _ _ => 0#32
  | .ixor _ _ _ => 0#32
  | .inot _ _ _ => 0x00000F#32
  | .shr _ _ _ => 0#32
  | .shl _ _ _ => 0#32
  | .sar _ _ _ => 0#32
  | .rotl _ _ _ => 0#32
  | .bfx _ _ _ => 0#32
  | .bfi _ _ _ => 0#32
  | .popc _ _ _ => 0x00000F#32
  | .clz _ _ _ => 0x00000F#32
  | .brev _ _ _ => 0x00000F#32
  | .imad _ _ _ => 0#32
  | .idiv _ _ _ => 0#32
  | .irem _ _ _ => 0#32
  | .icmpeq _ _ _ => 0#32
  | .icmpne _ _ _ => 0#32
  | .icmplt _ _ _ => 0#32
  | .icmple _ _ _ => 0#32
  | .icmpgt _ _ _ => 0#32
  | .icmpge _ _ _ => 0#32
  | .sel _ _ _ => 0#32
  | .mov _ _ _ => 0x00000F#32
  | .movl _ _ _ => 0x000F0F#32
  | .movi _ _ _ => 0#32
  | .movih _ _ _ => 0#32
  | .iaddl _ _ _ => 0x00000F#32
  | .imull _ _ _ => 0x00000F#32
  | .iandl _ _ _ => 0x00000F#32
  | .iorl _ _ _ => 0x00000F#32
  | .ixorl _ _ _ => 0x00000F#32
  | .mov64 _ _ _ => 0x00000F#32
  | .movl64 _ _ _ => 0x000F0F#32
  | .getexec _ _ _ => 0x000F0F#32
  | .setexec _ _ _ => 0x0F000F#32
  | .fadd _ _ _ => 0#32
  | .fsub _ _ _ => 0#32
  | .fmul _ _ _ => 0#32
  | .fma _ _ _ => 0#32
  | .fms _ _ _ => 0#32
  | .fnma _ _ _ => 0#32
  | .fnms _ _ _ => 0#32
  | .fmal _ _ _ => 0#32
  | .fdiv _ _ _ => 0#32
  | .fsqrt _ _ _ => 0x00000F#32
  | .fmax _ _ _ => 0#32
  | .fmin _ _ _ => 0#32
  | .fmaxn _ _ _ => 0#32
  | .fminn _ _ _ => 0#32
  | .fabs _ _ _ => 0x00000F#32
  | .fneg _ _ _ => 0x00000F#32
  | .fexp2 _ _ _ => 0x00000F#32
  | .flog2 _ _ _ => 0x00000F#32
  | .frsq _ _ _ => 0x00000F#32
  | .fcpys _ _ _ => 0#32
  | .fceq _ _ _ => 0#32
  | .fcne _ _ _ => 0#32
  | .fclt _ _ _ => 0#32
  | .fcle _ _ _ => 0#32
  | .reduce _ _ _ => 0#32
  | .scan _ _ _ => 0#32
  | .shfl _ _ _ => 0#32
  | .shflup _ _ _ => 0#32
  | .shfldn _ _ _ => 0#32
  | .shflx _ _ _ => 0#32
  | .vote _ _ _ => 0#32
  | .matchOp _ _ _ => 0#32
  | .fence _ _ _ => 0x00000F#32
  | .ifence _ _ _ => 0x0F0F0F#32
  | .cvt _ _ _ => 0x000020#32
  | .fcpack _ _ _ => 0#32
  | .fcunpk _ _ _ => 0#32
  | .fclass _ _ _ => 0x00000F#32
  | .frint _ _ _ => 0x0000F0#32
  | .fscale _ _ _ => 0#32
  | .flogb _ _ _ => 0x00000F#32
  | .fcun _ _ _ => 0#32
  | .frcp _ _ _ => 0x00000F#32
  | .ld32 _ _ _ => 0x0000C0#32
  | .lda32 _ _ _ => 0x0000C0#32
  | .ld8 _ _ _ => 0x0000C0#32
  | .ld8s _ _ _ => 0x0000C0#32
  | .ld16 _ _ _ => 0x0000C0#32
  | .ld16s _ _ _ => 0x0000C0#32
  | .ld64 _ _ _ => 0x0000C0#32
  | .ld128 _ _ _ => 0x0000C0#32
  | .st32 _ _ _ => 0x0000C0#32
  | .stl32 _ _ _ => 0x0000C0#32
  | .st8 _ _ _ => 0x0000C0#32
  | .st16 _ _ _ => 0x0000C0#32
  | .st64 _ _ _ => 0x0000C0#32
  | .st128 _ _ _ => 0x0000C0#32
  | .recwr _ _ _ => 0x0F00C0#32
  | .recrd _ _ _ => 0x000FC0#32
  | .arrive _ _ _ => 0#32
  | .waitp _ _ _ => 0#32
  | .barinit _ _ _ => 0#32
  | .bartest _ _ _ => 0#32
  | .arrivex _ _ _ => 0#32
  | .aor32 _ _ _ => 0x0000C0#32
  | .axor32 _ _ _ => 0x0000C0#32
  | .tkt _ _ _ => 0x00000F#32
  | .twait _ _ _ => 0x00000F#32
  | .tserve _ _ _ => 0x0F000F#32
  | .qstat _ _ _ => 0x00000F#32
  | .lease _ _ _ => 0x0F0000#32
  | .unlease _ _ _ => 0x0F0000#32
  | .leaseq _ _ _ => 0x00000F#32
  | .slotset _ _ _ => 0x00000F#32
  | .cas32 _ _ _ => 0x0000C0#32
  | .cas64 _ _ _ => 0x0000C0#32
  | .xchg32 _ _ _ => 0x0000C0#32
  | .aadd32 _ _ _ => 0x0000C0#32
  | .aadd64 _ _ _ => 0x0000C0#32
  | .amin32 _ _ _ => 0x0000C0#32
  | .amax32 _ _ _ => 0x0000C0#32
  | .aand32 _ _ _ => 0x0000C0#32
  | .radd32 _ _ _ => 0x0000C0#32
  | .radd64 _ _ _ => 0x0000C0#32
  | .rmin32 _ _ _ => 0x0000C0#32
  | .rmax32 _ _ _ => 0x0000C0#32
  | .rand32 _ _ _ => 0x0000C0#32
  | .ror32 _ _ _ => 0x0000C0#32
  | .rxor32 _ _ _ => 0x0000C0#32
  | .mma _ _ _ => 0#32
  | .accld _ _ _ => 0x0000C0#32
  | .accst _ _ _ => 0x0000C0#32
  | .accz _ _ _ => 0xF00F0F#32
  | .obclaim _ _ _ => 0x00000F#32
  | .obrel _ _ _ => 0x0F000F#32
  | .perturb _ _ _ => 0xF8000F#32
  | .setshape _ _ _ => 0xF00000#32
  | .ldshape _ _ _ => 0xF000C0#32
  | .stshape _ _ _ => 0xF000C0#32
  | .shfield _ _ _ => 0xF00000#32
  | .getshape _ _ _ => 0x00F000#32
  | .powerSupplyRamp _ => 0#32
  | .supplyWindowMissed _ => 0#32
  | .bringUp _ => 0#32
  | .thermalGate _ _ => 0#32
  | .thermalGateRelease _ _ => 0#32
  | .thermalShutdown _ _ => 0#32
  | .controlFrameReceive _ _ _ => 0#32
  | .rotcfgWrite _ => 0#32
  | .flitReceive _ _ => 0#32
  | .relayForward _ _ => 0#32
  | .fabricEventDeliver _ => 0#32
  | .cxlMemAccess _ _ _ => 0#32
  | .vfEnable _ _ => 0#32
  | .vfDisable _ _ => 0#32
  | .vfBanksSet _ _ => 0#32
  | .vfBanksClear _ _ => 0#32
  | .vfGateSet _ _ => 0#32
  | .vfGateClear _ _ => 0#32
  | .lqEnable _ _ _ => 0#32
  | .lqErrClear _ _ _ => 0#32
  | .tailSnoop _ _ => 0#32
  | .tailRefetch _ _ => 0#32
  | .launchPacketStart _ _ => 0#32
  | .partcfgWrite _ _ => 0#32
  | .partitionReset _ => 0#32
  | .firewallDrop _ _ => 0#32
  | .regbindBind _ => 0#32
  | .poisonDetect _ => 0#32
  | .linefill _ => 0#32
  | .poolListRead _ _ => 0#32
  | .bar2Access _ _ _ _ => 0#32
  | .dumpWindowRead _ _ => 0#32
  | .fatalErrorDump _ _ => 0#32
  | .dumpClear _ => 0#32
  | .registerWrite _ _ _ => 0#32
  | .spdmGetVersion _ => 0#32
  | .spdmGetCapabilities _ => 0#32
  | .spdmNegotiateAlgorithms _ => 0#32
  | .spdmGetDigests _ => 0#32
  | .spdmGetCertificate _ => 0#32
  | .spdmChallenge _ => 0#32
  | .spdmGetMeasurements _ => 0#32
  | .spdmKeyExchange _ => 0#32
  | .spdmFinish _ => 0#32
  | .spdmKeyUpdate _ => 0#32
  | .spdmEndSession _ => 0#32
  | .spdmUnsupportedRequest _ _ => 0#32
  | .ideKeyProgram _ => 0#32
  | .install _ _ => 0#32
  | .remove _ _ => 0#32
  | .removeTakeEffect _ => 0#32
  | .reservationReplacement _ => 0#32
  | .farLineFill _ _ _ => 0#32
  | .l2farWrite _ _ => 0#32
  | .l2farTakeEffect _ => 0#32
  | .atomicPerform _ _ _ => 0#32
  | .barrierCount _ => 0#32
  | .collectiveStart _ _ _ => 0#32
  | .collectiveStep _ _ _ _ => 0#32
  | .collectiveEnd _ _ _ => 0#32
  | .matrixSelfTest _ _ => 0#32
  | .dieWithdrawal _ => 0#32
  | .poolAllotment _ _ _ => 0#32
  | .packageLeavesPod _ => 0#32
  | .powerDownSequence => 0#32
  | .powerOnReset => 0#32
  | .hostReset => 0#32
  | .dieWarmReset => 0#32
  | .frameTick => 0#32
  | .thermalRecordRead => 0#32
  | .thermalRecordClear => 0#32
  | .controlFrameSend => 0#32
  | .leaseControllerApply => 0#32
  | .guardElapsed => 0#32
  | .drainComplete => 0#32
  | .turnBoundary => 0#32
  | .rotcfgTakeEffect => 0#32
  | .flitSend => 0#32
  | .ingressDrain => 0#32
  | .laserFailure => 0#32
  | .portFailure => 0#32
  | .streamReplacement => 0#32
  | .channelRepair => 0#32
  | .fabricSendCommand => 0#32
  | .fabricSendEnd => 0#32
  | .ideEstablish => 0#32
  | .swapOutComplete => 0#32
  | .launchComplete => 0#32
  | .regionScrub => 0#32
  | .slotService => 0#32
  | .reservedRequestDepart => 0#32
  | .workgroupStart => 0#32
  | .groupSeat => 0#32
  | .groupUnseat => 0#32
  | .groupWake => 0#32
  | .clauseStart => 0#32
  | .llsHalving => 0#32
  | .throttleEvaluation => 0#32
  | .watchdogExpiry => 0#32
  | .registerLineInstall => 0#32
  | .faultService => 0#32
  | .mantleScrub => 0#32
  | .longLatencyComplete => 0#32
  | .loadDataReturn => 0#32
  | .trapEntry => 0#32
  | .suspensionEffect => 0#32
  | .copyCommand => 0#32
  | .fillCommand => 0#32
  | .copyUnknownKind => 0#32
  | .copyChunkComplete => 0#32
  | .copyTransferEnd => 0#32
  | .storeCommit => 0#32
  | .releaseComplete => 0#32
  | .acquireComplete => 0#32
  | .barrierPhaseAdvance => 0#32
  | .barrierWake => 0#32
  | .tserveBroadcast => 0#32
  | .spinelCommand => 0#32
  | .matrixCommandStart => 0#32
  | .matrixCommandEnd => 0#32
  | .matrixMarker => 0#32

/-- Whether the numbers a step carries name things of a package: a die or a core (01 R9), a port (02 R20), a virtual function's
launch queue (03 R57, R65), a partition (03 R66). -/
def Instr.inPackage : Instr → Bool
  | .thermalGate die _ => decide (die < 8)
  | .thermalGateRelease die _ => decide (die < 8)
  | .thermalShutdown die _ => decide (die < 8)
  | .dieWithdrawal die => decide (die < 8)
  | .controlFrameReceive port _ _ => decide (port < 36)
  | .flitReceive port _ => decide (port < 36)
  | .relayForward port _ => decide (port < 36)
  | .lqEnable vf queue _ => decide (vf ≤ 256) && decide (queue < 8)
  | .lqErrClear vf queue _ => decide (vf ≤ 256) && decide (queue < 8)
  | .partcfgWrite partition _ => decide (partition < 8)
  | .l2farWrite partition _ => decide (partition < 8)
  | .l2farTakeEffect partition => decide (partition < 8)
  | .matrixSelfTest core _ => decide (core < 512)
  | _ => true

/-- Well-formed terms. -/
def Instr.wellFormed (i : Instr) : Bool :=
  match encode i with
  | some w => w &&& i.fixedZeros == 0#32
  | none => i.inPackage

end Sys2Proof
end

