-- ==== Sys2Proof/Tests/Slice0.lean ====
section
/-!
SUPPORT. Tests: for every statement with hypotheses a witness (`wit_<statement>`) that meets them together, clause by clause; words of every
family written out from the spec's encoding, with what they decode to; terms that are not well formed; and single instructions against
values worked out by hand.
-/
open Sys2Proof Sys2Proof.Machine

namespace Sys2Proof.Tests

set_option Elab.async false

/-! ### The bench the witnesses stand on -/

/-- A kernel of two groups with 240 registers, an allowance of 64, one scratchpad unit and four barrier objects at each scope. -/
def kernel : KernelRec := ⟨0, 64, 0, 0, 0, 0, 2, 240, 1, 64, 1, 0, 1, [4, 4, 4, 4, 4]⟩

/-- A 64 KiB page at a virtual address, on the device memory at another. -/
def page (va phys : Nat) (r w x : Bool) : Page := ⟨va, 65536, .plain phys, r, w, x, false, false, false, false⟩

/-- An installation of one kernel and two pages. -/
def install : Installation where
  handle := 7#32
  fn := 0
  part := 0
  hash := 0#256
  textBase := 0
  kernels := [⟨kernel, [], [], [], [⟨0, 0, 0, 0⟩], 1⟩]
  pages := [page 0 0 true false true, page 65536 65536 true true false]
  floor := 0x1FF#9
  insts := []
  streams := []
  receives := []
  dieBase := 0
  pkgBase := 0
  podBase := 0
  pool := none
  lost := false
  streamLost := false
  removing := false
  withdrawing := []
  withdrawn := []
  events := []
  evLost := false
  impFail := 0
  effective := 0
  spinNumber := []

/-- A launch of it, of one workgroup of two groups, with its contexts at 64 KiB. -/
def launch : Launch := ⟨1, 7#32, 0, 0, 0, 0, 0, 65536, 1, 2, 0#64, 0#64, [], 1, [0], [], 0, 0, none, false⟩

/-- A control area in which lanes 0 and 1 of sixteen live and run. -/
def control : Control := { exist := 0xFFFF#32, exec := 3#32, handle := 7#32, pc := 256#64 }

/-- A group on seat 0 of core 0, in a clause of one word with its literals. -/
def group (word : Word) (lits : List Word) (ctl : Control) (regs : Sparse Word) : Group where
  gid := 1
  launch := 1
  workgroup := 0
  sequence := 0
  localNo := 0
  kernel := 0
  fn := 0
  core := 0
  gstate := .seated
  seat := some 0
  ctl := ctl
  regs := regs
  clause := some ⟨0#32, [word], lits, 0⟩

/-- The machine with one group, whose turn it is. -/
def bench (g : Group) : State :=
  { State.reset with cur := some 1, nextId := 10, installs := [install], launches := [launch], groups := [g]
                     mem := { bootSwept := 2 ^ 19 } }

/-- A group with a word, at which nothing else is set. -/
def plain (word : Word) : Group := group word [] control [(64, 5#32), (65, 6#32), (96, 4#32), (97, 8#32), (160, 1#32)]

/-! ### Instructions that issue -/

/-- A condition of an instruction's own, on its group, its fields, the instruction as it executes and the state behind its pops. -/
abbrev More := Group → Byte → Byte → Byte → Ctx → State → Prop

/-- The conditions of `Issues`, with more of the instruction's own, can be met. -/
def Meets (form : Form) (op : Byte) (more : More) : Prop :=
  ∃ s g c d a b x u, Issues s g c form op d a b x u ∧ x.dying = [] ∧ more g d a b x u

/-- Whether a group that has the turn meets them with a word. -/
def meets (s : State) (g : Group) (form : Form) (op d a b : Byte) (more : More) [∀ g d a b x u, Decidable (more g d a b x u)] : Bool :=
  (s.tick.findingsAt g form d.toNat a.toNat b.toNat).isNone && !(laneList (s.tick.actLanes g form)).isEmpty && !g.ctl.shadow &&
    !g.ctl.paired && g.seat.isSome &&
    match (s.tick.ctxOf g form op.toNat d.toNat a.toNat b.toNat).takePops s.tick with
    | none => false
    | some (u, x) => (x.mustWait u).isNone && x.dying.isEmpty && decide (more g d a b x u)

/-- The check is right. -/
theorem meets_of (s : State) (g : Group) (d a b : Byte) {form : Form} {op : Byte} {more : More}
    [∀ g d a b x u, Decidable (more g d a b x u)] (c : FetchedClause)
    (hg : s.group? g.gid = some g) (hc : g.clause = some c) (hs : s.cur = some g.gid)
    (h : meets s g form op d a b more = true) : Meets form op more := by
  simp only [meets, Bool.and_eq_true, Bool.not_eq_true', Option.isNone_iff_eq_none] at h
  obtain ⟨⟨⟨⟨⟨h1, h2⟩, h3⟩, hp⟩, seat⟩, h4⟩ := h
  split at h4
  · exact absurd h4 (by decide)
  · rename_i u x e
    simp only [Bool.and_eq_true, decide_eq_true_eq, List.isEmpty_iff, Option.isNone_iff_eq_none] at h4
    refine ⟨s, g, c, d, a, b, x, u, ⟨hs, hg, hc, fun _ => seat, h1, ?_, h3, e, h4.1.1, ?_⟩, h4.1.2, h4.2⟩
    · intro n; rw [n] at h2; exact absurd h2 (by decide)
    · intro n; simp [Control.leads, hp] at n

/-- A group on the bench, for several instructions of one set of fields. -/
theorem meets_all (g : Group) (d a b : Byte) {more : More} [∀ g d a b x u, Decidable (more g d a b x u)] (l : List (Form × Byte))
    (c : FetchedClause) (hg : (bench g).group? g.gid = some g) (hc : g.clause = some c) (hs : (bench g).cur = some g.gid)
    (h : l.all (fun p => meets (bench g) g p.1 p.2 d a b more) = true) : ∀ p ∈ l, Meets p.1 p.2 more := by
  intro p hp
  exact meets_of (bench g) g d a b c hg hc hs (List.all_eq_true.mp h p hp)

/-- A condition that follows from another. -/
theorem Meets.imp {form : Form} {op : Byte} {more less : More} (h : Meets form op more)
    (hl : ∀ s g c d a b x u, Issues s g c form op d a b x u → more g d a b x u → less g d a b x u) : Meets form op less := by
  obtain ⟨s, g, c, d, a, b, x, u, h1, h2, h3⟩ := h
  exact ⟨s, g, c, d, a, b, x, u, h1, h2, hl s g c d a b x u h1 h3⟩

/-- With no trap enabled, no result traps. -/
theorem fpx_off (outs : List (Nat × LaneOut)) : fpxTrap 0#5 outs = none := by
  have : trappingLanes 0#5 outs = [] := by simp [trappingLanes]
  simp [fpxTrap, this]

/-! ### Witnesses: instructions that compute a value for each lane -/

/-- The fields a result statement asks for: a register of the group's own. -/
abbrev toRegister : More := fun _ d _ _ _ _ => d.toNat < 240

/-- The same with no floating-point trap, whatever the lanes' results are. -/
abbrev noTrap : More := fun g d _ _ x u => d.toNat < 240 ∧ ∀ f : Ctx → State → Nat → LaneOut, fpxTrap (modeTraps g.ctl.mode) (x.results u f) = none

/-- A group whose clause has two literals, and whose registers 2 and 3 hold numbers. -/
def literal : Group := group 0#32 [8#32, 9#32] control [(64, 12#32), (65, 7#32), (96, 3#32), (97, 5#32)]

theorem noTrap_of {l : List (Form × Byte)} (h : ∀ p ∈ l, Meets p.1 p.2 (fun g d _ _ _ _ => d.toNat < 240 ∧ modeTraps g.ctl.mode = 0#5)) :
    ∀ p ∈ l, Meets p.1 p.2 noTrap :=
  fun p hp => (h p hp).imp (fun _ g _ d _ _ x u _ h => ⟨h.1, fun f => by rw [h.2]; exact fpx_off _⟩)

theorem wit_IntegerArithmetic : ∀ p ∈ [(intForm, 0x20#8), (intForm, 0x21#8), (intForm, 0x22#8), ({ intForm with dRead := true }, 0x35#8),
    (intForm, 0x23#8), (intForm, 0x24#8), (intForm, 0x25#8), (intForm1, 0x26#8), (intForm1, 0x27#8)], Meets p.1 p.2 toRegister :=
  meets_all literal 1#8 2#8 0#8 _ _ rfl rfl rfl (by decide)

theorem wit_BitwiseAndShifts : ∀ p ∈ [(intForm, 0x28#8), (intForm, 0x29#8), (intForm, 0x2A#8), (intForm1, 0x2B#8), (intFormR, 0x2C#8),
    (intFormR, 0x2D#8), (intFormR, 0x2E#8), (intFormR, 0x2F#8), (intFormR, 0x30#8), ({ intFormR with dRead := true }, 0x31#8),
    (intForm1, 0x32#8), (intForm1, 0x33#8), (intForm1, 0x34#8)], Meets p.1 p.2 toRegister :=
  meets_all literal 239#8 2#8 0#8 _ _ rfl rfl rfl (by decide)

theorem wit_ComparesMovesAndLiterals : ∀ p ∈ [(compareForm, 0x38#8), (compareForm, 0x39#8), (compareForm, 0x3A#8), (compareForm, 0x3B#8),
    (compareForm, 0x3C#8), (compareForm, 0x3D#8), ({ intForm with dRead := true }, 0x3E#8),
    ({ d := .reg, a := .reg, b := .unused, dWrite := true }, 0x40#8), ({ d := .reg, a := .any, b := .any, dWrite := true }, 0x42#8),
    ({ d := .reg, a := .any, b := .any, dRead := true, dWrite := true }, 0x43#8), (intFormL, 0x44#8), (intFormL, 0x45#8),
    (intFormL, 0x46#8), (intFormL, 0x47#8), (intFormL, 0x48#8), ({ d := .pair, a := .pair, b := .unused, dWrite := true }, 0x49#8)],
    Meets p.1 p.2 toRegister :=
  meets_all literal 4#8 2#8 0#8 _ _ rfl rfl rfl (by decide)

theorem wit_ComparesMovesAndLiterals_movl : ∀ p ∈ [({ d := .reg, a := .unused, b := .unused, dWrite := true, lits := 1 }, 0x41#8),
    ({ d := .pair, a := .unused, b := .unused, dWrite := true, lits := 2 }, 0x4A#8)], Meets p.1 p.2 toRegister :=
  meets_all literal 4#8 0#8 0#8 _ _ rfl rfl rfl (by decide)

theorem wit_FloatArithmetic : ∀ p ∈ [(floatForm, 0x50#8), (floatForm, 0x51#8), (floatForm, 0x52#8), ({ floatForm with dRead := true }, 0x53#8),
    ({ floatForm with dRead := true }, 0x54#8), ({ floatForm with dRead := true }, 0x55#8), ({ floatForm with dRead := true }, 0x56#8),
    ({ floatForm with lits := 1 }, 0x57#8)], Meets p.1 p.2 noTrap :=
  noTrap_of (meets_all literal 1#8 2#8 3#8 _ _ rfl rfl rfl (by decide))

theorem wit_FloatCompareSelectConvert : ∀ p ∈ [(floatForm, 0x5A#8), (floatForm, 0x5B#8), (floatForm, 0x5C#8), (floatForm, 0x5D#8),
    (floatForm1, 0x5E#8), (floatForm1, 0x5F#8), (floatForm, 0x63#8), (floatCmpForm, 0x64#8), (floatCmpForm, 0x65#8), (floatCmpForm, 0x66#8),
    (floatCmpForm, 0x67#8), (floatCmpForm, 0x79#8), ({ floatCmpForm with b := .unused }, 0x75#8),
    ({ floatForm1 with b := .code (lowRanges 8 5) 0xF0 }, 0x76#8), ({ floatForm with b := .reg }, 0x77#8), (floatForm1, 0x78#8),
    (floatForm1, 0x60#8), (floatForm1, 0x61#8), (floatForm1, 0x62#8), (floatForm1, 0x7A#8), (cvtForm 0, 0x72#8)], Meets p.1 p.2 noTrap :=
  noTrap_of (meets_all literal 1#8 2#8 0#8 _ _ rfl rfl rfl (by decide))

theorem wit_StatusReads : ∀ p ∈ [({ d := .reg, a := .code [(0, 0x10), (0x20, 0x23)], b := .unused, dWrite := true, priv := false }, 0x0A#8),
    ({ d := .reg, a := .unused, b := .code [(0, 1)], dWrite := true }, 0x0B#8),
    ({ d := .reg, a := .queue, b := .unused, dWrite := true, one := true }, 0x9B#8)], Meets p.1 p.2 toRegister :=
  meets_all literal 1#8 0#8 0#8 _ _ rfl rfl rfl (by decide)

/-- A group in its handler, on the rail whose window it holds. -/
def handling (regs : Sparse Word) : Group := group 0#32 [8#32] { control with handler := true } regs

theorem wit_StatusReads_privileged : ∀ p ∈ [({ d := .reg, a := .code [(0, 0x10), (0x20, 0x23)], b := .unused, dWrite := true, priv := true }, 0x0A#8)],
    Meets p.1 p.2 toRegister :=
  meets_all (handling []) 1#8 0x23#8 0#8 _ _ rfl rfl rfl (by decide)

/-! ### Witnesses: control flow, divergence, MODE and status -/

/-- The conditions of an instruction that completes with an effect, with its own. -/
abbrev effect (ok : More) : More := fun g d a b x u => x.pushes = false ∧ ok g d a b x u

theorem wit_Branching : ∀ p ∈ [({ plainForm with lits := 1 }, 0x10#8), ({ plainForm with lits := 1, live := true }, 0x15#8)],
    Meets p.1 p.2 (effect (fun _ _ _ _ _ _ => True)) :=
  meets_all literal 0#8 0#8 0#8 _ _ rfl rfl rfl (by decide)

theorem wit_Branching_bru : Meets { plainForm with a := .reg, b := .code [(0, 1)], lits := 1 } 0x11#8
    (effect (fun _ _ _ _ x w => ¬ if x.b = 1 then x.rd w .a x.low = 0#32 else x.rd w .a x.low ≠ 0#32)) :=
  meets_of (bench literal) literal 0#8 2#8 1#8 _ rfl rfl rfl (by decide)

theorem wit_Branching_writes : ∀ p ∈ [({ plainForm with d := .reg, dWrite := true, lits := 1 }, 0x16#8),
    ({ plainForm with d := .reg, dRead := true, dWrite := true, lits := 1 }, 0x18#8)], Meets p.1 p.2 (effect (fun _ _ _ _ _ _ => True)) :=
  meets_all literal 2#8 0#8 0#8 _ _ rfl rfl rfl (by decide)

theorem wit_Branching_indirect : ∀ p ∈ [({ plainForm with a := .reg }, 0x17#8), ({ plainForm with a := .reg }, 0x1B#8)],
    Meets p.1 p.2 (effect (fun _ _ _ _ x w => (x.rd w .a x.low).toNat % 4 = 0)) :=
  meets_all literal 0#8 2#8 0#8 _ _ rfl rfl rfl (by decide)

theorem wit_Divergence : ∀ p ∈ [({ d := .reg, a := .reg, b := .unused, dWrite := true, live := true, cycles := .ifnz }, 0x12#8)],
    Meets p.1 p.2 (effect (fun _ _ _ _ _ _ => True)) :=
  meets_all literal 1#8 2#8 0#8 _ _ rfl rfl rfl (by decide)

theorem wit_Divergence_exec : ∀ p ∈ [({ plainForm with a := .reg, live := true }, 0x13#8), ({ plainForm with a := .reg, live := true }, 0x14#8),
    ({ plainForm with d := .reg, dWrite := true, live := true }, 0x4B#8), ({ plainForm with a := .reg, live := true }, 0x4C#8)],
    Meets p.1 p.2 (effect (fun _ _ _ _ _ _ => True)) :=
  meets_all literal 0#8 0#8 0#8 _ _ rfl rfl rfl (by decide)

theorem wit_NopFwaitYield : Meets ignoreForm 0x00#8 (fun _ _ _ _ _ _ => True) ∧
    Meets { plainForm with a := .code [(0, 255)] 0x70, b := .any } 0x19#8
      (effect (fun _ _ _ _ x w => w.flagsClear x.gid (if 128 ≤ x.a then 0x1FFF#13 else BitVec.ofNat 13 (x.a % 16 * 256 + x.b)) = true)) ∧
    Meets plainForm 0x1A#8 (effect (fun _ _ _ _ x _ => x.g.seat.isSome = true)) :=
  ⟨meets_of (bench literal) literal 9#8 8#8 7#8 _ rfl rfl rfl (by decide), meets_of (bench literal) literal 0#8 0x80#8 0#8 _ rfl rfl rfl (by decide),
   meets_of (bench literal) literal 0#8 0#8 0#8 _ rfl rfl rfl (by decide)⟩

/-- A value that an instruction could write into MODE, as a Bool. -/
def modeOk (s : State) (g : Group) (v : Word) : Bool :=
  wbits v 3 0 == 0 && decide (modeRnd v < 5) && decide (modeType v < 12) && (decide (240 ≤ modeGuard v) || decide (modeGuard v < (s.recordOf g).regs))

theorem modeOk_of {s : State} {g : Group} {v : Word} (h : modeOk s g v = true) : ModeOk s g v := by
  simp only [modeOk, Bool.and_eq_true, Bool.or_eq_true, decide_eq_true_eq, beq_iff_eq] at h
  exact ⟨h.1.1.1, h.1.1.2, h.1.2, fun hl => h.2.resolve_left (by omega)⟩

theorem wit_ModeStatusCounters : Meets { plainForm with lits := 1 } 0x08#8 (fun _ _ _ _ x w => x.pushes = false ∧ ModeOk w x.g (x.lits.headD 0#32)) :=
  (meets_of (more := fun _ _ _ _ x w => x.pushes = false ∧ modeOk w x.g (x.lits.headD 0#32) = true) (bench (group 0#32 [0xFF000000#32] control []))
    (group 0#32 [0xFF000000#32] control []) 0#8 0#8 0#8 _ rfl rfl rfl (by decide)).imp (fun _ _ _ _ _ _ _ _ _ h => ⟨h.1, modeOk_of h.2⟩)

theorem wit_ModeStatusCounters_modeset :
    Meets { plainForm with d := .code [(0, 9)], a := .any
                           late := fun _ => let high := (11#8).toNat / 2 ^ 4 * 2 ^ 4
                             if high = 0 then none else some (3, high * 256) } 0x09#8
      (fun g d a _ _ u => d = 2#8 ∧ a = 11#8 ∧ ModeOk u g (setBits g.ctl.mode 19 4 a.toNat)) :=
  (meets_of (more := fun g d a _ _ u => d = 2#8 ∧ a = 11#8 ∧ modeOk u g (setBits g.ctl.mode 19 4 a.toNat) = true) (bench literal)
    literal 2#8 11#8 0#8 _ rfl rfl rfl (by decide)).imp (fun _ _ _ _ _ _ _ _ _ h => ⟨h.1, h.2.1, modeOk_of h.2.2⟩)

theorem wit_ModeStatusCounters_wrfps : ∀ b ∈ [0#8, 1#8, 2#8, 3#8],
    Meets { d := .unused, a := .reg, b := .code [(0, 3)] } 0x0C#8 (effect (fun _ _ _ b' _ _ => b' = b)) := by
  intro b hb
  exact meets_of (bench literal) literal 0#8 2#8 b _ rfl rfl rfl (by revert b; decide)

theorem wit_ModeStatusCounters_rdcnt : Meets { plainForm with
      d := .pair, dWrite := true, lits := 1
      late := fun ls =>
        let v := (ls.headD 0#32).toNat
        if v < 4096 then none else some (3, v / 4096 * 4096) } 0x0D#8 (effect (fun _ _ _ _ x _ => x.d < 240)) :=
  meets_of (bench (group 0#32 [0xFFF#32] control [])) (group 0#32 [0xFFF#32] control []) 238#8 0#8 0#8 _ rfl rfl rfl (by decide)

/-! ### Witnesses: long-latency arithmetic and cross-lane instructions -/

theorem wit_LongArithmetic : ∀ p ∈ [({ intForm with long := true, own := true }, 0x36#8), ({ intForm with long := true, own := true }, 0x37#8)],
    Meets p.1 p.2 (fun _ _ _ _ _ _ => True) :=
  meets_all literal 1#8 2#8 3#8 _ _ rfl rfl rfl (by decide)

theorem wit_LongArithmetic_float : ∀ p ∈ [({ floatForm with long := true, own := true }, 0x58#8),
    ({ floatForm1 with long := true, own := true }, 0x59#8)], Meets p.1 p.2 (fun _ _ _ _ x _ => modeTraps x.mode = 0#5) :=
  meets_all literal 1#8 2#8 0#8 _ _ rfl rfl rfl (by decide)

/-- A group whose MODE traps every floating-point exception, with 4.0 and 2.0 in registers 2 and 3. -/
def trapping : Group := group 0#32 [] { control with mode := 0xFF20F800#32 } [(64, 0x40800000#32), (65, 0x40800000#32), (96, 0x40000000#32), (97, 0x40000000#32)]

theorem wit_LongArithmetic_trapping : Meets { floatForm with long := true, own := true } 0x58#8 (fun g d _ _ x u => d.toNat < 240 ∧
      modeTraps g.ctl.mode ≠ 0#5 ∧ fpxTrap (modeTraps g.ctl.mode) (x.results u (fun x u l => (x.ft.div x.env (x.flt u .a l) (x.flt u .b l)).lane)) = none) ∧
    Meets { floatForm1 with long := true, own := true } 0x59#8 (fun g d _ _ x u => d.toNat < 240 ∧ modeTraps g.ctl.mode ≠ 0#5 ∧
      fpxTrap (modeTraps g.ctl.mode) (x.results u (fun x u l => (x.ft.sqrt x.env (x.flt u .a l)).lane)) = none) :=
  ⟨meets_of (bench trapping) trapping 1#8 2#8 3#8 _ rfl rfl rfl (by decide +kernel),
   meets_of (bench trapping) trapping 1#8 2#8 0#8 _ rfl rfl rfl (by decide +kernel)⟩

theorem wit_CrossLanes : ∀ p ∈ [(crossForm .typed .typed (.fold false), 0x68#8), (crossForm .typed .typed (.fold true), 0x69#8),
    (crossForm .typed .typed .reg, 0x6A#8), (crossForm .typed .typed (.code [(0, 31)]), 0x6B#8), (crossForm .typed .typed (.code [(0, 31)]), 0x6C#8),
    (crossForm .typed .typed (.code [(0, 31)]), 0x6D#8), (crossForm .reg .reg (.code [(0, 3)]), 0x6E#8),
    (crossForm .reg .typed (.code [(0, 1)]), 0x6F#8)], Meets p.1 p.2 noTrap :=
  noTrap_of (meets_all literal 4#8 2#8 1#8 _ _ rfl rfl rfl (by decide))

theorem wit_CrossLanes_facet : ∀ p ∈ [(crossForm .reg .typed (.code [(0, 2)]), 0x73#8), (crossForm .typed .reg (.code [(0, 2)]), 0x74#8)],
    Meets p.1 p.2 noTrap :=
  noTrap_of (meets_all literal 4#8 2#8 2#8 _ _ rfl rfl rfl (by decide))

/-! ### Witnesses: context and page control -/

/-- A handler with a selector and an offset in registers 10 and 11. -/
def selecting (sel off : Word) : Group := handling [(320, sel), (352, off)]

/-- The conditions on a context instruction of the own group. -/
abbrev ownOffset (b n : Nat) : More := fun _ _ _ _ x w => x.pushes = false ∧ x.reg w x.a x.low = 0xFFFF#32 ∧ (x.reg w (x.a + 1) x.low).toNat < 65536 ∧
  x.b = b ∧ (x.reg w (x.a + 1) x.low).toNat % n = 0 ∧ x.g.ctl.dead = 0#32 ∧ x.g.regErr = [] ∧ x.g.gstate ≠ .retired ∧ x.d < 240

theorem wit_ContextControl_read : ∀ b ∈ [0#8, 1#8, 2#8], ∃ n,
    Meets { d := if b = 2#8 then .pair else .reg, a := .pair, b := .code [(0, 2)], dWrite := true, long := true, one := true, priv := true
            cycles := .one } 0x05#8 (ownOffset b.toNat n) := by
  intro b hb
  refine ⟨if b = 1#8 then 128 else 4, meets_of (bench (selecting 0xFFFF#32 0x7880#32)) (selecting 0xFFFF#32 0x7880#32) 20#8 10#8 b _ rfl rfl rfl ?_⟩
  revert b
  decide

theorem wit_ContextControl_write : ∀ p ∈ [(0#8, 4), (1#8, 128)],
    Meets { d := .reg, a := .pair, b := .code [(0, 1)], dRead := true, one := true, priv := true, cycles := .one } 0x06#8
      (ownOffset p.1.toNat p.2) := by
  intro p hp
  refine meets_of (bench (selecting 0xFFFF#32 0x80#32)) (selecting 0xFFFF#32 0x80#32) 20#8 10#8 p.1 _ rfl rfl rfl ?_
  revert p
  decide

theorem wit_ContextControl_own : Meets { plainForm with a := .reg, b := .code [(0, 2)], priv := true } 0x07#8
    (effect (fun _ _ _ _ x w => x.rd w .a x.low = 0xFFFF#32 ∧ x.b ≤ 1)) :=
  meets_of (bench (selecting 0xFFFF#32 0#32)) (selecting 0xFFFF#32 0#32) 0#8 10#8 1#8 _ rfl rfl rfl (by decide)

/-- The bench with a second group of the same workgroup, on seat 1. -/
def pairBench (g : Group) : State := { bench g with groups := [g, { plain 0#32 with gid := 2, localNo := 1, seat := some 1 }] }

theorem wit_ContextControl_other : Meets { plainForm with a := .reg, b := .code [(0, 2)], priv := true } 0x07#8
    (effect (fun _ _ _ _ x w => x.select w (x.rd w .a x.low) 0#32 = .other 2 ∧ 2 ≠ x.gid ∧ x.b ≤ 1)) :=
  (meets_of (more := effect (fun _ _ _ _ x w => (match x.select w (x.rd w .a x.low) 0#32 with | .other n => n == 2 && x.gid != 2 | _ => false) = true ∧
      x.b ≤ 1)) (pairBench (selecting 1#32 0#32)) (selecting 1#32 0#32) 0#8 10#8 0#8 _ rfl rfl rfl (by decide)).imp (fun _ _ _ _ _ _ _ _ _ h => by
    obtain ⟨h0, h1, h2⟩ := h
    split at h1
    · rename_i e
      simp only [Bool.and_eq_true, beq_iff_eq, bne_iff_ne] at h1
      exact ⟨h0, by rw [e, h1.1], h1.2.symm, h2⟩
    · exact absurd h1 (by decide))

theorem wit_PageControl : Meets (pageForm 1) 0x0E#8 (effect (fun _ _ _ _ x w => x.rdPair w .a x.low &&& 0x1E00000000000000#64 = 0#64)) ∧
    Meets (pageForm 3) 0x0F#8 (effect (fun _ _ _ _ x w => x.rdPair w .a x.low &&& 0xFE00000000000000#64 = 0#64)) ∧
    (bench (plain 0#32)).inst? 7#32 = some install :=
  ⟨meets_of (bench (selecting 0x20000#32 0x60000000#32)) (selecting 0x20000#32 0x60000000#32) 20#8 10#8 0#8 _ rfl rfl rfl (by decide),
   meets_of (bench (selecting 0x10000#32 0#32)) (selecting 0x10000#32 0#32) 20#8 10#8 0#8 _ rfl rfl rfl (by decide), rfl⟩

/-! ### Witnesses: memory -/

/-- A record of 64 words of global memory at 64 KiB, at a scope. -/
def global (scope : Nat) : Word256 := (⟨0#32, 0, 0, false, scope, 0, false, false, 0, 4, 4, 64, 65536⟩ : BufRec).image

/-- A group with a lane-scope record in slot 1, a die-scope one in slot 2, an image in registers 16 to 23, and a shape register. -/
def memory (ctl : Control) : Group := { group 0#32 [] ctl ((imageWords (global 0)).zipIdx.map (fun w => (32 * (16 + w.2), w.1))) with
  recs := [(1, global 0), (2, global 2)] }

/-- Whether an instruction's tests let it go on, with more of its accesses. -/
def goesOn (size : Nat) (kind : AccessKind) (plain : Bool) (more : Space → List Probe → Ctx → State → Bool) (x : Ctx) (w : State) : Bool :=
  match x.tests w (bufRec x.image) x.b size kind plain with
  | .go space ps => more space ps x w
  | .stop _ => false

/-- The same as a condition. -/
abbrev goes (size : Nat) (kind : AccessKind) (plain : Bool) (more : Space → List Probe → Ctx → State → Bool) : More :=
  fun _ _ _ _ x w => goesOn size kind plain more x w = true

theorem goes_of {size kind plain more x w} (h : goesOn size kind plain more x w = true) :
    ∃ space ps, x.tests w (bufRec x.image) x.b size kind plain = .go space ps ∧ more space ps x w = true := by
  unfold goesOn at h
  split at h
  · exact ⟨_, _, ‹_›, h⟩
  · exact absurd h (by decide)

theorem wit_Loads : ∀ p ∈ [(.reg, 0x80#8, 4), (.reg, 0x81#8, 4), (.reg, 0x82#8, 1), (.reg, 0x83#8, 1), (.reg, 0x84#8, 2), (.reg, 0x85#8, 2),
    (.pair, 0x86#8, 8), (.quad, 0x87#8, 16)], Meets (loadForm p.1) p.2.1 (goes p.2.2 .read true (fun space ps _ w =>
      (ps.flatMap (fun q => w.atomicsOver 1 q.lane space q.addr (q.addr + q.span))).isEmpty)) := by
  intro p hp
  refine meets_of (bench (memory control)) (memory control) 32#8 0#8 2#8 _ rfl rfl rfl ?_
  revert p
  decide

theorem wit_Stores : ∀ p ∈ [(.reg, 0x88#8, 4), (.reg, 0x8A#8, 1), (.reg, 0x8B#8, 2), (.pair, 0x8C#8, 8), (.quad, 0x8D#8, 16)],
    Meets (storeForm p.1) p.2.1 (goes p.2.2 .write true (fun space ps x w =>
      (x.entries w (bufRec x.image) space ps p.2.2 none).length ≤ x.g.ctl.psbFree)) := by
  intro p hp
  refine meets_of (bench (memory control)) (memory control) 32#8 0#8 2#8 _ rfl rfl rfl ?_
  revert p
  decide

theorem wit_Stores_stl32 : ∀ b ∈ [1#8, 2#8], Meets { storeForm .reg with long := true, sync := true } 0x89#8 (fun g d a b' x w =>
    x.pushes = false ∧ b' = b ∧ ((bufRec x.image).scope = 0 ↔ b = 1#8) ∧ goes 4 .write true (fun space ps x w =>
      (x.entries w (bufRec x.image) space ps 4 none).length ≤ x.g.ctl.psbFree &&
      (x.entries w (bufRec x.image) space ps 4 (some w.nextId)).length ≤ x.g.ctl.psbFree) g d a b' x w) := by
  intro b hb
  refine meets_of (bench (memory control)) (memory control) 32#8 0#8 b _ rfl rfl rfl ?_
  revert b
  decide

theorem wit_Stores_stshape : Meets { d := .shape, a := .reg, b := .record, one := true, cycles := .one, mem := true } 0xBA#8 (fun g d a b x w =>
    x.pushes = false ∧ goes 64 .write false (fun space ps x _ => (ps.flatMap (fun p =>
      storeEntries (bufRec x.image) x.b space p 64 (x.g.shape x.d).toNat none)).length ≤ x.g.ctl.psbFree) g d a b x w) :=
  meets_of (bench (memory control)) (memory control) 3#8 0#8 1#8 _ rfl rfl rfl (by decide)

theorem wit_Records : Meets { d := .unused, a := .eight, b := .record, one := true } 0x8E#8 (effect (fun _ _ _ _ x w =>
      (bufRec x.image).reserved = false ∧
      (bufRec (imageOfWords ((List.range 8).map (fun j => x.reg w (x.a + j) x.low)))).reserved = false ∧
      imageFaults (imageOfWords ((List.range 8).map (fun j => x.reg w (x.a + j) x.low))) = 0)) ∧
    Meets { d := .eight, a := .unused, b := .record, dWrite := true, one := true } 0x8F#8 (effect (fun _ _ _ _ _ _ => True)) :=
  ⟨meets_of (bench (memory control)) (memory control) 0#8 16#8 63#8 _ rfl rfl rfl (by decide),
   meets_of (bench (memory control)) (memory control) 232#8 0#8 2#8 _ rfl rfl rfl (by decide)⟩

theorem wit_Atomics : ∀ p ∈ [(.cas, 0xA0#8, 4, true), (.cas, 0xA1#8, 8, true), (.xchg, 0xA2#8, 4, true), (.add, 0xA3#8, 4, true), (.add, 0xA4#8, 8, true),
    (.min, 0xA5#8, 4, true), (.max, 0xA6#8, 4, true), (.and, 0xA7#8, 4, true), (.or, 0x95#8, 4, true), (.xor, 0x96#8, 4, true), (.add, 0xA8#8, 4, false),
    (.add, 0xA9#8, 8, false), (.min, 0xAA#8, 4, false), (.max, 0xAB#8, 4, false), (.and, 0xAC#8, 4, false), (.or, 0xAD#8, 4, false), (.xor, 0xAE#8, 4, false)],
    Meets (atomForm p.1 p.2.2.1 p.2.2.2) p.2.1 (fun g d a b x w => x.pushes = false ∧ goes p.2.2.1 .atomic false (fun space ps x w =>
      (x.atomWait w space p.2.2.1 ps).isNone) g d a b x w) := by
  intro p hp
  refine meets_of (bench (memory control)) (memory control) 32#8 0#8 2#8 _ rfl rfl rfl ?_
  revert p
  decide

/-! ### Witnesses: synchronisation -/

theorem wit_Synchronisation_fence : ∀ d ∈ [1#8, 2#8, 3#8], Meets { d := .code [(1, 3)], a := .code [(1, 5)], b := .unused, long := true, sync := d.toNat.testBit 1, mem := d.toNat.testBit 1 } 0x70#8
    (effect (fun _ d' _ _ _ _ => d' = d)) := by
  intro d hd
  refine meets_of (bench literal) literal d 5#8 0#8 _ rfl rfl rfl ?_
  revert d
  decide

theorem wit_Synchronisation_ifence : Meets { d := .unused, a := .unused, b := .unused, long := true, one := true, sync := true, mem := true } 0x71#8
    (effect (fun _ _ _ _ _ _ => True)) :=
  meets_of (bench literal) literal 0#8 0#8 0#8 _ rfl rfl rfl (by decide)

/-- An object within the kernel's range, for an instruction whose operand is small enough. -/
abbrev inRange (bound : Nat) : More := fun _ _ _ _ x w => x.pushes = false ∧ x.a < (w.recordOf x.g).bars.getD x.b 0 ∧ (x.rd w .d x.low).toNat < bound ∧
  (x.reg w (x.d + 1) x.low).toNat < 2 ^ 23 ∧ (modeSatTrap x.mode && x.g.ctl.satf) = false

theorem wit_Synchronisation : ∀ p ∈ [({ d := .reg, a := .any, b := .scope, dWrite := true, long := true, one := true, sync := true, mem := true }, 0x90#8),
    ({ d := .reg, a := .any, b := .scope, dRead := true, dWrite := true, long := true, one := true, sync := true, mem := true }, 0x94#8),
    ({ d := .reg, a := .any, b := .scope, dRead := true, long := true, one := true }, 0x91#8),
    ({ d := .pair, a := .any, b := .scope, dRead := true, long := true, one := true }, 0x92#8),
    ({ d := .reg, a := .any, b := .scope, dRead := true, dWrite := true, long := true, one := true }, 0x93#8)], Meets p.1 p.2 (inRange (2 ^ 23)) :=
  meets_all literal 2#8 3#8 4#8 _ _ rfl rfl rfl (by decide)

theorem wit_Synchronisation_tickets : ∀ p ∈ [({ d := .unused, a := .reg, b := .unused, long := true, one := true, sync := true, mem := true }, 0x9A#8),
    ({ d := .reg, a := .reg, b := .unused, dWrite := true, long := true }, 0x98#8),
    ({ d := .reg, a := .reg, b := .unused, dRead := true, long := true, one := true }, 0x99#8)],
    Meets p.1 p.2 (effect (fun _ _ _ _ x w => (x.rd w .a x.low).toNat < 32 * (w.recordOf x.g).bars.getD 2 0)) :=
  meets_all literal 0#8 2#8 0#8 _ _ rfl rfl rfl (by decide)

/-! ### Witnesses: exceptions -/

theorem canEnter_bench (g : Group) (seat : g.seat = some 0) (st : g.gstate = .seated) (h : g.ctl.handler = false) (p : g.ctl.paired = false)
    (sh : g.ctl.shadow = false) (su : g.ctl.suspended = false) (tp : g.ctl.trapPend = false) : CanEnter (bench g) g 0 :=
  ⟨h, ⟨p, sh⟩, ⟨st, seat⟩, su, rfl, by
    intro k hk _ _
    simp only [bench, List.mem_singleton] at hk
    rw [hk]; exact tp⟩

theorem wit_InstructionTraps : (∃ s g c d a b x u, Issues s g c ignoreForm 0x03#8 d a b x u ∧ CanEnter s g 0) ∧
    ∃ s g c d a b x u, Issues s g c floatForm 0x58#8 d a b x u ∧ CanEnter s g 0 ∧
      (x.results u (fun x u l => (x.ft.div x.env (x.flt u .a l) (x.flt u .b l)).lane)).filter (fun o => o.2.exc &&& modeTraps g.ctl.mode != 0#5) ≠ [] := by
  constructor
  · obtain ⟨u, x, h⟩ : ∃ u x, Issues (bench literal) literal ⟨0#32, [0#32], [8#32, 9#32], 0⟩ ignoreForm 0x03#8 1#8 2#8 3#8 x u :=
      ⟨_, _, ⟨rfl, rfl, rfl, fun _ => rfl, by decide, by decide, rfl, rfl, by decide, by decide⟩⟩
    exact ⟨_, _, _, _, _, _, x, u, h, canEnter_bench literal rfl rfl rfl rfl rfl rfl rfl⟩
  · obtain ⟨u, x, h, hz⟩ : ∃ u x, Issues (bench trapping) trapping ⟨0#32, [0#32], [], 0⟩ floatForm 0x58#8 1#8 2#8 4#8 x u ∧
        (x.results u (fun x u l => (x.ft.div x.env (x.flt u .a l) (x.flt u .b l)).lane)).filter
          (fun o => o.2.exc &&& modeTraps trapping.ctl.mode != 0#5) ≠ [] :=
      ⟨_, _, ⟨rfl, rfl, rfl, fun _ => rfl, by decide, by decide, rfl, rfl, by decide, by decide⟩, by decide +kernel⟩
    exact ⟨_, _, _, _, _, _, x, u, h, canEnter_bench trapping rfl rfl rfl rfl rfl rfl rfl, hz⟩

theorem wit_ChecksTrap : (bench literal).cur = some literal.gid ∧ (bench literal).group? literal.gid = some literal ∧ CanEnter (bench literal) literal 0 ∧
    (bench literal).tick.findingsAt literal intForm 1 240 2 = some (1, 3) :=
  ⟨rfl, rfl, canEnter_bench literal rfl rfl rfl rfl rfl rfl rfl, by decide⟩

/-- The clauses of `ChecksInOrder`, each met by one set of fields. -/
theorem wit_ChecksInOrder : [(true, 240, 1, 0, 3, 7, 63), (false, 240, 1, 0, 3, 7, 0), (true, 8, 1, 0, 3, 8, 0), (true, 240, 1, 0, 3, 240, 0), (true, 240, 1, 0, 4, 0, 0),
      (true, 240, 0, 0, 3, 0, 0), (true, 240, 1, 2, 3, 0, 0), (true, 240, 1, 0, 3, 0, 64)].map (fun (h, regs, lits, longs, d, a, b) =>
    ({ d := .code [(0, 3)], a := .reg, b := .record, lits := 1, long := true, priv := true } : Form).findings ⟨0xFF000000#32, h, regs, lits, longs⟩ d a b [])
    = [none, some (1, 7), some (1, 2), some (1, 3), some (1, 1), some (1, 6), some (1, 4), some (3, 64)] := by decide

/-- A rail whose window another group's handler holds. -/
def busyRail (s : State) : State := s.onRail 0 0 (fun r => { r with handler := some 9 })

theorem wit_TrapsNotTaken : (∃ c d a b x u, Issues (busyRail (bench literal)) literal c ignoreForm 0x03#8 d a b x u ∧ literal.ctl.handler = false ∧
      literal.ctl.paired = false ∧ literal.seat = some 0 ∧ ((busyRail (bench literal)).rail 0 (railOfSeat 0)).handler.isSome = true) ∧
    ((bench (handling [])).groups.map (fun k => k.gid)).Nodup ∧ (handling []).gstate ≠ .retired ∧ (handling []).ctl.handler = true ∧
      (bench (handling [])).tick.findingsAt (handling []) intForm 1 241 0 ≠ none ∧
    ∃ c d a b x u, Issues (bench (handling [])) (handling []) c ignoreForm 0x03#8 d a b x u := by
  refine ⟨?_, by decide, by decide, rfl, by decide, ?_⟩
  · obtain ⟨u, x, h⟩ : ∃ u x, Issues (busyRail (bench literal)) literal ⟨0#32, [0#32], [8#32, 9#32], 0⟩ ignoreForm 0x03#8 1#8 2#8 3#8 x u :=
      ⟨_, _, ⟨rfl, rfl, rfl, fun _ => rfl, by decide, by decide, rfl, rfl, by decide, by decide⟩⟩
    exact ⟨_, _, _, _, x, u, h, rfl, rfl, rfl, by decide⟩
  · exact ⟨⟨0#32, [0#32], [8#32], 0⟩, 1#8, 2#8, 3#8, _, _, ⟨rfl, rfl, rfl, fun _ => rfl, by decide, by decide, rfl, rfl, by decide, by decide⟩⟩

/-- A handler that stands behind a trap in slot 0 of a clause of two words at 128. -/
def returning : Group := { handling [] with ctl := { control with handler := true, trapRec := { clause := 128, slot := 0, flags := 1 } } }

/-- The bench with that clause in memory: a header, a NOP and a MOV. -/
def trapBench : State := { bench returning with mem := { bootSwept := 2 ^ 19, bytes := Memory.writeBytes [] 128 (bytesOfNat 12 0x40010200F1000000) } }

theorem wit_TrapReturn : ∃ c x u f, Issues trapBench returning c { plainForm with b := .code [(0, 1)], priv := true } 0x04#8 0#8 0#8 1#8 x u ∧
    (∀ o ∈ u.ops, o.gid = returning.gid → o.handler = true → o.flag = 16) ∧ returning.seat = some 0 ∧ returning.ctl.paired = false ∧
    returning.gid ∉ returning.suspendBy ∧ u.fetchClause returning.core returning.ctl.handle returning.ctl.trapRec.clause.toNat = .ok f ∧ f.words ≠ [] :=
  ⟨⟨0#32, [0#32], [8#32], 0⟩, _, _, _, ⟨rfl, rfl, rfl, fun _ => rfl, by decide, by decide, rfl, rfl, by decide, by decide⟩, by decide, rfl, rfl, by decide,
    rfl, by decide⟩

/-- A group of which no lane is active. -/
def idle : Group := group 0#32 [] { control with exec := 0#32 } []

theorem wit_NoActiveLaneAdvances : (bench idle).cur = some idle.gid ∧ (bench idle).group? idle.gid = some idle ∧ idle.clause = some ⟨0#32, [0#32], [], 0⟩ ∧
    (bench idle).tick.findingsAt idle intForm 1 2 3 = none ∧ laneList ((bench idle).tick.actLanes idle intForm) = [] := by
  decide

/-- MOV with a queue for an operand. -/
abbrev movForm : Form := { d := .reg, a := .reg, b := .unused, dWrite := true }

/-- A group whose q5 has room for one word. -/
def crowded : Group := { literal with queues := [(5, List.replicate 63 0#32)] }

theorem wit_QueueOperands_waits : (∃ f, ∀ d a b s, exec (.mov d a b) s = issueLanes movForm 0x40#8 d a b f s) ∧
    (∃ x, Reaches (bench literal) literal ⟨0#32, [0#32], [8#32, 9#32], 0⟩ movForm 0x40#8 4#8 243#8 0#8 x ∧ x.takePops (bench literal).tick = none) ∧
    ∃ x u y, Reaches (bench crowded) crowded ⟨0#32, [0#32], [8#32, 9#32], 0⟩ movForm 0x40#8 245#8 2#8 0#8 x ∧
      x.takePops (bench crowded).tick = some (u, y) ∧ x.pushes = true ∧ u.queueRoom crowded 5 < x.L.length :=
  ⟨⟨_, fun _ _ _ _ => rfl⟩, ⟨_, ⟨rfl, rfl, rfl, by decide, by decide, rfl⟩, by decide⟩,
   _, _, _, ⟨rfl, rfl, rfl, by decide, by decide, rfl⟩, rfl, by decide, by decide⟩

/-- What the statement of the pushes asks for. -/
abbrev pushing : More := fun g _ _ _ x u => x.pushes = true ∧ g.gstate ≠ .retired ∧
  ∀ f : Ctx → State → Nat → LaneOut, fpxTrap (modeTraps g.ctl.mode) (x.results u f) = none

/-- A group that has put words into its assembly buffer. -/
def assembling (n : Nat) : Group := { literal with ctl := { control with laWords := n } }

theorem wit_QueueOperands : (∀ q ∈ [0, 1, 2, 4, 5, 8], Meets movForm 0x40#8 (fun g d a b x u => pushing g d a b x u ∧ d.toNat = 240 + q)) ∧
    (∀ n ∈ [0, 29, 30, 31], Meets movForm 0x40#8 (fun g d a b x u => pushing g d a b x u ∧ d.toNat = 252 ∧ g.ctl.laWords = n ∧ x.L.length = 2)) ∧
    ∀ i, (bench literal).inst? literal.ctl.handle = some i → i.streamLost = false := by
  refine ⟨?_, ?_, ?_⟩
  · intro q hq
    refine Meets.imp (more := fun g d _ _ x _ => (x.pushes = true ∧ g.gstate ≠ .retired ∧ d.toNat = 240 + q) ∧ modeTraps g.ctl.mode = 0#5)
      (meets_of (bench literal) literal (BitVec.ofNat 8 (240 + q)) 2#8 0#8 ⟨0#32, [0#32], [8#32, 9#32], 0⟩ rfl rfl rfl ?_)
      (fun _ _ _ _ _ _ _ _ _ h => ⟨⟨h.1.1, h.1.2.1, fun f => by rw [h.2]; exact fpx_off _⟩, h.1.2.2⟩)
    simp only [List.mem_cons, List.not_mem_nil, or_false] at hq
    rcases hq with rfl | rfl | rfl | rfl | rfl | rfl <;> decide
  · intro n hn
    refine Meets.imp (more := fun g d _ _ x _ => (x.pushes = true ∧ g.gstate ≠ .retired ∧ d.toNat = 252 ∧ g.ctl.laWords = n ∧ x.L.length = 2) ∧
        modeTraps g.ctl.mode = 0#5)
      (meets_of (bench (assembling n)) (assembling n) 252#8 2#8 0#8 ⟨0#32, [0#32], [8#32, 9#32], 0⟩ rfl rfl rfl ?_)
      (fun _ _ _ _ _ _ _ _ _ h => ⟨⟨h.1.1, h.1.2.1, fun f => by rw [h.2]; exact fpx_off _⟩, h.1.2.2⟩)
    simp only [List.mem_cons, List.not_mem_nil, or_false] at hn
    rcases hn with rfl | rfl | rfl | rfl <;> decide
  · intro i hi
    cases hi
    rfl

/-- A leader and its shadow; one of the two has the turn. -/
def leader (stalled : Option Stall) (ctl : Control) : Group := { literal with ctl := { ctl with paired := true }, stalled := stalled }
/-- The shadow, with a line in its load-value queue. -/
def follower (stalled : Option Stall) (ctl : Control) (lvq : List LvqLine) : Group :=
  { literal with gid := 2, seat := some 32, ctl := { ctl with shadow := true }, stalled := stalled, lvq := lvq }
/-- The machine with both. -/
def twoBench (turn : Nat) (g h : Group) : State := { bench literal with cur := some turn, groups := [g, h] }

/-- What every clause asks of a pair of which one has the turn. -/
def PairAsks (s : State) (g h : Group) (form : Form) (op d a b : Byte) (x : Ctx) : Prop :=
  Reaches s g ⟨0#32, [0#32], [8#32, 9#32], 0⟩ form op d a b x ∧ s.partner g = some h ∧ (s.groups.map (fun k => k.gid)).Nodup ∧
    g.gstate ≠ .retired ∧ h.gstate ≠ .retired ∧ x.dying = []

theorem wit_Pairs_shadow :
    (let s := twoBench 2 (leader none control) (follower none control [])
     let g := follower none control []
     (∃ x, PairAsks s g (leader none control) { plainForm with sync := true } 0x02#8 0#8 0#8 0#8 x ∧ x.syncs = true) ∧
     (∃ x, PairAsks s g (leader none control) movForm 0x40#8 4#8 243#8 0#8 x ∧ x.syncs = false ∧ x.popsAny = true ∧ g.lvq = []) ∧
     (∃ x, PairAsks s g (leader none control) movForm 0x40#8 245#8 2#8 0#8 x ∧ x.syncs = false ∧ x.popsAny = false ∧ movForm.viaLvq = false ∧
       x.pushes = true) ∧
     ∃ x w, PairAsks s g (leader none control) { intForm with long := true } 0x36#8 4#8 2#8 3#8 x ∧ x.syncs = false ∧ x.popsAny = false ∧
       x.pushes = false ∧ laneEffectLong (fun _ _ _ => .plain 0#64) x s.tick = .done w) ∧
    (let l : LvqLine := ⟨256, 0, 4, [(1, 0, 5#32), (1, 1, 6#32)]⟩
     let g := follower none control [l]
     let s := twoBench 2 (leader none control) g
     ∃ x w k, PairAsks s g (leader none control) movForm 0x40#8 4#8 243#8 0#8 x ∧ x.syncs = false ∧ x.popsAny = true ∧ x.pushes = false ∧
       g.lvq.find? (fun m => m.clause == g.ctl.pc.toNat && m.slot == g.ctl.slot && m.dest == x.d) = some l ∧
       laneEffect (fun y t l => .plain ((y.rd t .a l).setWidth 64)) (x.withLine l) (s.tick.putGroup { g with lvq := g.lvq.erase l }) = .done w ∧
       w.group? 2 = some k ∧ k.clause = some ⟨0#32, [0#32], [8#32, 9#32], 0⟩) := by
  refine ⟨⟨⟨_, ⟨⟨rfl, rfl, rfl, by decide, by decide, rfl⟩, rfl, by decide, by decide, by decide, by decide⟩, by decide⟩,
    ⟨_, ⟨⟨rfl, rfl, rfl, by decide, by decide, rfl⟩, rfl, by decide, by decide, by decide, by decide⟩, by decide, by decide, rfl⟩,
    ⟨_, ⟨⟨rfl, rfl, rfl, by decide, by decide, rfl⟩, rfl, by decide, by decide, by decide, by decide⟩, by decide, by decide, rfl, by decide⟩,
    _, _, ⟨⟨rfl, rfl, rfl, by decide, by decide, rfl⟩, rfl, by decide, by decide, by decide, by decide⟩, by decide, by decide, by decide, rfl⟩,
    _, _, _, ⟨⟨rfl, rfl, rfl, by decide, by decide, rfl⟩, rfl, by decide, by decide, by decide, by decide⟩, by decide, by decide, by decide, rfl, rfl, rfl, rfl⟩

theorem wit_Pairs_leader :
    (let s := twoBench 1 (leader none control) (follower none control [])
     let g := leader none control
     ∃ x u y, PairAsks s g (follower none control []) { plainForm with sync := true } 0x02#8 0#8 0#8 0#8 x ∧ g.ctl.leads = true ∧
       x.takePops s.tick = some (u, y) ∧ y.mustWait u = none ∧ x.syncs = true ∧ (follower none control []).stalled = none) ∧
    (∀ same : Bool,
     let h := follower (some ⟨.barrier, .partner⟩) (if same then control else { control with psb := [⟨65536, 0, 1#8, 0xF#16, 5#128, .virt 7#32, false, none⟩] }) []
     let g := leader none control
     let s := twoBench 1 g h
     ∃ x u y, PairAsks s g h { plainForm with sync := true } 0x02#8 0#8 0#8 0#8 x ∧ x.takePops s.tick = some (u, y) ∧ y.mustWait u = none ∧
       x.syncs = true ∧ x.pushes = false ∧ sameSlot g h = true ∧ h.stalled.map (fun st => st.hold) = some .partner ∧ y.pairEqual s.tick h = same ∧
       u.group? 1 = some g ∧ u.group? 2 = some h) ∧
    (let g := { leader none control with queues := [(3, [5#32, 6#32])] }
     let h := follower none control []
     let s := twoBench 1 g h
     ∃ x u y w k, PairAsks s g h movForm 0x40#8 4#8 243#8 0#8 x ∧ x.takePops s.tick = some (u, y) ∧ y.mustWait u = none ∧ x.syncs = false ∧
       x.popsAny = true ∧ x.pushes = false ∧
       laneEffect (fun y t l => .plain ((y.rd t .a l).setWidth 64)) y (u.putGroup { h with lvq := h.lvq ++ [y.popLine] }) = .done w ∧
       w.group? 1 = some k ∧ k.clause = some ⟨0#32, [0#32], [8#32, 9#32], 0⟩) := by
  refine ⟨⟨_, _, _, ⟨⟨rfl, rfl, rfl, by decide, by decide, rfl⟩, rfl, by decide, by decide, by decide, by decide⟩, rfl, rfl, by decide, by decide, rfl⟩, ?_,
    _, _, _, _, _, ⟨⟨rfl, rfl, rfl, by decide, by decide, rfl⟩, rfl, by decide, by decide, by decide, by decide⟩, rfl, by decide, by decide, by decide,
    by decide, rfl, rfl, rfl⟩
  intro same
  cases same
  all_goals exact ⟨_, _, _, ⟨⟨rfl, rfl, rfl, by decide, by decide, rfl⟩, rfl, by decide, by decide, by decide, by decide⟩, rfl, by decide, by decide,
    by decide, by decide, rfl, by decide, rfl, rfl⟩

theorem wit_EveryStepGoesOn : encode (.iadd 1#8 2#8 3#8) ≠ none ∧ (bench literal).cur = some 1 ∧ (bench literal).group? 1 = some literal ∧
    encode .frameTick = none ∧ (∀ n, State.reset.cur = some n → State.reset.group? n = none) ∧ State.reset.agenda = [] :=
  ⟨by decide, rfl, rfl, rfl, fun n h => (by cases h), rfl⟩

/-- A group with a store in its buffer. -/
def storing : Group := memory { control with psb := [⟨65536, 0, 1#8, 0xF#16, 5#128, .virt 7#32, false, none⟩] }

theorem wit_Exit : ∀ g ∈ [handling [], literal, storing], (∃ c x u, Issues (bench g) g c { plainForm with sync := true } 0x02#8 0#8 0#8 0#8 x u ∧
      u.flagsClear g.gid 0x1FFF#13 = true ∧ (∀ o ∈ u.ops, o.gid = g.gid → o.beforeRelease = false)) ∧
    ((bench g).groups.map (fun k => k.gid)).Nodup ∧ g.gstate ≠ .retired := by
  intro g hg
  simp only [List.mem_cons, List.not_mem_nil, or_false] at hg
  rcases hg with rfl | rfl | rfl
  · exact ⟨⟨⟨0#32, [0#32], [8#32], 0⟩, _, _, ⟨rfl, rfl, rfl, fun _ => rfl, by decide, by decide, rfl, rfl, by decide, by decide⟩, by decide, by decide⟩,
      by decide, by decide⟩
  · exact ⟨⟨⟨0#32, [0#32], [8#32, 9#32], 0⟩, _, _, ⟨rfl, rfl, rfl, fun _ => rfl, by decide, by decide, rfl, rfl, by decide, by decide⟩, by decide,
      by decide⟩, by decide, by decide⟩
  · exact ⟨⟨⟨0#32, [0#32], [], 0⟩, _, _, ⟨rfl, rfl, rfl, fun _ => rfl, by decide, by decide, rfl, rfl, by decide, by decide⟩, by decide, by decide⟩,
      by decide, by decide⟩

theorem wit_Exit_cases : (handling []).ctl.handler = true ∧ (literal.ctl.handler = false ∧ ∀ e ∈ literal.ctl.psb, e.held.isSome = true) ∧
    storing.ctl.handler = false ∧ ∃ e ∈ storing.ctl.psb, e.held = none :=
  ⟨rfl, ⟨rfl, by decide⟩, rfl, _, List.mem_singleton.mpr rfl, rfl⟩

/-! ### Witnesses: shape registers, the matrix engine and leases -/

/-- A register file with a pair in registers 10 and 11 of every active lane. -/
def withPair (lo hi : Word) : Group := group 0#32 [] control [(320, lo), (352, hi)]

theorem wit_ShapeInstructions_setshape : Meets { d := .shape, a := .pair, b := .code [(0, 2)], one := true, cycles := .one } 0xB8#8
      (effect (fun _ _ _ _ x _ => x.b = 0)) ∧
    Meets { d := .shape, a := .pair, b := .code [(0, 2)], one := true, cycles := .one } 0xB8#8
      (effect (fun _ _ _ _ x w => x.b = 1 ∧ x.reg w (x.a + 1) x.low &&& 0xFFF00000#32 = 0#32)) ∧
    Meets { d := .shape, a := .pair, b := .code [(0, 2)], one := true, cycles := .one } 0xB8#8
      (effect (fun _ _ _ _ x w => x.b = 2 ∧ x.reg w x.a x.low &&& 0xFFFF0000#32 = 0#32 ∧ x.reg w (x.a + 1) x.low = 0#32)) :=
  ⟨meets_of (bench literal) literal 15#8 10#8 0#8 _ rfl rfl rfl (by decide),
   meets_of (bench (withPair 0x00400040#32 0x000B0020#32)) (withPair 0x00400040#32 0x000B0020#32) 15#8 10#8 1#8 _ rfl rfl rfl (by decide),
   meets_of (bench (withPair 16#32 0#32)) (withPair 16#32 0#32) 15#8 10#8 2#8 _ rfl rfl rfl (by decide)⟩

theorem wit_ShapeInstructions_shfield : ∀ b ∈ [9#8, 10#8, 11#8, 3#8, 4#8, 5#8, 13#8],
    Meets { d := .shape, a := .reg, b := .any, one := true, cycles := .one } 0xBB#8 (effect (fun _ _ _ b' _ _ => b' = b)) := by
  intro b hb
  refine meets_of (bench literal) literal 15#8 2#8 b _ rfl rfl rfl ?_
  revert b
  decide

theorem wit_ShapeInstructions_class : Meets { d := .shape, a := .reg, b := .any, one := true, cycles := .one } 0xBB#8
      (effect (fun _ _ _ _ x w => x.b = 0 ∧ (x.rd w .a x.low).toNat % 65536 < 3)) ∧
    Meets { d := .shape, a := .reg, b := .any, one := true, cycles := .one } 0xBB#8
      (effect (fun _ _ _ _ x w => x.b = 2 ∧ (x.rd w .a x.low).toNat % 65536 < 16)) ∧
    Meets { d := .reg, a := .shape, b := .any, dWrite := true, one := true, cycles := .one } 0xBC#8 (fun _ d _ b _ _ => d.toNat < 240 ∧ b.toNat ≤ 15) :=
  ⟨meets_of (bench (withPair 2#32 0#32)) (withPair 2#32 0#32) 15#8 10#8 0#8 _ rfl rfl rfl (by decide),
   meets_of (bench (withPair 15#32 0#32)) (withPair 15#32 0#32) 15#8 10#8 2#8 _ rfl rfl rfl (by decide),
   meets_of (bench literal) literal 239#8 15#8 15#8 _ rfl rfl rfl (by decide)⟩

/-- The operation of an LDSHAPE whose line of zeros has returned. -/
def shapeLoad : OutOp where
  id := 4
  gid := 1
  flag := 0
  handler := false
  lanes := 3#32
  kind := .load .shape (.virt 7#32) (global 2) 0 [{ addr := 65536, phys := 65536, slot := 2, bytes := some (List.replicate 128 0#8) }]
    [⟨0, 65536, 0, false, [], 0#64, 0#64⟩] none true

theorem wit_ShapeInstructions_ldshape : ∃ c x u, Issues { bench (memory control) with ops := [shapeLoad] } (memory control) c
      { d := .shape, a := .reg, b := .record, long := true, one := true, cycles := .one, mem := true, own := true, viaLvq := true } 0xB9#8 1#8 0#8 2#8 x u ∧
    x.dying = [] ∧ x.pushes = false ∧ x.g.ctl.leads = false ∧ u.ops.find? (fun o => o.gid == x.gid && o.loadsShape) = some shapeLoad ∧
    shapeFaults (BitVec.ofNat 512 (natOfBytes (laneBytes [{ addr := 65536, phys := 65536, slot := 2, bytes := some (List.replicate 128 0#8) }]
      ⟨0, 65536, 0, false, [], 0#64, 0#64⟩ 64).1)) = 0 :=
  ⟨⟨0#32, [0#32], [], 0⟩, _, _, ⟨rfl, rfl, rfl, fun _ => rfl, by decide, by decide, rfl, rfl, by decide, by decide⟩, by decide, by decide, rfl, by decide,
    by decide +kernel⟩

/-- The clauses of `GrantChoosesTheLargestMode`: a tile, a tile of less than a unit of K, a tile too small, vectors of 32, 16 and fewer lanes, and no class. -/
theorem wit_GrantChoosesTheLargestMode : [[(0, 1), (2, 3), (3, 64), (4, 64), (5, 32)], [(0, 1), (2, 3), (3, 64), (4, 64), (5, 31)], [(0, 1), (3, 1), (4, 64), (5, 64)],
      [(0, 2), (13, 32)], [(0, 2), (13, 31)], [(0, 2), (13, 15)], [(0, 3)]].map (fun fs => shapeGet (grantShape (shapeSets 0#512 fs) 0x1FF#9) 1)
    = [1, 2, 2, 1, 1, 2, 0] := by decide +kernel

/-- A shape register with the whole array granted in a format, and K of a unit. -/
def tileShape (fmt : Nat) : Word512 := grantShape (shapeSets 0#512 [(0, 1), (2, fmt), (3, 64), (4, 64), (5, 32)]) 0x1FF#9

/-- A group with shapes, records, and descriptors of records 0 and 1 in registers 12 to 15. -/
def engine : Group := { memory control with
  shapes := [(3, tileShape 3)]
  regs := [(384, 0x1000#32), (385, 0x1000#32), (416, 0#32), (417, 0#32), (448, 0x2000#32), (449, 0x2000#32), (480, 1#32), (481, 1#32)] }

/-- Its core, where it holds two operand-buffer records. -/
def engineBench : State := (bench engine).putCore 0 { obrecs := [⟨0, 0, 64, 3, 0, 0, 1⟩, ⟨1, 128, 64, 3, 0, 0, 1⟩] }

theorem wit_MatrixInstructions_mma : ∃ c x u, Issues engineBench engine c (matrixForm .pair .pair 0 true) 0xB0#8 0x30#8 12#8 14#8 x u ∧ x.dying = [] ∧
    x.pushes = false ∧ descMbz false (x.rdPair u .a x.low) = 0 ∧ descMbz false (x.rdPair u .b x.low) = 0 ∧ x.testShape u = none ∧
    x.testRecords u (descOf (x.rdPair u .a x.low)) (descOf (x.rdPair u .b x.low)) = none ∧ x.testTile u 3 3 = none ∧
    (u.core 0).obRec x.gid (descOf (x.rdPair u .a x.low)).ob = some ⟨0, 0, 64, 3, 0, 0, 1⟩ ∧
    (u.core 0).obRec x.gid (descOf (x.rdPair u .b x.low)).ob = some ⟨1, 128, 64, 3, 0, 0, 1⟩ ∧
    u.operandOut x.g (descOf (x.rdPair u .a x.low)) ⟨0, 0, 64, 3, 0, 0, 1⟩ (mmaRows x.g (tileShape 3) x.sMask) (stagedUnits (tileShape 3)) = none ∧
    u.operandOut x.g (descOf (x.rdPair u .b x.low)) ⟨1, 128, 64, 3, 0, 0, 1⟩ (mmaCols (tileShape 3)) (stagedUnits (tileShape 3)) = none ∧ u.q0Used x.g < 64 :=
  ⟨⟨0#32, [0#32], [], 0⟩, _, _, ⟨rfl, rfl, rfl, fun _ => rfl, by decide, by decide, rfl, rfl, by decide, by decide⟩, by decide, by decide, by decide, by decide,
    by decide +kernel, by decide +kernel, by decide +kernel, by decide, by decide, by decide +kernel, by decide +kernel, by decide⟩

theorem wit_MatrixInstructions_moves : ∀ store : Bool, ∃ c x u, Issues engineBench engine c (matrixForm .pair .record 0 true)
      (if store then 0xB2#8 else 0xB1#8) 0x30#8 2#8 2#8 x u ∧ x.dying = [] ∧ x.pushes = false ∧ x.testLost u (bufRec x.image) x.b = none ∧ x.testShape u = none ∧
    x.testTile u 3 3 = none ∧ u.q0Used x.g < 64 ∧ x.testMoves u (bufRec x.image) 4 (if store then .write else .read) (x.elements u (bufRec x.image) (tileShape 3) 0 0) = none ∧
    u.soiledElem (x.elements u (bufRec x.image) (tileShape 3) 0 0) (if store then .write else .read) = none := by
  intro store
  cases store
  · exact ⟨⟨0#32, [0#32], [], 0⟩, _, _, ⟨rfl, rfl, rfl, fun _ => rfl, by decide, by decide, rfl, rfl, by decide, by decide⟩, by decide, by decide, by decide,
      by decide +kernel, by decide, by decide, by decide +kernel, by decide +kernel⟩
  · exact ⟨⟨0#32, [0#32], [], 0⟩, _, _, ⟨rfl, rfl, rfl, fun _ => rfl, by decide, by decide, rfl, rfl, by decide, by decide⟩, by decide, by decide, by decide,
      by decide +kernel, by decide, by decide, by decide +kernel, by decide +kernel⟩

theorem wit_MatrixInstructions : Meets (matrixForm .unused .unused 0xF0 false) 0xB3#8
      (effect (fun _ _ _ _ x w => (x.testTile w 0 0).isNone = true ∧ w.q0Used x.g < 64)) ∧
    Meets { d := .reg, a := .pair, b := .unused, dWrite := true, one := true, cycles := .one, viaLvq := true } 0xB4#8
      (effect (fun _ _ _ _ x w => x.reg w x.a x.low &&& 0xF000F000#32 = 0#32 ∧ x.reg w (x.a + 1) x.low &&& 0x0000FFFF#32 = 0#32 ∧ x.g.ctl.leads = false)) ∧
    Meets { d := .unused, a := .reg, b := .unused, long := true, one := true, cycles := .one } 0xB5#8
      (effect (fun _ _ _ _ x w => (w.core x.g.core).obRec x.gid (x.rd w .a x.low).toNat = some ⟨1, 128, 64, 3, 0, 0, 1⟩)) ∧
    Meets { d := .unused, a := .reg, b := .unused, long := true, one := true, cycles := .one } 0xB5#8
      (effect (fun _ _ _ _ x w => (w.core x.g.core).obRec x.gid (x.rd w .a x.low).toNat = none)) ∧
    Meets { d := .acc 0xF8, a := .pair, b := .unused, priv := true, one := true, cycles := .one } 0xB6#8
      (effect (fun _ _ _ _ x w => x.reg w x.a x.low &&& 0xFFFFC0C0#32 = 0#32)) :=
  ⟨meets_of engineBench engine 0x0F#8 0#8 0#8 _ rfl rfl rfl (by decide),
   meets_of (bench (withPair 0x003F0000#32 0x30000000#32)) (withPair 0x003F0000#32 0x30000000#32) 5#8 10#8 0#8 _ rfl rfl rfl (by decide),
   meets_of engineBench engine 0#8 15#8 0#8 _ rfl rfl rfl (by decide), meets_of engineBench engine 0#8 12#8 0#8 _ rfl rfl rfl (by decide),
   meets_of (bench (selecting 0x3F3F#32 9#32)) (selecting 0x3F3F#32 9#32) 7#8 10#8 0#8 _ rfl rfl rfl (by decide)⟩

theorem wit_MatrixInstructions_stream : ∃ x : Ctx, (bench literal).group? x.gid = some literal ∧ x.g.core = literal.core :=
  ⟨(bench literal).ctxOf literal plainForm 0xB3 0 0 0, rfl, rfl⟩

/-- The bench with a lease pool of the group's installation. -/
def leaseBench (g : Group) : State := (bench g).onFab (fun f => { f with pools := [{ number := 1, handle := 7#32, dests := [1] }] })

theorem wit_LeaseInstructions : (∀ p ∈ [(leaseForm, 0x9C#8), (leaseForm, 0x9D#8),
      ({ d := .pair, a := .reg, b := .unused, dWrite := true, long := true, one := true }, 0x9E#8)], Meets p.1 p.2 (effect (fun _ _ _ _ x w =>
      w.lostStream x.g = none ∧ w.hasPool x.g.ctl.handle = true ∧ x.g.leaseOut + (x.g.queue 10).length < 64))) ∧
    Meets { d := .reg, a := .pair, b := .unused, dWrite := true, long := true, one := true, priv := true } 0x9F#8 (effect (fun _ _ _ _ x w =>
      x.reg w x.a x.low &&& 0xFFC0F0C0#32 = 0#32 ∧ x.reg w (x.a + 1) x.low &&& 0x300000FF#32 = 0#32)) := by
  refine ⟨?_, meets_of (bench (selecting 0x003F0F3F#32 0x80010000#32)) (selecting 0x003F0F3F#32 0x80010000#32) 20#8 10#8 0#8 _ rfl rfl rfl (by decide)⟩
  intro p hp
  refine meets_of (leaseBench literal) literal 0#8 2#8 0#8 _ rfl rfl rfl ?_
  simp only [List.mem_cons, List.not_mem_nil, or_false] at hp
  rcases hp with rfl | rfl | rfl <;> decide

/-! ### Witnesses: decoding and the step -/

theorem wit_DecodeAndEncodeAgree : encode (.iadd 3#8 1#8 2#8) = some 0x20030102#32 ∧ decodeWord 0x20030102#32 = .ok (.iadd 3#8 1#8 2#8) := ⟨rfl, rfl⟩

/-- The bench with the group's clause under way on rail 0, and a turn listed. -/
def turnBench (g : Group) (t : Turn) : State := { (bench g).onRail 0 0 (fun r => { r with clauseOf := some 1 }) with agenda := [t], cur := none }

theorem wit_StepRunsTheInstruction : (let s := turnBench (plain 0x20010203#32) (.issue 0 0)
      s.agenda = .issue 0 0 :: [] ∧ (s.rail 0 0).clauseOf = some (plain 0x20010203#32).gid ∧
      s.group? (plain 0x20010203#32).gid = some (plain 0x20010203#32) ∧ (plain 0x20010203#32).slotWord = some 0x20010203#32 ∧
      decodeWord 0x20010203#32 = .ok (.iadd 1#8 2#8 3#8)) ∧
    (turnBench literal (.issue 0 1)).agenda = .issue 0 1 :: [] ∧ ((turnBench literal (.issue 0 1)).rail 0 1).clauseOf = none ∧
    (turnBench literal (.event .frameTick 0 0 0)).agenda = .event .frameTick 0 0 0 :: [] ∧ encode .frameTick = none ∧ State.reset.agenda = [] :=
  ⟨⟨rfl, rfl, rfl, rfl, rfl⟩, rfl, rfl, rfl, rfl, rfl⟩

theorem wit_BadWordsTrap : ∀ w ∈ [(0xC0000000#32, DecodeError.futureOpcode), (0x1C000000#32, .reservedOpcode), (0xFF000000#32, .headerValue)],
    let s := turnBench (plain w.1) (.issue 0 0)
    s.agenda = .issue 0 0 :: [] ∧ (s.rail 0 0).clauseOf = some (plain w.1).gid ∧ s.group? (plain w.1).gid = some (plain w.1) ∧
      (plain w.1).slotWord = some w.1 ∧ decodeWord w.1 = .error w.2 ∧ CanEnter s (plain w.1) 0 := by
  intro w hw
  refine ⟨rfl, rfl, rfl, rfl, ?_, rfl, ⟨rfl, rfl⟩, ⟨rfl, rfl⟩, rfl, rfl, ?_⟩
  · simp only [List.mem_cons, List.not_mem_nil, or_false] at hw
    rcases hw with rfl | rfl | rfl <;> rfl
  · intro k hk _ _
    simp only [turnBench, bench, State.onRail, State.onCore, State.putCore, List.mem_singleton] at hk
    rw [hk]; rfl

/-! ### Witnesses: the package, its resets and its time -/

theorem wit_PowerAndThermal : State.reset.pkg.nextSupply = some .vaux ∧
    (∃ s : State, s.pkg.pllLocked = true ∧ 0 ∉ s.pkg.thermal ∧ s.pkg.supplies ≠ [] ∧ s.pkg.powerOffBy = none) ∧
    (∃ s : State, 7 ∈ s.pkg.thermal ∧ s.pkg.powerOffBy = none) ∧ ∃ (s : State) (r : ThermalRecord), s.pkg.thermalFlash = some r :=
  ⟨by decide, ⟨State.reset.onPkg (fun p => { p with pllLocked := true, supplies := [.vaux] }), by decide⟩,
   ⟨State.reset.onPkg (fun p => { p with thermal := [7] }), by decide⟩,
   ⟨State.reset.onPkg (fun p => { p with thermalFlash := some ⟨[], []⟩ }), _, rfl⟩⟩

/-- A package whose supplies are up and whose reset is released. -/
def powered : State := State.reset.onPkg (fun p => { p with rstAsserted := false, supplies := [.vaux, .vbase, .vhbm, .vcore, .vopt] })

theorem wit_BringUp : powered.pkg.heldInReset = false ∧ powered.pkg.rstAsserted = false ∧ powered.pkg.bringUp = .notRun := by decide

/-- A package whose clock runs. -/
def running : State := powered.onPkg (fun p => { p with pllLocked := true, bringUp := .done })

theorem wit_FrameTick : running.pkg.pllLocked = true ∧ running.pkg.powerOffBy = none ∧ running.turn.x = 0 := by decide

/-- A package that is up: tenant 1 is enabled on partition 0 of die 0 with bank 0, and its launch queue 0 holds a packet of a launch of two workgroups. -/
def hosted : State := { running with
  installs := [{ install with fn := 1 }]
  mem := { bootSwept := 2 ^ 19, keyLive := [0, 1], regionKey := [(1, 1)] }
  host := { State.reset.host with
    cxlUp := true
    vfsVisible := true
    ide := true
    parts := [(0, { cfg := 0xA0000100#32 })]
    fns := [(1, { vfctl := 0x80010000#32, queues := [(0, { base := 4096, tailAddr := 128, cfg := 0x80400000#32, tail := 1, held := true })] })]
    mem := Memory.writeBytes [] 4096 ([1, 0, 0, 0, 7, 0, 0, 0, 0, 0, 1, 0, 0, 0, 0, 0, 2, 0, 0, 0, 1, 0, 0, 0, 16] : List Byte) } }

/-- The registers of tenant 1, changed. -/
def withTenant (f : Fn → Fn) : State := hosted.onFn 1 f

/-- Its launch queue 0, changed. -/
def withQueue (f : LaunchQueue → LaunchQueue) : State := hosted.onLq 1 0 f

theorem wit_ResetsAndPartitions : ((bench literal).turn.x < 8 ∧ ((bench literal).groups.map (fun k => k.gid)).Nodup) ∧
    hosted.host.cxlUp = true ∧ hosted.pkg.bringUp = .done ∧ hosted.partcfgRejects 0 0xA0000300#32 = true ∧ hosted.partcfgRejects 7 0xA0000200#32 = false ∧
    (wbit 0x80000007#32 31 = true ∧ wbits 0x80000007#32 2 0 = 7 ∧ wbits 0x80000007#32 29 3 = 0) ∧
    ({ hosted with groups := [literal] } : State).crossing 0 7 = false ∧ dieOfCore literal.core = 0 ∧ literal.gstate ≠ .retired := by decide

/-! ### Witnesses: the host's side -/

theorem wit_LaunchQueueStops : (∃ s : State, (s.queueOf 1 0).enabled = true ∧ (s.queueOf 1 0).held = false ∧ (s.queueOf 1 0).err = false ∧
      (BitVec.ofNat 32 (natOfBytes (Memory.readBytes s.host.mem (s.queueOf 1 0).tailLine 4)) - (s.queueOf 1 0).head).toNat ≤ (s.queueOf 1 0).size) ∧
    (∃ s : State, (s.queueOf 1 0).enabled = true ∧ (s.queueOf 1 0).held = false ∧ (s.queueOf 1 0).err = false ∧
      (s.queueOf 1 0).size < (BitVec.ofNat 32 (natOfBytes (Memory.readBytes s.host.mem (s.queueOf 1 0).tailLine 4)) - (s.queueOf 1 0).head).toNat) ∧
    hosted.served 1 0 = true ∧ (∃ s : State, (s.queueOf 1 0).err = true ∧ s.lqOpen 1 0 = true ∧ (s.queueOf 1 0).enabled = true ∧
      4 ≤ wbits (s.queueOf 1 0).cfg 23 20 ∧ (s.queueOf 1 0).overrun = false) ∧
    (wbit 0xC0400000#32 31 = true ∧ wbit 0xC0400000#32 30 = true ∧ wbits 0xC0400000#32 29 24 = 0 ∧ wbits 0xC0400000#32 19 16 = 0 ∧ wbits 0xC0400000#32 7 0 = 0) :=
  ⟨⟨withQueue (fun l => { l with held := false }), by decide⟩, ⟨withQueue (fun l => { l with held := false, head := 0xFFFFFFEF#32 }), by decide⟩, by decide,
   ⟨withQueue (fun l => { l with cfg := 0xC0400000#32 }), by decide⟩, by decide⟩

theorem wit_Launches : (∃ s : State, s.lqOpen 1 7 = true ∧ (s.queueOf 1 7).enabled = false ∧ 4 ≤ wbits 0x80400000#32 23 20) ∧
    hosted.served 1 0 = true ∧ hosted.packetInst 1 none (hosted.hostPacket 1 0) = some { install with fn := 1 } ∧
    (hosted.hostPacket 1 0).fits { install with fn := 1 } = true ∧ install.lost = false ∧ hosted.inst? 7#32 = some { install with fn := 1 } ∧
    (∃ s : State, s.served 1 0 = true ∧ s.packetInst 1 none (s.hostPacket 1 0) = none ∧ (s.hostPacket 1 0).field 24 8 ≠ 0) ∧
    ∃ (s : State) (l : Launch), s.launch? s.turn.x = some l ∧ s.launchOver l = true ∧ l.pusher = none ∧ l.compAddr ≠ 0#64 :=
  ⟨⟨hosted, by decide⟩, by decide, by decide, by decide, rfl, rfl, ⟨{ hosted with installs := [] }, by decide⟩,
   ⟨{ State.reset with launches := [{ launch with retired := [0], compAddr := 16 }], turn := ⟨1, 0, 0⟩ }, { launch with retired := [0], compAddr := 16 }, by decide⟩⟩

theorem wit_Tenants : hosted.vfctlOpen 1 = true ∧
    (∃ s : State, s.vfctlOpen 1 = true ∧ (s.fn 1).enabled = false ∧ s.host.ide = false) ∧
    (∃ s : State, s.vfctlOpen 1 = true ∧ (s.fn 1).enabled = false ∧ s.host.ide = true ∧ s.vfctlRejects 1 0x80000001#32 = true ∧
      s.vfctlRejects 1 0x80010000#32 = false) ∧
    ((hosted.fn 1).enabled = true ∧ hosted.host.ide = true ∧ hosted.vfctlRejects 1 0x80018000#32 = false ∧ (hosted.fn 1).gate = false) ∧
    (∃ s : State, s.vfctlOpen 1 = true ∧ (s.fn 1).enabled = true ∧ s.host.ide = true ∧ (s.fn 1).gate = true ∧ s.vfctlRejects 1 0x80010000#32 = false ∧
      s.vfctlRejects 1 0x80008000#32 = false ∧ (s.fn 1).banks ≠ 0) ∧
    (∃ s : State, s.vfctlOpen 1 = true ∧ (s.fn 1).enabled = true ∧ s.host.ide = true ∧ (s.fn 1).banks = 0 ∧ s.vfctlRejects 1 0x80FF0000#32 = false) ∧
    hosted.vfctlRejects 1 0#32 = false ∧
    ∃ s : State, s.vfctlOpen 1 = true ∧ s.turn.x = 1 ∧ (s.fn 1).leaving ≠ 0 ∧ s.cores = [] :=
  ⟨by decide +kernel, ⟨{ hosted with host := { hosted.host with ide := false, fns := [] } }, by decide +kernel⟩, ⟨{ hosted with host := { hosted.host with fns := [] } }, by decide +kernel⟩,
   by decide +kernel, ⟨withTenant (fun f => { f with vfctl := 0x80018000#32 }), by decide +kernel⟩, ⟨withTenant (fun f => { f with vfctl := 0x80000000#32 }), by decide +kernel⟩,
   by decide +kernel, ⟨{ withTenant (fun f => { f with leaving := 1 }) with turn := ⟨1, 0, 0⟩ }, by decide +kernel⟩⟩

/-- The package with the line at 2 MiB poisoned, named by LFADDR, and LFDATA filled. -/
def filling : State := { hosted with
  mem := { hosted.mem with regionKey := [(1, 257)], poison := [0x200000], toScrub := [2], unscrubbed := pagesOfRegion 2 }
  host := { hosted.host with lfAddr := 0x200000, lfData := List.replicate 128 1#8 } }

theorem wit_DeviceMemory : hosted.host.cxlUp = true ∧ hosted.bindStatus 3 1 = 0 ∧ hosted.bindStatus 3 511 ≠ 0 ∧ wbit 0x0000000000601008#64 3 = true ∧
    wbits 0x0000000000601008#64 11 4 = 0 ∧ wbits 0x0000000000601008#64 63 21 = 3 ∧ wbits 0x0000000000601008#64 20 12 = 1 ∧
    filling.pkg.scrubs = true ∧ filling.mem.toScrub = [2] ∧ Config.physBytes - 1 < Config.physBytes ∧ filling.linefillStatus = 0 ∧
    filling.host.lfData.length = 128 ∧ hosted.linefillStatus ≠ 0 ∧ wbit 0x80000000#32 31 = true ∧ wbits 0x80000000#32 27 0 = 0 ∧ wbits 0x000FFFFF#32 31 20 = 0 := by
  decide +kernel

/-! ### Witnesses: the dump, the device's identity -/

theorem wit_DumpAndHostAccesses : (hosted.pkg.pllLocked = true ∧ hosted.host.dumpValid = false) ∧
    (∃ s : State, s.pkg.pllLocked = true ∧ s.host.dumpValid = true) ∧
    (∃ s : State, s.barOpen 1 = true ∧ s.dumpShown 1 = true) ∧
    (hosted.host.cxlUp = true ∧ wbit 2#32 0 = false ∧ wbits 1#32 31 2 = 0 ∧ wbit 1#32 0 = true ∧ wbits 3#32 31 2 = 0) ∧
    (∃ s : State, s.barOpen 1 = true ∧ (s.fn 1).bar2Phys 0 = some 0x200000 ∧ (s.fn 1).bar2Phys 1 = some 0x200001 ∧ s.mem.clean 0x200000 = true ∧
      s.mem.clean 0x200001 = true) ∧
    (hosted.host.cxlUp = true ∧ hosted.host.ide = true ∧ hosted.mem.clean 0 = true ∧ hosted.mem.clean 0x200000 = true ∧
      hosted.mem.keyOf 0 = 0 ∧ hosted.mem.keyOf 0x200000 ≠ 0) ∧
    (hosted.barOpen 0 = true ∧ regAt 0 0 = none ∧ hosted.barOpen 1 = true ∧ regAt 1 0x400 = none) ∧
    (regAt 0 0x100100 = some ⟨.rescsel, 4, 0⟩ ∧ regAt 0 0x10108 = some ⟨.chlbase 1, 8, 0⟩ ∧ regAt 1 0 = some ⟨.lqbase 1 0, 8, 0⟩ ∧
      (hosted.queueOf 1 0).enabled = true ∧ regAt 1 0x10 = some ⟨.lqhead 1 0, 4, 0⟩ ∧ regAt 0 0x2140 = some ⟨.fwdrop 0, 8, 0⟩ ∧
      regAt 0 0x100004 = some ⟨.l2cdata, 4, 0⟩) :=
  ⟨by decide, ⟨{ hosted with host := { hosted.host with dumpValid := true } }, by decide⟩,
   ⟨withTenant (fun f => { f with dumpMap := 0x80000001#32 }) |>.onHost (fun h => { h with dumpValid := true }), by decide⟩, by decide,
   ⟨withTenant (fun f => { f with pool := [1], apLen := [(0, 1#32)] }), by decide +kernel⟩, by decide +kernel, by decide +kernel, by decide +kernel⟩

/-- The package with the mailbox of a function in a state of its own. -/
def mailbox (f : HostSide → HostSide) : State := hosted.onHost f

theorem wit_DeviceTrust : hosted.doeOpen 0 = true ∧ hosted.doeOpen 256 = true ∧ 0x85 ∉ [0x84, 0xE1, 0xE3, 0x81, 0x82, 0x83, 0xE0, 0xE4, 0xE5, 0xE9, 0xEC] ∧
    hosted.host.xmssNext < 2 ^ 20 ∧ (∃ s : State, s.doeOpen 1 = true ∧ 2 ^ 20 ≤ s.host.xmssNext) ∧
    (∃ s : State, s.doeOpen 1 = true ∧ 1 ∈ s.host.handshakes) ∧ 1 ∉ hosted.host.handshakes ∧ (∃ s : State, s.doeOpen 1 = true ∧ 1 ∈ s.host.sessions) ∧
    1 ∉ hosted.host.sessions ∧ (∃ s : State, s.doeOpen 1 = true ∧ s.host.cxlUp = true ∧ s.host.ideKeys = true) ∧ hosted.host.ideKeys = false :=
  ⟨by decide, by decide, by decide, by decide, ⟨mailbox (fun h => { h with xmssNext := 2 ^ 20 }), by decide⟩,
   ⟨mailbox (fun h => { h with handshakes := [1] }), by decide⟩, by decide, ⟨mailbox (fun h => { h with sessions := [1] }), by decide⟩, by decide,
   ⟨mailbox (fun h => { h with ideKeys := true }), by decide⟩, by decide⟩

/-! ### Witnesses: installations -/

/-- The bytes of an image of one kernel of one group (12 R330 to R339): its header, its section table, four words of code, its manifest
and its version note. -/
def imageBytes : List Byte :=
  [0x50, 0x4E, 0x48, 0x1A, 1, 0, 2, 0, 3, 0, 0, 0, 0, 0, 0, 0, 64, 0, 0, 0, 0, 0, 0, 0, 20, 1, 0, 0, 0, 0, 0, 0] ++ List.replicate 32 0#8 ++
  ([1, 0, 5, 0, 0, 0, 0, 0, 160, 0, 0, 0, 0, 0, 0, 0, 16, 0, 0, 0, 0, 0, 0, 0, 0, 0, 0, 0, 0, 0, 0, 0] ++
   [2, 0, 0, 0, 0, 0, 0, 0, 176, 0, 0, 0, 0, 0, 0, 0, 80, 0, 0, 0, 0, 0, 0, 0, 0, 0, 0, 0, 0, 0, 0, 0] ++
   [6, 0, 0, 0, 0, 0, 0, 0, 0, 1, 0, 0, 0, 0, 0, 0, 20, 0, 0, 0, 0, 0, 0, 0, 0, 0, 0, 0, 0, 0, 0, 0]) ++
  [0, 0, 0, 0x40, 0, 0, 0, 0, 0, 0, 0, 0, 0, 0, 0, 0] ++
  ([1, 0, 1, 0, 0, 0, 0, 0, 0, 0, 0, 0, 0, 0, 0, 0] ++
   [0, 0, 0, 0, 0xFF, 0xFF, 0xFF, 0xFF, 0, 0, 0, 0, 1, 0, 16, 0, 1, 0, 0, 0, 0, 0, 0, 0] ++ List.replicate 40 0#8) ++
  [1, 0, 16, 0, 1, 0, 0, 0, 0, 0, 0, 0, 0, 0, 0, 0, 0, 0, 0, 0]

/-- The image as Garnet reads it. -/
def image : Image := ⟨imageBytes, [⟨1, 5, 160, 16, 0⟩, ⟨2, 0, 176, 80, 0⟩, ⟨6, 0, 256, 20, 0⟩]⟩

/-- The program hash of its 276 bytes: 32 bytes of SHAKE256, the first byte lowest (12 R332), computed outside the model. -/
def imageHash : Word256 := 0xd6e444819760efdb14586311c132357388984515b86930096bc2103cb95f3bee#256

theorem test_hash : image.hash = imageHash := by decide +kernel

/-- The cells of a run of bytes. -/
def cells (a : Nat) (bs : List Byte) : List Host.Cell := (bs.zipIdx.filter (fun p => p.1 != 0#8)).map (fun p => (a + p.2, p.1))

/-- The package with that image in the memory of tenant 1, and with its hash at the head of the list of code hashes. -/
def installing : State := { (withTenant (fun f => { f with pool := [1], instLen := 4096, chlBase := 0x400000, chlCount := 1 })) with
  installs := []
  mem := { hosted.mem with bytes := cells 0x200000 imageBytes ++ cells 0x400000 (bytesOfNat 32 imageHash.toNat) } }

/-- The state in which Garnet takes its image. -/
def taking (s : State) : State := (s.tick.onFn 1 (fun f => f.instFields 0x40000000#32)).awaitImage 1

theorem test_image : readImage imageBytes 4096 = some image := by decide +kernel

theorem test_imageOf : (taking installing).imageOf 1 = some image := by decide +kernel

theorem test_listed : (taking installing).hashListed 1 image.hash = true := by rw [test_hash]; decide +kernel

/-- The image's one kernel. -/
def imageKernel : KernelSpec := ⟨kernelRecAt ((imageBytes.drop 176).take 80) 16, [], [], []⟩

theorem test_manifest : ∀ held, held = [] → image.manifest ((taking installing).part ((taking installing).fn 1).part).channels held = .ok ⟨[imageKernel], []⟩ := by
  intro held h
  rw [h]
  rfl

theorem fillBytes_inst (h k : Word) (bs : List Byte) (s : State) (va : Nat) : (s.fillBytes h va bs).inst? k = s.inst? k := by
  induction bs generalizing s va with
  | nil => rfl
  | cons b bs ih =>
    rw [State.fillBytes, ih]
    split <;> rfl

/-- A page for the code, and the image's sections are in place. -/
theorem pins (s : State) (i : Installation) (hi : s.inst? i.handle = some i) (hp : i.pages = []) (hf : (s.fn i.fn).freePages.isEmpty = false) :
    ∃ t j, s.pinAll i image ⟨[imageKernel], []⟩ = ⟨t, none⟩ ∧ t.inst? i.handle = some j ∧ j.kernels = i.kernels := by
  have hpage : s.page? i.handle 0 = none := by simp [State.page?, hi, Installation.page?, hp]
  have hpick : ∃ p, s.pick (s.fn i.fn).freePages = some p := by simp [State.pick, hf]
  obtain ⟨p, hpick⟩ := hpick
  have e1 : pageCount 16 = 1 := rfl
  simp only [State.pinAll, image, List.foldl_cons, List.foldl_nil, Admission.andThen, State.mapSection, Section.mapped, imageKernel, List.zipIdx_cons, List.zipIdx_nil, e1,
    State.mapRange, hpage, hpick, Option.isSome_none]
  simp
  simp only [fillBytes_inst, State.addPage]
  have hi' : ((s.tick.takePages i.fn [p]).onMem (fun m => m.scrub (p / 32))).inst? i.handle = some i := hi
  rw [State.inst?_onInst _ hi' rfl]
  exact ⟨_, rfl, rfl⟩

/-- The rest of the admission of an installation of such a kernel finds nothing to refuse. -/
theorem slots (s : State) (h : Word) (j : Installation) (hj : s.inst? h = some j) (hk : j.kernels = [⟨imageKernel.record, [], [], [], [⟨0, 0, 0, 0⟩], 0⟩]) :
    (s.admitSlots h ⟨[imageKernel], []⟩).refused = none := by
  have hw : s.wants j = [] := by rw [State.wants, hk]; rfl
  have ho : ∀ n, j.objects n = 0 ∨ 5 ≤ n := by
    intro n
    rcases Nat.lt_or_ge n 5 with e | e
    · left; rw [Installation.objects, hk]
      have : n = 0 ∨ n = 1 ∨ n = 2 ∨ n = 3 ∨ n = 4 := by omega
      rcases this with rfl | rfl | rfl | rfl | rfl <;> rfl
    · exact Or.inr e
  have o2 : j.objects 2 = 0 := (ho 2).resolve_right (by decide)
  have o3 : j.objects 3 = 0 := (ho 3).resolve_right (by decide)
  have o4 : j.objects 4 = 0 := (ho 4).resolve_right (by decide)
  simp only [State.admitSlots, hj, hw, placeWants, imageKernel, List.zipIdx_cons, List.zipIdx_nil, List.flatMap_cons, List.flatMap_nil, List.map_nil,
    List.append_nil, State.placeFabs, State.placeObjects, o2, o3, o4, Nat.lt_irrefl, false_and, if_false]

theorem test_admission : ((taking installing).admission 1 image).refused = none := by
  have h1 := test_listed
  have h2 := test_manifest _ (rfl : ((taking installing).fab.imports.filter (fun e => e.2.valid)).map (fun e => e.1) = [])
  have h3 : placeAll (taking installing).placedKernels (if ((taking installing).part ((taking installing).fn 1).part).valid then ((taking installing).part ((taking installing).fn 1).part).dies else []) 0
     [imageKernel.record] = .ok [[⟨0, 0, 0, 0⟩]] := by rfl
  have hf : ((taking installing).fn 1).freePages.isEmpty = false := by decide +kernel
  have hp : Sparse.get ([], []) (taking installing).fab.pending 1 = ([], []) := rfl
  have hz : (taking installing).installs = [] := rfl
  simp only [State.admission, h1, h2, h3, hp, hz, Bool.not_true, Bool.false_eq_true, if_false, List.map_cons, List.map_nil, List.nil_append, List.zip_cons_cons,
    List.zip_nil_right, BEq.rfl, Bool.not_true, Bool.or_false]
  generalize hh : (taking installing).garnet.nextHandle = h
  generalize hs : ({ (taking installing) with installs := _ } : State) = s
  generalize hi : Installation.mk _ _ _ _ _ _ _ _ _ _ _ _ _ _ _ _ _ _ _ _ _ _ _ _ _ = i
  have e1 : i.handle = h := by rw [← hi]
  have e2 : s.inst? i.handle = some i := by rw [← hs, e1]; simp only [State.inst?, hi, List.find?_cons, e1, BEq.rfl]
  have e3 : (s.fn i.fn).freePages.isEmpty = false := by rw [← hs, ← hi]; generalize taking installing = u at hf ⊢; exact hf
  obtain ⟨t, j, q, r, k⟩ := pins s i e2 (by rw [← hi]) e3
  have e4 : j.kernels = [⟨imageKernel.record, [], [], [], [⟨0, 0, 0, 0⟩], 0⟩] := by rw [k, ← hi]; rfl
  have hfab : (Manifest.mk [imageKernel] []).fabric = false := rfl
  have e5 := slots t h j (by rw [← e1]; exact r) e4
  simp only [q, Admission.andThen, hfab, Bool.not_false, if_true, e5]

/-- The package with the installation of handle 7 on its way out. -/
def removing : State := { hosted with installs := [{ install with fn := 1, removing := true }] }

/-- The package with the image, whose tenant is in a partition of no die. -/
def unplaced : State := { installing with host := { installing.host with parts := [] } }

theorem test_unplaced : (taking unplaced).hashListed 1 image.hash = true := by rw [test_hash]; decide +kernel

theorem refused_unplaced : ((taking unplaced).admission 1 image).refused ≠ none := by
  have h1 := test_unplaced
  have h2 : image.manifest ((taking unplaced).part ((taking unplaced).fn 1).part).channels
    (((taking unplaced).fab.imports.filter (fun e => e.2.valid)).map (fun e => e.1)) = .ok ⟨[imageKernel], []⟩ := rfl
  have h3 : placeAll (taking unplaced).placedKernels (if ((taking unplaced).part ((taking unplaced).fn 1).part).valid then
      ((taking unplaced).part ((taking unplaced).fn 1).part).dies else []) 0 [imageKernel.record] =
      .error { code := resCode 8 0 0 0, demand := imageKernel.record.claims 0, kernel := 0 } := rfl
  simp only [State.admission, h1, h2, h3, Bool.not_true, Bool.false_eq_true, if_false, List.map_cons, List.map_nil]
  exact Option.some_ne_none _

theorem wit_Installations :
    (hosted.barOpen 1 = true ∧ wbits 0x40000001#32 31 30 = 1 ∧ (hosted.fn 1).instRejects 0x40000001#32 = true ∧ wbits 0x80000001#32 31 30 = 2 ∧
      (hosted.fn 1).instRejects 0x80000001#32 = true) ∧
    (wbits 0x40000000#32 31 30 = 1 ∧ (hosted.fn 1).instRejects 0x40000000#32 = false ∧ (taking hosted).imageOf 1 = none) ∧
    (installing.barOpen 1 = true ∧ (installing.fn 1).instRejects 0x40000000#32 = false ∧ (taking installing).imageOf 1 = some image ∧
      ((taking installing).admission 1 image).refused = none) ∧
    (∃ s : State, s.barOpen 1 = true ∧ (s.fn 1).instRejects 0x40000000#32 = false ∧ (taking s).imageOf 1 = some image ∧ (taking s).hashListed 1 image.hash = false) ∧
    (∃ s : State, s.barOpen 1 = true ∧ (s.fn 1).instRejects 0x40000000#32 = false ∧ (taking s).imageOf 1 = some image ∧ (taking s).hashListed 1 image.hash = true ∧
      ((taking s).admission 1 image).refused ≠ none) ∧
    (∃ s : State, s.barOpen 1 = true ∧ wbits 0x80000000#32 31 30 = 2 ∧ (s.fn 1).instRejects 0x80000000#32 = false ∧
      s.inst? (s.fn 1).instHandle = some { install with fn := 1 }) ∧
    hosted.inst? (hosted.fn 1).instHandle = none ∧
    (removing.inst? 7#32 = some { install with fn := 1, removing := true } ∧ removing.quiet 7#32 = true ∧
      ({ removing with launches := [launch] } : State).quiet 7#32 = false) ∧
    ((hosted.installs.map (fun i => i.handle)).Nodup ∧ (∀ i ∈ hosted.installs, 0 ∉ i.withdrawing)) :=
  ⟨by decide, by decide, ⟨by decide, by decide, test_imageOf, test_admission⟩,
   ⟨withTenant (fun f => { f with pool := [1], instLen := 4096 }) |>.onMem (fun m => { m with bytes := cells 0x200000 imageBytes }),
     by decide, by decide, by decide +kernel, by decide⟩,
   ⟨unplaced, by decide, by decide, by decide +kernel, test_unplaced, refused_unplaced⟩,
   ⟨withTenant (fun f => { f with instHandle := 7#32 }), by decide⟩, by decide, by decide, by decide⟩

/-! ### Witnesses: reserved slots and far ways -/

/-- An instance that reads for slot 2 of kernel 0 from core 0, with slot 5 of its anchor. -/
def reader (waiting : List (Nat × Nat)) : Inst := ⟨0, 2, 0, false, 0, 2 ^ 27, [5], waiting, 0, 0, 0, 0, false⟩

/-- The installation of such instances. -/
def withInsts (ns : List Inst) : Installation := { install with insts := ns }

/-- A load on its way, of the line at 64 KiB. -/
def lineLoad : OutOp := { id := 4, gid := 1, flag := 0, handler := false, lanes := 1, kind := .load (.reg 4 false 1) (.virt 7#32) 0 0 [{ addr := 65536, phys := 0, slot := 2, left := false, served := false }] [] none false }

/-- A store on its way. -/
def laneStore : Commit := ⟨5, 1, 0, 0, .virt 7#32, 65536, 0, 0, 0, true, 0, none, true, 0, 2, false, false⟩

/-- A state in which a slot of such an instance comes round, or in which a request may leave. -/
def slotBench (ns : List Inst) (t : Subject) : State := { bench literal with installs := [withInsts ns], ops := [lineLoad], commits := [laneStore], turn := t }

theorem wit_ReservedSlotsAndFarWays :
    (∀ ws ∈ [[], [(4, 65536)], [(5, 65536)]], let s := slotBench [reader ws] ⟨2 ^ 27, 5, 0⟩
      let mine (n : Inst) : Bool := n.anchor == s.turn.x && n.slots.contains s.turn.y && !n.lost
      s.installs.find? (fun i => decide (i.effective ≤ s.pkg.frame) && i.insts.any mine) = some (withInsts [reader ws]) ∧
      s.inst? (withInsts [reader ws]).handle = some (withInsts [reader ws]) ∧ (withInsts [reader ws]).insts.find? mine = some (reader ws)) ∧
    ((slotBench [] ⟨2 ^ 27, 5, 0⟩).op? 4 = some lineLoad ∧ (slotBench [] ⟨2 ^ 27, 5, 0⟩).op? 5 = none ∧
      Sparse.get 0#32 (slotBench [] ⟨2 ^ 27, 5, 0⟩).garnet.held (512 * 2 ^ 27 + 5) = 0#32) ∧
    (∀ ns ∈ [[reader []], []], let s := slotBench ns ⟨4, 65536, 0⟩
      ∃ l, s.op? s.turn.x = some lineLoad ∧ lineLoad.line? s.turn.y = some (.virt 7#32, l) ∧ s.group? lineLoad.gid = some literal ∧ l.left = false ∧
        s.inst? literal.ctl.handle = some (withInsts ns) ∧ s.servable literal l.slot false (.virt 7#32) l.phys = !ns.isEmpty) ∧
    (∀ ns ∈ [[{ reader [] with write := true }], []], let s := slotBench ns ⟨5, 0, 0⟩
      s.op? s.turn.x = none ∧ s.commits.find? (fun c => c.id == s.turn.x) = some laneStore ∧ s.group? laneStore.gid = some literal ∧ laneStore.left = false ∧
        laneStore.accepted = true ∧ s.inst? literal.ctl.handle = some (withInsts ns) ∧
        s.servable literal laneStore.slot true laneStore.space laneStore.phys = !ns.isEmpty) ∧
    (∀ n ∈ (withInsts [reader []]).insts, (withInsts [reader []]).touches n (2 ^ 27 * 2) = false) ∧
    (8 ≤ 8 ∧ wbits 0x10#32 31 4 ≠ 0 ∧ 7 < 8 ∧ wbits 0xF#32 31 4 = 0) := by
  refine ⟨?_, by decide +kernel, ?_, ?_, by decide +kernel, by decide⟩
  · decide +kernel
  · intro ns h
    refine ⟨{ addr := 65536, phys := 0, slot := 2, left := false, served := false }, ?_⟩
    simp only [List.mem_cons, List.not_mem_nil, or_false] at h
    rcases h with rfl | rfl <;> decide +kernel
  · decide +kernel

/-! ### Witnesses: the fabric's channels -/

/-- A flit of this package. -/
def flit (addr : Word64) (kind : FlitKind) : Flit := ⟨0, addr, true, kind, 3#32, BitVec.allOnes 128, List.replicate 128 1#8, 9⟩

/-- A machine with one channel, that of laser 2 of port 1, in pool 1, which may lease to package 1. -/
def channelBench (c : Channel) : State := { (bench literal).onFab (fun f => { f with
    channels := [(18, c)], pools := [{ number := 1, handle := 7#32, dests := [1] }], present := [0, 1] }) with turn := ⟨1, 2, 0⟩ }

/-- That machine, with a lease request of the group one frame ago. -/
def requestBench (r : LeaseReq) (i : Installation) (starved : List Nat) : State :=
  { (channelBench { pool := 1 }).onFab (fun f => { f with requests := [r], pools := [{ number := 1, handle := 7#32, dests := [1], starved := starved }] }) with
    pkg := { State.reset.pkg with frame := 1 }, installs := [i] }

theorem wit_FabricChannels :
    (∀ c ∈ [Channel.mk 1 .tuning 1 0 [], ⟨1, .tuning, 1, 3, []⟩, ⟨1, .draining, 1, 0, []⟩, ⟨1, .draining, 1, 0, [(1, flit 0x10000000000000#64 .sendLine)]⟩,
        ⟨1, .revoked, 1, 0, []⟩],
      (channelBench c).fab.chan? (chanOf (channelBench c).turn.x (channelBench c).turn.y) = some c ∧ (channelBench c).turn.x < 36 ∧
      (channelBench c).turn.y < 16 ∧ chanOf (channelBench c).turn.x (channelBench c).turn.y / 16 = (channelBench c).turn.x) ∧
    (∃ s : State, s.fab.turnDest (chanOf s.turn.x s.turn.y) (turnAt s.fab.rotcfg s.pkg.frame) = some 1 ∧ guardAt s.fab.rotcfg s.pkg.frame = true ∧
      ∃ c, s.fab.chan? (chanOf s.turn.x s.turn.y) = some c ∧ c.dest ≠ 1) ∧
    (∀ kind ∈ [LeaseKind.lease, .unlease], ∀ i ∈ [install, { install with streamLost := true }], ∀ starved ∈ [[], [1]], ∀ count ∈ [0, 1, 18, 19],
      let r : LeaseReq := ⟨kind, 1, 0, 7#32, 1#32, BitVec.ofNat 32 count, 0, 0⟩
      let s := requestBench r i starved
      s.fab.requests = [r] ∧ r.frame < s.pkg.frame ∧ s.group? r.gid = some literal ∧ literal.gstate ≠ .retired ∧
        s.fab.pool? r.handle = some { number := 1, handle := 7#32, dests := [1], starved := starved } ∧ s.inst? r.handle = some i ∧
        (decide (4096 ≤ r.dest.toNat) || !s.fab.leasable { number := 1, handle := 7#32, dests := [1], starved := starved } r.dest.toNat ||
          decide (r.count.toNat = 0) || decide (18 < r.count.toNat)) = (count == 0 || count == 19)) ∧
    (rotValid 0xFC191000#32 = true ∧ rotValid 0xFC190000#32 = false ∧ rotValid 0xFC011000#32 = false) ∧
    (∃ s : State, s.fab.rotNext = some 0xFC191000#32 ∧ s.pkg.frame % (rotTurns 0xFC191000#32 * rotLength 0xFC191000#32) = 0) ∧
    (∃ s : State, s.fab.rotNext = some 0xFC191000#32 ∧ s.pkg.frame % (rotTurns 0xFC191000#32 * rotLength 0xFC191000#32) ≠ 0) ∧
    (∀ i ∈ (channelBench { pool := 1 }).installs, ∀ st ∈ i.streams, chanOf st.port st.laser ∉ (channelBench { pool := 1 }).fab.revoked) ∧
    ((channelBench { pool := 1 }).inst? 8#32 = none ∧ (channelBench { pool := 1 }).inst? 7#32 = some install ∧
      (channelBench { pool := 1 }).fab.pool? 7#32 = some { number := 1, handle := 7#32, dests := [1] } ∧
      ((channelBench { pool := 1 }).fab.channels.map (fun e => e.1)).Nodup ∧ (channelBench { pool := 1 }).fab.poolable 19 = true ∧
      (channelBench { pool := 1 }).fab.chan? 19 = none ∧ (channelBench { pool := 2 }).fab.chan? 18 = some { pool := 2 }) ∧
    (∃ (s : State) (i : Installation), s.inst? 7#32 = some i ∧ s.eventGroup 7#32 = some literal ∧ s.group? literal.gid = some literal ∧ i.events = [1#32]) := by
  refine ⟨by decide +kernel, ⟨(channelBench ⟨1, .slotted, 0, 0, []⟩).onFab (fun f => { f with slots := [(slotOf 18 0, 0x80010100#32)] }), by decide +kernel, by decide +kernel, ⟨1, .slotted, 0, 0, []⟩, by decide +kernel⟩,
    by decide +kernel, by decide, ⟨State.reset.onFab (fun f => { f with rotNext := some 0xFC191000#32 }), by decide⟩,
    ⟨(requestBench ⟨.lease, 1, 0, 7#32, 1#32, 1#32, 0, 0⟩ install []).onFab (fun f => { f with rotNext := some 0xFC191000#32 }), by decide⟩, by decide +kernel, by decide +kernel,
    ⟨{ bench literal with installs := [{ install with events := [1#32] }] }, { install with events := [1#32] }, by decide +kernel⟩⟩

/-! ### Witnesses: flits and control frames -/

/-- The machine at a position of the pod, with an import window 0 of the installation whose key is 3, that lets lines be sent, stored and read. -/
def podBench (column : Nat) (t : Subject) : State := { (bench literal).onFab (fun f => { f with
    column := column, present := [0, 1, 64], imports := [(0, { handle := 7#32, length := 65536, valid := true, perm := 7, key := 3#32, base := 65536 })] }) with turn := t }

/-- That machine, whose memory is not scrubbed yet. -/
def unswept (t : Subject) : State := { podBench 0 t with mem := {} }

/-- A port of it that holds flits. -/
def buffered (s : State) (port : Nat) (p : Port) : State := s.onFab (fun f => { f with ports := [(port, p)] })

theorem wit_FlitsAndControlFrames :
    ((podBench 0 ⟨35, 0, 0⟩).turn.x < 36 ∧
      (let s := podBench 1 ⟨0, 0, 0⟩;
        s.fab.packageAt 0 0 ≠ s.fab.self ∧ s.fab.packageAt 0 0 = 0 ∧ s.fab.joined = false ∧ s.fab.packageAt 17 63 ≠ s.fab.self ∧ s.fab.packageAt 17 63 ≠ 0 ∧
          (s.fab.port 0).failed = false ∧ (s.fab.port 17).failed = false)) ∧
    (let s := podBench 0 ⟨0, 0, 0⟩;
      (s.fab.port 2).failed = false ∧ s.fab.closed = false ∧ targetOf (flit 0x0400000000000000#64 .store).addr.toNat ≠ s.fab.self ∧
        s.fab.reaches 18 (targetOf (flit 0x0400000000000000#64 .store).addr.toNat) = true ∧ targetOf (flit 0#64 .store).addr.toNat = s.fab.self ∧
        (podBench 0 ⟨1, 0, 0⟩).turn.x ≠ 0 ∧ ((unswept ⟨0, 0, 0⟩).tick.land 2 (flit 0#64 .store)).isNone = true ∧ (unswept ⟨0, 0, 0⟩).turn.x = 0 ∧
        s.fab.importOf { flit 0#64 .store with key := 4#32 } = .error { handle := 7#32, length := 65536, valid := true, perm := 7, key := 3#32, base := 65536 } ∧
        (∀ kind ∈ [FlitKind.sendLine, .store, .load, .atomic .add 4 0 1#64 0#64],
          s.fab.importOf (flit 0x100#64 kind) = .ok { handle := 7#32, length := 65536, valid := true, perm := 7, key := 3#32, base := 65536 }) ∧
        s.page? 7#32 65792 = some (page 65536 65536 true true false) ∧ s.owners (.virt 7#32) 65792 65920 = [] ∧
        s.mem.clean ((page 65536 65536 true true false).phys 65792) = true) ∧
    ((let s := podBench 0 ⟨2, 0, 0⟩;
      (s.fab.port s.turn.x).ingress.findIdx? (fun f => (s.tick.land s.turn.x f).isSome) = none) ∧
      (let s := buffered (podBench 0 ⟨2, 0, 0⟩) 2 { ingress := [flit 0x100#64 .store] };
      (s.fab.port s.turn.x).ingress.findIdx? (fun f => (s.tick.land s.turn.x f).isSome) = some 0 ∧
        (s.fab.port s.turn.x).ingress[0]? = some (flit 0x100#64 .store) ∧ (s.tick.land s.turn.x (flit 0x100#64 .store)).isSome = true) ∧
      (let s := buffered (podBench 0 ⟨18, 0, 0⟩) 18 { relay := [flit 0x0400000000000000#64 .store] };
      s.turn.x < 36 ∧ flit 0x0400000000000000#64 .store ∈ (s.fab.port s.turn.x).relay ∧ 0 < s.fab.relayLasers s.turn.x ∧ (s.fab.port s.turn.x).failed = false ∧
        s.fab.closed = false ∧ s.fab.paused s.turn.x (targetOf (flit 0x0400000000000000#64 .store).addr.toNat) = false)) := by
  refine ⟨by decide +kernel, ?_, by decide +kernel⟩
  refine ⟨by decide, by decide, by decide +kernel, by decide +kernel, by decide +kernel, by decide +kernel, by decide +kernel, by decide, rfl, ?_, by decide +kernel, by decide +kernel, by decide +kernel⟩
  intro kind h
  simp only [List.mem_cons, List.not_mem_nil, or_false] at h
  rcases h with rfl | rfl | rfl | rfl <;> rfl

/-- The machine with a channel, at the end of its guard frames, and with a flit that waits for it. -/
def sendBench (c : Channel) (z : Nat) : State := { ((channelBench c).onFab (fun f => { f with waiting := [(7#32, 1, flit 0x10000000000000#64 .store)] })) with
  turn := ⟨1, 2, z⟩, pkg := { State.reset.pkg with frame := 1 } }

/-- A group whose copy command sends 128 bytes of record 1 on stream 4. -/
def sender (count : Word) : Group := { memory control with queues := [(4, [0x90040000#32]), (5, [0#32, count])] }

/-- Its machine, with that stream on the channel to package 1. -/
def senderBench (g : Group) : State := { bench g with
  installs := [{ install with streams := [⟨0, ⟨4, 0, 0, 1, 1, 1, 1#64, 1, 2, 0⟩, 1, 1, 2, false⟩] }], turn := ⟨1, 0, 0⟩ }

/-- The transfer of such a command once all its lines are away. -/
def sent (stopped : Option (Nat × Nat × Bool)) : Transfer := ⟨1, 0, 1, 7#32, 9, 0x90040000#32, global 0, 0#256, 0, 0, 128, 0#32, none, 128, [], [], [], stopped⟩

/-- A load of two lines through a remote record. -/
def farLoad : OutOp := { id := 4, gid := 1, flag := 0, handler := false, lanes := 1, kind := .load (.reg 4 false 1) (.fabric 7#32 3#32) 0 0 [{ addr := 0x10000000000000 }, { addr := 0x10000000000080 }] [] none false }

theorem wit_FlitsAndControlFrames_sends :
    (let s := sendBench ⟨1, .standing, 1, 0, [(1, flit 0x10000000000000#64 .store)]⟩ 0;
      s.fab.chan? (chanOf s.turn.x s.turn.y) = some ⟨1, .standing, 1, 0, [(1, flit 0x10000000000000#64 .store)]⟩ ∧ s.turn.z = 0 ∧ s.fab.closed = false ∧
        (flit 0x10000000000000#64 .store).reserved = true) ∧
    ((sendBench ⟨1, .standing, 1, 0, []⟩ 0).onFab (fun f => { f with closed := true })).fab.closed = true ∧
    (let s := sendBench ⟨1, .standing, 1, 0, []⟩ 9;
      s.turn.z ≠ 0 ∧ s.fab.serves (chanOf s.turn.x s.turn.y) s.pkg.frame = some 1 ∧ s.transfers.find? (fun t => t.id == s.turn.z && t.kind == 9) = none ∧
        s.fab.waiting.find? (fun w => w.2.2.number == s.turn.z) = some (7#32, 1, flit 0x10000000000000#64 .store) ∧ s.fab.firstHop 1 = 1 ∧
        s.fab.pools.any (fun p => p.number == 1 && p.handle == 7#32) = true) ∧
    (∀ count ∈ [128#32, 1#32], let s := senderBench (sender count);
      s.group? s.turn.x = some (sender count) ∧ (sender count).gstate ≠ .retired ∧ s.copyHead (sender count) = some 0x90040000#32 ∧
        wbits 0x90040000#32 31 28 = 9 ∧ (sender count).statusRoom 1 0 = true ∧
        ∃ i, s.inst? (sender count).ctl.handle = some i ∧
          s.sendRejects (sender count) 0x90040000#32 (i.stream? (sender count).kernel 4) 0 count.toNat = (count == 1#32)) ∧
    (senderBench (sender 128#32)).transferWaits (sender 128#32) (sent none) = false ∧
    (∀ stopped ∈ [none, some (3, 0, false)], let s : State := { senderBench (sender 128#32) with transfers := [sent stopped] };
      s.transfers.find? (fun t => t.id == s.turn.x && t.kind == 9) = some (sent stopped) ∧ s.group? (sent stopped).gid = some (sender 128#32) ∧
        (sent stopped).flying = [] ∧ (sent stopped).count / 128 ≤ (sent stopped).next ∧ (sender 128#32).statusRoom 1 2 = true) ∧
    (let s : State := { bench literal with ops := [farLoad] };
      s.op? 4 = some farLoad ∧ s.group? farLoad.gid = some literal ∧ s.fab.farLine? 7#32 3#32 0x10000000000000 = none ∧
        s.fab.asked.any (fun a => a.1 == 4 && a.2.1 == 0) = false ∧ 0 < { s with host := hosted.host }.farWays 7#32 ∧
        (s.onFab (fun f => { f with asked := [(4, 0, 9#32)] })).fab.asked.any (fun a => a.1 == 4 && a.2.1 == 0) = true) := by
  refine ⟨by decide +kernel, by decide, by decide +kernel, ?_, by decide +kernel, by decide +kernel, by decide +kernel⟩
  intro count h
  simp only [List.mem_cons, List.not_mem_nil, or_false] at h
  rcases h with rfl | rfl
  · exact ⟨by decide, by decide, by decide, by decide, by decide, _, rfl, by decide +kernel⟩
  · exact ⟨by decide, by decide, by decide, by decide, by decide, _, rfl, by decide +kernel⟩

/-! ### Witnesses: workgroups, seats and rails -/

/-- A launch of one workgroup of two groups that has started none. -/
def fresh : Launch := { launch with started := [], wgCount := 2, first := 0 }

/-- The machine with a launch and one group, at a turn of some agent. -/
def seatBench (l : Launch) (g : Group) (t : Subject) : State := { bench g with launches := [l], turn := t }

/-- The group off its seat. -/
def unseated (st : GroupState) : Group := { plain 0#32 with gstate := st, seat := none, clause := none }

theorem wit_WorkgroupsAndSeats :
    (∀ wg ∈ [0, 1], let s : State := { seatBench fresh literal ⟨1, wg, 0⟩ with groups := [] };
      s.launch? s.turn.x = some fresh ∧ s.inst? fresh.handle = some install ∧ ∃ k, install.kernel? fresh.kernel = some k ∧
        (decide (fresh.first + wg < max 1 k.record.maxWg) || s.sequenceRetired fresh.handle fresh.kernel (fresh.first + wg - max 1 k.record.maxWg)) = (wg == 0) ∧
        fresh.complete = false ∧ fresh.status ≠ 3 ∧ wg < fresh.wgCount ∧ fresh.started.contains wg = false ∧ install.withdrawing = [] ∧
        (s.positionFor fresh.handle fresh.kernel k (fresh.first + wg)).isSome = true) ∧
    (∀ h ∈ (seatBench fresh literal ⟨0, 0, 0⟩).groups, h.core = (seatBench fresh literal ⟨0, 0, 0⟩).turn.x → (seatBench fresh literal ⟨0, 0, 0⟩).seatable h = true → h.ctl.shadow = true) ∧
    (let s := seatBench fresh (unseated .ready) ⟨0, 0, 0⟩;
      (s.groups.map (fun h => h.gid)).Nodup ∧ unseated .ready ∈ s.groups ∧ (unseated .ready).core = s.turn.x ∧ s.seatable (unseated .ready) = true ∧
        (∀ h ∈ s.groups, h.core = s.turn.x → s.seatable h = true → h.ctl.shadow = false → h.gid = (unseated .ready).gid ∨ seatBefore (unseated .ready) h = true) ∧
        (unseated .ready).ctl.paired = false ∧ (unseated .ready).ctl.handler = false ∧ (s.freeSeats (unseated .ready).core).head? = some 0) ∧
    (∀ w ∈ [SeatWait.none, .register], let g := { plain 0#32 with wait := w, waitCycles := 5000 };
      let s := seatBench fresh g ⟨1, 0, 0⟩;
      let act := (s.part (match s.inst? g.ctl.handle with | none => 0 | some i => i.part)).actCfg;
      (s.groups.map (fun h => h.gid)).Nodup ∧ s.group? s.turn.x = some g ∧ g.ctl.paired = false ∧ g.ctl.shadow = false ∧ g.gstate = .seated ∧ wbit act 15 = true ∧
        max 256 (wbits act 31 16) < g.waitCycles + Config.frameCycles ∧ s.gated g = false ∧ s.underWay g = false) ∧
    (∀ st ∈ [GroupState.waiting, .ready], let s := seatBench fresh (unseated st) ⟨1, 0, 0⟩;
      s.group? s.turn.x = some (unseated st) ∧ s.waitOf (unseated st) = .none) := by
  refine ⟨?_, by decide +kernel, by decide +kernel, ?_, by decide +kernel⟩
  · intro wg h
    simp only [List.mem_cons, List.not_mem_nil, or_false] at h
    rcases h with rfl | rfl
    · exact ⟨by decide, by decide, _, rfl, by decide +kernel⟩
    · exact ⟨by decide, by decide, _, rfl, by decide +kernel⟩
  · intro w h
    simp only [List.mem_cons, List.not_mem_nil, or_false] at h
    rcases h with rfl | rfl <;> decide +kernel

/-- A group with the words of a clause at its pc: a header that waits for nothing, and a NOP. -/
def headed : Group := { plain 0#32 with clause := none }

/-- The machine in which that clause is ready to start on rail 0 of core 0. -/
def headerBench (g : Group) : State := { bench g with mem := { bootSwept := 2 ^ 19, bytes := [(256, 0xC0#8), (257, 0x3F#8), (259, 0xF0#8)] } }

/-- The machine of a partition with registers of its own. -/
def withPart (p : Partition) (s : State) : State := s.onHost (fun h => { h with parts := [(0, p)] })

/-- The clause that a rail would start. -/
def startOf : Ready → Option FetchedClause
  | .start c => some c
  | _ => none

theorem wit_RailsAndThrottle_start : startOf (((headerBench headed).tick.noteWaits 0 0).readiness headed) = some ⟨0xF0003FC0#32, [0#32], [], 0⟩ := by decide +kernel

theorem wit_RailsAndThrottle :
    (let u := (bench (unseated .ready)).tick.noteWaits 0 0;
      (u.rail 0 0).clauseOf = none ∧ u.takers 0 0 = []) ∧
    (let u := (headerBench headed).tick.noteWaits 0 0;
      (u.rail 0 0).clauseOf = none ∧ u.taker 0 0 = some headed ∧ u.group? headed.gid = some headed ∧ headed.ctl.shadow = false ∧
        headed.ctl.slot < 1) := by decide +kernel

theorem wit_RailsAndThrottle_throttle :
    (∀ ten ∈ [0x00408000, 0x00400000, 0x00008000], let s := withPart { cfg := 0xA0000100#32, llsCfg := BitVec.ofNat 32 ten } (bench { plain 0#32 with lls := 130 });
      (s.groups.map (fun h => h.gid)).Nodup ∧ s.partOfDie (dieOfCore s.turn.x) = some 0 ∧ wbit (s.part 0).llsCfg 15 = (ten != 0x00400000) ∧
        (s.groups.filter (fun g => g.core == s.turn.x && g.gstate == .seated)).length = 1) := by decide +kernel

/-- Groups whose watchdog count is at the limit: in its handler, seated, off its seat, and stalled on an instruction. -/
def overdue : List Group := [{ plain 0#32 with ctl := { control with wdCount := 0x1000000#64, handler := true } },
  { plain 0#32 with ctl := { control with wdCount := 0x1000000#64 } }, { unseated .ready with ctl := { control with wdCount := 0x1000000#64 } },
  { plain 0#32 with stalled := some ⟨.scoreboard, .ops []⟩, ctl := { control with wdCount := 0x1000000#64 } }]

theorem wit_RailsAndThrottle_watchdog : (∀ wd ∈ [0x01000000, 0], ∀ g ∈ overdue, let s := withPart { wdCfg := BitVec.ofNat 32 wd } { bench g with turn := ⟨1, 0, 0⟩ };
      (s.groups.map (fun h => h.gid)).Nodup ∧ s.group? s.turn.x = some g ∧ g.ctl.paired = false ∧ g.ctl.shadow = false ∧ s.watchdogDue g = (wd != 0)) ∧
    ∃ g ∈ overdue, CanEnter (bench g) g 0 ∧ g.clause = some ⟨0#32, [0#32], [], 0⟩ ∧ g.stalled = some ⟨.scoreboard, .ops []⟩ := by
  refine ⟨by decide +kernel, _, List.mem_of_mem_getLast? (l := overdue) rfl, ⟨rfl, ⟨rfl, rfl⟩, ⟨rfl, rfl⟩, rfl, rfl, ?_⟩, rfl, rfl⟩
  intro k hk _ _
  simp only [bench, List.mem_singleton] at hk
  rw [hk]; rfl

/-! ### Witnesses: register lines, faults and handlers -/

/-- A group whose clause adds registers 2 and 3 into register 1, with some lines written back. -/
def adder (backed : List Nat) : Group := { plain 0x20010203#32 with backed := backed }

/-- Its machine, with lines of registers in its core. -/
def mantleBench (g : Group) (lines : List MantleLine) (h : List Group) : State :=
  { ({ bench g with groups := g :: h, turn := ⟨1, 2, 0⟩ } : State).putCore 0 { mantle := lines } with installs := [{ install with pages := [page 0 0 true false true, page 65536 65536 true true false] }] }

/-- A bank that is full of lines of another group. -/
def crowd (dirty : Bool) : List MantleLine := (List.range 704).map (fun n => ⟨2, n, 0, dirty, n⟩)

/-- That group, off its seat. -/
def other : Group := { unseated .waiting with gid := 2, localNo := 1 }

theorem test_full (d : Bool) : ((mantleBench (adder []) (crowd d) [other]).core 0).mantle.length = 704 := by cases d <;> decide +kernel

theorem wit_MantleAndHandlers_lines :
    (∀ backed ∈ [[], [2], [258]], let s := mantleBench (adder backed) [] []; let g := adder backed;
      s.group? s.turn.x = some g ∧ g.gstate ≠ .retired ∧ g.fn = 0 ∧ (s.core g.core).resident g.gid 2 = false ∧ 2 ∈ s.neededLines g ∧
        ((s.core g.core).mantle.filter (fun m => m.bank == bankOf (s.fn g.fn).banks 2)).length < Config.bankLines ∧ g.backed.contains 2 = (backed == [2])) ∧
    ((mantleBench (adder []) [⟨1, 2, 0, false, 0⟩] []).core 0).resident 1 2 = true ∧ 9 ∉ (mantleBench (adder []) [] []).neededLines (adder []) ∧
    (∃ p, (mantleBench (adder [2]) [] []).contextLine (adder [2]) 2 .read = .at_ p) ∧
    (∃ va, ({ mantleBench (adder [2]) [] [] with installs := [] } : State).contextLine (adder [2]) 2 .read = .fault va) := by
  refine ⟨by decide +kernel, by decide +kernel, by decide +kernel, ⟨_, rfl⟩, ⟨_, rfl⟩⟩

theorem wit_MantleAndHandlers_full :
    (∀ d ∈ [true, false], let s := mantleBench (adder []) (crowd d) [other]; let g := adder [];
      s.group? s.turn.x = some g ∧ (s.core g.core).resident g.gid 2 = false ∧ 2 ∈ s.neededLines g ∧
        Config.bankLines ≤ ((s.core g.core).mantle.filter (fun m => m.bank == bankOf (s.fn g.fn).banks 2)).length ∧
        s.victimLine g.core (bankOf (s.fn g.fn).banks 2) = some ⟨2, 0, 0, d, 0⟩ ∧ s.group? 2 = some other ∧ other.gid ≠ g.gid ∧ other.gstate ≠ .retired ∧
        (s.locked other).contains 0 = false) ∧
    (∃ p, (mantleBench (adder []) (crowd true) [other]).contextLine other 0 .write = .at_ p) := by
  refine ⟨by decide +kernel, ⟨_, rfl⟩⟩

/-- The machine with a fault of its group on a page queued at die 0. -/
def faultBench (va : Nat) (i : Installation) : State := { bench literal with faults := [(0, [(1, va)])], installs := [i] }

theorem wit_MantleAndHandlers :
    (Sparse.get [] (bench literal).faults (bench literal).turn.x = []) ∧
    (∀ va ∈ [0, 65536, 131072], let s := faultBench va install;
      (s.groups.map (fun h => h.gid)).Nodup ∧ Sparse.get [] s.faults s.turn.x = [(1, va)] ∧ s.group? 1 = some literal ∧ literal.gstate ≠ .retired ∧
        (s.page? literal.ctl.handle va).map (fun p => p.permits .write) = if va = 131072 then none else some (va == 65536)) ∧
    ((faultBench 131072 install).inst? literal.ctl.handle = some install ∧ ((faultBench 131072 install).fn install.fn).freePages = []) ∧
    (∃ (s : State) (i : Installation), Sparse.get [] s.faults s.turn.x = [(1, 131072)] ∧ s.group? 1 = some literal ∧ s.page? literal.ctl.handle 131072 = none ∧ s.inst? literal.ctl.handle = some i ∧
      (s.fn i.fn).freePages ≠ []) ∧
    (let g : Group := { literal with ctl := { control with trapPend := true } };
      let s := bench g;
      (s.rail 0 0).handler = none ∧ g ∈ (s.onRailGroups 0 0).filter (fun g => g.ctl.trapPend && !g.ctl.suspended && !g.ctl.shadow && s.pairAgrees g) ∧
        ∀ h ∈ (s.onRailGroups 0 0).filter (fun g => g.ctl.trapPend && !g.ctl.suspended && !g.ctl.shadow && s.pairAgrees g), h ≠ g → g.older h = true) ∧
    ((bench literal).onRailGroups 0 0).filter (fun g => g.ctl.trapPend && !g.ctl.suspended && !g.ctl.shadow && (bench literal).pairAgrees g) = [] ∧
    (let g : Group := { literal with suspendBy := [2] };
      let s : State := { bench g with turn := ⟨1, 0, 0⟩ };
      s.group? s.turn.x = some g ∧ s.underWay g = false ∧ g.gstate ≠ .retired) ∧ literal.suspendBy = [] := by
  refine ⟨by decide +kernel, by decide +kernel, by decide +kernel, ⟨{ withTenant (fun f => { f with pool := [1] }) with faults := [(0, [(1, 131072)])], groups := [literal] }, { install with fn := 1 }, by decide +kernel⟩, by decide +kernel, by decide +kernel, by decide +kernel, by decide⟩

/-! ### Witnesses: operations that end -/

/-- An operation of the group in lane 0, with its result in register 40. -/
def op (k : OpKind) : OutOp := { id := 4, gid := 1, flag := 0, handler := false, lanes := 1, dest := 40, destWords := 1, kind := k }

/-- The machine with that operation. -/
def opBench (k : OpKind) : State := { bench literal with ops := [op k], turn := ⟨4, 0, 0⟩ }

/-- An operation's results land in its group. -/
theorem lands {k : OpKind} {ws : List (Nat × Nat × Word)} (h : ws.all (fun w => decide (w.1 < 256) && decide (w.2.1 < 32)) = true)
    (n : (ws.map (fun w => (w.1, w.2.1))).Nodup) : Lands (op k) literal ws := by
  refine ⟨rfl, rfl, fun h => (by cases h), rfl, fun w hw => ?_, n⟩
  have := List.all_eq_true.mp h w hw
  simp only [Bool.and_eq_true, decide_eq_true_eq] at this
  exact ⟨this.1, this.2, by simp [literal, group, control]⟩

/-- A load of a number of lines, from the page at 64 KiB. -/
def load (form : LoadForm) (n : Nat) : OpKind :=
  .load form (.virt 7#32) (global 0) 0 ((List.range n).map (fun i => { addr := 65536 + 128 * i, phys := 65536 + 128 * i })) [{ lane := 0, addr := 65536 }] none false

theorem wit_LoadsAtomicsAndResults_loads :
    (∀ n ∈ [1, 2], let s := opBench (load (.reg 4 false 1) n);
      s.op? s.turn.x = some (op (load (.reg 4 false 1) n)) ∧ s.group? 1 = some literal ∧ s.lostFlit s.turn.x 65536 = false ∧
        s.lineSource literal (bufRec (global 0)) (.virt 7#32) 0 false { addr := 65536, phys := 65536 } = some (List.replicate 128 0#8, false)) ∧
    (let s := opBench (load (.reg 4 false 1) 1);
      let ls : List LineAccess := [{ addr := 65536, phys := 65536, bytes := some (s.seenBytes (op (load (.reg 4 false 1) 1)) 0 (.virt 7#32) 65536 (List.replicate 128 0#8)) }];
      (∀ k ∈ [({ lane := 0, addr := 65536 } : LaneAccess)], (laneValue (bufRec (global 0)) (.reg 4 false 1) ls k).2 = false) ∧
        Lands (op (load (.reg 4 false 1) 1)) literal (loadResults (op (load (.reg 4 false 1) 1)) (global 0) (.reg 4 false 1) ls [{ lane := 0, addr := 65536 }] false)) :=
  ⟨by decide +kernel, by decide +kernel, lands (by decide +kernel) (by decide +kernel)⟩

/-- A request of an atomic by lane 0, at an address. -/
def request (a : Nat) : AtomRequest := { addr := a, phys := a, lanes := [{ lane := 0, addr := a, operand := 5#64 }] }

/-- An atomic add of some requests that returns what it found. -/
def atomic (space : Space) (rs : List AtomRequest) : OpKind := .atomic .add 4 space (global 2) rs true false 0

theorem wit_LoadsAtomicsAndResults :
    (∀ rs ∈ [[request 65536], [request 65536, request 65540]], ∀ space ∈ [Space.virt 7#32, .sram], let s := opBench (atomic space rs);
      s.op? 4 = some (op (atomic space rs)) ∧ rs[0]? = some (request 65536) ∧ (request 65536).done = false ∧ s.lostFlit 4 65536 = false ∧
        s.passes 0 space 65536 = true ∧ s.mem.poisoned 65536 = false ∧
        ((rs.set 0 ((request 65536).withOld .add 4 0 (natOfBytes (s.homeBytes space 65536 4)))).any (fun q => !q.done) = (rs.length == 2)) ∧
        (rs.set 0 ((request 65536).withOld .add 4 0 (natOfBytes (s.homeBytes space 65536 4)))).any (fun q => q.died) = false) ∧
    (∃ s, s = opBench (atomic (.virt 7#32) [request 65536]) ∧ Lands (op (atomic (.virt 7#32) [request 65536])) literal (atomicResults (op (atomic (.virt 7#32) [request 65536])) 4
      ([request 65536].set 0 ((request 65536).withOld .add 4 0 (natOfBytes (s.homeBytes (.virt 7#32) 65536 4)))) false)) ∧
    (∀ k ∈ [OpKind.value [(40, 0, 1#32)] [(0, 1#5)] true, .result [(40, 0, 1#32)]], (opBench k).op? 4 = some (op k) ∧ Lands (op k) literal [(40, 0, 1#32)]) ∧
    (∀ each : Bool, Lands (op (.tkt 3 each)) literal ((laneList 1#32).zipIdx.map (fun l => (40, l.1, if each then 0#32 + BitVec.ofNat 32 l.2 else 0#32)))) ∧
    ((opBench (.bartest 2 (barKey 2 0 0) 0)).objectBusy 1 4 (barKey 2 0 0) = false ∧
      (∀ hit : Bool, Lands (op (.bartest 2 (barKey 2 0 0) 0)) literal ((laneList 1#32).map (fun l => (40, l, if hit then 1#32 else 0#32)))) ∧
      ((opBench (.bartest 2 (barKey 2 0 0) 0)).bar (barKey 2 0 0)).completed 0xFFFF = true ∧
      ((opBench (.bartest 2 (barKey 2 0 0) 0)).bar (barKey 2 0 0)).completed 0 = false) := by
  refine ⟨by decide +kernel, ⟨_, rfl, lands (by decide +kernel) (by decide +kernel)⟩, ?_, ?_, by decide +kernel, ?_, by decide +kernel, by decide +kernel⟩
  · intro k h
    simp only [List.mem_cons, List.not_mem_nil, or_false] at h
    rcases h with rfl | rfl <;> exact ⟨rfl, lands (by decide) (by decide)⟩
  · intro each; cases each <;> exact lands (by decide) (by decide)
  · intro hit; cases hit <;> exact lands (by decide) (by decide)

/-! ### Witnesses: stores in flight, releases, barrier objects -/

/-- A store of the group's lane 0 on its way: of 16 bytes at 64 KiB, or elsewhere. -/
def store (space : Space) (block phys : Nat) (quantum : Option (Nat × Nat)) (accepted served : Bool) : Commit :=
  { id := 5, gid := 1, lane := 0, core := 0, space := space, block := block, phys := phys, bits := BitVec.allOnes 128, data := 7#128, reserved := false, op := 0
    quantum := quantum, accepted := accepted, order := 3, served := served }

/-- The machine with that store, behind others. -/
def storeBench (front : List Commit) (c : Commit) : State := { bench literal with commits := front ++ [c], turn := ⟨5, 0, 0⟩ }

theorem wit_StoresReleasesAndBarriers_stores :
    (∀ front ∈ [[], [{ store (.virt 7#32) 65536 65536 none false true with id := 6, order := 1 }]], let c := store (.virt 7#32) 65536 65536 none false true;
      let s := storeBench front c;
      s.commits.find? (fun d => d.id == s.turn.x) = some c ∧ c.accepted = false ∧ s.blocked c.gid c.lane c.order c.space c.block c.bits = !front.isEmpty) ∧
    (∀ served : Bool, let c := store (.virt 7#32) 65536 65536 none true served;
      let s := storeBench [] c;
      s.commits.find? (fun d => d.id == s.turn.x) = some c ∧ (c.served && !s.lostFlit c.id c.block && s.passes c.core c.space 65536) = served ∧ s.behind c = false ∧
        s.commitUnit c = [c] ∧ s.mem.poisoned c.phys = false ∧ c.phys % 128 = c.block % 128 ∧ c.block % 16 = 0) ∧
    (let c := store .sram 4096 0 none true true;
      let s := storeBench [] c;
      (c.served && !s.lostFlit c.id c.block && s.passes c.core c.space c.block) = true ∧ s.behind c = false ∧ s.commitUnit c = [c]) ∧
    (let c := store (.virt 7#32) 65536 65536 none true true;
      (storeBench [{ c with id := 6 }] c).behind c = true) ∧
    (let c := store (.virt 7#32) 65536 65536 (some (3, 1)) true true;
      let s := storeBench [] c;
      (c.served && !s.lostFlit c.id c.block && s.passes c.core c.space 65536) = true ∧ s.windowRoom c = true) ∧
    (let c := store (.fabric 7#32 3#32) 0x10000000000000 0 none true true;
      let s := storeBench [] c;
      (c.served && !s.lostFlit c.id c.block && s.passes c.core c.space c.block) = true ∧ s.behind c = false ∧ s.commitUnit c = [c] ∧ 0 < s.farWays 7#32) := by
  decide +kernel

/-- A release of the group, behind some operations, with what follows it. -/
def release (next : ReleaseThen) (before : List Nat) : OpKind := .release 2 before [] next

theorem wit_StoresReleasesAndBarriers_releases :
    (∀ before ∈ [[], [9]], ∀ next ∈ [ReleaseThen.push 4 0, .launch [], .exit, .matrix, .fence true, .serve 3, .ifence],
      let s : State := { opBench (release next before) with ops := [op (release next before), { op (load (.reg 4 false 1) 1) with id := 9 }] };
      s.op? s.turn.x = some (op (release next before)) ∧ s.group? 1 = some literal ∧ s.releaseReady literal.ctl.handle 2 before [] = before.isEmpty ∧ s.transfersOf literal = false) ∧
    (∀ next, Lands (op (release next [])) literal []) ∧
    (let s := opBench (.acquire 2 (.phase (barKey 2 0 0) 0));
      s.op? s.turn.x = some (op (.acquire 2 (.phase (barKey 2 0 0) 0))) ∧ s.waitOver (.phase (barKey 2 0 0) 0) = false ∧ s.waitOver (.phase (barKey 2 0 0) 0xFFFF) = true ∧
        s.waitOver (.ticket 3 0#32) = true ∧ s.waitOver (.ticket 3 1#32) = false ∧ (s.ops.map (fun o => o.id)).Nodup ∧ ∀ o ∈ s.ops, s.group? o.gid ≠ none) :=
  ⟨by decide +kernel, fun _ => lands rfl List.nodup_nil, by decide +kernel⟩

/-- An arrival at an object of die scope. -/
def arrival : OpKind := .release 2 [] [] (.arrive (barKey 2 0 0) 0)

theorem wit_StoresReleasesAndBarriers :
    (let s := opBench arrival;
      (∀ w ∈ s.mem.windows, (∃ h, w.space = .virt h) → s.mem.poisoned w.phys = false) ∧ s.op? 4 = some (op arrival) ∧ s.group? 1 = some literal ∧
        (s.releaseReady literal.ctl.handle 2 [] [] && !s.objectBusy literal.gid 4 (barKey 2 0 0) && (s.bar (barKey 2 0 0)).room 1 0 0) = true ∧
        Lands (op arrival) literal ((laneList 1#32).map (fun l => (40, l, BitVec.ofNat 32 (s.bar (barKey 2 0 0)).counting)))) ∧
    (∃ s : State, s.mem.windows = [] ∧ (s.bar (barKey 2 0 0)).room 1 0 0 = false) ∧
    (∀ n ∈ [128, 2 ^ 31], let s : State := { bench literal with landed := [⟨1, barKey 3 0 0, n⟩] };
      s.landed.find? (fun k => k.number == 1) = some ⟨1, barKey 3 0 0, n⟩ ∧ (s.bar (barKey 3 0 0)).room 0 n 0 = (n == 128)) ∧
    ((bench literal).bar (barKey 4 0 0)).room 1 0 0 = true ∧ ((bench literal).bar (barKey 4 0 0)).room 16777216 0 0 = false ∧
    (∀ cmt : Bool, let s : State := { bench literal with bars := [(barKey 2 0 0, { cmt := cmt, expArr := 1, killed := [(1, 3)] })], turn := ⟨2, 0, 0⟩ };
      (s.bar (barKey s.turn.x s.turn.y s.turn.z)).cmt = cmt ∧ barScope (barKey s.turn.x s.turn.y s.turn.z) ≠ 4) := by
  refine ⟨⟨fun w h => (nomatch h), rfl, rfl, by decide +kernel, lands (by decide) (by decide)⟩,
    ⟨{ bench literal with bars := [(barKey 2 0 0, { arrCnt := 16777215 })] }, rfl, by decide +kernel⟩, by decide +kernel, by decide +kernel, by decide +kernel, by decide +kernel⟩

/-! ### Witnesses: the copy engine -/

/-- A group with a command and its parameters. -/
def copier (w : Word) (ps : List Word) : Group := { memory control with queues := [(4, [w]), (5, ps)] }

/-- Its machine. -/
def copyBench (g : Group) (ts : List Transfer) : State := { bench g with transfers := ts, turn := ⟨1, 0, 0⟩ }

/-- A transfer of 128 bytes from record 1 to the second line of record 2, between its steps. -/
def moving (next : Nat) (flying : List Nat) (stopped : Option (Nat × Nat × Bool)) : Transfer :=
  ⟨1, 0, 1, 7#32, 1, 0x10042000#32, global 0, global 2, 0, 128, 128, 0#32, none, next, flying, [], [], stopped⟩

/-- A command of kind 1 or 2, with the parameters that copy or fill 128 bytes there, or none. -/
def commandOf (kind count : Nat) : Group :=
  if kind = 1 then copier 0x10042000#32 [0#32, 128#32, BitVec.ofNat 32 count, 0#32] else copier 0x20002000#32 [128#32, BitVec.ofNat 32 count, 5#32, 0#32]

theorem wit_CopyEngine :
    (∀ kind ∈ [1, 2], ∀ count ∈ [0, 128], let g := commandOf kind count;
      let s := copyBench g [];
      let w := (g.queue 4).headD 0#32;
      s.group? s.turn.x = some g ∧ g.gstate ≠ .retired ∧ s.copyHead g = some w ∧ wbits w 31 28 = kind ∧ wbits w 31 28 ≠ 3 - kind ∧ 4 ≤ (g.queue 5).length ∧
        s.copyRejects g w (bufRec (Sparse.get 0#256 g.recs (wbits w 23 18))) (bufRec (Sparse.get 0#256 g.recs (wbits w 17 12)))
          (if kind = 1 then 0 else 0) 128 count 0#32 = (count == 0) ∧ g.statusRoom 1 1 = true) ∧
    (copyBench (memory control) []).copyHead (memory control) = none ∧
    (copyBench (commandOf 1 128) []).transferWaits (commandOf 1 128) (moving 0 [] none) = false ∧
    (copyBench (commandOf 1 128) [moving 0 [] none]).transferWaits (commandOf 1 128) { moving 0 [] none with id := 2 } = true ∧
    (let g := copier 0x30000000#32 [];
      let s := copyBench g [];
      s.group? s.turn.x = some g ∧ s.copyHead g = some 0x30000000#32 ∧ paramsOf (wbits 0x30000000#32 31 28) = 0 ∧ g.statusRoom 1 0 = true) := by
  refine ⟨by decide +kernel, by decide +kernel, by decide +kernel, by decide +kernel, by decide +kernel⟩

/-- Bytes of a source line, as the engine reads them. -/
def bytesRead (s : State) (g : Group) (t : Transfer) (lo hi : Nat) : Option (List SourceByte) :=
  match s.tick.sourceBytes g t ((t.lineBytes lo hi).map (fun m => m.2)) with
  | .ok bs => some bs
  | .error _ => none

theorem ok_of {s : State} {g : Group} {t : Transfer} {lo hi : Nat} (h : (bytesRead s g t lo hi).any (fun bs => bs.all (fun b => !b.closed && b.soiled.isNone && !b.poison) &&
      decide (lo % 128 + bs.length ≤ 128)) = true) :
    ∃ bs, s.tick.sourceBytes g t ((t.lineBytes lo hi).map (fun m => m.2)) = .ok bs ∧ (∀ b ∈ bs, b.closed = false ∧ b.soiled = none ∧ b.poison = false) ∧
      lo % 128 + bs.length ≤ 128 := by
  unfold bytesRead at h
  split at h
  · rename_i bs e
    simp only [Option.any_some, Bool.and_eq_true, decide_eq_true_eq] at h
    refine ⟨bs, e, fun b hb => ?_, h.2⟩
    have := List.all_eq_true.mp h.1 b hb
    simp only [Bool.and_eq_true, Bool.not_eq_true', Option.isNone_iff_eq_none] at this
    exact ⟨this.1.1, this.1.2, this.2⟩
  · simp at h

theorem wit_CopyEngine_chunks :
    (∀ t ∈ [moving 0 [] none, moving 1 [0] none, moving 1 [] none, moving 0 [] (some (4, 5, false))], let g := memory control;
      let s := copyBench g [t];
      s.transfers.find? (fun t => t.id == s.turn.x) = some t ∧ s.group? t.gid = some g ∧ g.gstate ≠ .retired ∧ t.kind ≠ 9 ∧ g.statusRoom 1 (t.q7 (g.bitmap t.map)).length = true ∧
        t.chunkLines 0 = [(65664, 65792)] ∧ s.transferLost g t = false ∧ (t.flying.isEmpty && (t.stopped.isSome || (t.nextChunk (g.bitmap t.map)).isNone)) = (t.next == 1 && t.flying.isEmpty || t.stopped.isSome) ∧
        t.nextChunk (g.bitmap t.map) = (if t.next = 0 then some 0 else none)) ∧
    (let g := memory control;
      let s := copyBench g [moving 0 [] none];
      ∃ bs, s.tick.sourceBytes g (moving 1 [0] none) (((moving 1 [0] none).lineBytes 65664 65792).map (fun m => m.2)) = .ok bs ∧
        (∀ b ∈ bs, b.closed = false ∧ b.soiled = none ∧ b.poison = false) ∧ 65664 % 128 + bs.length ≤ 128) ∧
    (let g := memory control;
      let s := copyBench g [moving 0 [] none];
      (s.place g (bufRec (global 2)) 65664 1).1 = .virt 7#32 ∧ s.transferPage (moving 1 [0] none) 65664 .write = some (page 65536 65536 true true false) ∧
        s.pageOpen 0 (some (page 65536 65536 true true false)) 65664 = true ∧ s.mem.clean ((page 65536 65536 true true false).phys 65664) = true ∧
        s.mem.poisoned ((page 65536 65536 true true false).phys (65664 / 128 * 128)) = false) ∧
    (let g := memory control;
      let s : State := { copyBench g [moving 0 [] none] with installs := [] };
      bytesRead s g (moving 1 [0] none) 65664 65792 = none) := by
  refine ⟨by decide +kernel, ok_of (by decide +kernel), by decide +kernel, by decide +kernel⟩

/-! ### Witnesses: collectives -/

/-- A group with a command of Spinel of a count of bytes. -/
def spinner (count : Word) : Group := { memory control with queues := [(8, [0x10001080#32, 0#32, 128#32, count, 0#32])] }

/-- The package of one die with that group. -/
def spinBench (g : Group) (cs : List SpinCommand) (ks : List Collective) : State :=
  { withPart { cfg := 0xA0000100#32 } (bench g) with spin := cs, collect := ks, turn := ⟨1, 0, 0⟩ }

/-- A command that Spinel has taken, of the package or the pod. -/
def taken (pod : Bool) : SpinCommand := ⟨0, 1, 7#32, 0, if pod then 0x10081080#32 else 0x10001080#32, global 0, global 2, 0, 128, 128, 0#32⟩

/-- A collective of that command. -/
def collective (pod : Bool) (result : Option Nat) : Collective := ⟨7#32, if pod then 1 else 0, 0, [taken pod], 0, false, false, result⟩

theorem wit_SpinelCollectives :
    (∀ count ∈ [0, 128], let g := spinner (BitVec.ofNat 32 count);
      let s := spinBench g [] [];
      s.group? s.turn.x = some g ∧ g.gstate ≠ .retired ∧ s.inst? g.ctl.handle = some install ∧ s.spinHead g = some (g.queue 8) ∧ (g.queue 9).length < queueDepth 9 ∧
        s.spinRejects g 0x10001080#32 (bufRec (Sparse.get 0#256 g.recs 1)) (bufRec (Sparse.get 0#256 g.recs 2)) 0 128 count 0#32 = (count == 0)) ∧
    (spinBench (memory control) [] []).spinHead (memory control) = none ∧
    ((spinBench (memory control) [taken false] []).spinCommands 7#32 0 0 ((spinBench (memory control) [] []).spinDies install) = [taken false] ∧
      ((spinBench (memory control) [] []).spinDies install).length = 1 ∧ (spinBench (memory control) [] []).spinCommands 7#32 0 0 [0] = []) ∧
    ((spinBench (memory control) [] []).openCollective 7#32 0 0 = none ∧ (spinBench (memory control) [] []).endedCollective 7#32 0 0 = none ∧
      (spinBench (memory control) [] [collective false (some 0)]).endedCollective 7#32 0 0 = some (collective false (some 0)) ∧
      ((collective false (some 0)).commands.map (fun d => d.gid)).Nodup) ∧
    ((bench literal).fab.present.contains 5 = false ∧ (podBench 0 ⟨0, 0, 0⟩).fab.present.contains 64 = true) := by
  decide +kernel

theorem wit_SpinelCollectives_steps : ∀ pod : Bool, let s := (spinBench (memory control) [] [collective pod none]).onFab (fun f => { f with present := [0, 1] });
    let g := memory control;
    s.openCollective 7#32 (if pod then 1 else 0) 0 = some (collective pod none) ∧ s.group? (taken pod).gid = some g ∧ s.tick.spinWaits g (taken pod) 0 = false ∧
      s.fab.rowMates.length + s.fab.otherRows.length = 1 ∧ (s.fab.collectivePort false).isNone = false ∧ s.fab.otherRows = [] ∧
      spinCheck 0 0 [spinElems 0 (s.tick.spinSource g (taken pod) 0)] (spinFold 0 0 [spinElems 0 (s.tick.spinSource g (taken pod) 0)]) = .accept ∧
      (let d := taken pod;
        let lo := (bufRec d.dst).base + d.dstOff;
        lo % 128 = 0 ∧ d.dstOff % 128 = 0 ∧ (bufRec d.dst).swz = 0 ∧ (s.place g (bufRec d.dst) lo 1).1 = .virt 7#32 ∧
          s.transferPage (d.transfer g.core) lo .write = some (page 65536 65536 true true false) ∧ s.mem.poisoned ((page 65536 65536 true true false).phys lo) = false) := by
  decide +kernel

/-! ### Witnesses: the matrix engine -/

/-- A command of the group's lanes 0 and 1 at the head of its core's stream, whose operation is outstanding. -/
def engineWith (c : MatrixCommand) (started : Bool) : State :=
  { (bench engine).putCore 0 { obrecs := [⟨0, 0, 64, 3, 0, 0, 1⟩, ⟨1, 128, 64, 3, 0, 0, 1⟩], stream := [{ number := 5, gid := 1, op := 4, command := c, started := started }] } with
    ops := [op (.matrix c none)], turn := ⟨0, 0, 0⟩ }

/-- An MMA of two scratchpad operands into tile 0. -/
def multiply : MatrixCommand := .mma 0 (tileShape 3) true 0x1000#64 0x0000000100002000#64 ⟨0, 0, 64, 3, 0, 0, 1⟩ ⟨1, 128, 64, 3, 0, 0, 1⟩ 3#32

/-- The other commands. -/
def others : List MatrixCommand := [.load 0 (tileShape 3) 2 (global 2) 0 4 3#32, .store 0 (tileShape 3) 2 (global 2) 0 4 3#32 true, .zero 0 3#32 false, .zero 0 3#32 true]

/-- The entry of a command. -/
def entry (c : MatrixCommand) (started : Bool) : StreamEntry := { number := 5, gid := 1, op := 4, command := c, started := started }

/-- Whether something keeps the first entry of the stream of core 0 from its start. -/
def entryHeld (s : State) (g : Group) (e : StreamEntry) : Bool :=
  (s.op? e.release).isSome || (s.entryReads g e).any (fun r => !(s.owners r.1 r.2.1 r.2.2.1).isEmpty) || s.entryShut 0 g e || !(s.core 0).canRun e.command

theorem wit_MatrixEngine_start :
    (∀ c ∈ multiply :: others, ((engineWith c false).core 0).nextStart = some (entry c false) ∧ (engineWith c false).group? 1 = some engine ∧
      entryHeld (engineWith c false) engine (entry c false) = false ∧ c.isMma = (c == multiply)) ∧
    ((bench engine).core 0).nextStart = none ∧ entryHeld (engineWith multiply false) engine { entry multiply false with release := 4 } = true ∧
    (descOf 0x1000#64).q = false ∧ (descOf 0x0000000100002000#64).q = false := by
  decide +kernel

theorem wit_MatrixEngine_end :
    (∀ started : Bool, ∀ c ∈ multiply :: others, ((engineWith c started).core 0).stream.filter (fun e => e.marker.isNone) = [entry c started] ∧
      (engineWith c started).group? 1 = some engine ∧ (engineWith c started).op? 4 = some (op (.matrix c none)) ∧ ((engineWith c started).core 0).perturb = none) ∧
    (∀ c, (op (.matrix c none)).handler = false ∧ (op (.matrix c none)).clobbered = [] ∧ engine.ctl.paired = false) ∧
    validRows (tileShape 3) ≤ 64 ∧ validCols (tileShape 3) ≤ 64 ∧ (bufRec (global 2)).reserved = false ∧
    (∀ m ∈ movedElements engine (tileShape 3) 0 4 3#32, ((engineWith multiply true).tick.readElement engine (bufRec (global 2)) (tileElem (shapeGet (tileShape 3) 2)) m.2.2).2 = false) ∧
    (∀ m ∈ movedElements engine (tileShape 3) 0 4 3#32, ((engineWith multiply true).core 0).elementBad (wideTile (shapeGet (tileShape 3) 2)) 0 m.1 m.2.1 = false) := by
  refine ⟨by decide +kernel, fun c => ⟨rfl, rfl, rfl⟩, by decide +kernel, by decide +kernel, by decide +kernel, by decide +kernel, by decide +kernel⟩

/-- The group with a marker at the head of its core's stream. -/
def marked : State := (bench engine).putCore 0 { stream := [{ entry multiply false with marker := some 9#32 }] }

theorem wit_MatrixEngine : (bench engine).markerReady engine = none ∧ marked.markerReady engine = some (5, 9#32) ∧
    ((engineWith multiply true).core 0).stream.any (fun e => e.marker.isNone && e.started) = true ∧ (marked.core 0).stream.any (fun e => e.marker.isNone && e.started) = false ∧
    Lands (op (.matrix multiply none)) engine [] := by
  refine ⟨by decide +kernel, by decide +kernel, by decide +kernel, by decide +kernel, ⟨rfl, rfl, fun h => (by cases h), rfl, fun w h => (nomatch h), List.nodup_nil⟩⟩

/-! ### Tests: decoding (12 Tables 12.1 and 12.4): words written out field by field, OP, D, A, B -/

theorem test_word_control : decodeWord 0b00001000000000000000001100000000#32 = .ok (.setmode 0#8 3#8 0#8) := rfl
theorem test_word_trap_return : decodeWord 0b00000100000000010000000000000000#32 = .ok (.tret 1#8 0#8 0#8) := rfl
theorem test_word_branch : decodeWord 0b00010001000001010000000000000000#32 = .ok (.bru 5#8 0#8 0#8) := rfl
theorem test_word_integer : decodeWord 0b00100001000000110000000100000010#32 = .ok (.isub 3#8 1#8 2#8) := rfl
theorem test_word_bits : decodeWord 0b00110001000001000000010100000110#32 = .ok (.bfi 4#8 5#8 6#8) := rfl
theorem test_word_move : decodeWord 0b01000010000001110001001000110100#32 = .ok (.movi 7#8 0x12#8 0x34#8) := rfl
theorem test_word_float : decodeWord 0b01010011000010000000100100001010#32 = .ok (.fma 8#8 9#8 10#8) := rfl
theorem test_word_convert : decodeWord 0b01110010000000010000001000000100#32 = .ok (.cvt 1#8 2#8 4#8) := rfl
theorem test_word_lanes : decodeWord 0b01101110000000010000001000000001#32 = .ok (.vote 1#8 2#8 1#8) := rfl
theorem test_word_load : decodeWord 0b10000000000000110000010000000101#32 = .ok (.ld32 3#8 4#8 5#8) := rfl
theorem test_word_store : decodeWord 0b10001100000000110000010000000101#32 = .ok (.st64 3#8 4#8 5#8) := rfl
theorem test_word_sync : decodeWord 0b10010001000000000000000100000010#32 = .ok (.waitp 0#8 1#8 2#8) := rfl
theorem test_word_lease : decodeWord 0b10011100000000000000001000000011#32 = .ok (.lease 0#8 2#8 3#8) := rfl
theorem test_word_atomic : decodeWord 0b10100000000000110000010000000101#32 = .ok (.cas32 3#8 4#8 5#8) := rfl
theorem test_word_engine : decodeWord 0b10110010000000110000010000000001#32 = .ok (.accst 3#8 4#8 1#8) := rfl
theorem test_word_shape : decodeWord 0b10111011000000010000001000000011#32 = .ok (.shfield 1#8 2#8 3#8) := rfl

/-! ### Tests: terms that are not well formed -/

theorem test_smoke_unused_field : (Instr.inot 1#8 2#8 1#8).wellFormed = false ∧ (Instr.inot 1#8 2#8 0xF0#8).wellFormed = true := by decide
/-- One term for each mask of bits that the instructions' pages make MBZ (12 Table 12.2): its lowest bit is set. -/
theorem test_smoke_fields : ([.exit 0 0 1, .tret 0 1 0, .ctxctl 1 0 0, .modeset 0 0 1, .rdfps 0 1 0, .rdcnt 0 0 1, .elseOp 0 0 1, .fwait 0 16 0, .cvt 0
  0 32, .frint 0 0 16, .ld32 0 0 64, .recwr 0 0 64, .recrd 0 0 64, .accz 0 0 1, .perturb 0 0 1, .setshape 16 0 0, .ldshape 0 0 64, .getshape 0 16
  0] : List Instr).all (fun i => !i.wellFormed) = true := by decide
theorem test_smoke_die : (Instr.dieWithdrawal 8).wellFormed = false ∧ (Instr.dieWithdrawal 7).wellFormed = true := by decide
theorem test_smoke_die_thermal : (Instr.thermalGate 8 0).wellFormed = false ∧ (Instr.thermalGateRelease 8 0).wellFormed = false ∧
    (Instr.thermalShutdown 8 0).wellFormed = false := by decide
theorem test_smoke_port : (Instr.controlFrameReceive 36 0 ⟨0, 0#32, 0#64, [], [], true⟩).wellFormed = false ∧
    (Instr.flitReceive 36 (flit 0#64 .load)).wellFormed = false ∧ (Instr.relayForward 36 (flit 0#64 .load)).wellFormed = false := by decide
theorem test_smoke_queue : (Instr.lqEnable 257 0 0#32).wellFormed = false ∧ (Instr.lqEnable 1 8 0#32).wellFormed = false ∧
    (Instr.lqErrClear 257 0 0#32).wellFormed = false ∧ (Instr.lqErrClear 1 8 0#32).wellFormed = false := by decide
theorem test_smoke_partition : (Instr.partcfgWrite 8 0#32).wellFormed = false ∧ (Instr.l2farWrite 8 0#32).wellFormed = false ∧
    (Instr.l2farTakeEffect 8).wellFormed = false := by decide
theorem test_smoke_core : (Instr.matrixSelfTest 512 []).wellFormed = false ∧ (Instr.matrixSelfTest 511 []).wellFormed = true := by decide

/-! ### Tests: single instructions, against values worked out by hand from the spec's pages -/

/-- What an instruction leaves in register 1 of lane 0, from values of registers 2 and 3 in lane 0 and a MODE. -/
def result (i : Instr) (mode x y : Nat) : Option Nat :=
  let g := group 0#32 [5#32] { control with mode := BitVec.ofNat 32 mode } [(64, BitVec.ofNat 32 x), (96, BitVec.ofNat 32 y)]
  match exec i (bench g) with
  | .next t => (t.group? 1).map (fun h => (Sparse.get 0#32 h.regs 32).toNat)
  | _ => none

/-- MODE with no guard and a type. -/
def mode (ty : Nat) : Nat := 0xFF000000 + ty * 2 ^ 19

theorem test_iadd_wraps : result (.iadd 1#8 2#8 3#8) (mode 0) 0xFFFFFFFF 2 = some 1 := by decide +kernel
/-- R377, Table 13.14: MODE.SAT = 1 stops at the largest I32. -/
theorem test_iadd_saturates : result (.iadd 1#8 2#8 3#8) (mode 0 + 2 ^ 10) 0x7FFFFFFF 1 = some 0x7FFFFFFF := by decide +kernel
theorem test_isub : result (.isub 1#8 2#8 3#8) (mode 0) 3 12 = some 0xFFFFFFF7 := by decide +kernel
theorem test_imulh_signed : result (.imulh 1#8 2#8 3#8) (mode 0) 0xFFFFFFFF 2 = some 0xFFFFFFFF := by decide +kernel
theorem test_imulh_unsigned : result (.imulh 1#8 2#8 3#8) (mode 1) 0xFFFFFFFF 2 = some 1 := by decide +kernel
/-- R377: a 32-bit shift takes the low five bits of the count; a 16-bit one gives the sign at 16 and above. -/
theorem test_shl_count : result (.shl 1#8 2#8 3#8) (mode 0) 1 33 = some 2 := by decide +kernel
theorem test_sar_i16 : result (.sar 1#8 2#8 3#8) (mode 8) 0x8000 20 = some 0xFFFFFFFF := by decide +kernel
/-- R378: bits 8 to 11, sign-extended under I32. -/
theorem test_bfx : result (.bfx 1#8 2#8 3#8) (mode 0) 0xF00 0x0408 = some 0xFFFFFFFF := by decide +kernel
theorem test_clz : result (.clz 1#8 2#8 0#8) (mode 1) 0x00010000 0 = some 15 := by decide +kernel
theorem test_icmplt_signed : result (.icmplt 1#8 2#8 3#8) (mode 0) 0xFFFFFFFF 0 = some 1 := by decide +kernel
theorem test_icmplt_unsigned : result (.icmplt 1#8 2#8 3#8) (mode 1) 0xFFFFFFFF 0 = some 0 := by decide +kernel
theorem test_movi : result (.movi 1#8 0x12#8 0x34#8) (mode 0) 0 0 = some 0x1234 := by decide +kernel
theorem test_iaddl : result (.iaddl 1#8 2#8 0#8) (mode 0) 10 0 = some 15 := by decide +kernel
/-- 1.5 × 1.5 = 2.25 in binary32, 1 + 2 ^ −24 rounds to even, and 1.5 + 0.25 = 1.75 in binary16. -/
theorem test_fmul : result (.fmul 1#8 2#8 3#8) (mode 4) 0x3FC00000 0x3FC00000 = some 0x40100000 := by decide +kernel
theorem test_fadd_even : result (.fadd 1#8 2#8 3#8) (mode 4) 0x3F800000 0x33800000 = some 0x3F800000 := by decide +kernel
theorem test_fadd_half : result (.fadd 1#8 2#8 3#8) (mode 6) 0x3E00 0x3400 = some 0x3F00 := by decide +kernel
theorem test_fneg : result (.fneg 1#8 2#8 0#8) (mode 4) 0x3F800000 0 = some 0xBF800000 := by decide +kernel
/-- 12 R325: an opcode of the future space. -/
theorem test_future : decodeWord 0xC0000000#32 = .error .futureOpcode := rfl

end Sys2Proof.Tests
end

section
/-!
SUPPORT. Launch queues (03 R60, R61, Table 3.4): what a queue reads as behind a stop, behind a read of its tail line and behind the write of
LQCFG that clears ERR; and O42, that a queue stops in two cases, starts nothing while stopped, and resumes at LQHEAD.
-/
namespace Sys2Proof.Machine

/-! ### The steps of the launch unit, by name -/

theorem exec_tailRefetch (vf q : Nat) (s : State) : exec (.tailRefetch vf q) s = execTailRefetch vf q s := rfl

theorem exec_launchPacketStart (source : PacketSource) (linkOk : Bool) (s : State) :
    exec (.launchPacketStart source linkOk) s = execLaunchPacketStart source linkOk s := rfl

theorem exec_lqErrClear (vf q : Nat) (value : Word) (s : State) :
    exec (.lqErrClear vf q value) s = execLqErrClear vf q value s := rfl

/-! ### A changed queue leaves the rest of the host's side -/

section
variable (s : State) (vf q : Nat)

@[simp] theorem State.onLq_launches (f : LaunchQueue → LaunchQueue) : (s.onLq vf q f).launches = s.launches := rfl
@[simp] theorem State.onLq_hostMem (f : LaunchQueue → LaunchQueue) : (s.onLq vf q f).host.mem = s.host.mem := rfl
@[simp] theorem State.onLq_vectors (f : LaunchQueue → LaunchQueue) : (s.onLq vf q f).host.vectors = s.host.vectors := rfl

/-! ### A queue that stops (R61) -/

/-- A queue with ERR set. -/
def LaunchQueue.stopped (l : LaunchQueue) : LaunchQueue := { l with cfg := l.cfg ||| 0x40000000#32 }

@[simp] theorem LaunchQueue.err_stopped (l : LaunchQueue) : l.stopped.err = true := by
  simp [LaunchQueue.err, LaunchQueue.stopped, wbit]

@[simp] theorem LaunchQueue.head_stopped (l : LaunchQueue) : l.stopped.head = l.head := rfl
@[simp] theorem LaunchQueue.tail_stopped (l : LaunchQueue) : l.stopped.tail = l.tail := rfl

@[simp] theorem State.stopQueue_queueOf : (s.stopQueue vf q).queueOf vf q = (s.queueOf vf q).stopped :=
  State.queueOf_onLq_self s vf q LaunchQueue.stopped
@[simp] theorem State.stopQueue_vectors :
    (s.stopQueue vf q).host.vectors = s.host.vectors ++ [(vf, (s.queueOf vf q).vector)] := rfl
@[simp] theorem State.stopQueue_launches : (s.stopQueue vf q).launches = s.launches := rfl

/-! ### The tail line (R60) -/

/-- Word 0 of a queue's tail line. -/
def State.tailWord : Word := BitVec.ofNat 32 (natOfBytes (Memory.readBytes s.host.mem (s.queueOf vf q).tailLine 4))

/-- A queue with the tail of its line taken and the line held. -/
def LaunchQueue.withTail (l : LaunchQueue) (tail : Word) : LaunchQueue := { l with tail := tail, held := true }

@[simp] theorem LaunchQueue.head_withTail (l : LaunchQueue) (tail : Word) : (l.withTail tail).head = l.head := rfl
@[simp] theorem LaunchQueue.tail_withTail (l : LaunchQueue) (tail : Word) : (l.withTail tail).tail = tail := rfl
@[simp] theorem LaunchQueue.err_withTail (l : LaunchQueue) (tail : Word) : (l.withTail tail).err = l.err := rfl
@[simp] theorem LaunchQueue.vector_withTail (l : LaunchQueue) (tail : Word) : (l.withTail tail).vector = l.vector := rfl
theorem LaunchQueue.overrun_withTail (l : LaunchQueue) (tail : Word) :
    (l.withTail tail).overrun = decide (l.size < (tail - l.head).toNat) := rfl

/-- The state with the tail taken, before it is compared with LQHEAD. -/
def State.takeTail : State := s.onLq vf q (fun l => l.withTail (s.tailWord vf q))

@[simp] theorem State.takeTail_queueOf : (s.takeTail vf q).queueOf vf q = (s.queueOf vf q).withTail (s.tailWord vf q) :=
  State.queueOf_onLq_self ..
@[simp] theorem State.takeTail_vectors : (s.takeTail vf q).host.vectors = s.host.vectors := rfl

/-- A read of the tail line stops a running queue exactly when the tail is further ahead of LQHEAD than the ring is long. -/
theorem State.readTail_eq (he : (s.queueOf vf q).err = false) : s.readTail vf q =
    if (s.queueOf vf q).size < (s.tailWord vf q - (s.queueOf vf q).head).toNat then (s.takeTail vf q).stopQueue vf q
    else s.takeTail vf q := by
  show (if ((s.takeTail vf q).queueOf vf q).overrun && !(s.queueOf vf q).err then (s.takeTail vf q).stopQueue vf q
    else s.takeTail vf q) = _
  rw [he, State.takeTail_queueOf, LaunchQueue.overrun_withTail, Bool.not_false, Bool.and_true]
  simp only [decide_eq_true_eq]

/-! ### The write of LQCFG that clears ERR (Table 3.4) -/

theorem testBit_wbits {w : Nat} (x : BitVec w) (hi lo i : Nat) :
    (wbits x hi lo).testBit i = (decide (i < hi + 1 - lo) && wbit x (lo + i)) := by
  simp only [wbits, bitsOf, Nat.testBit_mod_two_pow, Nat.testBit_shiftRight]; rfl

/-- LQCFG as a write stores it with ERR clear: EN and VECTOR of the value written, and a size. -/
def clearedCfg (value : Word) (size : Nat) : Word := (value &&& 0x8000FF00#32) ||| BitVec.ofNat 32 (size * 2 ^ 20)

/-- Bits 20 and up of a stored LQCFG: EN, and SIZELOG in [23:20]. -/
theorem clearedCfg_bit (value : Word) (size i : Nat) (h : i < 12) :
    wbit (clearedCfg value size) (20 + i) = ((i == 11 && wbit value 31) || size.testBit i) := by
  have hs : (size * 2 ^ 20).testBit (20 + i) = size.testBit i := by
    simp [Nat.testBit_mul_two_pow, -Nat.reducePow]
  have hmask : ∀ k < 12, (0x8000FF00#32).getLsbD (20 + k) = (k == 11) := by decide
  have hm : (value &&& 0x8000FF00#32).getLsbD (20 + i) = (i == 11 && value.getLsbD 31) := by
    rw [BitVec.getLsbD_and, hmask i h, Bool.and_comm]
    by_cases h11 : i = 11
    · rw [h11]
    · rw [beq_eq_false_iff_ne.2 h11, Bool.false_and, Bool.false_and]
  simp only [wbit, clearedCfg, BitVec.getLsbD_or, BitVec.getLsbD_ofNat, hm, hs, show 20 + i < 32 by omega, decide_true, Bool.true_and]

theorem clearedCfg_enabled (value : Word) {size : Nat} (h : size < 16) : wbit (clearedCfg value size) 31 = wbit value 31 := by
  have := clearedCfg_bit value size 11 (by omega)
  simpa [Nat.testBit_lt_two_pow (show size < 2 ^ 11 by omega)] using this

theorem clearedCfg_err (value : Word) {size : Nat} (h : size < 16) : wbit (clearedCfg value size) 30 = false := by
  have := clearedCfg_bit value size 10 (by omega)
  simpa [Nat.testBit_lt_two_pow (show size < 2 ^ 10 by omega)] using this

theorem clearedCfg_size (value : Word) {size : Nat} (h : size < 16) : wbits (clearedCfg value size) 23 20 = size := by
  apply Nat.eq_of_testBit_eq
  intro i
  rw [testBit_wbits]
  by_cases hi : i < 4
  · rw [clearedCfg_bit value size i (by omega)]
    simp [hi, show i ≠ 11 by omega]
  · have : size < 2 ^ i := Nat.lt_of_lt_of_le h (Nat.pow_le_pow_right Nat.two_pos (Nat.not_lt.1 hi))
    simp [hi, Nat.testBit_lt_two_pow this]

/-- SIZELOG is a field of four bits. -/
theorem sizelog_lt (cfg : Word) : wbits cfg 23 20 < 16 := Nat.mod_lt _ (by decide)

/-- A queue with LQCFG written to clear ERR, its size kept. -/
def LaunchQueue.resumed (value : Word) (l : LaunchQueue) : LaunchQueue := { l with cfg := clearedCfg value (wbits l.cfg 23 20) }

section
variable (value : Word) (l : LaunchQueue)

theorem LaunchQueue.enabled_resumed : (l.resumed value).enabled = wbit value 31 := clearedCfg_enabled value (sizelog_lt _)
@[simp] theorem LaunchQueue.err_resumed : (l.resumed value).err = false := clearedCfg_err value (sizelog_lt _)
@[simp] theorem LaunchQueue.size_resumed : (l.resumed value).size = l.size :=
  congrArg (2 ^ ·) (clearedCfg_size value (sizelog_lt _))
@[simp] theorem LaunchQueue.packetAt_resumed (n : Word) : (l.resumed value).packetAt n = l.packetAt n := by
  unfold LaunchQueue.packetAt; rw [LaunchQueue.size_resumed]; rfl
@[simp] theorem LaunchQueue.overrun_resumed : (l.resumed value).overrun = l.overrun := by
  unfold LaunchQueue.overrun; rw [LaunchQueue.size_resumed]; rfl

end

variable {s vf q}

/-- A write that keeps EN and clears ERR is accepted, and with the tail within the ring it changes LQCFG alone. -/
theorem State.lqcfgWrite_errClear {value : Word} (hen : (s.queueOf vf q).enabled = true) (h31 : wbit value 31 = true)
    (h30 : wbit value 30 = true) (hz29 : wbits value 29 24 = 0) (hz19 : wbits value 19 16 = 0) (hz7 : wbits value 7 0 = 0)
    (hsize : 4 ≤ wbits (s.queueOf vf q).cfg 23 20) (hover : (s.queueOf vf q).overrun = false) :
    (s.lqcfgWrite vf q value).queueOf vf q = (s.queueOf vf q).resumed value ∧ (s.lqcfgWrite vf q value).host.mem = s.host.mem := by
  have hstored : s.lqcfgWrite vf q value =
      s.onLq vf q (fun l => { l with cfg := clearedCfg value (wbits (s.queueOf vf q).cfg 23 20) }) := by
    have hover' := (LaunchQueue.overrun_resumed value _).trans hover
    simp only [LaunchQueue.resumed, clearedCfg] at hover'
    simp [State.lqcfgWrite, hen, h31, h30, hz29, hz19, hz7, Nat.not_lt.2 hsize, clearedCfg, hover', -Nat.reducePow]
  rw [hstored]
  exact ⟨State.queueOf_onLq_self .., rfl⟩

/-- The packet at LQHEAD is what the ring holds there. -/
theorem State.hostPacket_congr {t : State} (hm : t.host.mem = s.host.mem)
    (hp : (t.queueOf vf q).packetAt (t.queueOf vf q).head = (s.queueOf vf q).packetAt (s.queueOf vf q).head) :
    t.hostPacket vf q = s.hostPacket vf q := by
  unfold State.hostPacket; simp only [hm, hp]

/-! ### What is served (R65) -/

/-- A source that is served has a ready packet. -/
theorem State.packetReady_of_served (h : s.served vf q = true) : s.packetReady vf q = true := by
  unfold State.served State.nextQueueOf at h
  rw [Bool.and_eq_true, beq_iff_eq, beq_iff_eq] at h
  exact List.find?_some h.2

/-- A host queue that is served is not stopped. -/
theorem State.err_eq_false_of_served (hq : q < 8) (h : s.served vf q = true) : (s.queueOf vf q).err = false := by
  have hr := State.packetReady_of_served h
  rw [State.packetReady, if_neg (by omega)] at hr
  simp only [Bool.and_eq_true, Bool.not_eq_true'] at hr
  exact hr.1.1.2

/-! ### R61, clause by clause -/

/-- TAIL_REFETCH of a running queue whose line was snooped away reads it. -/
theorem exec_tailRefetch_snooped (hq : q < 8) (hen : (s.queueOf vf q).enabled = true) (hheld : (s.queueOf vf q).held = false) :
    exec (.tailRefetch vf q) s = .next (s.readTail vf q) := by
  rw [exec_tailRefetch]; simp [execTailRefetch, hen, hheld, hq]

/-- A ring read that fails on the link stops the queue. -/
theorem exec_launchPacketStart_linkFailure (hq : q < 8) (h : s.served vf q = true) :
    exec (.launchPacketStart (.host vf q) false) s = .next (s.stopQueue vf q) := by
  rw [exec_launchPacketStart]; simp [execLaunchPacketStart, h, Nat.not_le.2 hq]

/-- A stopped queue starts no packet. -/
theorem exec_launchPacketStart_stopped (hq : q < 8) (he : (s.queueOf vf q).err = true) (linkOk : Bool) :
    exec (.launchPacketStart (.host vf q) linkOk) s = .next s := by
  have hs : s.served vf q = false := by
    refine Bool.eq_false_iff.2 (fun h => ?_)
    exact Bool.noConfusion (he.symm.trans (State.err_eq_false_of_served hq h))
  rw [exec_launchPacketStart]; simp [execLaunchPacketStart, hs]

/-- A write of a 1 to ERR of a stopped queue is a write of LQCFG. -/
theorem exec_lqErrClear_stopped {value : Word} (ho : s.lqOpen vf q = true) (he : (s.queueOf vf q).err = true)
    (h30 : wbit value 30 = true) : exec (.lqErrClear vf q value) s = .next (s.lqcfgWrite vf q value) := by
  rw [exec_lqErrClear]; simp [execLqErrClear, ho, he, h30]

end

/-- Settles O42: a tail too far ahead and a failed ring read both stop the queue; what is served has ERR clear; and the write that clears
ERR keeps the size of the ring, so that the packet at LQHEAD stays the same. -/
theorem launchQueueStops : Obligations.LaunchQueueStops := by
  unfold Obligations.LaunchQueueStops
  intro s vf q hq
  refine ⟨fun hen hheld herr => ?tail, fun hserved => ?link, fun herr => exec_launchPacketStart_stopped hq herr,
    fun value hopen hen herr h31 h30 hz29 hz19 hz7 hsize hover => ?clear⟩
  case tail =>
    refine ⟨_, exec_tailRefetch_snooped hq hen hheld, ?_⟩
    rw [State.readTail_eq s vf q herr, ← State.tailWord]
    split
    · next hahead => exact ⟨by simp, by simp, fun _ => ⟨by simp, by simp⟩, fun hwithin => absurd hahead (Nat.not_lt.2 hwithin)⟩
    · next hwithin => exact ⟨by simp, by simp, fun hahead => absurd hahead hwithin, fun _ => ⟨by simp [herr], by simp⟩⟩
  case link => exact ⟨_, exec_launchPacketStart_linkFailure hq hserved, by simp⟩
  case clear =>
    obtain ⟨hqueue, hmem⟩ := State.lqcfgWrite_errClear hen h31 h30 hz29 hz19 hz7 hsize hover
    refine ⟨_, exec_lqErrClear_stopped hopen herr h30, ?_, ?_, ?_, State.hostPacket_congr hmem ?_⟩
    · rw [hqueue, LaunchQueue.err_resumed]
    · rw [hqueue, LaunchQueue.enabled_resumed, h31]
    · rw [hqueue]; rfl
    · rw [hqueue, LaunchQueue.packetAt_resumed]; rfl

end Sys2Proof.Machine
end

section
/-!
SUPPORT. Grant (10 R286): the two shapes of its answer, a register granted nothing and a register granted some fields, with what each
field of them reads as; which of the two Grant gives in each branch; and O30.
-/
namespace Sys2Proof.Machine

variable {sh : Word512} {floor : BitVec 9}

/-! ### Fields after several fields have been replaced -/

/-- A field that the list does not name keeps its value. -/
theorem shapeGet_shapeSets_of_notMem {d : Nat} (hd : d ≤ 15) (fs : List (Nat × Nat)) (sh : Word512)
    (h : ∀ f ∈ fs, f.1 ≤ 15 ∧ f.1 ≠ d) : shapeGet (shapeSets sh fs) d = shapeGet sh d := by
  induction fs generalizing sh with
  | nil => rfl
  | cons f fs ih =>
    obtain ⟨hf, hne⟩ := h f List.mem_cons_self
    rw [shapeSets, ih _ (fun f' hf' => h f' (List.mem_cons_of_mem _ hf')), shapeGet_shapeSet _ _ _ _ hf hd, if_neg hne]

/-- A field that the list names once holds the value given, when that fits. -/
theorem shapeGet_shapeSets_of_mem {d v : Nat} (hd : d ≤ 15) (hv : v < 2 ^ (shapePlace d).2) (fs : List (Nat × Nat)) (sh : Word512)
    (hle : ∀ f ∈ fs, f.1 ≤ 15) (hnodup : (fs.map (·.1)).Nodup) (hmem : (d, v) ∈ fs) : shapeGet (shapeSets sh fs) d = v := by
  induction fs generalizing sh with
  | nil => exact absurd hmem List.not_mem_nil
  | cons f fs ih =>
    rw [List.map_cons, List.nodup_cons] at hnodup
    obtain ⟨hfresh, hnodup⟩ := hnodup
    have hle' : ∀ f' ∈ fs, f'.1 ≤ 15 := fun f' hf' => hle f' (List.mem_cons_of_mem _ hf')
    rw [shapeSets]
    rcases List.mem_cons.1 hmem with rfl | hmem
    · have hrest : ∀ f' ∈ fs, f'.1 ≤ 15 ∧ f'.1 ≠ d :=
        fun f' hf' => ⟨hle' f' hf', fun he => hfresh (List.mem_map.2 ⟨f', hf', he⟩)⟩
      rw [shapeGet_shapeSets_of_notMem hd fs _ hrest, shapeGet_shapeSet _ _ _ _ hd hd, if_pos rfl, Nat.mod_eq_of_lt hv]
    · exact ih _ hle' hnodup hmem

/-- A field reads below 2 to the power of its width. -/
theorem shapeGet_lt (sh : Word512) (d : Nat) : shapeGet sh d < 2 ^ (shapePlace d).2 :=
  Nat.mod_lt _ (Nat.two_pow_pos _)

/-! ### The parts of Grant -/

/-- The fields that hold a grant: GM, GN, GK, GMODE and GV. -/
def grantFields : List Nat := [6, 7, 8, 12, 14]

/-- The fields that the last line of R286 writes: STATUS and the tails. -/
def finishFields : List Nat := [1, 9, 10, 11]

/-- A register with the grant cleared and FLOOR written: the first line of R286. -/
def clearedShape (sh : Word512) (floor : BitVec 9) : Word512 :=
  shapeSets sh [(6, 0), (7, 0), (8, 0), (12, 0), (14, 0), (15, floor.toNat)]

/-- What Grant leaves when it gives nothing: the cleared register with its STATUS. -/
def ungrantedShape (sh : Word512) (floor : BitVec 9) (status : Nat) : Word512 :=
  shapeSet (clearedShape sh floor) 1 status

/-- The last line of R286: the tails set to the grant, and STATUS 1. -/
def finishedShape (s : Word512) : Word512 :=
  shapeSets s [(9, shapeGet s 6), (10, shapeGet s 7), (11, shapeGet s 8), (1, 1)]

/-- What Grant leaves when it gives the fields of a list. -/
def grantedShape (sh : Word512) (floor : BitVec 9) (grant : List (Nat × Nat)) : Word512 :=
  finishedShape (shapeSets (clearedShape sh floor) grant)

/-- What Grant gives a tile: the size of the mode, its number, and K in whole units. -/
def tileGrant (sh : Word512) (k : Nat) : List (Nat × Nat) :=
  [(6, (modeSize k).1), (7, (modeSize k).2), (12, k), (8, min (shapeGet sh 5 / unitLen (shapeGet sh 2) * unitLen (shapeGet sh 2)) 1024)]

/-! ### What Grant answers, branch by branch -/

theorem grantShape_tile {k : Nat} (h0 : shapeGet sh 0 = 1) (hbest : bestMode floor (shapeGet sh 3) (shapeGet sh 4) = some k)
    (hunit : unitLen (shapeGet sh 2) ≤ shapeGet sh 5) : grantShape sh floor = grantedShape sh floor (tileGrant sh k) := by
  unfold grantShape
  rw [h0]; dsimp only
  rw [hbest]
  exact if_neg (Nat.not_lt.2 hunit)

theorem grantShape_tile_noMode (h0 : shapeGet sh 0 = 1) (hbest : bestMode floor (shapeGet sh 3) (shapeGet sh 4) = none) :
    grantShape sh floor = ungrantedShape sh floor 2 := by
  unfold grantShape
  rw [h0]; dsimp only
  rw [hbest]; rfl

theorem grantShape_tile_noUnit (h0 : shapeGet sh 0 = 1) (hunit : shapeGet sh 5 < unitLen (shapeGet sh 2)) :
    grantShape sh floor = ungrantedShape sh floor 2 := by
  cases hbest : bestMode floor (shapeGet sh 3) (shapeGet sh 4) with
  | none => exact grantShape_tile_noMode h0 hbest
  | some k =>
    unfold grantShape
    rw [h0]; dsimp only
    rw [hbest]
    exact if_pos hunit

theorem grantShape_vector (h0 : shapeGet sh 0 = 2) (hlanes : 16 ≤ shapeGet sh 13) :
    grantShape sh floor = grantedShape sh floor [(14, if 32 ≤ shapeGet sh 13 then 32 else 16)] := by
  unfold grantShape
  rw [h0]; dsimp only
  by_cases h32 : 32 ≤ shapeGet sh 13
  · rw [if_pos h32, if_pos h32]; rfl
  · rw [if_neg h32, if_neg h32, if_pos hlanes]; rfl

theorem grantShape_vector_refused (h0 : shapeGet sh 0 = 2) (hlanes : shapeGet sh 13 < 16) :
    grantShape sh floor = ungrantedShape sh floor 2 := by
  unfold grantShape
  rw [h0]; dsimp only
  rw [if_neg (by omega), if_neg (by omega)]; rfl

theorem grantShape_noClass (h1 : shapeGet sh 0 ≠ 1) (h2 : shapeGet sh 0 ≠ 2) : grantShape sh floor = ungrantedShape sh floor 0 := by
  unfold grantShape
  split
  · next h => exact absurd h h1
  · next h => exact absurd h h2
  · rfl

/-! ### What the fields of the answer read as -/

/-- The request fields, STATUS and the tails pass the clearing. -/
theorem shapeGet_clearedShape_of_kept {d : Nat} (hd : d ∈ [0, 1, 2, 3, 4, 5, 9, 10, 11, 13]) :
    shapeGet (clearedShape sh floor) d = shapeGet sh d := by
  have hapart : ∀ d ∈ [0, 1, 2, 3, 4, 5, 9, 10, 11, 13], d ≤ 15 ∧ ∀ c ∈ [6, 7, 8, 12, 14, 15], c ≤ 15 ∧ c ≠ d := by decide
  obtain ⟨hd, hne⟩ := hapart d hd
  exact shapeGet_shapeSets_of_notMem hd _ _ (by simpa using hne)

/-- The grant fields are cleared. -/
theorem shapeGet_clearedShape_of_grant {d : Nat} (hd : d ∈ grantFields) : shapeGet (clearedShape sh floor) d = 0 := by
  have hle : ∀ d ∈ grantFields, d ≤ 15 := by decide
  exact shapeGet_shapeSets_of_mem (hle d hd) (Nat.two_pow_pos _) _ _ (by simp) (by simp) (by simp [grantFields] at hd ⊢; omega)

theorem shapeGet_clearedShape_floor : shapeGet (clearedShape sh floor) 15 = floor.toNat :=
  shapeGet_shapeSets_of_mem (by decide) (Nat.lt_trans floor.isLt (by decide)) _ _ (by simp) (by simp) (by simp)

/-- Every field but STATUS passes a refusal. -/
theorem shapeGet_ungrantedShape_of_ne {d status : Nat} (hd : d ≤ 15) (hne : d ≠ 1) :
    shapeGet (ungrantedShape sh floor status) d = shapeGet (clearedShape sh floor) d := by
  rw [ungrantedShape, shapeGet_shapeSet _ _ _ _ (by decide) hd, if_neg (Ne.symm hne)]

/-- Every field but STATUS and the tails passes the last line. -/
theorem shapeGet_finishedShape_of_ne {d : Nat} (s : Word512) (hd : d ≤ 15) (hne : d ∉ finishFields) :
    shapeGet (finishedShape s) d = shapeGet s d := by
  simp only [finishFields, List.mem_cons, List.not_mem_nil, or_false, not_or] at hne
  exact shapeGet_shapeSets_of_notMem hd _ _ (by simp; omega)

theorem shapeGet_finishedShape_status (s : Word512) : shapeGet (finishedShape s) 1 = 1 :=
  shapeGet_shapeSets_of_mem (by decide) (by decide) _ _ (by simp) (by simp) (by simp)

/-- The tails are the granted size. -/
theorem finishedShape_tails (s : Word512) :
    shapeGet (finishedShape s) 9 = shapeGet (finishedShape s) 6 ∧ shapeGet (finishedShape s) 10 = shapeGet (finishedShape s) 7 ∧
      shapeGet (finishedShape s) 11 = shapeGet (finishedShape s) 8 := by
  have htail : ∀ d ∈ [(9, 6), (10, 7), (11, 8)], shapeGet (finishedShape s) d.1 = shapeGet s d.2 := by
    have hplaces : ∀ d ∈ [(9, 6), (10, 7), (11, 8)], d.1 ≤ 15 ∧ (shapePlace d.1).2 = (shapePlace d.2).2 := by decide
    intro d hd
    obtain ⟨hle, hwidth⟩ := hplaces d hd
    refine shapeGet_shapeSets_of_mem hle (hwidth ▸ shapeGet_lt s d.2) _ _ (by simp) (by simp) ?_
    simp only [List.mem_cons, List.not_mem_nil, or_false] at hd
    rcases hd with rfl | rfl | rfl <;> simp
  have hsize : ∀ d ∈ [6, 7, 8], shapeGet (finishedShape s) d = shapeGet s d := by
    have hplaces : ∀ d ∈ [6, 7, 8], d ≤ 15 ∧ d ∉ finishFields := by decide
    exact fun d hd => shapeGet_finishedShape_of_ne s (hplaces d hd).1 (hplaces d hd).2
  exact ⟨(htail (9, 6) (by simp)).trans (hsize 6 (by simp)).symm, (htail (10, 7) (by simp)).trans (hsize 7 (by simp)).symm,
    (htail (11, 8) (by simp)).trans (hsize 8 (by simp)).symm⟩

section
variable {grant : List (Nat × Nat)} {d v : Nat}

/-- A field that the grant does not name reads as in the cleared register. -/
theorem shapeGet_grantedShape_of_notMem (hgrant : ∀ f ∈ grant, f.1 ∈ grantFields) (hd : d ≤ 15) (hne : d ∉ finishFields)
    (hfree : ∀ f ∈ grant, f.1 ≠ d) : shapeGet (grantedShape sh floor grant) d = shapeGet (clearedShape sh floor) d := by
  have hle : ∀ c ∈ grantFields, c ≤ 15 := by decide
  rw [grantedShape, shapeGet_finishedShape_of_ne _ hd hne]
  exact shapeGet_shapeSets_of_notMem hd _ _ (fun f hf => ⟨hle _ (hgrant f hf), hfree f hf⟩)

/-- A field that the grant names holds what the grant gives. -/
theorem shapeGet_grantedShape_of_mem (hgrant : ∀ f ∈ grant, f.1 ∈ grantFields) (hnodup : (grant.map (·.1)).Nodup)
    (hmem : (d, v) ∈ grant) (hv : v < 2 ^ (shapePlace d).2) : shapeGet (grantedShape sh floor grant) d = v := by
  have hplaces : ∀ c ∈ grantFields, c ≤ 15 ∧ c ∉ finishFields := by decide
  obtain ⟨hd, hne⟩ := hplaces d (hgrant _ hmem)
  rw [grantedShape, shapeGet_finishedShape_of_ne _ hd hne]
  exact shapeGet_shapeSets_of_mem hd hv _ _ (fun f hf => (hplaces _ (hgrant f hf)).1) hnodup hmem

end

/-- A register granted something has STATUS 1, and its tails are the grant. -/
theorem grantedShape_finished (grant : List (Nat × Nat)) : shapeGet (grantedShape sh floor grant) 1 = 1 ∧
    shapeGet (grantedShape sh floor grant) 9 = shapeGet (grantedShape sh floor grant) 6 ∧
      shapeGet (grantedShape sh floor grant) 10 = shapeGet (grantedShape sh floor grant) 7 ∧
      shapeGet (grantedShape sh floor grant) 11 = shapeGet (grantedShape sh floor grant) 8 :=
  ⟨shapeGet_finishedShape_status _, finishedShape_tails _⟩

/-- A refused register holds no grant, its STATUS, and the tails it had. -/
theorem ungrantedShape_fields {status : Nat} (hs : status ≤ 2) :
    (∀ f ∈ [6, 7, 8, 12], shapeGet (ungrantedShape sh floor status) f = 0) ∧ shapeGet (ungrantedShape sh floor status) 14 = 0 ∧
      shapeGet (ungrantedShape sh floor status) 1 = status ∧
      ∀ f ∈ [9, 10, 11], shapeGet (ungrantedShape sh floor status) f = shapeGet sh f := by
  have hcleared : ∀ d ∈ grantFields, shapeGet (ungrantedShape sh floor status) d = 0 := by
    have hplaces : ∀ d ∈ grantFields, d ≤ 15 ∧ d ≠ 1 := by decide
    intro d hd
    rw [shapeGet_ungrantedShape_of_ne (hplaces d hd).1 (hplaces d hd).2, shapeGet_clearedShape_of_grant hd]
  have hsub : ∀ f ∈ [6, 7, 8, 12], f ∈ grantFields := by decide
  refine ⟨fun f hf => hcleared f (hsub f hf), hcleared 14 (by decide), ?status, fun f hf => ?tail⟩
  case status =>
    rw [ungrantedShape, shapeGet_shapeSet _ _ _ _ (by decide) (by decide), if_pos rfl]
    exact Nat.mod_eq_of_lt (Nat.lt_of_le_of_lt hs (by decide))
  case tail =>
    have hplaces : ∀ f ∈ [9, 10, 11], f ≤ 15 ∧ f ≠ 1 ∧ f ∈ [0, 1, 2, 3, 4, 5, 9, 10, 11, 13] := by decide
    obtain ⟨hle, hne, hkept⟩ := hplaces f hf
    rw [shapeGet_ungrantedShape_of_ne hle hne, shapeGet_clearedShape_of_kept hkept]

/-! ### Whatever Grant answers -/

/-- Grant gives nothing, or gives some of the grant fields. -/
theorem grantShape_cases (sh : Word512) (floor : BitVec 9) : (∃ status, grantShape sh floor = ungrantedShape sh floor status) ∨
    ∃ grant, (∀ f ∈ grant, f.1 ∈ grantFields) ∧ grantShape sh floor = grantedShape sh floor grant := by
  by_cases h1 : shapeGet sh 0 = 1
  · by_cases hunit : unitLen (shapeGet sh 2) ≤ shapeGet sh 5
    · cases hbest : bestMode floor (shapeGet sh 3) (shapeGet sh 4) with
      | none => exact .inl ⟨_, grantShape_tile_noMode h1 hbest⟩
      | some k => exact .inr ⟨_, by simp [tileGrant, grantFields], grantShape_tile h1 hbest hunit⟩
    · exact .inl ⟨_, grantShape_tile_noUnit h1 (Nat.not_le.1 hunit)⟩
  · by_cases h2 : shapeGet sh 0 = 2
    · by_cases hlanes : 16 ≤ shapeGet sh 13
      · exact .inr ⟨_, by simp [grantFields], grantShape_vector h2 hlanes⟩
      · exact .inl ⟨_, grantShape_vector_refused h2 (Nat.not_le.1 hlanes)⟩
    · exact .inl ⟨_, grantShape_noClass h1 h2⟩

/-- Grant leaves the request fields and FLOOR as in the cleared register. -/
theorem shapeGet_grantShape_of_request {d : Nat} (hd : d ∈ [0, 2, 3, 4, 5, 13, 15]) :
    shapeGet (grantShape sh floor) d = shapeGet (clearedShape sh floor) d := by
  have hplaces : ∀ d ∈ [0, 2, 3, 4, 5, 13, 15], d ≤ 15 ∧ d ≠ 1 ∧ d ∉ finishFields ∧ ∀ c ∈ grantFields, c ≠ d := by decide
  obtain ⟨hle, hstatus, hne, hapart⟩ := hplaces d hd
  rcases grantShape_cases sh floor with ⟨status, h⟩ | ⟨grant, hgrant, h⟩
  · rw [h, shapeGet_ungrantedShape_of_ne hle hstatus]
  · rw [h, shapeGet_grantedShape_of_notMem hgrant hle hne (fun f hf => hapart _ (hgrant f hf))]

/-! ### Modes (10 Table 10.1) -/

/-- No mode has more than 64 rows or columns. -/
theorem modeSize_le (k : Nat) (hk : k < 9) : (modeSize k).1 ≤ 64 ∧ (modeSize k).2 ≤ 64 := by
  have hall : ∀ k < 9, (modeSize k).1 ≤ 64 ∧ (modeSize k).2 ≤ 64 := by decide
  exact hall k hk

/-- The order of the keys is that of R286: the size first, and the rows between equal sizes. -/
theorem mode_le_of_modeKey_le {j k : Nat} (hk : k < 9) (h : modeKey j ≤ modeKey k) :
    (modeSize j).1 * (modeSize j).2 < (modeSize k).1 * (modeSize k).2 ∨
      ((modeSize j).1 * (modeSize j).2 = (modeSize k).1 * (modeSize k).2 ∧ (modeSize j).1 ≤ (modeSize k).1) := by
  obtain ⟨hrows, -⟩ := modeSize_le k hk
  unfold modeKey at h
  omega

/-! ### A granted tile and a granted vector -/

/-- What the fields of a granted tile read as. -/
theorem grantedShape_tile_fields {k : Nat} (hk : k < 9) :
    shapeGet (grantedShape sh floor (tileGrant sh k)) 6 = (modeSize k).1 ∧
      shapeGet (grantedShape sh floor (tileGrant sh k)) 7 = (modeSize k).2 ∧
      shapeGet (grantedShape sh floor (tileGrant sh k)) 12 = k ∧
      shapeGet (grantedShape sh floor (tileGrant sh k)) 8 =
        min (shapeGet sh 5 / unitLen (shapeGet sh 2) * unitLen (shapeGet sh 2)) 1024 ∧
      shapeGet (grantedShape sh floor (tileGrant sh k)) 14 = 0 := by
  have hgrant : ∀ f ∈ tileGrant sh k, f.1 ∈ grantFields := by simp [tileGrant, grantFields]
  have hnodup : ((tileGrant sh k).map (·.1)).Nodup := by simp [tileGrant]
  have hgiven {d v : Nat} (hmem : (d, v) ∈ tileGrant sh k) (hv : v < 2 ^ (shapePlace d).2) :=
    shapeGet_grantedShape_of_mem (sh := sh) (floor := floor) hgrant hnodup hmem hv
  obtain ⟨hrows, hcols⟩ := modeSize_le k hk
  refine ⟨hgiven (by simp [tileGrant]) (Nat.lt_of_le_of_lt hrows (by decide)), hgiven (by simp [tileGrant]) (Nat.lt_of_le_of_lt hcols (by decide)),
    hgiven (by simp [tileGrant]) (Nat.lt_trans hk (by decide)),
    hgiven (by simp [tileGrant]) (Nat.lt_of_le_of_lt (Nat.min_le_right _ _) (by decide)), ?_⟩
  rw [shapeGet_grantedShape_of_notMem hgrant (by decide) (by decide) (by simp [tileGrant]), shapeGet_clearedShape_of_grant (by decide)]

/-- What the fields of a granted vector read as. -/
theorem grantedShape_vector_fields {lanes : Nat} (hl : lanes ≤ 32) :
    (∀ f ∈ [6, 7, 8, 12], shapeGet (grantedShape sh floor [(14, lanes)]) f = 0) ∧
      shapeGet (grantedShape sh floor [(14, lanes)]) 14 = lanes := by
  have hgrant : ∀ f ∈ [(14, lanes)], f.1 ∈ grantFields := by simp [grantFields]
  have hplaces : ∀ f ∈ [6, 7, 8, 12], f ≤ 15 ∧ f ∉ finishFields ∧ 14 ≠ f ∧ f ∈ grantFields := by decide
  refine ⟨fun f hf => ?_, shapeGet_grantedShape_of_mem hgrant (by simp) (by simp) (Nat.lt_of_le_of_lt hl (by decide))⟩
  obtain ⟨hle, hne, hapart, hcleared⟩ := hplaces f hf
  rw [shapeGet_grantedShape_of_notMem hgrant hle hne (by simpa using hapart), shapeGet_clearedShape_of_grant hcleared]

/-- Settles O30: each branch of R286 answers with a register granted nothing or one granted a tile or lanes, whose fields are known; of a
tile, `bestMode_spec` says that the mode picked is one of the floor within the request, with none larger. -/
theorem grantChoosesTheLargestMode : Obligations.GrantChoosesTheLargestMode := by
  unfold Obligations.GrantChoosesTheLargestMode
  intro sh floor g fits noTile tails refused
  have hrefused {status : Nat} (hs : status ≤ 2) (h : grantShape sh floor = ungrantedShape sh floor status) : refused status := by
    simpa only [refused, noTile, g, h] using ungrantedShape_fields hs
  have hfinished {grant : List (Nat × Nat)} (h : grantShape sh floor = grantedShape sh floor grant) : shapeGet g 1 = 1 ∧ tails := by
    simpa only [tails, g, h] using grantedShape_finished grant
  refine ⟨fun f hf => ?request, ?floor, fun h0 ⟨hmode, hunit⟩ => ?tile, fun h0 hnot => ?tileRefused, fun h0 hlanes => ?vector,
    fun h0 hlanes => hrefused (by decide) (grantShape_vector_refused h0 hlanes),
    fun h1 h2 => hrefused (by decide) (grantShape_noClass h1 h2)⟩
  case request =>
    have hkept : ∀ f ∈ [0, 2, 3, 4, 5, 13], f ∈ [0, 2, 3, 4, 5, 13, 15] ∧ f ∈ [0, 1, 2, 3, 4, 5, 9, 10, 11, 13] := by decide
    exact (shapeGet_grantShape_of_request (hkept f hf).1).trans (shapeGet_clearedShape_of_kept (hkept f hf).2)
  case floor => exact (shapeGet_grantShape_of_request (by simp)).trans shapeGet_clearedShape_floor
  case tile =>
    obtain ⟨j, hj⟩ := hmode
    rcases bestMode_spec floor (shapeGet sh 3) (shapeGet sh 4) with ⟨-, hnone⟩ | ⟨k, hbest, hfits, hmax⟩
    · exact absurd hj (hnone j)
    · have hg : g = grantedShape sh floor (tileGrant sh k) := grantShape_tile h0 hbest hunit
      obtain ⟨hrows, hcols, hnumber, hK, hlanes⟩ := grantedShape_tile_fields (sh := sh) (floor := floor) hfits.1
      rw [← hg] at hrows hcols hnumber hK hlanes
      obtain ⟨hstatus, htails⟩ := hfinished hg
      refine ⟨hstatus, hlanes, htails, ?_, ?_, fun i hi => ?_, hK⟩
      · rw [hnumber]; exact hfits
      · rw [hnumber, hrows, hcols]
      · rw [hrows, hcols]; exact mode_le_of_modeKey_le hfits.1 (hmax i hi)
  case tileRefused =>
    refine hrefused (by decide) ?_
    rcases bestMode_spec floor (shapeGet sh 3) (shapeGet sh 4) with ⟨hbest, -⟩ | ⟨k, -, hfits, -⟩
    · exact grantShape_tile_noMode h0 hbest
    · exact grantShape_tile_noUnit h0 (Nat.not_le.1 (fun hunit => hnot ⟨⟨k, hfits⟩, hunit⟩))
  case vector =>
    have hg : g = grantedShape sh floor [(14, if 32 ≤ shapeGet sh 13 then 32 else 16)] := grantShape_vector h0 hlanes
    obtain ⟨hstatus, htails⟩ := hfinished hg
    obtain ⟨hnone, hgiven⟩ := grantedShape_vector_fields (sh := sh) (floor := floor)
      (lanes := if 32 ≤ shapeGet sh 13 then 32 else 16) (by split <;> decide)
    rw [← hg] at hnone hgiven
    exact ⟨hstatus, hnone, htails, hgiven⟩

end Sys2Proof.Machine
end

section
/-!
SUPPORT. The bit instructions (13 Table 13.14, R377, R378): what the recursions behind POPC, CLZ and BREV count, measure and reverse, and
O2, in which every instruction is one value for each lane under `intResult_of`.
-/
namespace Sys2Proof.Machine

/-! ### Counting, measuring and reversing bits -/

/-- The bits of a number from the lowest on: bit 0, then the bits of its half. -/
theorem testBit_comp_succ (v : Nat) : v.testBit ∘ Nat.succ = (v / 2).testBit := by
  funext i
  exact Nat.testBit_succ v i

/-- Bit 0 as a number. -/
theorem ite_testBit_zero (v k : Nat) : (if v.testBit 0 then k else 0) = v % 2 * k := by
  rw [Nat.testBit_zero]
  rcases Nat.mod_two_eq_zero_or_one v with h | h <;> simp [h]

theorem countOnes_eq_countP (v n : Nat) : countOnes v n = (List.range n).countP v.testBit := by
  induction n generalizing v with
  | zero => rfl
  | succ n ih =>
    have hlow : (if v.testBit 0 then 1 else 0) = v % 2 := by rw [ite_testBit_zero, Nat.mul_one]
    rw [countOnes, ih, List.range_succ_eq_map, List.countP_cons, List.countP_map, testBit_comp_succ, hlow, Nat.add_comm]

theorem reverseBits_eq_sum (v n : Nat) :
    reverseBits v n = ((List.range n).map (fun i => if v.testBit i then 2 ^ (n - 1 - i) else 0)).sum := by
  induction n generalizing v with
  | zero => rfl
  | succ n ih =>
    have hhigh : (fun i => if v.testBit i then 2 ^ (n + 1 - 1 - i) else 0) ∘ Nat.succ =
        fun i => if (v / 2).testBit i then 2 ^ (n - 1 - i) else 0 := by
      funext i
      rw [Function.comp_apply, Nat.testBit_succ, show n + 1 - 1 - i.succ = n - 1 - i by omega]
    rw [reverseBits, ih, List.range_succ_eq_map, List.map_cons, List.map_map, List.sum_cons, hhigh, ite_testBit_zero, Nat.sub_zero,
      Nat.add_sub_cancel]

/-- A number that fits in n bits needs as many as its highest 1 bit says. -/
theorem bitLength_eq_log2 {v n : Nat} (hv : v < 2 ^ n) : bitLength v n = if v = 0 then 0 else v.log2 + 1 := by
  induction n with
  | zero => rw [if_pos (by simpa using hv)]; rfl
  | succ n ih =>
    rw [bitLength]
    by_cases htop : 2 ^ n ≤ v
    · have hne : v ≠ 0 := Nat.ne_of_gt (Nat.lt_of_lt_of_le (Nat.two_pow_pos n) htop)
      have hlog : v.log2 = n := (Nat.log2_eq_iff hne).2 ⟨htop, hv⟩
      rw [if_pos htop, if_neg hne, hlog]
    · rw [if_neg htop, ih (Nat.not_le.1 htop)]

theorem leadingZeros_eq {v n : Nat} (hv : v < 2 ^ n) : n - bitLength v n = if v = 0 then n else n - 1 - v.log2 := by
  rw [bitLength_eq_log2 hv]
  split <;> omega

theorem Ctx.raw_lt (x : Ctx) (s : State) (f : Fld) (l : Nat) : x.raw s f l < 2 ^ x.it.width :=
  Nat.mod_lt _ (Nat.two_pow_pos _)

/-! ### Instructions whose d follows the type -/

/-- An instruction that gives each lane a value of the type, with no exception. -/
theorem intResult_typed {mk : Byte → Byte → Byte → Instr} {form : Form} {op : Byte} {f f' : Ctx → State → Nat → LaneOut}
    (hd : form.d = .typed) (hw : form.dWrite = true) (he : ∀ d a b s, exec (mk d a b) s = issueLanes form op d a b f' s)
    (hf : ∀ x s l, f x s l = f' x s l) (hq : ∀ x s l, (f' x s l).exc = 0#5) : IntResult mk (fun _ _ => form) op f :=
  intResult_of hf hq (fun _ _ => hw) (fun _ _ ty => hd ▸ Kind.under_typed ty) he

/-- An instruction that gives each lane W bits. -/
theorem intResult_bits {mk : Byte → Byte → Byte → Instr} {form : Form} {op : Byte} {n n' : Ctx → State → Nat → Nat}
    (hd : form.d = .typed) (hw : form.dWrite = true)
    (he : ∀ d a b s, exec (mk d a b) s = issueLanes form op d a b (fun x s l => x.bitsOut (n' x s l)) s)
    (hn : ∀ x s l, n x s l = n' x s l) : IntResult mk (fun _ _ => form) op (fun x s l => x.bitsOut (n x s l)) :=
  intResult_typed hd hw he (fun x s l => congrArg x.bitsOut (hn x s l)) (fun _ _ _ => rfl)

/-! ### Shifts and bit fields (R377, R378) -/

/-- SAR: a shift of a number is a division that rounds down. -/
theorem exec_sar (d a b : Byte) (s : State) : exec (.sar d a b) s = issueLanes intFormR 0x2E#8 d a b (fun x s l =>
    .plain (x.it.ext (x.it.wrap ((⟨x.it.width, true⟩ : IntType).read (x.val s .a l) / 2 ^ x.shiftBy s l)))) s := by
  have hshift : ∀ (v : Int) (n : Nat), v >>> n = v / 2 ^ n := fun v n => by
    rw [Int.shiftRight_eq_div_pow]; norm_cast
  show execSar d a b s = _
  simp only [execSar, hshift]

/-- Settles O2: every instruction gives each lane one value and raises nothing; shifts are products and quotients by powers of two, and
POPC, CLZ and BREV count, measure and reverse the W low bits. -/
theorem bitwiseAndShifts : Obligations.BitwiseAndShifts := by
  unfold Obligations.BitwiseAndShifts
  refine ⟨?iand, ?ior, ?ixor, ?inot, ?shr, ?shl, ?sar, ?rotl, ?bfx, ?bfi, ?popc, ?clz, ?brev⟩
  case iand | ior | ixor | inot => exact intResult_bits rfl rfl (fun _ _ _ _ => rfl) (fun _ _ _ => rfl)
  case shr => exact intResult_bits rfl rfl (fun _ _ _ _ => rfl) (fun _ _ _ => (Nat.shiftRight_eq_div_pow _ _).symm)
  case shl => exact intResult_bits rfl rfl (fun _ _ _ _ => rfl) (fun _ _ _ => (Nat.shiftLeft_eq _ _).symm)
  case sar => exact intResult_typed rfl rfl exec_sar (fun _ _ _ => rfl) (fun _ _ _ => rfl)
  case rotl =>
    refine intResult_bits rfl rfl (fun _ _ _ _ => rfl) (fun x s l => ?_)
    rw [Nat.shiftLeft_eq, Nat.shiftRight_eq_div_pow]
  case bfx | bfi =>
    refine intResult_typed rfl rfl (fun _ _ _ _ => rfl) (fun x s l => ?value) (fun x s l => ?quiet)
    case value =>
      rcases x.bitField s l with _ | ⟨pos, len⟩
      · rfl
      · simp only [Nat.shiftRight_eq_div_pow]
    case quiet => cases x.bitField s l <;> rfl
  case popc => exact intResult_bits rfl rfl (fun _ _ _ _ => rfl) (fun _ _ _ => (countOnes_eq_countP _ _).symm)
  case clz => exact intResult_bits rfl rfl (fun _ _ _ _ => rfl) (fun x s l => (leadingZeros_eq (x.raw_lt s .a l)).symm)
  case brev => exact intResult_bits rfl rfl (fun _ _ _ _ => rfl) (fun _ _ _ => (reverseBits_eq_sum _ _).symm)

end Sys2Proof.Machine
end

section
/-!
SUPPORT. The floating-point instructions beyond arithmetic (14 R389 to R396) and the cross-lane instructions (14 R397 to R403): the
kinds of register they write, then O5, with one lemma for the instructions whose lanes may raise exceptions, and O12, with one for the
shuffles.
-/
namespace Sys2Proof.Machine

/-! ### Instructions whose form does not depend on their fields -/

/-- A register field is one register under every MODE.TYPE. -/
theorem Kind.under_reg (ty : Nat) : Kind.reg.under ty = .reg ∨ Kind.reg.under ty = .pair := .inl rfl

/-- A per-lane instruction that gives each lane a value with the exceptions it raises. -/
theorem laneResult_form {mk : Byte → Byte → Byte → Instr} {form : Form} {op : Byte} {f : Ctx → State → Nat → LaneOut}
    (hk : ∀ ty, form.d.under ty = .reg ∨ form.d.under ty = .pair) (hw : form.dWrite = true)
    (he : ∀ d a b s, exec (mk d a b) s = issueLanes form op d a b f s) :
    LaneResult mk (fun _ _ => form) op f :=
  laneResult_of (fun _ _ _ => rfl) (fun _ _ => hw) (fun _ _ => hk) he

/-! ### Conversions (R395) -/

/-- The destination of CVT is a register or a pair: bit 7 of the code says whether it follows the format named or MODE.TYPE. -/
theorem cvtForm_under (code ty : Nat) : (cvtForm code).d.under ty = .reg ∨ (cvtForm code).d.under ty = .pair := by
  by_cases hnamed : code < 128
  · rw [show (cvtForm code).d = .cvt (code % 32) from if_pos hnamed]
    exact Kind.under_cvt _ ty
  · rw [show (cvtForm code).d = .typed from if_neg hnamed]
    exact Kind.under_typed ty

/-! ### Minimum to conversion (R389 to R396) -/

/-- Settles O5: every instruction gives each lane its page's value. FABS, FNEG, FCPYS and FCLASS give plain values, which raise nothing;
the compares and FCLASS write a register, CVT a register or a pair by its code, and the others one by MODE.TYPE. -/
theorem floatCompareSelectConvert : Obligations.FloatCompareSelectConvert := by
  unfold Obligations.FloatCompareSelectConvert
  refine ⟨⟨?fmax, ?fmin, ?fmaxn, ?fminn, ?fabs, ?fneg, ?fcpys, ?fceq, ?fcne, ?fclt, ?fcle, ?fcun, ?fclass⟩,
    ?frint, ?fscale, ?flogb, ?fexp2, ?flog2, ?frsq, ?frcp, ?cvt⟩
  case fmax | fmin | fmaxn | fminn | frint | fscale | flogb | fexp2 | flog2 | frsq | frcp =>
    exact laneResult_form Kind.under_typed rfl (fun _ _ _ _ => rfl)
  case fabs | fneg | fcpys =>
    exact intResult_typed rfl rfl (fun _ _ _ _ => rfl) (fun _ _ _ => rfl) (fun _ _ _ => LaneOut.plain_exc _)
  case fceq | fcne | fclt | fcle | fcun => exact laneResult_form Kind.under_reg rfl (fun _ _ _ _ => rfl)
  case fclass =>
    exact intResult_of (fun _ _ _ => rfl) (fun _ _ _ => LaneOut.plain_exc _) (fun _ _ => rfl) (fun _ _ => Kind.under_reg)
      (fun _ _ _ _ => rfl)
  case cvt => exact laneResult_of (fun _ _ _ => rfl) (fun _ _ => rfl) (fun _ b => cvtForm_under b.toNat) (fun _ _ _ _ => rfl)

/-! ### Cross-lane instructions -/

/-- A shuffle takes its source lane's value, its own beyond the granted width, and 0 from a dead lane (R401). -/
theorem crossResult_shuffle {mk : Byte → Byte → Byte → Instr} {pick : Kind} {op : Byte} {src : Ctx → State → Nat → Nat}
    (he : ∀ d a b s, exec (mk d a b) s =
      issue (crossForm .typed .typed pick) op d a b (crossEffect (fun x s l => shuffleFrom x s l (src x s l))) s) :
    CrossResult mk (crossForm .typed .typed pick) op (fun x s l => shuffleFrom x s l (src x s l)) :=
  crossResult_of (fun _ _ _ => rfl) Kind.under_typed he

/-- Settles O12: every instruction issues in the cross-lane frame with the result of its page for each lane. Where the statement says a
result in other words than the model, the two agree: for SCAN in each of its two kinds, for VOTE at each code, and for MATCH as the
comparison with S. -/
theorem crossLanes : Obligations.CrossLanes := by
  unfold Obligations.CrossLanes
  intro from_
  refine ⟨?reduce, ?scan, ?shfl, ?shflup, ?shfldn, ?shflx, ?vote, ?matchOp, ?fcpack, ?fcunpk⟩
  case reduce | fcunpk => exact crossResult_of (fun _ _ _ => rfl) Kind.under_typed (fun _ _ _ _ => rfl)
  case scan =>
    refine crossResult_of (fun x s l => ?_) Kind.under_typed (fun _ _ _ _ => rfl)
    cases x.b.testBit 4 with
    | false => rfl
    | true => rfl
  case shfl | shflup | shfldn | shflx => exact crossResult_shuffle (fun _ _ _ _ => rfl)
  case vote =>
    refine crossResult_of (fun x s l => ?_) Kind.under_reg (fun _ _ _ _ => rfl)
    rcases x.b with _ | _ | _ | _ <;> rfl
  case matchOp =>
    refine crossResult_of (fun x s l => ?_) Kind.under_reg (fun _ _ _ _ => rfl)
    simp only [Ctx.sMask, beq_iff_eq]
  case fcpack => exact crossResult_of (fun _ _ _ => rfl) Kind.under_reg (fun _ _ _ _ => rfl)

end Sys2Proof.Machine
end

section
/-!
SUPPORT. Per-lane instructions of one value (13 R349, R350, R364, R365, R380, R381; 14 R384, R387; 15 R422): what a value of an integer
type reads back as once it has been narrowed (O1), and O3, O4 and O6, in which every instruction is one value for each lane.
-/
namespace Sys2Proof.Machine

/-! ### Narrowing into an integer type (R350) -/

/-- The integer types of MODE.TYPE are 8, 16, 32 or 64 bits wide. -/
theorem intType_width (ty : Nat) (h : ty < 12) :
    0 < (intType ty).width ∧ ((intType ty).width ≤ 32 ∨ (intType ty).width = 64) := by
  have : ∀ ty : Fin 12, 0 < (intType ty).width ∧ ((intType ty).width ≤ 32 ∨ (intType ty).width = 64) := by decide
  exact this ⟨ty, h⟩

theorem two_pow_pos (n : Nat) : (0 : Int) < 2 ^ n := Int.pow_pos (by decide)

section
variable (i : IntType)

/-- The low W bits of what Ext writes are those of the value. -/
theorem IntType.ext_low (hw : i.width ≤ 32 ∨ i.width = 64) (v : Int) :
    (((i.ext v).toNat % 2 ^ i.width : Nat) : Int) = v % 2 ^ i.width := by
  have low : ∀ n, i.width ≤ n → (((BitVec.ofInt n v).toNat % 2 ^ i.width : Nat) : Int) = v % 2 ^ i.width := by
    intro n hn
    have hpos : (0 : Int) ≤ v % 2 ^ n := Int.emod_nonneg _ (Int.ne_of_gt (two_pow_pos _))
    have hdvd : (2 ^ i.width : Int) ∣ 2 ^ n :=
      ⟨2 ^ (n - i.width), by rw [← Int.pow_add, Nat.add_sub_cancel' hn]⟩
    rw [BitVec.toNat_ofInt]
    push_cast
    rw [Int.toNat_of_nonneg hpos, Int.emod_emod_of_dvd v hdvd]
  unfold IntType.ext
  by_cases h64 : i.width = 64
  · rw [if_pos h64]
    exact low 64 (by omega)
  · rw [if_neg h64, BitVec.toNat_setWidth_of_le (by decide)]
    exact low 32 (by omega)

/-- What Ext writes reads back, under the type, as the wrapped value. -/
theorem IntType.read_ext (hw : i.width ≤ 32 ∨ i.width = 64) (v : Int) : i.read (i.ext v) = i.wrap v := by
  have hlow := i.ext_low hw v
  unfold IntType.read IntType.wrap
  simp only
  rw [show v.emod (2 ^ i.width) = v % 2 ^ i.width from rfl, ← hlow]
  norm_cast

/-- Wrap lands in the type's range, and keeps the value modulo 2^W. -/
theorem IntType.wrap_spec (h0 : 0 < i.width) (v : Int) :
    i.least ≤ i.wrap v ∧ i.wrap v ≤ i.greatest ∧ (2 ^ i.width : Int) ∣ (i.wrap v - v) := by
  obtain ⟨n, hn⟩ : ∃ n, i.width = n + 1 := ⟨i.width - 1, by omega⟩
  have hpow : (2 ^ i.width : Int) = 2 * 2 ^ (i.width - 1) := by rw [hn, Nat.add_sub_cancel, Int.pow_succ, Int.mul_comm]
  have hge : 0 ≤ v % 2 ^ i.width := Int.emod_nonneg _ (Int.ne_of_gt (two_pow_pos _))
  have hlt : v % 2 ^ i.width < 2 ^ i.width := Int.emod_lt_of_pos _ (two_pow_pos _)
  have hmod : (2 ^ i.width : Int) ∣ v % 2 ^ i.width - v :=
    Int.dvd_sub_self_of_emod_eq rfl
  unfold IntType.wrap IntType.least IntType.greatest
  simp only
  rw [show v.emod (2 ^ i.width) = v % 2 ^ i.width from rfl]
  cases i.signed
  · simp only [Bool.false_eq_true, false_and, if_false]
    exact ⟨hge, by omega, hmod⟩
  · simp only [true_and, if_true]
    split
    · refine ⟨by omega, by omega, ?_⟩
      rw [show v % 2 ^ i.width - 2 ^ i.width - v = v % 2 ^ i.width - v - 2 ^ i.width by omega]
      exact Int.dvd_sub hmod (Int.dvd_refl _)
    · exact ⟨by omega, by omega, hmod⟩

/-- Two values of the type's range that agree modulo 2^W are one. -/
theorem IntType.eq_of_dvd (h0 : 0 < i.width) {v w : Int} (hv : i.least ≤ v ∧ v ≤ i.greatest) (hw : i.least ≤ w ∧ w ≤ i.greatest)
    (h : (2 ^ i.width : Int) ∣ (w - v)) : w = v := by
  have hspan : i.greatest - i.least < 2 ^ i.width := by
    obtain ⟨n, hn⟩ : ∃ n, i.width = n + 1 := ⟨i.width - 1, by omega⟩
    have hpow : (2 ^ i.width : Int) = 2 * 2 ^ (i.width - 1) := by rw [hn, Nat.add_sub_cancel, Int.pow_succ, Int.mul_comm]
    unfold IntType.least IntType.greatest
    cases i.signed
    · simp only [Bool.false_eq_true, if_false]
      omega
    · simp only [if_true]
      omega
  have hz := Int.eq_zero_of_dvd_of_natAbs_lt_natAbs h (by omega)
  omega

theorem IntType.wrap_of_mem (h0 : 0 < i.width) {v : Int} (hv : i.least ≤ v ∧ v ≤ i.greatest) : i.wrap v = v := by
  obtain ⟨h1, h2, h3⟩ := i.wrap_spec h0 v
  exact i.eq_of_dvd h0 hv ⟨h1, h2⟩ h3

theorem IntType.least_le_greatest : i.least ≤ i.greatest := by
  unfold IntType.least IntType.greatest
  have h1 : (0 : Int) < 2 ^ (i.width - 1) := two_pow_pos _
  have h2 : (0 : Int) < 2 ^ i.width := two_pow_pos _
  cases i.signed
  · simp only [Bool.false_eq_true, if_false]
    omega
  · simp only [if_true]
    omega

/-- SatInt clamps to the type's range, and says whether the value lay outside it. -/
theorem IntType.sat_spec (v : Int) :
    (i.sat v).1 = max i.least (min v i.greatest) ∧ ((i.sat v).2 = true ↔ v < i.least ∨ i.greatest < v) := by
  have hle := i.least_le_greatest
  unfold IntType.sat
  split
  · next h => exact ⟨by omega, by simp [h]⟩
  · split
    · next h => exact ⟨by omega, by simp [h]⟩
    · next h1 h2 => exact ⟨by omega, by simp [h1, h2]⟩

/-- Arith reads back as the wrapped value with MODE.SAT = 0, and as the clamped one with MODE.SAT = 1. -/
theorem read_arith (h0 : 0 < i.width) (hw : i.width ≤ 32 ∨ i.width = 64) (v : Int) :
    i.read (arith i false v).val = i.wrap v ∧ i.read (arith i true v).val = (i.sat v).1 := by
  have kept : ∀ w, i.least ≤ w ∧ w ≤ i.greatest → i.read (i.ext w) = w := fun w h => by
    rw [i.read_ext hw, i.wrap_of_mem h0 h]
  obtain ⟨h1, h2, -⟩ := i.wrap_spec h0 v
  have hle := i.least_le_greatest
  refine ⟨kept (i.wrap v) ⟨h1, h2⟩, kept (i.sat v).1 ?_⟩
  rw [(i.sat_spec v).1]
  omega

end

/-! ### Quotients and remainders by powers of two, as the pages write them -/

/-- IMULH: the upper half of a product is a quotient rounded down. -/
theorem exec_imulh (d a b : Byte) (s : State) : exec (.imulh d a b) s = issueLanes intForm 0x23#8 d a b (fun x s l =>
    .plain (x.it.ext (x.it.wrap (x.int s .a l * x.int s .b l / 2 ^ x.it.width)))) s := by
  have hdiv : ∀ (v : Int) (n : Nat), v.fdiv (2 ^ n) = v / 2 ^ n := fun v n => Int.fdiv_eq_ediv_of_nonneg v (Int.le_of_lt (two_pow_pos n))
  show execImulh d a b s = _
  simp only [execImulh, hdiv]

/-- An instruction that narrows one value for each lane. -/
theorem intResult_arith {mk : Byte → Byte → Byte → Instr} {form : Form} {op : Byte} {v : Ctx → State → Nat → Int}
    (hd : form.d = .typed) (hw : form.dWrite = true)
    (he : ∀ d a b s, exec (mk d a b) s = issueLanes form op d a b (fun x s l => arith x.it (modeSat x.mode) (v x s l)) s) :
    IntResult mk (fun _ _ => form) op (fun x s l => arith x.it (modeSat x.mode) (v x s l)) :=
  intResult_typed hd hw he (fun _ _ _ => rfl) (fun _ _ _ => arith_exc _ _ _)

/-- Settles O1: each instruction narrows one value for each lane; Arith wraps or clamps it, and the narrowed value reads back. -/
theorem integerArithmetic : Obligations.IntegerArithmetic := by
  unfold Obligations.IntegerArithmetic
  refine ⟨?iadd, ?isub, ?imul, ?imad, ?imulh, ?imin, ?imax, ?iabs, ?ineg, ?narrowing, ?wrapped, ?clamped⟩
  case iadd | isub | imul | imad | iabs | ineg => exact intResult_arith rfl rfl (fun _ _ _ _ => rfl)
  case imulh => exact intResult_typed rfl rfl exec_imulh (fun _ _ _ => rfl) (fun _ _ _ => rfl)
  case imin | imax => exact intResult_typed rfl rfl (fun _ _ _ _ => rfl) (fun _ _ _ => rfl) (fun _ _ _ => rfl)
  case narrowing =>
    intro ty hty v i
    obtain ⟨h0, hw⟩ := intType_width ty hty
    obtain ⟨hwrap, hclamp⟩ := read_arith i h0 hw v
    obtain ⟨hlo, hhi, hmod⟩ := i.wrap_spec h0 v
    obtain ⟨hval, hsat⟩ := i.sat_spec v
    rw [hwrap, hclamp]
    exact ⟨rfl, hlo, hhi, hmod, hval, hsat⟩
  case wrapped | clamped => decide

/-! ### Compares, moves and literal forms (R380, R381) -/

/-- SEL: a where the old d is not zero, b where it is. -/
theorem exec_sel (d a b : Byte) (s : State) : exec (.sel d a b) s = issueLanes { intForm with dRead := true } 0x3E#8 d a b (fun x s l =>
    x.bitsOut (if x.raw s .d l = 0 then x.raw s .b l else x.raw s .a l)) s := by
  show execSel d a b s = _
  simp only [execSel, bne_iff_ne, ne_eq, ite_not]

/-- An instruction that writes a plain value to a register, or a pair, of each lane. -/
theorem intResult_plain {mk : Byte → Byte → Byte → Instr} {form : Byte → Byte → Form} {op : Byte} {f : Ctx → State → Nat → LaneOut}
    (hk : ∀ a b, (form a b).d = .reg ∨ (form a b).d = .pair) (hw : ∀ a b, (form a b).dWrite = true)
    (he : ∀ d a b s, exec (mk d a b) s = issueLanes (form a b) op d a b f s) (hq : ∀ x s l, (f x s l).exc = 0#5) :
    IntResult mk form op f :=
  intResult_of (fun _ _ _ => rfl) hq hw (fun a b ty => (hk a b).imp (fun h => by rw [h]; rfl) (fun h => by rw [h]; rfl)) he

/-- Settles O3: the compares write a flag, SEL one of two values, and each move and literal form the value its page gives. -/
theorem comparesMovesAndLiterals : Obligations.ComparesMovesAndLiterals := by
  unfold Obligations.ComparesMovesAndLiterals
  refine ⟨⟨?eq, ?ne, ?lt, ?le, ?gt, ?ge, ?sel⟩, ?mov, ?movl, ?movi, ?movih, ?iaddl, ?imull, ?iandl, ?iorl, ?ixorl, ?mov64, ?movl64⟩
  case eq | ne | lt | le | gt | ge =>
    exact intResult_plain (fun _ _ => .inl rfl) (fun _ _ => rfl) (fun _ _ _ _ => rfl) (fun _ _ _ => flagOut_exc _)
  case sel => exact intResult_typed rfl rfl exec_sel (fun _ _ _ => rfl) (fun _ _ _ => rfl)
  case mov | movl | movi =>
    exact intResult_plain (fun _ _ => .inl rfl) (fun _ _ => rfl) (fun _ _ _ _ => rfl) (fun _ _ _ => rfl)
  case movih => exact intResult_plain (fun _ _ => .inl rfl) (fun _ _ => rfl) (fun _ _ _ _ => rfl) (fun _ _ _ => rfl)
  case iaddl | imull => exact intResult_arith rfl rfl (fun _ _ _ _ => rfl)
  case iandl | iorl | ixorl => exact intResult_bits rfl rfl (fun _ _ _ _ => rfl) (fun _ _ _ => rfl)
  case mov64 | movl64 =>
    exact intResult_plain (fun _ _ => .inr rfl) (fun _ _ => rfl) (fun _ _ _ _ => rfl) (fun _ _ _ => rfl)

/-! ### Floating-point arithmetic (14 R384, R387) -/

/-- Settles O4: every instruction gives each lane its rounded result with the exceptions it raises. -/
theorem floatArithmetic : Obligations.FloatArithmetic := by
  unfold Obligations.FloatArithmetic
  refine ⟨?fadd, ?fsub, ?fmul, ?fma, ?fms, ?fnma, ?fnms, ?fmal⟩
  all_goals exact laneResult_form Kind.under_typed rfl (fun _ _ _ _ => rfl)

/-! ### Status reads (13 R364, R365; 15 R422) -/

/-- Settles O6: SYSV, RDFPS and QSTAT give each lane a plain word. -/
theorem statusReads : Obligations.StatusReads := by
  unfold Obligations.StatusReads
  refine ⟨?sysv, ?rdfps, ?qstat⟩
  all_goals exact intResult_plain (fun _ _ => .inl rfl) (fun _ _ => rfl) (fun _ _ _ _ => rfl) (fun _ _ _ => rfl)

end Sys2Proof.Machine
end

section
/-!
SUPPORT. Instructions of the group's own control (13 R352 to R357, R360, R361, R363, R365, R366): what the targets, tests and writes of
their pages come to, and O7 to O10.
-/
namespace Sys2Proof.Machine

variable {s u w : State} {g k : Group} {c : FetchedClause} {form : Form} {op d a b : Byte} {x : Ctx} {n : Nat}

/-! ### What leaves a group in its clause -/

/-- An effect that changes nothing. -/
theorem same_stands (hw : w.group? n = some k) : ∃ h, w.group? n = some h ∧ h.clause = k.clause := ⟨k, hw, rfl⟩

/-- Registers written in every lane, and then the control area. -/
theorem wrote_control_stands (x : Ctx) (hx : x.gid = n) (hw : w.group? n = some k) (r : Nat) (v : Word) (f : Control → Control) :
    ∃ h, (x.control (x.wroteAll w r v) f).group? n = some h ∧ h.clause = k.clause := by
  obtain ⟨h, h1, h2⟩ := wroteAll_stands x w n k hx hw r v
  obtain ⟨h', h3, h4⟩ := ctl_stands x (x.wroteAll w r v) n h hx h1 f
  exact ⟨h', h3, h4.trans h2⟩

/-! ### Branches (R352 to R354) -/

/-- The literal target: H + 4 × lit. -/
theorem Ctx.target_eq (x : Ctx) : x.target = x.g.ctl.pc + (x.lits.headD 0#32).signExtend 64 * 4 := by
  unfold Ctx.target
  rw [BitVec.shiftLeft_eq_mul_twoPow]
  rfl

/-- A branch to TextBase and a register that is a multiple of 4. -/
theorem branchText_aligned (x : Ctx) (w : State) (h : (x.rd w .a x.low).toNat % 4 = 0) :
    branchText x w = .jump w (BitVec.ofNat 64 (w.textBase x.g.ctl.handle + (x.rd w .a x.low).toNat)) := by
  unfold branchText
  simp only [h, bne_self_eq_false, Bool.false_eq_true, if_false]

/-- RET and BRX. -/
theorem jumps_text {mk : Byte → Byte → Byte → Instr} {op : Byte}
    (he : ∀ d a b s, exec (mk d a b) s = issue { plainForm with a := .reg } op d a b branchText s) :
    Jumps mk (fun _ _ _ => { plainForm with a := .reg }) op (fun x w => (x.rd w .a x.low).toNat % 4 = 0) (fun _ _ => True)
      (fun _ w => w) (fun x w => BitVec.ofNat 64 (w.textBase x.g.ctl.handle + (x.rd w .a x.low).toNat)) :=
  jumps_of he (fun _ _ _ _ _ _ x u _ _ _ hal => ⟨fun _ => branchText_aligned x u hal, fun hn => absurd trivial hn⟩)
    (fun _ _ _ _ _ hw => same_stands hw)

/-- A branch by literal that changes nothing else and is taken when its test holds. -/
theorem jumps_literal {mk : Byte → Byte → Byte → Instr} {form : Form} {op : Byte} {test : Ctx → State → Bool} {taken : Ctx → State → Prop}
    (he : ∀ d a b s, exec (mk d a b) s = issue form op d a b (fun x s => if test x s then .jump s x.target else .done s) s)
    (ht : ∀ s g c d a b x u, Issues s g c form op d a b x u → (test x u = true ↔ taken x u)) :
    Jumps mk (fun _ _ _ => form) op (fun _ _ => True) taken (fun _ w => w)
      (fun x _ => x.g.ctl.pc + (x.lits.headD 0#32).signExtend 64 * 4) :=
  jumps_of he (fun s g c d a b x u i _ _ _ =>
    ⟨fun h => by rw [if_pos ((ht _ _ _ _ _ _ _ _ i).2 h), x.target_eq], fun h => if_neg (fun ht' => h ((ht _ _ _ _ _ _ _ _ i).1 ht'))⟩)
    (fun _ _ _ _ _ hw => same_stands hw)

/-- BRU branches on 0 with code 1, and on any other value with code 0. -/
theorem bru_test (x : Ctx) (w : State) : ((x.rd w .a x.low == 0#32) == (x.b == 1)) = true ↔
    if x.b = 1 then x.rd w .a x.low = 0#32 else x.rd w .a x.low ≠ 0#32 := by
  by_cases h : x.b = 1
  · simp [h]
  · rw [if_neg h, beq_false_of_ne h, beq_iff_eq, beq_eq_false_iff_ne]

/-- Settles O7: each branch goes to its page's target when its test holds, and the registers that CALL and LOOP write are written first. -/
theorem branching : Obligations.Branching := by
  unfold Obligations.Branching
  refine ⟨?bra, ?bru, ?brnone, ?call, ?loop, ?ret, ?brx⟩
  case bra =>
    exact jumps_literal (test := fun _ _ => true) (fun _ _ _ _ => rfl) (fun _ _ _ _ _ _ _ _ _ => iff_of_true rfl trivial)
  case bru => exact jumps_literal (fun _ _ _ _ => rfl) (fun _ _ _ _ _ _ x u _ => bru_test x u)
  case brnone => exact jumps_literal (fun _ _ _ _ => rfl) (fun _ _ _ _ _ _ _ _ _ => beq_iff_eq)
  case call =>
    refine jumps_of (fun _ _ _ _ => rfl) (fun s g c d a b x u i hdy hp _ => ⟨fun _ => ?_, fun hn => absurd trivial hn⟩)
      (fun x w n k hx hw => wroteAll_stands x w n k hx hw _ _)
    simp only [writeD_all hdy i.kind_d (i.acts_once rfl) hp, x.target_eq]
  case loop =>
    refine jumps_of (fun _ _ _ _ => rfl) (fun s g c d a b x u i hdy hp _ => ⟨fun ht => ?_, fun ht => ?_⟩)
      (fun x w n k hx hw => wroteAll_stands x w n k hx hw _ _)
    · simp only [writeD_all hdy i.kind_d (i.acts_once rfl) hp, x.target_eq]
      exact if_neg (by simpa using ht)
    · simp only [writeD_all hdy i.kind_d (i.acts_once rfl) hp]
      exact if_pos (by simpa using ht)
  case ret | brx => exact jumps_text (fun _ _ _ _ => rfl)

/-! ### Divergence (R355, R356) -/

/-- An instruction that gives EXEC a new value. -/
theorem completes_exec {mk : Byte → Byte → Byte → Instr} {form : Form} {op : Byte} {m : Ctx → State → Word}
    (he : ∀ d a b s, exec (mk d a b) s = issue form op d a b (fun x s => .done (s.setExec x.gid (m x s))) s) :
    Completes mk (fun _ _ _ => form) op (fun _ _ => True) (fun x w => x.control w (fun k => { k with exec := m x w })) :=
  completes_of he (fun _ _ _ _ _ _ _ _ _ _ _ _ => rfl) (fun x w n k hx hw _ => ctl_stands x w n k hx hw _)

/-- What a run of lanes that pass a test leaves of a mask of live lanes. -/
theorem mask_of_test (live m : Word) (test : Nat → Bool) (ls : List Nat) (hl : ∀ l, l < 32 → live.getLsbD l = true → l ∈ ls) :
    m &&& live &&& maskOf (ls.filter test) = m &&& live &&& maskOf ((List.range 32).filter test) := by
  apply BitVec.eq_of_getLsbD_eq
  intro l hl32
  simp only [BitVec.getLsbD_and, getLsbD_maskOf, List.mem_filter, List.mem_range, hl32, true_and]
  cases hlive : live.getLsbD l with
  | false => simp
  | true => simp [hl l hl32 hlive]

/-- The lanes that pass the test of a uniform IFNZ: all or none. -/
theorem mask_of_one (live m : Word) (v : Word) :
    m &&& live &&& (if (v == 0#32) = true then 0#32 else 0xFFFFFFFF#32) =
      m &&& live &&& maskOf ((List.range 32).filter (fun _ => v != 0#32)) := by
  by_cases h : v = 0#32
  · subst h
    have hnone : (List.range 32).filter (fun _ => (0#32 : Word) != 0#32) = [] := List.filter_eq_nil_iff.2 (fun _ _ => by decide)
    rw [hnone]
    rfl
  · rw [if_neg (by simpa using h)]
    have hall : (List.range 32).filter (fun _ => v != 0#32) = List.range 32 := List.filter_eq_self.2 (fun _ _ => by simpa using h)
    rw [hall]
    rfl

/-- Settles O8: IFNZ gives d the old EXEC and keeps the lanes that pass; the others write EXEC or read it. -/
theorem divergence : Obligations.Divergence := by
  unfold Obligations.Divergence
  refine ⟨?ifnz, ?elseOp, ?endif, ?getexec, ?setexec⟩
  case ifnz =>
    refine completes_of (fun _ _ _ _ => rfl) (fun s g c d a b x u i hdy hp _ => ?_)
      (fun x w n k hx hw _ => wrote_control_stands x hx hw _ _ _)
    have hpass : x.g.ctl.exec &&& x.g.ctl.live &&& (if x.uni then (if x.rd u .a x.low == 0#32 then 0#32 else 0xFFFFFFFF#32)
        else maskOf (x.L.filter (fun t => x.rd u .a t != 0#32))) = x.g.ctl.exec &&& x.g.ctl.live &&&
          maskOf ((List.range 32).filter (fun l => x.rd u .a (if x.uni then x.low else l) != 0#32)) := by
      obtain ⟨-, hxg, -⟩ := i.ctx
      cases huni : x.uni with
      | true => exact mask_of_one _ _ _
      | false =>
        refine mask_of_test _ _ _ _ (fun l hl hlive => ?_)
        rw [i.lanes_L, huni, i.lanes_live rfl]
        exact (mem_laneList _ _).2 ⟨hl, by rw [← hxg]; exact hlive⟩
    simp only [hpass, writeD_L i hdy i.kind_d hp]
    rfl
  case elseOp | endif | setexec => exact completes_exec (fun _ _ _ _ => rfl)
  case getexec =>
    refine completes_of (fun _ _ _ _ => rfl) (fun s g c d a b x u i hdy hp _ => ?_)
      (fun x w n k hx hw _ => wroteAll_stands x w n k hx hw _ _)
    rw [writeD_all hdy i.kind_d (i.acts_once rfl) hp]

/-! ### NOP, FWAIT and YIELD (R357, R360, R361) -/

/-- Settles O9: NOP has no effect, FWAIT none once its flags are clear, and YIELD marks the group on its rail. -/
theorem nopFwaitYield : Obligations.NopFwaitYield := by
  unfold Obligations.NopFwaitYield
  refine ⟨?nop, ?fwait, ?yield⟩
  case nop =>
    intro s g c x u n i hdy
    obtain ⟨k, hk, hclause, -⟩ := i.stands
    exact effect_behind i rfl hk hclause (i.no_push' rfl) hdy
  case fwait =>
    exact completes_of (fun _ _ _ _ => rfl) (fun _ _ _ _ _ _ _ _ _ _ _ hclear => if_pos hclear)
      (fun _ _ _ _ _ hw _ => same_stands hw)
  case yield =>
    refine completes_of (fun _ _ _ _ => rfl) (fun s g c d a b x u i _ _ hseat => ?_) (fun _ _ _ _ _ hw _ => ⟨_, hw, rfl⟩)
    obtain ⟨seat, hseat⟩ := Option.isSome_iff_exists.1 hseat
    simp only [hseat, Option.getD_some]

/-! ### MODE, status and counters (R363, R365, R366) -/

/-- A value that passes the checks of a write of MODE is written. -/
theorem setMode_ok {v : Word} (h : ModeOk w x.g v) : setMode x w v = .done (x.control w (fun k => { k with mode := v })) := by
  obtain ⟨hmbz, hrnd, htype, hguard⟩ := h
  have hg : ¬(modeGuard v < 240 && decide ((w.recordOf x.g).regs ≤ modeGuard v)) = true := by
    simp only [Bool.and_eq_true, decide_eq_true_eq, not_and, Nat.not_le]
    exact hguard
  unfold setMode
  rw [if_neg (by simp [hmbz]), if_neg (by omega), if_neg (by omega), if_neg hg]
  rfl

/-- The places of the fields of MODE (Table 13.6). -/
theorem modeField_of_mem {d : Byte} {lo n : Nat} (h : (d, lo, n) ∈ [(0#8, 24, 8), (1#8, 23, 1), (2#8, 19, 4), (3#8, 16, 3), (4#8, 11, 5),
    (5#8, 10, 1), (6#8, 9, 1), (7#8, 8, 1), (8#8, 6, 2), (9#8, 4, 2)]) : modeField d.toNat = (lo, n) := by
  have hall : ∀ e ∈ [(0#8, 24, 8), (1#8, 23, 1), (2#8, 19, 4), (3#8, 16, 3), (4#8, 11, 5), (5#8, 10, 1), (6#8, 9, 1), (7#8, 8, 1),
      (8#8, 6, 2), (9#8, 4, 2)], modeField e.1.toNat = e.2 := by decide
  exact hall _ h

/-- The words a uniform or per-lane instruction reads for each lane of S. -/
theorem Issues.spread_reads (i : Issues s g c form op d a b x u) {α : Type} (f : Nat → α) :
    x.spread (x.L.map (fun l => (l, f l))) = x.S.map (fun l => (l, f (if x.uni then x.low else l))) := by
  have hS := i.lanes_S
  unfold Ctx.spread
  rw [i.lanes_L]
  unfold Ctx.low
  cases x.uni with
  | false => simp
  | true => cases hl : x.S with
    | nil => exact absurd hl hS
    | cons l ls => simp

/-- FPSTAT written, or cleared, lane after lane. -/
theorem writeFps_eq_foldl (clear : Bool) (v : Nat → Word) (ls : List Nat) (k : Control) :
    k.writeFps clear (ls.map (fun l => (l, v l))) = ls.foldl (fun k l => { k with
      fpstat := k.fpstat.setIfInBounds l (if clear then k.fpstat.getD l 0#5 &&& ~~~((v l).extractLsb' 0 5) else (v l).extractLsb' 0 5) }) k := by
  induction ls generalizing k with
  | nil => rfl
  | cons l ls ih => exact ih _

/-- A pair written to every lane of S by an instruction that acts once. -/
theorem writeD_pair (hdy : x.dying = []) (hk : x.kind .d = .pair) (hu : x.uni = true) (hp : x.pushes = false) (w : State) (v : Word64)
    (lane : Nat) : x.writeD w [(lane, v)] =
      x.S.foldl (fun t l => (t.writeReg x.gid x.d l (loWord v)).writeReg x.gid (x.d + 1) l (hiWord v)) w := by
  unfold Ctx.writeD Ctx.spread
  simp only [hp, hu, Bool.false_eq_true, if_false, if_true]
  generalize x.S = lanes
  induction lanes generalizing w with
  | nil => rfl
  | cons l lanes ih =>
    rw [List.map_cons, Ctx.writeLanes, ih, hdy]
    simp only [List.contains_nil, Bool.false_eq_true, if_false, List.foldl_cons]
    unfold Ctx.writeLane
    rw [hk]

theorem wbits_low (v : Word) (hi : Nat) : wbits v hi 0 = v.toNat % 2 ^ (hi + 1) := rfl

/-- Settles O10: a value that passes the checks is written to MODE, WRFPS changes the status bits its code names, and RDCNT writes a
counter to a pair of each lane. -/
theorem modeStatusCounters : Obligations.ModeStatusCounters := by
  unfold Obligations.ModeStatusCounters
  refine ⟨?setmode, ?modeset, ?sticky, ?fpstat, ?rdcnt⟩
  case setmode =>
    exact completes_of (fun _ _ _ _ => rfl) (fun s g c d a b x u i _ _ hok => setMode_ok hok)
      (fun x w n k hx hw _ => ctl_stands x w n k hx hw _)
  case modeset =>
    intro s g c d a b x u lo n hmem i hdy hok
    have hfield := modeField_of_mem hmem
    obtain ⟨hgid, hxg, -, -, hxa, -⟩ := i.ctx
    obtain ⟨k, hk, hclause, -⟩ := i.stands
    obtain ⟨h, hh, hc⟩ := ctl_stands x u g.gid k hgid hk (fun k => { k with mode := setBits g.ctl.mode lo n a.toNat })
    have hbody : setMode x u (setBits x.mode lo n x.a) =
        .done (x.control u (fun k => { k with mode := setBits g.ctl.mode lo n a.toNat })) := by
      rw [hxa, Ctx.mode, hxg]
      exact setMode_ok (by rw [hxg]; exact hok)
    show ∃ t, execModeset d a b s = .next t ∧ _
    unfold execModeset
    simp only [hfield]
    exact effect_behind i hbody hh (hc.trans hclause) (i.no_push' rfl) hdy
  case sticky =>
    refine completes_of (fun _ _ _ _ => rfl) (fun s g c d a b x u i _ _ hcode => ?_) (fun x w n k hx hw _ => ctl_stands x w n k hx hw _)
    rcases hcode with h | h <;> simp only [h] <;> rfl
  case fpstat =>
    refine completes_of (fun _ _ _ _ => rfl) (fun s g c d a b x u i _ _ hcode => ?_) (fun x w n k hx hw _ => ctl_stands x w n k hx hw _)
    rcases hcode with h | h
    all_goals
      simp only [h, i.spread_reads, writeFps_eq_foldl]
      rfl
  case rdcnt =>
    refine completes_of (fun _ _ _ _ => rfl) (fun s g c d a b x u i hdy hp _ => ?_) (fun x w n k hx hw _ => ?_)
    · rw [writeD_pair hdy i.kind_d (i.acts_once rfl) hp]
      rfl
    · subst hx
      refine stands_fold hw x.S _ (fun w k l hw => ?_)
      obtain ⟨h, h1, h2⟩ := stands_write hw x.d l _
      obtain ⟨h', h3, h4⟩ := stands_write h1 (x.d + 1) l _
      exact ⟨h', h3, h4.trans h2⟩

end Sys2Proof.Machine
end

section
/-!
SUPPORT. Operations that hold their results until they complete (06 R167): division, remainder and square root (O11), and the context and
page instructions, with what their own tests come to (O13, O14).
-/
namespace Sys2Proof.Machine

variable {s u w : State} {g k : Group} {c : FetchedClause} {form : Form} {op d a b : Byte} {x : Ctx} {n : Nat}

/-! ### Long-latency arithmetic (13 R379; 14 R385, R386) -/

/-- Results that raise no enabled exception are held by an operation. -/
theorem laneEffectLong_start {f : Ctx → State → Nat → LaneOut} (h : fpxTrap (modeTraps x.mode) (x.results u f) = none) :
    laneEffectLong f x u = .done (x.start u (x.kind .d).span (x.later u f)) := by
  unfold laneEffectLong
  simp only [h]
  rfl

/-- Integer results are held whatever MODE enables. -/
theorem starts_quiet {mk : Byte → Byte → Byte → Instr} {form : Form} {op : Byte} {f : Ctx → State → Nat → LaneOut}
    (he : ∀ d a b s, exec (mk d a b) s = issue form op d a b (laneEffectLong f) s) (hl : form.long = true)
    (hq : ∀ x u l, (f x u l).exc = 0#5) :
    Starts mk (fun _ _ _ => form) op (fun _ _ => True) (fun x => (x.kind .d).span) (fun x u => x.later u f) :=
  starts_of he (fun _ _ _ => hl) (fun _ _ _ _ _ _ x u _ _ _ => laneEffectLong_start (fpxTrap_quiet x u _ f (hq x u)))

/-- IREM: the remainder that belongs to a quotient rounded to zero. -/
theorem exec_irem (d a b : Byte) (s : State) : exec (.irem d a b) s = issue { intForm with long := true, own := true } 0x37#8 d a b
    (laneEffectLong (fun x s l => .plain (x.it.ext (x.int s .a l - x.int s .b l * (x.int s .a l).tdiv (x.int s .b l))))) s := by
  show execIrem d a b s = _
  simp only [execIrem, Int.tmod_def]

/-- FDIV and FSQRT with no exception enabled hold their results. -/
theorem starts_divide {mk : Byte → Byte → Byte → Instr} {form : Form} {op : Byte} {f : Ctx → State → Nat → LaneOut}
    (he : ∀ d a b s, exec (mk d a b) s = issue form op d a b (divideEffect f) s) (hl : form.long = true) :
    Starts mk (fun _ _ _ => form) op (fun x _ => modeTraps x.mode = 0#5) (fun x => (x.kind .d).span) (fun x u => x.later u f) :=
  starts_of he (fun _ _ _ => hl) (fun _ _ _ _ _ _ x u _ _ hoff => by
    unfold divideEffect
    rw [if_pos (by simpa using hoff)]
    exact laneEffectLong_start (by rw [hoff]; exact fpxTrap_off _))

/-- FDIV and FSQRT with an exception enabled, none of which is raised, write their results at once. -/
theorem divide_at_once {f : Ctx → State → Nat → LaneOut} (i : Issues s g c form op d a b x u) (hw : form.dWrite = true)
    (hk : form.d = .typed) (hdy : x.dying = []) (hd : d.toNat < 240) (hon : modeTraps g.ctl.mode ≠ 0#5)
    (hfpx : fpxTrap (modeTraps g.ctl.mode) (x.results u f) = none) :
    ∃ t h, issue form op d a b (divideEffect f) s = .next t ∧ LaneDone s t g c x u h (x.spread (x.results u f)) := by
  obtain ⟨-, hxg, -⟩ := i.ctx
  have heff : divideEffect f x u = laneEffect f x u := by
    unfold divideEffect
    rw [if_neg (by rw [Ctx.mode, hxg]; simpa using hon)]
  have hsame : issue form op d a b (divideEffect f) s = issueLanes form op d a b f s := by
    unfold issueLanes
    rw [issue_ready i, issue_ready i, heff]
  rw [hsame]
  exact issueLanes_done i f hw (by rw [i.kind_d, hk]; exact Kind.under_typed _) hd hdy hfpx

/-- Settles O11: each instruction holds its results in an operation; with an exception enabled FDIV and FSQRT write them at once. -/
theorem longArithmetic : Obligations.LongArithmetic := by
  unfold Obligations.LongArithmetic
  refine ⟨?idiv, ?irem, ?fdiv, ?fsqrt, ?fdivNow, ?fsqrtNow⟩
  case idiv =>
    refine starts_quiet (fun _ _ _ _ => rfl) rfl (fun x u l => ?_)
    split
    · exact Ctx.bitsOut_exc _ _
    · exact arith_exc _ _ _
  case irem => exact starts_quiet exec_irem rfl (fun _ _ _ => rfl)
  case fdiv | fsqrt => exact starts_divide (fun _ _ _ _ => rfl) rfl
  case fdivNow | fsqrtNow =>
    intro s g c d a b x u i hdy hd hon outs hfpx
    exact divide_at_once i rfl rfl hdy hd hon hfpx

/-! ### The target of a context instruction (R367) -/

@[simp] theorem loWord_pair (lo hi : Word) : loWord (pair lo hi) = lo := by
  unfold loWord pair
  exact BitVec.extractLsb'_append_eq_right

@[simp] theorem hiWord_pair (lo hi : Word) : hiWord (pair lo hi) = hi := by
  unfold hiWord pair
  exact BitVec.extractLsb'_append_eq_left

/-- A word below 2^16 has none of the upper bits. -/
theorem and_upper_of_lt {v : Word} (h : v.toNat < 65536) : v &&& 0xFFFF0000#32 = 0#32 := by
  apply BitVec.eq_of_getLsbD_eq
  intro j hj
  rw [BitVec.getLsbD_and, BitVec.getLsbD_zero]
  by_cases hlow : j < 16
  · have hmask : ∀ j, j < 16 → (0xFFFF0000#32).getLsbD j = false := by decide
    rw [hmask j hlow, Bool.and_false]
  · have hv : v.getLsbD j = false := Nat.testBit_lt_two_pow (Nat.lt_of_lt_of_le h (Nat.pow_le_pow_right (show 2 > 0 by decide) (Nat.not_lt.1 hlow)))
    rw [hv, Bool.false_and]

/-- Selector 0xFFFF names the own group. -/
theorem select_own {sel off : Word} (hsel : sel = 0xFFFF#32) (hoff : off.toNat < 65536) : x.select w sel off = .own := by
  subst hsel
  unfold Ctx.select
  simp only [and_upper_of_lt hoff]
  rfl

/-- The offset of a context operand. -/
theorem wbits_half {v : Word} (h : v.toNat < 65536) : wbits v 15 0 = v.toNat := Nat.mod_eq_of_lt h

/-! ### CTXRD and CTXWR of the own group (R368 to R370) -/

/-- The page of CTXRD. -/
def ctxReadForm (b : Byte) : Form :=
  { d := if b = 2#8 then .pair else .reg, a := .pair, b := .code [(0, 2)], dWrite := true, long := true, one := true, priv := true
    cycles := .one }

/-- The page of CTXWR. -/
def ctxWriteForm : Form :=
  { d := .reg, a := .pair, b := .code [(0, 1)], dRead := true, one := true, priv := true, cycles := .one }

/-- A word's offset that passes its checks. -/
theorem offsetTrap_word {h : Group} {off : Nat} (hal : off % 4 = 0)
    (hlive : ∀ l, laneOfOffset off = some l → h.ctl.dead.getLsbD l = false) : x.offsetTrap h false off = none := by
  unfold Ctx.offsetTrap
  simp only [Bool.false_eq_true, if_false, hal, bne_self_eq_false]
  cases hl : laneOfOffset off with
  | none => rfl
  | some l => simp [hlive l hl]

/-- A line's offset that passes its check. -/
theorem offsetTrap_line {h : Group} {off : Nat} (hal : off % 128 = 0) : x.offsetTrap h true off = none := by
  unfold Ctx.offsetTrap
  simp [hal]

/-- With no marked word in the group, every lane of S gets its word. -/
theorem readContext_clean {h : Group} {off : Nat} (hb : x.b ≠ 2) (hchk : x.offsetTrap h (x.b == 1) off = none) (herr : h.regErr = []) :
    readContext x w h off = .done (x.start w 1 (.value (x.S.map (fun l =>
      (x.d, l, w.contextRead h (x.b == 1) (if x.b = 1 then off + 4 * l else off)))) [] false)) := by
  have hclean : ∀ n, h.markedWord n = false := fun n => by simp [Group.markedWord, herr]
  unfold readContext
  rw [if_neg hb, hchk]
  have hall : x.S.filter (fun _ => true) = x.S := List.filter_eq_self.2 (fun _ _ => rfl)
  have hno : x.S.filter (fun _ => false) = [] := List.filter_eq_nil_iff.2 (fun _ _ => Bool.false_ne_true)
  simp only [hclean, Bool.not_false, hall, hno, List.map_nil]
  rfl

/-- An instruction that acts once gives a pair to every lane of S. -/
theorem writesOf_pair (hu : x.uni = true) (hk : x.kind .d = .pair) (lane : Nat) (v : Word64) :
    x.writesOf [(lane, v)] = x.S.flatMap (fun l => [(x.d, l, loWord v), (x.d + 1, l, hiWord v)]) := by
  unfold Ctx.writesOf Ctx.spread
  simp only [hu, if_true, hk, List.flatMap_map]

/-- What a CTXRD of the own group starts. -/
theorem starts_ctxrd {ok : Ctx → State → Prop} {words : Ctx → Nat} {kind : Ctx → State → OpKind}
    (hb : ∀ s g c d a b x u, Issues s g c (ctxReadForm b) 0x05#8 d a b x u → ok x u →
      readContext x u x.g (x.reg u (x.a + 1) x.low).toNat = .done (x.start u (words x) (kind x u))) :
    Starts .ctxrd (fun _ _ b => ctxReadForm b) 0x05#8 (fun x w => (x.reg w x.a x.low = 0xFFFF#32 ∧ (x.reg w (x.a + 1) x.low).toNat < 65536) ∧ ok x w) words kind := by
  refine starts_of (fun _ _ _ _ => rfl) (fun _ _ _ => rfl) (fun s g c d a b x u i _ hok => ?_)
  obtain ⟨⟨hsel, hoff⟩, hok⟩ := hok
  simp only [Ctx.rdPair, Ctx.num, loWord_pair, hiWord_pair, select_own hsel hoff, wbits_half hoff]
  exact hb s g c d a b x u i hok

/-- A write of a word of the own group's block leaves it in its clause. -/
theorem writeBlock_stands (hw : w.group? n = some k) (off : Nat) (v : Word) :
    ∃ h, (w.writeBlock n true off v).group? n = some h ∧ h.clause = k.clause := by
  unfold State.writeBlock
  split
  · have hgid := State.group?_gid hw
    subst hgid
    obtain ⟨h, hr, -⟩ := State.putReg_spec hw (off / 128) (off % 128 / 4) v
    exact ⟨h, hr.found, (clause_wroteRegs hr).1⟩
  · have hown : ∀ o, movesPc true o = false := fun _ => rfl
    simp only [hown, Bool.false_eq_true, if_false]
    refine stands_on hw _ ?_ ?_
    · simp only [apply_ite Group.gid, Group.onCtl, ite_self]
    · simp only [apply_ite Group.clause, Group.onCtl, ite_self]

/-- What a CTXWR to the own group writes. -/
theorem completes_ctxwr {ok : Ctx → State → Prop} {eff : Ctx → State → State}
    (hb : ∀ s g c d a b x u, Issues s g c ctxWriteForm 0x06#8 d a b x u → ok x u →
      writeContext x u x.g true (x.reg u (x.a + 1) x.low).toNat = .done (eff x u))
    (hk : ∀ x w n k, x.gid = n → w.group? n = some k → ∃ h, (eff x w).group? n = some h ∧ h.clause = k.clause) :
    Completes .ctxwr (fun _ _ _ => ctxWriteForm) 0x06#8 (fun x w => (x.reg w x.a x.low = 0xFFFF#32 ∧ (x.reg w (x.a + 1) x.low).toNat < 65536) ∧ ok x w) eff := by
  refine completes_of (fun _ _ _ _ => rfl) (fun s g c d a b x u i _ _ hok => ?_) (fun x w n k hx hw _ => hk x w n k hx hw)
  obtain ⟨⟨hsel, hoff⟩, hok⟩ := hok
  simp only [Ctx.rdPair, Ctx.num, loWord_pair, hiWord_pair, select_own hsel hoff, wbits_half hoff]
  exact hb s g c d a b x u i hok

/-- Without a dead lane every lane of S writes its word. -/
theorem writeContext_line {off : Nat} (hgid : x.gid = x.g.gid) (hb : x.b = 1) (hal : off % 128 = 0) (hret : x.g.gstate ≠ .retired)
    (hd : x.d < 240) (hdead : x.g.ctl.dead = 0#32) : writeContext x w x.g true off =
      .done (x.S.foldl (fun t l => t.writeBlock x.gid true (off + 4 * l) (x.reg w x.d l)) w) := by
  unfold writeContext
  rw [show (x.b == 1) = true by simp [hb], offsetTrap_line hal]
  simp only
  rw [if_neg hret, if_neg (by omega), hgid]
  rw [hdead]
  refine congrArg (fun f => Act.done (x.S.foldl f w)) (funext fun t => funext fun l => ?_)
  rw [if_neg (Nat.not_le.2 hd)]
  cases laneOfOffset (off + 4 * l) with
  | none => rfl
  | some m => simp

/-! ### CTXCTL (R371) -/

/-- Suspending another group leaves this one in its clause. -/
theorem suspend_stands {m by_ : Nat} (hm : m ≠ n) (hw : w.group? n = some k) :
    ∃ h, (w.suspend by_ m).group? n = some h ∧ h.clause = k.clause := by
  refine ⟨k, ?_, rfl⟩
  unfold State.suspend
  cases hg : w.group? m with
  | none => exact hw
  | some g =>
    have hgid := State.group?_gid hg
    simp only
    split
    · exact hw
    · rw [State.group?_putGroup_ne w (by split <;> exact fun e => hm (hgid.symm.trans e.symm))]
      exact hw

/-- Resuming another group leaves this one in its clause. -/
theorem unsuspend_stands {m by_ : Nat} (hm : m ≠ n) (hw : w.group? n = some k) :
    ∃ h, (w.unsuspend by_ m).group? n = some h ∧ h.clause = k.clause :=
  ⟨k, by rw [← hw]; exact State.group?_onGroup_ne w (fun _ => rfl) (Ne.symm hm), rfl⟩

/-- Settles O13: selector 0xFFFF names the own group; CTXRD holds its word, line or seat entry, CTXWR writes its block, and CTXCTL leaves
it as it is; another group is suspended and resumed. -/
theorem contextControl : Obligations.ContextControl := by
  unfold Obligations.ContextControl
  refine ⟨?word, ?line, ?seat, ?write, ?writeLine, ?ctlOwn, ?ctlOther⟩
  case word =>
    refine starts_ctxrd (fun s g c d a b x u i hok => ?_)
    obtain ⟨hb, hal, hlive, herr⟩ := hok
    rw [readContext_clean (by omega) (by rw [hb]; exact offsetTrap_word hal hlive) herr]
    simp only [hb]
    rfl
  case line =>
    refine starts_ctxrd (fun s g c d a b x u i hok => ?_)
    obtain ⟨hb, hal, herr⟩ := hok
    rw [readContext_clean (by omega) (by rw [hb]; exact offsetTrap_line hal) herr]
    simp only [hb]
    rfl
  case seat =>
    refine starts_ctxrd (fun s g c d a b x u i hb => ?_)
    obtain ⟨-, -, -, -, -, hxb, -⟩ := i.ctx
    have hb2 : b = 2#8 := BitVec.eq_of_toNat_eq (hxb.symm.trans hb)
    have hpair : x.kind .d = .pair := by rw [i.kind_d, hb2]; rfl
    unfold readContext
    rw [if_pos hb, writesOf_pair (i.acts_once rfl) hpair]
  case write =>
    refine completes_ctxwr (fun s g c d a b x u i hok => ?_) (fun x w n k hx hw => by subst hx; exact writeBlock_stands hw _ _)
    obtain ⟨hgid, hxg, -⟩ := i.ctx
    obtain ⟨hb, hal, hlive, hret⟩ := hok
    unfold writeContext
    rw [show (x.b == 1) = false by simp [hb], offsetTrap_word hal hlive]
    simp only
    rw [if_neg hret, if_pos hb, hgid, hxg]
  case writeLine =>
    refine completes_ctxwr (fun s g c d a b x u i hok => ?_)
      (fun x w n k hx hw => by subst hx; exact stands_fold hw x.S _ (fun _ _ _ h => writeBlock_stands h _ _))
    obtain ⟨hgid, hxg, -⟩ := i.ctx
    obtain ⟨hb, hal, hret, hd, hdead⟩ := hok
    exact writeContext_line (by rw [hgid, hxg]) hb hal hret hd hdead
  case ctlOwn =>
    refine completes_of (fun _ _ _ _ => rfl) (fun s g c d a b x u i _ _ hok => ?_) (fun _ _ _ _ _ hw _ => ⟨_, hw, rfl⟩)
    obtain ⟨hsel, hb⟩ := hok
    simp only [select_own hsel (show (0#32).toNat < 65536 by decide)]
    rw [if_neg (by omega)]
  case ctlOther =>
    intro n
    refine completes_of (fun _ _ _ _ => rfl) (fun s g c d a b x u i _ _ hok => ?_) (fun x w m k hx hw hok => ?_)
    · obtain ⟨hsel, -, hb⟩ := hok
      simp only [hsel]
      have hb2 : x.b = 0 ∨ x.b = 1 := by omega
      rcases hb2 with h | h <;> simp only [h] <;> rfl
    · obtain ⟨-, hne, -⟩ := hok
      subst hx
      split
      · exact suspend_stands hne hw
      · exact unsuspend_stands hne hw

/-! ### Page control (R373 to R375) -/

/-- Starting an operation leaves every group as it is. -/
theorem start_stands (x : Ctx) {v : State} (hv : v.groups = w.groups) (hw : w.group? n = some k) (words : Nat) (kind : OpKind) :
    ∃ h, (x.start v words kind).group? n = some h ∧ h.clause = k.clause :=
  ⟨k, (State.group?_congr (s := w) hv n).trans hw, rfl⟩

/-- A mapping of fresh memory changes no group. -/
theorem mapFresh_groups {i : Installation} {va : Nat} {big wr ex uc pin : Bool} {v : State}
    (h : w.mapFresh i va big wr ex uc pin = some v) : v.groups = w.groups := by
  unfold State.mapFresh at h
  simp only at h
  split at h
  · cases h
  · cases h
    rw [State.onInst_groups]
    rfl

theorem pageMap_groups (w : State) (h : Word) (code va : Nat) (wr ex uc : Bool) : (w.pageMap h code va wr ex uc).1.groups = w.groups := by
  unfold State.pageMap
  split
  · rfl
  · split
    · rfl
    · split
      · rfl
      · split
        · rfl
        · next hm => exact mapFresh_groups hm

theorem pageUnmap_groups (w : State) (h : Word) (code va : Nat) : (w.pageUnmap h code va).1.groups = w.groups := by
  unfold State.pageUnmap
  split
  · rfl
  · split
    · rfl
    · split
      · rfl
      · split
        · rfl
        · exact State.onInst_groups ..

/-- Fresh memory is mapped exactly when the pool has a free unit of the size. -/
theorem mapFresh_none (w : State) (i : Installation) (va : Nat) (big wr ex uc pin : Bool) : w.mapFresh i va big wr ex uc pin = none ↔
    (if big then (w.fn i.fn).freeRegions else (w.fn i.fn).freePages) = [] := by
  unfold State.mapFresh State.pick
  simp only
  generalize (if big = true then (w.fn i.fn).freeRegions else (w.fn i.fn).freePages) = free
  cases free with
  | nil => simp
  | cons r rs => simp

/-- The status of PGMAP. -/
theorem pageMap_status {h : Word} {i : Installation} (code va : Nat) (wr ex uc : Bool) (hi : w.inst? h = some i) :
    (w.pageMap h code va wr ex uc).2 =
      if va % pageSize code ≠ 0 then 4
      else if ∃ p ∈ i.pages, overlaps p.va (p.va + p.size) va (va + pageSize code) then 1
      else if (if code = 1 then (w.fn i.fn).freeRegions else (w.fn i.fn).freePages) = [] then 2
      else 0 := by
  have hcover : i.covers va (pageSize code) = true ↔ ∃ p ∈ i.pages, overlaps p.va (p.va + p.size) va (va + pageSize code) = true := by
    unfold Installation.covers
    exact List.any_eq_true
  have hfree := mapFresh_none w i va (code == 1) wr ex uc false
  simp only [beq_iff_eq] at hfree
  unfold State.pageMap
  rw [hi]
  by_cases hal : va % pageSize code = 0
  · by_cases hc : i.covers va (pageSize code) = true
    · simp [hal, hc, hcover.1 hc]
    · have hc' : ¬∃ p ∈ i.pages, overlaps p.va (p.va + p.size) va (va + pageSize code) = true := fun h => hc (hcover.2 h)
      simp only [hal, bne_self_eq_false, Bool.false_eq_true, if_false, hc, ne_eq, not_true_eq_false, hc']
      cases hm : w.mapFresh i va (code == 1) wr ex uc false with
      | none => simp [hfree.1 hm]
      | some v => simp [← hfree, hm]
  · simp [hal]

/-- The status of PGUNMAP. -/
theorem pageUnmap_status {h : Word} {i : Installation} (code va : Nat) (hi : w.inst? h = some i) : (w.pageUnmap h code va).2.1 =
    if va % pageSize code ≠ 0 then 4
    else match i.pageOfSize va (pageSize code) with
      | none => 1
      | some p => if p.pin then 3 else 0 := by
  unfold State.pageUnmap
  rw [hi]
  by_cases hal : va % pageSize code = 0
  · simp only [hal, bne_self_eq_false, Bool.false_eq_true, if_false, ne_eq, not_true_eq_false]
    cases i.pageOfSize va (pageSize code) with
    | none => rfl
    | some p => cases hp : p.pin <;> simp [hp]
  · simp [hal]

/-- Settles O14: with the MBZ bits of the address clear, the table changes as `pageMap` and `pageUnmap` say, and an operation holds the
status. -/
theorem pageControl : Obligations.PageControl := by
  unfold Obligations.PageControl
  refine ⟨?pgmap, ?pgunmap, ?mapped, ?unmapped⟩
  case pgmap =>
    refine completes_of (fun _ _ _ _ => rfl) (fun s g c d a b x u i _ _ hmbz => ?_)
      (fun x w n k _ hw _ => start_stands x (pageMap_groups ..) hw _ _)
    simp only [hmbz]
    rfl
  case pgunmap =>
    refine completes_of (fun _ _ _ _ => rfl) (fun s g c d a b x u i _ _ hmbz => ?_)
      (fun x w n k _ hw _ => start_stands x (pageUnmap_groups ..) hw _ _)
    simp only [hmbz, bne_self_eq_false, Bool.false_eq_true, if_false]
    rw [show pageAddress (x.rdPair u .a x.low) = (x.rdPair u .a x.low).toNat % 2 ^ 57 from rfl]
    cases (u.pageUnmap x.g.ctl.handle x.b ((x.rdPair u .a x.low).toNat % 2 ^ 57)).2.2 with
    | none => rfl
    | some p => rfl
  case mapped => exact fun s h i code va wr ex uc hi => pageMap_status code va wr ex uc hi
  case unmapped => exact fun s h i code va hi => pageUnmap_status code va hi

end Sys2Proof.Machine
end

section
/-!
SUPPORT. Instructions of memory and synchronisation at issue: stores, records, atomics (15 R413 to R417), and those that start a release,
an acquire or an operation on a barrier or a ticket dispenser (15 R418 to R421).
-/
namespace Sys2Proof.Machine

variable {s u w : State} {g k : Group} {c : FetchedClause} {form : Form} {op d a b : Byte} {x : Ctx} {n : Nat}

/-! ### Stores (15 R413, R414) -/

/-- A plain store does what its page says. -/
theorem storeResult_of {mk : Byte → Byte → Byte → Instr} (form : Form) {op : Byte} {size : Nat} (hf : form.dWrite = false)
    (he : ∀ d a b s, exec (mk d a b) s = issue form op d a b (fun x s => x.store s size) s) : StoreResult mk form op size := by
  intro s g c d a b x u space ps i hdy ht hroom
  obtain ⟨-, hxg, -⟩ := i.ctx
  have himage : x.image = Sparse.get 0#256 g.recs x.b := by rw [Ctx.image, hxg]
  rw [himage] at ht hroom ⊢
  rw [he]
  exact store_done i size ht hroom (i.no_push' hf) hdy

/-- Entries that are placed stand in the control area. -/
theorem placeEntries_control (x : Ctx) (w : State) (es : List PsbEntry) :
    w.placeEntries x.gid es = x.control w (fun k => { k with psb := k.psb ++ es }) := rfl

/-- Placing entries behind the charge of their access keeps the clause. -/
theorem placed_stands (x : Ctx) (hx : x.gid = n) (hw : w.group? n = some k) (r : BufRec) (space : Space) (ps : List Probe)
    (es : List PsbEntry) : ∃ h, (x.control (x.charge w r space ps) (fun k => { k with psb := k.psb ++ es })).group? n = some h ∧
      h.clause = k.clause := by
  obtain ⟨h, h1, h2⟩ := stands_charge x hx hw r space ps
  obtain ⟨h', h3, h4⟩ := ctl_stands x _ n h hx h1 (fun k => { k with psb := k.psb ++ es })
  exact ⟨h', h3, h4.trans h2⟩

/-- STL32 through a record of SCOPE lane is a plain store. -/
theorem storeRelease_plain {space : Space} {ps : List Probe} (ht : x.tests w (bufRec x.image) x.b 4 .write true = .go space ps)
    (hs : (bufRec x.image).scope = 0) (hroom : (x.entries w (bufRec x.image) space ps 4 none).length ≤ x.g.ctl.psbFree) :
    x.storeRelease w = .done (x.control (x.charge w (bufRec x.image) space ps)
      (fun k => { k with psb := k.psb ++ x.entries w (bufRec x.image) space ps 4 none })) := by
  rw [Ctx.image] at *
  unfold Ctx.storeRelease
  simp only [ht, hs, if_true]
  rw [if_neg (Nat.not_lt.2 hroom)]
  rfl

/-- STL32 through any other record: its entry waits in the buffer behind a release of its lanes. -/
theorem storeRelease_release {space : Space} {ps : List Probe} (ht : x.tests w (bufRec x.image) x.b 4 .write true = .go space ps)
    (hs : (bufRec x.image).scope ≠ 0)
    (hroom : (x.entries w (bufRec x.image) space ps 4 (some w.nextId)).length ≤ x.g.ctl.psbFree) :
    x.storeRelease w = .done ((x.control (x.charge w.fresh.2 (bufRec x.image) space ps)
        (fun k => { k with psb := k.psb ++ x.entries w (bufRec x.image) space ps 4 (some w.nextId) })).startRelease
      (x.newOp w.nextId 0 .lease) (bufRec x.image).scope none
      (.storeOwn (x.entries w (bufRec x.image) space ps 4 (some w.nextId)))) := by
  rw [Ctx.image] at *
  unfold Ctx.storeRelease
  simp only [ht, hs, if_false]
  rw [if_neg (Nat.not_lt.2 hroom)]
  rfl

/-- STSHAPE places the entries of its register's 64 bytes. -/
theorem storeShape_done {space : Space} {ps : List Probe} (ht : x.tests w (bufRec x.image) x.b 64 .write false = .go space ps)
    (hroom : (ps.flatMap (fun p => storeEntries (bufRec x.image) x.b space p 64 (x.g.shape x.d).toNat none)).length ≤ x.g.ctl.psbFree) :
    storeShape x w = .done (x.control (x.charge w (bufRec x.image) space ps) (fun k => { k with
      psb := k.psb ++ ps.flatMap (fun p => storeEntries (bufRec x.image) x.b space p 64 (x.g.shape x.d).toNat none) })) := by
  rw [Ctx.image] at *
  unfold storeShape
  simp only [ht]
  rw [if_neg (Nat.not_lt.2 hroom)]
  rfl

/-- Settles O16: a store places its entries at the tail of the buffer; STL32 through a record with a scope starts a release behind
which its own entry waits. -/
theorem stores : Obligations.Stores := by
  unfold Obligations.Stores
  refine ⟨?st32, ?st8, ?st16, ?st64, ?st128, ?plain, ?release, ?shape⟩
  case st32 | st8 | st16 | st64 | st128 => exact storeResult_of _ rfl (fun _ _ _ _ => rfl)
  case plain =>
    intro space ps
    exact completes_of (fun _ _ _ _ => rfl)
      (fun s g c d a b x u _ _ _ ⟨ht, hs, hroom⟩ => storeRelease_plain ht hs hroom)
      (fun x w n k hx hw _ => placed_stands x hx hw _ _ _ _)
  case release =>
    intro space ps
    refine completes_of (fun _ _ _ _ => rfl)
      (fun s g c d a b x u _ _ _ ⟨ht, hs, hroom⟩ => storeRelease_release ht hs hroom) (fun x w n k hx hw _ => ?_)
    obtain ⟨h, h1, h2⟩ := placed_stands x (w := w.fresh.2) hx hw (bufRec x.image) space ps
      (x.entries w (bufRec x.image) space ps 4 (some w.nextId))
    obtain ⟨h', h3, h4⟩ := stands_release h1 (x.newOp w.nextId 0 .lease) hx (bufRec x.image).scope none
      (.storeOwn (x.entries w (bufRec x.image) space ps 4 (some w.nextId)))
    exact ⟨h', h3, h4.trans h2⟩
  case shape =>
    intro space ps
    exact completes_of (fun _ _ _ _ => rfl) (fun s g c d a b x u _ _ _ ⟨ht, hroom⟩ => storeShape_done ht hroom)
      (fun x w n k hx hw _ => placed_stands x hx hw _ _ _ _)

/-! ### Records (15 R415) -/

/-- Writing a run of words is writing each. -/
theorem writeWords_map (s : State) (n r t : Nat) (f : Nat → Word) (m i : Nat) :
    s.writeWords n (r + i) t ((List.range' i m).map f) = (List.range' i m).foldl (fun s j => s.writeReg n (r + j) t (f j)) s := by
  induction m generalizing i s with
  | zero => rfl
  | succ m ih =>
    rw [List.range'_succ, List.map_cons, List.foldl_cons]
    exact ih _ (i + 1)

/-- RECRD writes the eight words of the image. -/
theorem writeWords_image (s : State) (n r t : Nat) (image : Word256) : s.writeWords n r t (imageWords image) =
    (List.range 8).foldl (fun s j => s.writeReg n (r + j) t (image.extractLsb' (32 * j) 32)) s := by
  rw [List.range_eq_range']
  exact writeWords_map s n r t (fun j => image.extractLsb' (32 * j) 32) 8 0

/-- Settles O17: RECWR sets the record's image once it and the slot have passed their checks, and RECRD writes its words. -/
theorem records : Obligations.Records := by
  unfold Obligations.Records
  refine ⟨?recwr, ?recrd⟩
  case recwr =>
    refine completes_of (fun _ _ _ _ => rfl) (fun s g c d a b x u _ _ _ hok => ?_)
      (fun x w n k hx hw _ => by subst hx; exact stands_on hw _ rfl rfl)
    obtain ⟨hslot, himage, hvalid⟩ := hok
    rw [Ctx.image] at hslot
    unfold recWrite
    simp only [hslot, himage, hvalid, Bool.or_self, Bool.false_eq_true, if_false, bne_self_eq_false]
  case recrd =>
    refine completes_of (fun _ _ _ _ => rfl) (fun s g c d a b x u _ _ _ _ => ?_) (fun x w n k hx hw _ => ?_)
    · unfold recRead
      simp only [writeWords_image]
      rfl
    · subst hx
      exact stands_fold hw _ _ (fun w k l h => stands_fold h _ _ (fun w k j h => stands_write h _ _ _))

/-! ### Atomics and reductions (15 R416) -/

/-- An atomic that has passed its tests, with nothing of its lanes before it, starts its operation. -/
theorem atomicResult_of {mk : Byte → Byte → Byte → Instr} {op : Byte} {k : AtomKind} {size : Nat} {returns : Bool}
    (he : ∀ d a b s, exec (mk d a b) s = issue (atomForm k size returns) op d a b (fun x s => x.atomic s k size returns) s) :
    AtomicResult mk op k size returns := by
  intro space ps
  refine completes_of he (fun s g c d a b x u _ _ _ hok => ?_) (fun x w n k hx hw _ => ?_)
  · obtain ⟨ht, hwait⟩ := hok
    rw [Ctx.image] at *
    unfold Ctx.atomic
    simp only [ht, hwait]
  · exact stands_charge x hx hw (bufRec x.image) space ps

/-- Settles O18. That ALC is charged one for each distinct line is the model's choice (log 55). -/
theorem atomics : Obligations.Atomics := by
  unfold Obligations.Atomics
  refine ⟨?_, ?_, ?_, ?_, ?_, ?_, ?_, ?_, ?_, ?_, ?_, ?_, ?_, ?_, ?_, ?_, ?_⟩ <;> exact atomicResult_of (fun _ _ _ _ => rfl)

/-! ### The tests of barriers and tickets (09 R246, R247, R250) -/

/-- An object the kernel has. -/
theorem testObject_none (h : x.a < (w.recordOf x.g).bars.getD x.b 0) : x.testObject w = none := if_neg (Nat.not_le.2 h)

/-- A count that fits its field. -/
theorem testCount_none {m most : Nat} (h : m ≤ most) : x.testCount m most = none := if_neg (Nat.not_lt.2 h)

/-- SATF clear, or its trap not enabled. -/
theorem testSatx_none (h : (modeSatTrap x.mode && x.g.ctl.satf) = false) : x.testSatx = none := by
  unfold Ctx.testSatx
  rw [h]
  rfl

/-- A dispenser the kernel has. -/
theorem testDispenser_none (h : (x.rd w .a x.low).toNat < 32 * (w.recordOf x.g).bars.getD 2 0) : x.testDispenser w = none :=
  if_neg (Nat.not_le.2 h)

/-- An arrival that passes its tests. -/
theorem arrive_done {m : Nat} (h : x.a < (w.recordOf x.g).bars.getD x.b 0) (hm : m ≤ 0x7FFFFFFF)
    (hq : (modeSatTrap x.mode && x.g.ctl.satf) = false) : x.arrive w m =
      .done (x.control (x.releases w 1 (x.b + 1) (some (w.objectOf x.g x.b x.a)) (.arrive (w.objectOf x.g x.b x.a) m))
        (fun k => { k with alc := 0#32 })) := by
  unfold Ctx.arrive
  rw [testObject_none h, testCount_none hm, testSatx_none hq]
  rfl

/-! ### What keeps the clause (08 R226, R228) -/

/-- Starting a release on the instruction's flag keeps the clause. -/
theorem releases_stands (x : Ctx) (hx : x.gid = n) (hw : w.group? n = some k) (words scope : Nat) (object : Option Nat)
    (next : ReleaseThen) : ∃ h, (x.releases w words scope object next).group? n = some h ∧ h.clause = k.clause :=
  stands_release (w := w.fresh.2) hw (x.newOp w.nextId words .lease) hx scope object next

/-- An arrival keeps the clause. -/
theorem arrived_stands (x : Ctx) (hx : x.gid = n) (hw : w.group? n = some k) (words scope : Nat) (object : Option Nat)
    (next : ReleaseThen) (f : Control → Control) :
    ∃ h, (x.control (x.releases w words scope object next) f).group? n = some h ∧ h.clause = k.clause := by
  obtain ⟨h, h1, h2⟩ := releases_stands x hx hw words scope object next
  obtain ⟨h', h3, h4⟩ := ctl_stands x _ n h hx h1 f
  exact ⟨h', h3, h4.trans h2⟩

/-- An acquire keeps the clause. -/
theorem acquire_stands (hw : w.group? n = some k) (core : Nat) (handle : Word) (scope : Nat) :
    ∃ h, (w.acquireEffect core handle scope).group? n = some h ∧ h.clause = k.clause := by
  have e := State.group?_gid hw
  subst e
  obtain ⟨al, -⟩ := acquireEffect_alike hw core handle scope
  exact ⟨k, al.found, rfl⟩

/-- Settles O19: each instruction, past its own tests, starts its release, its acquire or its operation. -/
theorem synchronisation : Obligations.Synchronisation := by
  unfold Obligations.Synchronisation
  refine ⟨?release, ?acquire, ?ifence, ?arrive, ?arrivex, ?tserve, ?waitp, ?barinit, ?bartest, ?tkt, ?twait⟩
  case release =>
    refine completes_of (fun _ _ _ _ => rfl) (fun s g c d a b x u _ _ _ hd => ?_) (fun x w n k hx hw _ => releases_stands x hx hw _ _ _ _)
    unfold fence
    rw [if_pos hd]
    rfl
  case acquire =>
    refine completes_of (fun _ _ _ _ => rfl) (fun s g c d a b x u _ _ _ hd => ?_) (fun x w n k hx hw _ => acquire_stands hw _ _ _)
    unfold fence
    rw [if_neg (by simp [hd])]
  case ifence =>
    refine completes_of (fun _ _ _ _ => rfl) (fun s g c d a b x u _ _ _ _ => rfl) (fun x w n k hx hw _ => ?_)
    obtain ⟨h, h1, h2⟩ := stands_release (w := w.fresh.2) hw { x.newOp w.nextId 0 .lease with lanes := 0xFFFFFFFF#32 } hx 3 none .ifence
    subst hx
    obtain ⟨h', h3, h4⟩ := stands_on h1 (fun g => { g with fetchHold := true }) rfl rfl
    exact ⟨h', h3, h4.trans h2⟩
  case arrive =>
    exact completes_of (fun _ _ _ _ => rfl) (fun s g c d a b x u _ _ _ ⟨hr, hq⟩ => arrive_done hr (by decide) hq)
      (fun x w n k hx hw _ => arrived_stands x hx hw _ _ _ _ _)
  case arrivex =>
    exact completes_of (fun _ _ _ _ => rfl)
      (fun s g c d a b x u _ _ _ ⟨hr, hm, hq⟩ => arrive_done hr (Nat.le_pred_of_lt hm) hq)
      (fun x w n k hx hw _ => arrived_stands x hx hw _ _ _ _ _)
  case tserve =>
    refine completes_of (fun _ _ _ _ => rfl) (fun s g c d a b x u _ _ _ ht => ?_) (fun x w n k hx hw _ => releases_stands x hx hw _ _ _ _)
    unfold ticketServe
    rw [testDispenser_none ht]
    rfl
  case waitp =>
    refine starts_of (fun _ _ _ _ => rfl) (fun _ _ _ => rfl) (fun s g c d a b x u _ _ hr => ?_)
    unfold waitPhase
    rw [testObject_none hr]
    rfl
  case barinit =>
    refine starts_of (fun _ _ _ _ => rfl) (fun _ _ _ => rfl) (fun s g c d a b x u _ _ ⟨hr, harr, hbytes⟩ => ?_)
    unfold barrierInit
    have h1 : x.testCount (x.reg u x.d x.low).toNat 8388607 = none := testCount_none (Nat.le_pred_of_lt harr)
    have h2 : x.testCount (x.reg u (x.d + 1) x.low).toNat 0x7FFFFFFF = none := testCount_none (Nat.le_pred_of_lt hbytes)
    simp only [testObject_none hr, h1, h2]
    rfl
  case bartest =>
    refine starts_of (fun _ _ _ _ => rfl) (fun _ _ _ => rfl) (fun s g c d a b x u _ _ hr => ?_)
    unfold barrierTest
    rw [testObject_none hr]
    rfl
  case tkt =>
    refine starts_of (fun _ _ _ _ => rfl) (fun _ _ _ => rfl) (fun s g c d a b x u _ _ ht => ?_)
    unfold ticketTake
    rw [testDispenser_none ht]
  case twait =>
    refine starts_of (fun _ _ _ _ => rfl) (fun _ _ _ => rfl) (fun s g c d a b x u _ _ ht => ?_)
    unfold ticketWait
    rw [testDispenser_none ht]

end Sys2Proof.Machine
end

section
/-!
SUPPORT. Exceptions (12 R319; 06 R173 to R180): traps of an instruction and of its checks (O20 to O22), traps that are not taken (O23),
the return (O24), and the instruction that has no active lane (O25).
-/
namespace Sys2Proof.Machine

variable {s t u w : State} {g h k : Group} {c : FetchedClause} {form : Form} {op d a b : Byte} {x : Ctx} {n seat : Nat}

/-! ### An instruction's own traps (13 R357, R358; 11 R309) -/

/-- The enabled exceptions of some lanes, gathered from the left. -/
theorem raisedOver_eq_foldl (on : BitVec 5) (outs : List (Nat × LaneOut)) (e : BitVec 5) :
    outs.foldl (fun e o => e ||| (o.2.exc &&& on)) e = e ||| raisedOver on outs := by
  induction outs generalizing e with
  | nil => exact (BitVec.or_zero).symm
  | cons o os ih => rw [List.foldl_cons, ih, raisedOver, BitVec.or_assoc]

/-- Lanes that raise an enabled exception raise FPX. -/
theorem fpxTrap_hit (on : BitVec 5) (outs : List (Nat × LaneOut)) (h : outs.filter (fun o => o.2.exc &&& on != 0#5) ≠ []) :
    fpxTrap on outs = some ⟨8, maskOf ((outs.filter (fun o => o.2.exc &&& on != 0#5)).map (fun o => o.1)),
      ((outs.filter (fun o => o.2.exc &&& on != 0#5)).foldl (fun e o => e ||| (o.2.exc &&& on)) 0#5).toNat, 0⟩ := by
  rw [raisedOver_eq_foldl, BitVec.zero_or]
  unfold fpxTrap trappingLanes
  split
  · next h' => exact absurd h' h
  · rfl

/-- Settles O20: BRK, SWTRAP and FPX are the effect of their instruction, and a trap that nothing keeps from its handler is taken. -/
theorem instructionTraps : Obligations.InstructionTraps := by
  unfold Obligations.InstructionTraps
  refine ⟨⟨?brk, ?swtrap⟩, ?fpx⟩
  case brk => exact fun s g c x u seat n i ce => issue_traps i ce rfl
  case swtrap => exact traps_of (fun _ _ _ _ => rfl) (fun _ _ _ _ _ _ _ _ _ _ => rfl)
  case fpx =>
    intro mk form op f he s g c d a b x u seat i ce on hit hne
    obtain ⟨-, hxg, -⟩ := i.ctx
    rw [he]
    refine issue_traps i ce (body := laneEffect f) ?_
    unfold laneEffect
    rw [Ctx.mode, hxg]
    simp only
    rw [fpxTrap_hit (modeTraps g.ctl.mode) (x.results u f) hne]

/-! ### The checks (12 R319) -/

/-- Settles O21. -/
theorem checksTrap : Obligations.ChecksTrap := by
  unfold Obligations.ChecksTrap
  intro mk form op body he s g d a b seat cause info1 hcur hg ce hf
  rw [he]
  exact issue_finds hcur hg ce hf _

/-- The first finding of a test and what follows it. -/
theorem firstOf_findIf (p : Bool) (cause info1 : Nat) (fs : List Finding) :
    firstOf (findIf p cause info1 :: fs) = if p then some (cause, info1) else firstOf fs := by
  cases p <;> rfl

/-- Queue misuse of a source register: 240 to 255 without the queues a program reads. -/
theorem queueMisuse_source (a : Nat) (long : Bool) (ha : a < 256) :
    queueMisuse .reg a true false long = decide (240 ≤ a ∧ a ∉ [243, 246, 247, 249, 250, 251, 252]) := by
  have hq : (queueReads (a - 240) || a == 252) = decide (a ∈ [243, 246, 247, 249, 250, 251, 252]) ∨ a < 240 := by
    by_cases h : a < 240
    · exact .inr h
    · left
      unfold queueReads
      rw [Bool.eq_iff_iff, decide_eq_true_iff]
      simp only [Bool.or_eq_true, beq_iff_eq, List.mem_cons, List.not_mem_nil, or_false]
      omega
  unfold queueMisuse
  rcases hq with hq | hq
  · rw [hq]
    by_cases h1 : 240 ≤ a <;> by_cases h2 : a ∈ [243, 246, 247, 249, 250, 251, 252] <;> simp [h1, h2, Kind.span]
  · simp [Kind.span, Nat.not_le.2 hq]

/-- Settles O22. The place of the test of GUARD among the register checks is the model's choice (log 67). -/
theorem checksInOrder : Obligations.ChecksInOrder := by
  unfold Obligations.ChecksInOrder
  intro k d a b ls ha hb
  unfold Form.findings
  simp only [Kind.under, firstOf_findIf, queueMisuse_source a _ ha]
  cases hh : k.handler with
  | false => rfl
  | true =>
    by_cases hguard : modeGuard k.mode < 240 ∧ k.regs ≤ modeGuard k.mode
    · simp [hguard]
    · by_cases hreg : 8 ≤ a ∧ a < 240 ∧ k.regs ≤ a
      · have h8 : ¬a < 8 := by omega
        simp [hreg, beyondRegs, queueMisuse, Kind.span, h8, Nat.lt_succ_of_le hreg.2.2, hguard]
      · have hbeyond : beyondRegs .reg a k.regs true = false := by
          refine Bool.eq_false_iff.2 (fun hb => hreg ?_)
          unfold beyondRegs at hb
          simp only [Kind.span, Bool.true_and, Bool.and_eq_true, Bool.not_eq_true', decide_eq_true_eq, decide_eq_false_iff_not] at hb
          obtain ⟨⟨⟨-, h1⟩, h2⟩, h3⟩ := hb
          exact ⟨Nat.not_lt.1 h2, h1, Nat.le_of_lt_succ (of_decide_eq_true h3)⟩
        have hcode : codeBad (.code [(0, 3)]) d = decide (3 < d) := by
          by_cases h : d ≤ 3
          · rw [decide_eq_false (by omega)]
            simp [codeBad, h]
          · rw [decide_eq_true (by omega)]
            simp [codeBad, h]
        have hmbz : fieldMbz (.code [(0, 3)]) d * 65536 + fieldMbz .reg a * 256 + fieldMbz .record b = b / 64 * 64 := by
          show (d &&& 0) * 65536 + 0 * 256 + b / 64 * 64 = b / 64 * 64
          rw [Nat.and_zero, Nat.zero_mul, Nat.zero_add]
        have hrec : (b / 64 * 64 != 0) = decide (64 ≤ b) := by
          by_cases h : 64 ≤ b
          · rw [decide_eq_true h, bne_iff_ne]
            omega
          · rw [decide_eq_false h, bne_eq_false_iff_eq]
            omega
        have hguard' : (decide (modeGuard k.mode < 240) && decide (k.regs ≤ modeGuard k.mode)) = false := by
          simpa using hguard
        rw [hmbz, hrec, hbeyond, hcode, hguard', if_neg (not_or.2 ⟨hreg, hguard⟩)]
        have htyped : Form.typed { d := .code [(0, 3)], a := .reg, b := .record, lits := 1, long := true, priv := true } = false := rfl
        rw [htyped]
        simp [beyondRegs, queueMisuse, codeBad, Kind.span, firstOf]

/-! ### Traps that are not taken (06 R176, R178, R179) -/

/-- The rail a group leaves. -/
theorem rail_leaveRail (w : State) (hs : g.seat = some seat) : (w.leaveRail g).rail g.core (railOfSeat seat) =
    { w.rail g.core (railOfSeat seat) with
      clauseOf := if (w.rail g.core (railOfSeat seat)).clauseOf = some g.gid then none else (w.rail g.core (railOfSeat seat)).clauseOf } := by
  unfold State.leaveRail
  rw [hs]
  simp only [State.rail_onRail, and_self, if_true]

/-- A group with its trap recorded (06 Table 6.4). -/
def trapNoted (g : Group) (r : TrapRec) : Group := { g with stalled := none, ctl := { g.ctl with trapRec := r, trapPend := true } }

/-- A trap of a group whose rail runs a handler is recorded (06 R179). -/
theorem raiseTrap_recorded (hg : s.group? g.gid = some g) (hh : g.ctl.handler = false) (hp : g.ctl.paired = false)
    (hs : g.ctl.shadow = false) (hseat : g.seat = some seat) (hrail : (s.rail g.core (railOfSeat seat)).handler.isSome = true)
    {tr : Trap} (hc : tr.cause ≠ 4) (uni : Bool) (word : Word) :
    s.raiseTrap g tr g.ctl.slot false uni word =
      ((s.putGroup (trapNoted g (trapRecord s g tr uni word))).dropShapeLoads g.gid).leaveRail
        (trapNoted g (trapRecord s g tr uni word)) := by
  let g' : Group := trapNoted g (trapRecord s g tr uni word)
  have hflags : trapFlags false uni = if uni then 5#8 else 1#8 := by cases uni <;> rfl
  let w := ((s.putGroup g').dropShapeLoads g.gid).leaveRail g'
  have hfound : w.group? g.gid = some g' := by
    rw [State.group?_congr (leaveRail_groups _ _)]
    exact State.group?_putGroup_self (g := g') hg
  have hpartner : w.partner g' = none := by
    unfold State.partner
    rw [if_neg (by show ¬((g.ctl.paired || g.ctl.shadow) = true); simp [hp, hs])]
  have hrun : (w.rail g.core (railOfSeat seat)).handler.isSome = true := by
    have := rail_leaveRail (g := g') ((s.putGroup g').dropShapeLoads g.gid) hseat
    rw [show w.rail g.core (railOfSeat seat) = _ from this]
    exact hrail
  have hafter : w.afterTrap g.gid = w := by
    unfold State.afterTrap
    rw [hfound]
    simp only [hpartner]
    rw [show g'.seat = some seat from hseat]
    simp only
    unfold State.enterOldest
    rw [show g'.core = g.core from rfl, if_pos hrun]
  unfold State.raiseTrap
  rw [if_neg (by simp [hh])]
  simp only [hc, if_false, hflags]
  exact hafter

/-- An instruction's trap in a handler kills its group. -/
theorem issue_kills (i : Issues s g c form op d a b x u) (hh : g.ctl.handler = true) {body : Ctx → State → Act} {tr : Trap}
    (hb : body x u = .trap tr) : issue form op d a b body s = .next (s.tick.killGroup g.gid) := by
  obtain ⟨-, hxg, -⟩ := i.ctx
  rw [issue_ready i, hb]
  unfold Ctx.finish State.raiseTrap
  simp only [hxg, hh, if_true]

/-- So does a check that fails there. -/
theorem checks_kill (hcur : s.cur = some g.gid) (hg : s.group? g.gid = some g) (hh : g.ctl.handler = true)
    (hf : s.tick.findingsAt g form d.toNat a.toNat b.toNat ≠ none) (body : Ctx → State → Act) :
    issue form op d a b body s = .next (s.tick.killGroup g.gid) := by
  obtain ⟨⟨cause, info1⟩, hf⟩ := Option.ne_none_iff_exists'.1 hf
  unfold issue
  rw [hcur]
  simp only [hg]
  unfold State.issueIn
  rw [hf]
  unfold State.raiseTrap
  simp only [hh, if_true]

/-- Settles O23: a trap that cannot enter stands recorded with the rail free, and a trap in a handler is a kill. -/
theorem trapsNotTaken : Obligations.TrapsNotTaken := by
  unfold Obligations.TrapsNotTaken
  refine ⟨?recorded, ?killed⟩
  case recorded =>
    intro s g c d a b x u seat i hh hp hseat hrail
    obtain ⟨-, hxg, -⟩ := i.ctx
    have e := raiseTrap_recorded (s := s.tick) (tr := ⟨0x0F, maskOf x.L, x.d * 65536 + x.a * 256 + x.b, 0⟩) i.group hh hp i.first hseat
      hrail (show (0x0F : Nat) ≠ 4 by decide) x.uni (mkWord 0x03#8 d a b)
    have hnext : exec (.swtrap d a b) s = .next (s.tick.raiseTrap g ⟨0x0F, maskOf x.L, x.d * 65536 + x.a * 256 + x.b, 0⟩ g.ctl.slot false
        x.uni (mkWord 0x03#8 d a b)) := by
      refine (issue_ready i _).trans ?_
      unfold Ctx.finish
      simp only [hxg]
    generalize hr : trapRecord s.tick g ⟨0x0F, maskOf x.L, x.d * 65536 + x.a * 256 + x.b, 0⟩ x.uni (mkWord 0x03#8 d a b) = r at e
    have hrail' := rail_leaveRail (g := trapNoted g r) ((s.tick.putGroup (trapNoted g r)).dropShapeLoads g.gid) hseat
    refine ⟨_, hnext, ?_⟩
    rw [e]
    refine ⟨?_, fun n hn => ?_, ?_, ?_, ?_⟩
    · rw [State.group?_congr (leaveRail_groups _ _)]
      refine (State.group?_putGroup_self (g := trapNoted g r) i.group).trans ?_
      rw [← hr]
      rfl
    · rw [State.group?_congr (leaveRail_groups _ _)]
      exact State.group?_putGroup_ne s.tick (g := trapNoted g r) hn
    · unfold State.leaveRail
      split <;> rfl
    · rw [show State.rail _ g.core (railOfSeat seat) = _ from hrail']
      rfl
    · rw [show State.rail _ g.core (railOfSeat seat) = _ from hrail']
      simp only
      split
      · exact nofun
      · next hne => exact hne
  case killed =>
    intro mk form op body he s g d a b hnodup hret hh hcase
    rw [he]
    have hend : ∀ hg : s.group? g.gid = some g, ∃ h, (s.tick.killGroup g.gid).group? g.gid = some h ∧ h.gstate = .retired ∧
        h.killed = true := fun hg => killGroup_retires (s := s.tick) hnodup hg hret
    rcases hcase with ⟨c, x, u, tr, i, hb⟩ | ⟨hcur, hg, hf⟩
    · obtain ⟨h, hk⟩ := hend i.group
      exact ⟨_, h, issue_kills i hh hb, hk⟩
    · obtain ⟨h, hk⟩ := hend hg
      exact ⟨_, h, checks_kill hcur hg hh hf _, hk⟩

/-! ### The return (06 R180, R182) -/

/-- The rail whose window a handler's return releases. -/
theorem rail_freeWindow (w : State) (hs : g.seat = some seat) (hr : (w.rail g.core (railOfSeat seat)).handler = some g.gid) :
    ((w.freeWindow g).rail g.core (railOfSeat seat)) = { w.rail g.core (railOfSeat seat) with handler := none, window := [] } := by
  unfold State.freeWindow
  rw [hs]
  simp only [State.rail_onRail, and_self, if_true, hr]

/-- Leaving the rail, releasing the window and resuming the suspended touch neither memory nor what is in flight. -/
theorem leave_free_resume_rest (w : State) (g : Group) (m : Nat) :
    (((w.leaveRail g).freeWindow g).resumeAll m).mem = w.mem ∧ (((w.leaveRail g).freeWindow g).resumeAll m).ops = w.ops ∧
      (((w.leaveRail g).freeWindow g).resumeAll m).commits = w.commits := by
  unfold State.freeWindow State.leaveRail
  split <;> exact ⟨rfl, rfl, rfl⟩

/-- What a return makes of its group. -/
def returned (g : Group) (p : Word64 × Nat × Nat) (slot : Nat) : Group :=
  { g with
    clause := none, stalled := none
    ctl := { g.ctl with
      mode := g.ctl.saveMode, exec := g.ctl.saveExec, handler := false
      pc := p.1, slot := p.2.1, litPos := p.2.2
      resumeWait := !wbit g.ctl.trapRec.flags 1 && !(p.2.1 == 0 && slot != 0)
      trapRec := { g.ctl.trapRec with flags := g.ctl.trapRec.flags &&& 0xFE#8 } } }

/-- A return without a shadow: the group is put back, its rail left and its window released, and what it suspended resumed. -/
theorem trapReturn_alone (hp : g.ctl.paired = false) (hs : g.ctl.shadow = false) (skip : Bool) :
    let slot := g.ctl.trapRec.slot.toNat + (if skip then 1 else 0)
    let g' := returned g (w.resumePoint g g.ctl.trapRec.clause slot) slot
    w.trapReturn g skip = (((w.putGroup g').leaveRail g').freeWindow g').resumeAll g.gid := by
  intro slot g'
  have hpartner : ∀ v : State, v.partner g' = none := by
    intro v
    unfold State.partner
    rw [if_neg (by show ¬((g.ctl.paired || g.ctl.shadow) = true); simp [hp, hs])]
  have hcopy : ∀ v : State, v.copyToShadow g' = v := by
    intro v
    unfold State.copyToShadow
    rw [hpartner]
  exact hcopy _

/-- A group that no handler of its own suspends stays as it is when that handler returns. -/
theorem resumed_self (h : n ∉ g.suspendBy) : g.resumed n = g := if_neg h

/-- Where a return resumes inside its clause. -/
theorem resumePoint_inside {f : FetchedClause} {pc : Word64} {slot : Nat}
    (hf : w.fetchClause g.core g.ctl.handle pc.toNat = .ok f) (hne : f.words ≠ []) (hlt : slot < f.words.length) :
    w.resumePoint g pc slot = (pc, slot, litsBefore f.words slot) := by
  unfold State.resumePoint
  rw [hf]
  by_cases h0 : slot = 0
  · subst h0
    rfl
  · simp [h0, hne, hlt]

/-- Where it resumes behind its clause. -/
theorem resumePoint_behind {f : FetchedClause} {pc : Word64} {slot : Nat}
    (hf : w.fetchClause g.core g.ctl.handle pc.toNat = .ok f) (hne : f.words ≠ []) (h0 : slot ≠ 0) (hle : f.words.length ≤ slot) :
    w.resumePoint g pc slot = (pc + BitVec.ofNat 64 (4 * (1 + f.words.length + f.lits.length)), 0, 0) := by
  unfold State.resumePoint
  rw [hf]
  simp [h0, hne, Nat.not_lt.2 hle]

/-- Settles O24: what `trapReturn` puts back, by the two places it can resume at, with the rail, the suspended groups and the rest. -/
theorem trapReturn : Obligations.TrapReturn := by
  unfold Obligations.TrapReturn
  intro s g c d a b x u seat f i hops hseat hp hsusp hf hne r slot goes
  obtain ⟨hgid, hxg, -, -, -, hxb, -⟩ := i.ctx
  obtain ⟨k, hk, -, -⟩ := i.stands
  obtain ⟨qs, hu, -⟩ := i.popped
  have hb1 : x.b ≤ 1 := by
    obtain ⟨-, -, hcode⟩ := i.codes
    rw [hxb]
    simpa [codeBad, Kind.under] using hcode
  have hskip : (if x.b == 1 then 1 else 0) = x.b := by
    have : x.b = 0 ∨ x.b = 1 := by omega
    rcases this with h | h <;> rw [h] <;> rfl
  have hidle : u.handlerOps x.gid = [] := by
    unfold State.handlerOps
    rw [List.map_eq_nil_iff, List.filter_eq_nil_iff]
    intro o ho hsel
    simp only [Bool.and_eq_true, beq_iff_eq, bne_iff_ne] at hsel
    exact hsel.2 (hops o ho (hsel.1.1.trans hgid) hsel.1.2)
  have hnext : exec (.tret d a b) s = .next (u.trapReturn g (x.b == 1)) := by
    refine (issue_ready i _).trans ?_
    rw [hidle, hxg]
    rfl
  let p := u.resumePoint g r.clause slot
  let g' := returned g p slot
  have halone : u.trapReturn g (x.b == 1) = (((u.putGroup g').leaveRail g').freeWindow g').resumeAll g.gid := by
    have e := trapReturn_alone (w := u) hp i.first (x.b == 1)
    simp only [hskip] at e
    exact e
  have hfound : ∀ m, ((((u.putGroup g').leaveRail g').freeWindow g').resumeAll g.gid).group? m =
      ((u.putGroup g').group? m).map (fun k => k.resumed g.gid) := by
    intro m
    rw [group?_resumeAll, State.group?_congr (freeWindow_groups _ _), State.group?_congr (leaveRail_groups _ _)]
  obtain ⟨hmem, hop, hcom⟩ := leave_free_resume_rest (u.putGroup g') g' g.gid
  refine ⟨_, g', hnext, ?_, rfl, fun hlt => ?_, fun h0 hle => ?_, fun m hm => ?_, fun hr => ?_, ?_, ?_, ?_⟩
  · have hself : (u.putGroup g').group? g.gid = some g' := State.group?_putGroup_self (g := g') hk
    rw [halone, hfound, hself]
    exact congrArg some (resumed_self hsusp)
  · have hpt : p = (r.clause, slot, litsBefore f.words slot) := resumePoint_inside hf hne hlt
    show (returned g p slot).ctl = _
    rw [hpt]
    have hstay : (slot == 0 && slot != 0) = false := by cases h : slot == 0 <;> simp_all
    simp only [returned, hstay, Bool.not_false, Bool.and_true]
    rfl
  · have hpt : p = (r.clause + BitVec.ofNat 64 (4 * (1 + f.words.length + f.lits.length)), 0, 0) := resumePoint_behind hf hne h0 hle
    show (returned g p slot).ctl = _
    rw [hpt]
    have hnextc : ((0 : Nat) == 0 && slot != 0) = true := by simpa using h0
    simp only [returned, hnextc, Bool.not_true, Bool.and_false]
    rfl
  · have hother : u.group? m = s.group? m := by
      rw [hu]
      exact State.group?_putGroup_ne s.tick (g := { g with queues := qs }) hm
    rw [halone, hfound, State.group?_putGroup_ne u (g := g') hm, hother]
  · have hleft : (((u.putGroup g').leaveRail g').rail g.core (railOfSeat seat)).handler = some g.gid := by
      have e := rail_leaveRail (g := g') (u.putGroup g') hseat
      rw [show ((u.putGroup g').leaveRail g').rail g.core (railOfSeat seat) = _ from e, hu]
      exact hr
    have e := rail_freeWindow (g := g') ((u.putGroup g').leaveRail g') hseat hleft
    rw [halone]
    show ((((u.putGroup g').leaveRail g').freeWindow g').rail g.core (railOfSeat seat)).handler = none ∧
      ((((u.putGroup g').leaveRail g').freeWindow g').rail g.core (railOfSeat seat)).window = []
    rw [show (((u.putGroup g').leaveRail g').freeWindow g').rail g.core (railOfSeat seat) = _ from e]
    exact ⟨rfl, rfl⟩
  · rw [halone, hmem, hu]
    rfl
  · rw [halone, hop, hu]
    rfl
  · rw [halone, hcom, hu]
    rfl

/-! ### No active lane (13 R348) -/

/-- The move behind an instruction, from the state before its turn. -/
theorem Behind.of_tick {n lits : Nat} (h : Behind s.tick t n c lits) : Behind s t n c lits := by
  obtain ⟨k, m, hk, only, ctx, hctl, hq, hcom, hops, hheld⟩ := h
  exact ⟨k, m, hk, ⟨only.found, only.others, only.bytes, only.rest, only.cores, only.mine, only.rails, only.other, only.ops⟩, ctx, hctl, hq,
    hcom, hops, hheld⟩

/-- Settles O25. -/
theorem noActiveLaneAdvances : Obligations.NoActiveLaneAdvances := by
  unfold Obligations.NoActiveLaneAdvances
  intro mk form op body he s g c d a b hcur hg hc hf hl
  refine ⟨s.tick.nextSlot g.gid (form d a b).lits 1 (form d a b).long, ?_, ?_⟩
  · rw [he]
    unfold issue
    rw [hcur]
    simp only [hg]
    unfold State.issueIn
    rw [hf]
    simp only [hl, List.isEmpty_nil, if_true]
  · exact (nextSlot_behind (w := s.tick) hg hc _ _ _).of_tick

end Sys2Proof.Machine
end

section
/-!
SUPPORT. The opcode map read in both directions (12 Table 12.4; O33, O34), a word that is none (O37), and the step: which instruction it
runs (O35), and that it always goes on (O36); with what reset leaves (O60).
-/
namespace Sys2Proof.Laws.EncodeDecode

/-- The word of every instruction decodes to it, by the lemma of its row. -/
theorem decode_encode (i : Instr) : Statement i :=
  Instr.casesOn (motive := Statement) i
    nop brk exit swtrap tret ctxrd ctxwr ctxctl setmode modeset sysv rdfps wrfps rdcnt pgmap pgunmap bra bru ifnz elseOp endif brnone
    call ret loop fwait yield brx iadd isub imul imulh imin imax iabs ineg iand ior ixor inot shr shl sar rotl bfx bfi popc clz brev
    imad idiv irem icmpeq icmpne icmplt icmple icmpgt icmpge sel mov movl movi movih iaddl imull iandl iorl ixorl mov64 movl64 getexec
    setexec fadd fsub fmul fma fms fnma fnms fmal fdiv fsqrt fmax fmin fmaxn fminn fabs fneg fexp2 flog2 frsq fcpys fceq fcne fclt fcle
    reduce scan shfl shflup shfldn shflx vote matchOp fence ifence cvt fcpack fcunpk fclass frint fscale flogb fcun frcp ld32 lda32 ld8
    ld8s ld16 ld16s ld64 ld128 st32 stl32 st8 st16 st64 st128 recwr recrd arrive waitp barinit bartest arrivex aor32 axor32 tkt twait
    tserve qstat lease unlease leaseq slotset cas32 cas64 xchg32 aadd32 aadd64 amin32 amax32 aand32 radd32 radd64 rmin32 rmax32 rand32
    ror32 rxor32 mma accld accst accz obclaim obrel perturb setshape ldshape stshape shfield getshape powerSupplyRamp supplyWindowMissed
    bringUp thermalGate thermalGateRelease thermalShutdown controlFrameReceive rotcfgWrite flitReceive relayForward fabricEventDeliver
    cxlMemAccess vfEnable vfDisable vfBanksSet vfBanksClear vfGateSet vfGateClear lqEnable lqErrClear tailSnoop tailRefetch
    launchPacketStart partcfgWrite partitionReset firewallDrop regbindBind poisonDetect linefill poolListRead bar2Access dumpWindowRead
    fatalErrorDump dumpClear registerWrite spdmGetVersion spdmGetCapabilities spdmNegotiateAlgorithms spdmGetDigests spdmGetCertificate
    spdmChallenge spdmGetMeasurements spdmKeyExchange spdmFinish spdmKeyUpdate spdmEndSession spdmUnsupportedRequest ideKeyProgram
    install remove removeTakeEffect reservationReplacement farLineFill l2farWrite l2farTakeEffect atomicPerform barrierCount
    collectiveStart collectiveStep collectiveEnd matrixSelfTest dieWithdrawal poolAllotment packageLeavesPod powerDownSequence
    powerOnReset hostReset dieWarmReset frameTick thermalRecordRead thermalRecordClear controlFrameSend leaseControllerApply
    guardElapsed drainComplete turnBoundary rotcfgTakeEffect flitSend ingressDrain laserFailure portFailure streamReplacement
    channelRepair fabricSendCommand fabricSendEnd ideEstablish swapOutComplete launchComplete regionScrub slotService
    reservedRequestDepart workgroupStart groupSeat groupUnseat groupWake clauseStart llsHalving throttleEvaluation watchdogExpiry
    registerLineInstall faultService mantleScrub longLatencyComplete loadDataReturn trapEntry suspensionEffect copyCommand fillCommand
    copyUnknownKind copyChunkComplete copyTransferEnd storeCommit releaseComplete acquireComplete barrierPhaseAdvance barrierWake
    tserveBroadcast spinelCommand matrixCommandStart matrixCommandEnd matrixMarker

/-- A word is its four fields. -/
theorem mkWord_fields (w : Word) : mkWord (opField w) (dField w) (aField w) (bField w) = w := by
  refine BitVec.eq_of_getLsbD_eq (fun j hj => ?_)
  simp only [mkWord_getLsbD, BitVec.getLsbD_append, opField, dField, aField, bField, BitVec.getLsbD_extractLsb']
  have hb : j < 8 ∨ (¬j < 8 ∧ j - 8 < 8) ∨ (¬j < 8 ∧ ¬j - 8 < 8 ∧ j - 8 - 8 < 8) ∨
      (¬j < 8 ∧ ¬j - 8 < 8 ∧ ¬j - 8 - 8 < 8 ∧ j - 8 - 8 - 8 < 8) := by omega
  rcases hb with h | ⟨h0, h⟩ | ⟨h0, h1, h⟩ | ⟨h0, h1, h2, h⟩ <;> simp only [*, decide_true, Bool.true_and, if_true, if_false] <;>
    exact place (by omega)

/-- A word of a known opcode. -/
theorem word_of_opcode {w : Word} {n : Nat} (h : (opField w).toNat = n) :
    mkWord (BitVec.ofNat 8 n) (dField w) (aField w) (bField w) = w := by
  rw [← h, BitVec.ofNat_toNat, BitVec.setWidth_eq, mkWord_fields]

/-- What a row of the table reads as an instruction is that instruction's word. -/
def RowAgrees (hi : Nat) (row : Nat → Word → Except DecodeError Instr) : Prop :=
  ∀ lo w i, (opField w).toNat = 16 * hi + lo → row lo w = .ok i → encode i = some w

/-- A word of an opcode without fields. -/
theorem word_of_opcode_wide {w : Word} {n : Nat} (h : (opField w).toNat = n) : BitVec.ofNat 8 n ++ w.extractLsb' 0 24 = w := by
  rw [← h, BitVec.ofNat_toNat, BitVec.setWidth_eq]
  refine BitVec.eq_of_getLsbD_eq (fun j hj => ?_)
  simp only [BitVec.getLsbD_append, opField, BitVec.getLsbD_extractLsb']
  by_cases h : j < 24
  · simp only [h, decide_true, Bool.true_and, if_true]
    exact place (by omega)
  · simp only [h, show j - 24 < 8 by omega, decide_true, Bool.true_and, if_false]
    exact place (by omega)

theorem decodeRow0_encode : RowAgrees 0 decodeRow0 := by
  intro lo w i ho h
  unfold decodeRow0 at h
  split at h
  · cases h
    exact congrArg some (word_of_opcode_wide ho)
  · cases h
    exact congrArg some (word_of_opcode_wide ho)
  all_goals cases h
  all_goals exact congrArg some (word_of_opcode ho)

theorem decodeRow1_encode : RowAgrees 1 decodeRow1 := by
  intro lo w i ho h
  unfold decodeRow1 at h
  split at h <;> cases h <;> exact congrArg some (word_of_opcode ho)

theorem decodeRow2_encode : RowAgrees 2 decodeRow2 := by
  intro lo w i ho h
  unfold decodeRow2 at h
  split at h <;> cases h <;> exact congrArg some (word_of_opcode ho)

theorem decodeRow3_encode : RowAgrees 3 decodeRow3 := by
  intro lo w i ho h
  unfold decodeRow3 at h
  split at h <;> cases h <;> exact congrArg some (word_of_opcode ho)

theorem decodeRow4_encode : RowAgrees 4 decodeRow4 := by
  intro lo w i ho h
  unfold decodeRow4 at h
  split at h <;> cases h <;> exact congrArg some (word_of_opcode ho)

theorem decodeRow5_encode : RowAgrees 5 decodeRow5 := by
  intro lo w i ho h
  unfold decodeRow5 at h
  split at h <;> cases h <;> exact congrArg some (word_of_opcode ho)

theorem decodeRow6_encode : RowAgrees 6 decodeRow6 := by
  intro lo w i ho h
  unfold decodeRow6 at h
  split at h <;> cases h <;> exact congrArg some (word_of_opcode ho)

theorem decodeRow7_encode : RowAgrees 7 decodeRow7 := by
  intro lo w i ho h
  unfold decodeRow7 at h
  split at h <;> cases h <;> exact congrArg some (word_of_opcode ho)

theorem decodeRow8_encode : RowAgrees 8 decodeRow8 := by
  intro lo w i ho h
  unfold decodeRow8 at h
  split at h <;> cases h <;> exact congrArg some (word_of_opcode ho)

theorem decodeRow9_encode : RowAgrees 9 decodeRow9 := by
  intro lo w i ho h
  unfold decodeRow9 at h
  split at h <;> cases h <;> exact congrArg some (word_of_opcode ho)

theorem decodeRowA_encode : RowAgrees 10 decodeRowA := by
  intro lo w i ho h
  unfold decodeRowA at h
  split at h <;> cases h <;> exact congrArg some (word_of_opcode ho)

theorem decodeRowB_encode : RowAgrees 11 decodeRowB := by
  intro lo w i ho h
  unfold decodeRowB at h
  split at h <;> cases h <;> exact congrArg some (word_of_opcode ho)

/-- Each word read as an instruction is its word, by the row its opcode's upper digit names. -/
theorem encode_decode (w : Word) (i : Instr) (h : decodeWord w = .ok i) : encode i = some w := by
  unfold decodeWord at h
  simp only at h
  have ho : (opField w).toNat = 16 * ((opField w).toNat / 16) + (opField w).toNat % 16 := by omega
  generalize (opField w).toNat / 16 = hi at h ho
  split at h
  · exact decodeRow0_encode _ _ _ ho h
  · exact decodeRow1_encode _ _ _ ho h
  · exact decodeRow2_encode _ _ _ ho h
  · exact decodeRow3_encode _ _ _ ho h
  · exact decodeRow4_encode _ _ _ ho h
  · exact decodeRow5_encode _ _ _ ho h
  · exact decodeRow6_encode _ _ _ ho h
  · exact decodeRow7_encode _ _ _ ho h
  · exact decodeRow8_encode _ _ _ ho h
  · exact decodeRow9_encode _ _ _ ho h
  · exact decodeRowA_encode _ _ _ ho h
  · exact decodeRowB_encode _ _ _ ho h
  · cases h
  · cases h

/-! ### Words as bytes (12 R315) -/

/-- A bit of a byte of a word's number is the word's. -/
theorem getLsbD_byte (w : Word) {k i j : Nat} (hi : i < 8) (h : k + i = j) :
    (BitVec.ofNat 8 (w.toNat / 2 ^ k)).getLsbD i = w.getLsbD j := by
  rw [BitVec.getLsbD_ofNat, Nat.testBit_div_two_pow, ← h, Nat.add_comm k i]
  simp only [hi, decide_true, Bool.true_and]
  rfl

/-- The four bytes of a word make it again. -/
theorem wordOfBytes_bytes (w : Word) : wordOfBytes (BitVec.ofNat 8 w.toNat) (BitVec.ofNat 8 (w.toNat / 256))
    (BitVec.ofNat 8 (w.toNat / 256 / 256)) (BitVec.ofNat 8 (w.toNat / 256 / 256 / 256)) = w := by
  have h2 : w.toNat / 256 / 256 = w.toNat / 2 ^ 16 := Nat.div_div_eq_div_mul ..
  have h3 : w.toNat / 256 / 256 / 256 = w.toNat / 2 ^ 24 := by rw [h2]; exact Nat.div_div_eq_div_mul ..
  rw [h3, h2, show w.toNat / 256 = w.toNat / 2 ^ 8 from rfl]
  refine BitVec.eq_of_getLsbD_eq (fun j hj => ?_)
  unfold wordOfBytes
  simp only [BitVec.getLsbD_append]
  have hb : j < 8 ∨ (¬j < 8 ∧ j - 8 < 8) ∨ (¬j < 8 ∧ ¬j - 8 < 8 ∧ j - 8 - 8 < 8) ∨
      (¬j < 8 ∧ ¬j - 8 < 8 ∧ ¬j - 8 - 8 < 8 ∧ j - 8 - 8 - 8 < 8) := by omega
  rcases hb with h | ⟨h0, h⟩ | ⟨h0, h1, h⟩ | ⟨h0, h1, h2, h⟩
  · rw [if_pos h]
    have e := getLsbD_byte w (k := 0) (j := j) h (by omega)
    rwa [Nat.pow_zero, Nat.div_one] at e
  · rw [if_neg h0, if_pos h]
    exact getLsbD_byte w (k := 8) (j := j) h (by omega)
  · rw [if_neg h0, if_neg h1, if_pos h]
    exact getLsbD_byte w (k := 16) (j := j) h (by omega)
  · rw [if_neg h0, if_neg h1, if_neg h2]
    exact getLsbD_byte w (k := 24) (j := j) h (by omega)

/-- The bytes of a word, and what follows them, read as its instruction. -/
theorem decodeBytes_word {w : Word} {i : Instr} (h : decodeWord w = .ok i) (rest : List Byte) :
    decodeBytes (bytesOfNat 4 w.toNat ++ rest) = .ok (i, rest) := by
  show (match decodeWord (wordOfBytes (BitVec.ofNat 8 w.toNat) (BitVec.ofNat 8 (w.toNat / 256))
    (BitVec.ofNat 8 (w.toNat / 256 / 256)) (BitVec.ofNat 8 (w.toNat / 256 / 256 / 256))) with
    | .ok i => Except.ok (i, rest)
    | .error e => .error e) = _
  rw [wordOfBytes_bytes, h]

/-- So does a row of the opcode table. -/
theorem decodeTableWord_word {w : Word} {i : Instr} (h : decodeWord w = .ok i) : decodeTableWord 32 w.toNat = some i := by
  have hb := decodeBytes_word h []
  rw [List.append_nil] at hb
  unfold decodeTableWord
  rw [Nat.mod_eq_of_lt w.isLt, hb]

end Sys2Proof.Laws.EncodeDecode

namespace Sys2Proof.Machine

open Laws.EncodeDecode in
/-- Settles O33, by the lemma of each instruction one way and of each row of the table the other. -/
theorem decodeAndEncodeAgree : Obligations.DecodeAndEncodeAgree := by
  unfold Obligations.DecodeAndEncodeAgree
  refine ⟨fun i w h => ?_, fun i w h => encode_decode w i h⟩
  have hd := decode_encode i w h
  exact ⟨hd, decodeTableWord_word hd, decodeBytes_word hd⟩

/-! ### The fate of an opcode (12 R325) -/

/-- Why the decoder reads nothing, if it reads nothing. -/
def refusalOf : Except DecodeError Instr → Option DecodeError
  | .ok _ => none
  | .error e => some e

/-- Without a refusal there is an instruction. -/
theorem refusalOf_none {r : Except DecodeError Instr} (h : refusalOf r = none) : ∃ i, r = .ok i := by
  cases r with
  | ok i => exact ⟨i, rfl⟩
  | error e => cases h

theorem refusalOf_some {r : Except DecodeError Instr} {e : DecodeError} (h : refusalOf r = some e) : r = .error e := by
  cases r with
  | ok i => cases h
  | error e' =>
    cases h
    rfl

/-- The fields never change the fate: it is the opcode's. -/
theorem refusal_of_opcode (w v : Word) (h : opField w = opField v) : refusalOf (decodeWord w) = refusalOf (decodeWord v) := by
  unfold decodeWord
  simp only [h]
  generalize (opField v).toNat / 16 = hi
  generalize (opField v).toNat % 16 = lo
  split
  · unfold decodeRow0; split <;> rfl
  · unfold decodeRow1; split <;> rfl
  · unfold decodeRow2; split <;> rfl
  · unfold decodeRow3; split <;> rfl
  · unfold decodeRow4; split <;> rfl
  · unfold decodeRow5; split <;> rfl
  · unfold decodeRow6; split <;> rfl
  · unfold decodeRow7; split <;> rfl
  · unfold decodeRow8; split <;> rfl
  · unfold decodeRow9; split <;> rfl
  · unfold decodeRowA; split <;> rfl
  · unfold decodeRowB; split <;> rfl
  · rfl
  · rfl

/-- The dashes of Table 12.4. -/
def reservedOpcodes : List Nat :=
  [0x1C, 0x1D, 0x1E, 0x1F, 0x3F, 0x4D, 0x4E, 0x4F, 0x7B, 0x7C, 0x7D, 0x7E, 0x7F, 0x97, 0xAF, 0xB7, 0xBD, 0xBE, 0xBF]

/-- The fate of each value of OP. -/
def opcodeFate (n : Nat) : Option DecodeError :=
  if n ∈ reservedOpcodes then some .reservedOpcode
  else if n < 0xC0 then none
  else if n < 0xF0 then some .futureOpcode
  else some .headerValue

/-- The table has 16 rows of 16 values. -/
theorem refusal_table : ∀ hi < 16, ∀ lo < 16,
    refusalOf (decodeWord (mkWord (BitVec.ofNat 8 (16 * hi + lo)) 0#8 0#8 0#8)) = opcodeFate (16 * hi + lo) := by decide

theorem refusal_mkWord (op d a b : Byte) : refusalOf (decodeWord (mkWord op d a b)) = opcodeFate op.toNat := by
  have h := refusal_table (op.toNat / 16) (by omega) (op.toNat % 16) (by omega)
  rw [Nat.div_add_mod, BitVec.ofNat_toNat, BitVec.setWidth_eq] at h
  rw [← h]
  exact refusal_of_opcode _ _ (by simp)

/-- Settles O34: by the fate of the opcode, and the words by evaluation. -/
theorem opcodesAndWords : Obligations.OpcodesAndWords := by
  unfold Obligations.OpcodesAndWords
  refine ⟨fun op d a b => ?fates, ?words⟩
  case fates =>
    have hf := refusal_mkWord op d a b
    unfold opcodeFate at hf
    have hlow : ∀ n ∈ reservedOpcodes, n < 0xC0 := by decide
    refine ⟨fun hlt hn => ?_, fun hm => ?_, fun hge hlt => ?_, fun hge => ?_⟩
    · rw [if_neg (show op.toNat ∉ reservedOpcodes from hn), if_pos hlt] at hf
      exact refusalOf_none hf
    · rw [if_pos (show op.toNat ∈ reservedOpcodes from hm)] at hf
      exact refusalOf_some hf
    · rw [if_neg (fun hm => Nat.not_lt.2 hge (hlow _ hm)), if_neg (Nat.not_lt.2 hge), if_pos hlt] at hf
      exact refusalOf_some hf
    · rw [if_neg (fun hm => absurd (hlow _ hm) (by omega)), if_neg (by omega), if_neg (by omega)] at hf
      exact refusalOf_some hf
  case words => exact ⟨rfl, rfl, rfl, rfl, rfl, rfl, rfl, rfl, rfl⟩

/-! ### The move of a turn -/

section
variable {v s : State} {c r n : Nat} {g : Group} {w : Word}

/-- The step of a listed turn is its move. -/
theorem step_of_agenda {m : Turn} {rest : List Turn} (h : s.agenda = m :: rest) : step s =
    match State.moveOf { s with agenda := rest } m with
    | .run i t => exec i t
    | .bad t => .next t
    | .none => .refused .notAStep := by
  unfold step State.takeTurn
  rw [h] <;> rfl

theorem moveOf_word {i : Instr} (hc : (v.rail c r).clauseOf = some n) (hg : v.group? n = some g) (hw : g.slotWord = some w)
    (hd : decodeWord w = .ok i) : v.moveOf (.issue c r) = .run i { v with cur := some n } := by
  unfold State.moveOf
  simp only [hc, hg, hw, hd]

theorem moveOf_badWord {e : DecodeError} (hc : (v.rail c r).clauseOf = some n) (hg : v.group? n = some g) (hw : g.slotWord = some w)
    (hd : decodeWord w = .error e) : v.moveOf (.issue c r) = .bad (v.badWord g w e) := by
  unfold State.moveOf
  simp only [hc, hg, hw, hd]

theorem moveOf_idle (hc : (v.rail c r).clauseOf = none) :
    v.moveOf (.issue c r) = .run .clauseStart { v with turn := ⟨c, r, 0⟩, cur := none } := by
  unfold State.moveOf
  simp only [hc]

theorem moveOf_event {i : Instr} (h : encode i = none) (x y z : Nat) :
    v.moveOf (.event i x y z) = .run i { v with turn := ⟨x, y, z⟩, cur := none } := by
  unfold State.moveOf isStep
  simp only [h, Option.isNone_none, if_true]

/-- The move of an instruction that is listed as if it were a step of an agent. -/
theorem moveOf_instruction {i : Instr} (h : encode i ≠ none) (x y z : Nat) : v.moveOf (.event i x y z) = .none := by
  unfold State.moveOf isStep
  simp only [Option.isNone_iff_eq_none, h, if_false]

end

/-! ### A word that is none (12 R325; 06 R173, R176) -/

/-- Settles O37: the step of a bad word raises its trap, which nothing keeps from its handler. -/
theorem badWordsTrap : Obligations.BadWordsTrap := by
  unfold Obligations.BadWordsTrap
  intro s rest c r g w e seat hagenda hclause hg hw hdec ce s0 uni lanes
  have hstep : step s = .next (s0.badWord g w e) := by
    rw [step_of_agenda hagenda, moveOf_badWord (v := s0) hclause hg hw hdec]
  have enters : ∀ tr : Trap, ∃ h, Entered s0 (s0.tick.raiseTrap g tr g.ctl.slot false uni w) g h seat (trapRecord s0 g tr uni w) := by
    intro tr
    have ce0 : CanEnter s0.tick g seat := ⟨ce.outside, ce.alone, ce.placed, ce.awake, ce.free, ce.first⟩
    obtain ⟨h, en⟩ := State.raiseTrap_entered (s := s0.tick) hg ce0 tr uni w
    exact ⟨h, en.of_tick⟩
  by_cases he : e = .futureOpcode
  · subst he
    obtain ⟨h, en⟩ := enters ⟨2, lanes, w.toNat, 0⟩
    exact ⟨_, h, hstep, en⟩
  · obtain ⟨h, en⟩ := enters ⟨1, lanes, w.toNat, 1⟩
    have hbad : s0.badWord g w e = s0.tick.raiseTrap g ⟨1, lanes, w.toNat, 1⟩ g.ctl.slot false uni w := by
      unfold State.badWord
      cases e with
      | futureOpcode => exact absurd rfl he
      | reservedOpcode | headerValue | shortWord => rfl
    refine ⟨_, h, hstep, ?_⟩
    rw [hbad, if_neg he]
    exact en

/-! ### Which instruction a step runs (06 R166) -/

/-- With nothing listed, the step is that of the turn the model's own policy gives. -/
theorem step_of_nothing {s : State} (h : s.agenda = []) : step s = step { s.tick with agenda := [nextTurn s] } := by
  have htick : ({ s.tick with agenda := [] } : State) = s.tick := by
    cases s
    cases h
    rfl
  unfold step State.takeTurn
  rw [h]
  simp only [htick]

/-- Settles O35: what the move of each turn is. -/
theorem stepRunsTheInstruction : Obligations.StepRunsTheInstruction := by
  unfold Obligations.StepRunsTheInstruction
  intro s rest
  refine ⟨fun c r g w i hagenda hclause hg hw hdec => ?_, fun c r hagenda hclause => ?_, fun i x y z hagenda henc => ?_, step_of_nothing⟩
  · rw [step_of_agenda hagenda, moveOf_word (v := { s with agenda := rest }) hclause hg hw hdec]
  · rw [step_of_agenda hagenda, moveOf_idle (v := { s with agenda := rest }) hclause]
  · rw [step_of_agenda hagenda, moveOf_event henc]

/-! ### Every step goes on -/

/-- An instruction of a group answers a next state. -/
theorem issue_goes {form : Form} {op d a b : Byte} {body : Ctx → State → Act} {s : State} {n : Nat} {g : Group} (hcur : s.cur = some n)
    (hg : s.group? n = some g) : ∃ t, issue form op d a b body s = .next t := by
  unfold issue
  rw [hcur]
  simp only [hg]
  exact ⟨_, rfl⟩

/-- An instruction of no group is the model's own fault. -/
theorem issue_faults {form : Form} {op d a b : Byte} {body : Ctx → State → Act} {s : State} (h : ∀ n, s.cur = some n → s.group? n = none) :
    issue form op d a b body s = .fault .noIssuingGroup := by
  unfold issue
  cases hcur : s.cur with
  | none => rfl
  | some n => simp only [h n hcur]

/-- An instruction is executed by issuing it. -/
def Issued (i : Instr) : Prop := ∃ form op d a b body, ∀ s, exec i s = issue form op d a b body s

/-- A row of the opcode table is a step of another agent, or an instruction that is issued. -/
theorem step_or_issued (i : Instr) : encode i = none ∨ Issued i := by
  cases hw : encode i with
  | none => exact .inl rfl
  | some w =>
    right
    cases i <;> cases hw <;> exact ⟨_, _, _, _, _, _, fun _ => rfl⟩

/-- A step of another agent answers a next state: each of its branches ends in one. -/
theorem agent_goes (i : Instr) (s : State) (h : encode i = none) : ∃ t, exec i s = .next t := by
  cases i <;> cases h
  all_goals simp only [exec, State.onRequest,
    execPowerSupplyRamp, execSupplyWindowMissed, execBringUp, execThermalGate, execThermalGateRelease, execThermalShutdown,
    execControlFrameReceive, execRotcfgWrite, execFlitReceive, execRelayForward, execFabricEventDeliver, execCxlMemAccess, execVfEnable,
    execVfDisable, execVfBanksSet, execVfBanksClear, execVfGateSet, execVfGateClear, execLqEnable, execLqErrClear, execTailSnoop,
    execTailRefetch, execLaunchPacketStart, execPartcfgWrite, execPartitionReset, execFirewallDrop, execRegbindBind, execPoisonDetect,
    execLinefill, execPoolListRead, execBar2Access, execDumpWindowRead, execFatalErrorDump, execDumpClear, execRegisterWrite,
    execSpdmGetVersion, execSpdmGetCapabilities, execSpdmNegotiateAlgorithms, execSpdmGetDigests, execSpdmGetCertificate,
    execSpdmChallenge, execSpdmGetMeasurements, execSpdmKeyExchange, execSpdmFinish, execSpdmKeyUpdate, execSpdmEndSession,
    execSpdmUnsupportedRequest, execIdeKeyProgram, execInstall, execRemove, execRemoveTakeEffect, execReservationReplacement,
    execFarLineFill, execL2farWrite, execL2farTakeEffect, execAtomicPerform, execBarrierCount, execCollectiveStart, execCollectiveStep,
    execCollectiveEnd, execMatrixSelfTest, execDieWithdrawal, execPoolAllotment, execPackageLeavesPod, execPowerDownSequence,
    execPowerOnReset, execHostReset, execDieWarmReset, execFrameTick, execThermalRecordRead, execThermalRecordClear,
    execControlFrameSend, execLeaseControllerApply, execGuardElapsed, execDrainComplete, execTurnBoundary, execRotcfgTakeEffect,
    execFlitSend, execIngressDrain, execLaserFailure, execPortFailure, execStreamReplacement, execChannelRepair, execFabricSendCommand,
    execFabricSendEnd, execIdeEstablish, execSwapOutComplete, execLaunchComplete, execRegionScrub, execSlotService,
    execReservedRequestDepart, execWorkgroupStart, execGroupSeat, execGroupUnseat, execGroupWake, execClauseStart, execLlsHalving,
    execThrottleEvaluation, execWatchdogExpiry, execRegisterLineInstall, execFaultService, execMantleScrub, execLongLatencyComplete,
    execLoadDataReturn, execTrapEntry, execSuspensionEffect, execCopyCommand, execFillCommand, execCopyUnknownKind,
    execCopyChunkComplete, execCopyTransferEnd, execStoreCommit, execReleaseComplete, execAcquireComplete, execBarrierPhaseAdvance,
    execBarrierWake, execTserveBroadcast, execSpinelCommand, execMatrixCommandStart, execMatrixCommandEnd, execMatrixMarker]
  all_goals repeat' split
  all_goals exact ⟨_, rfl⟩

/-- So does an instruction of a group. -/
theorem instruction_goes {i : Instr} {s : State} {n : Nat} {g : Group} (h : encode i ≠ none) (hcur : s.cur = some n)
    (hg : s.group? n = some g) : ∃ t, exec i s = .next t := by
  obtain ⟨form, op, d, a, b, body, he⟩ := (step_or_issued i).resolve_left h
  rw [he]
  exact issue_goes hcur hg

/-- A move goes on, unless it is none. -/
theorem move_goes (v : State) (m : Turn) : (∃ t, (match v.moveOf m with
    | .run i t => exec i t
    | .bad t => .next t
    | .none => .refused .notAStep) = .next t) ∨ ∃ i x y z, m = .event i x y z ∧ encode i ≠ none := by
  cases m with
  | event i x y z =>
    by_cases h : encode i = none
    · left
      rw [moveOf_event h]
      exact agent_goes i _ h
    · exact .inr ⟨i, x, y, z, rfl, h⟩
  | issue c r =>
    left
    unfold State.moveOf
    simp only
    cases hc : (v.rail c r).clauseOf with
    | none => exact agent_goes .clauseStart _ rfl
    | some n =>
      cases hg : v.group? n with
      | none => simp only [hg]; exact agent_goes .clauseStart _ rfl
      | some g =>
        cases hw : g.slotWord with
        | none => simp only [hg, hw]; exact agent_goes .clauseStart _ rfl
        | some w =>
          cases hd : decodeWord w with
          | ok i =>
            simp only [hg, hw, hd]
            have henc : encode i ≠ none := by
              rw [Laws.EncodeDecode.encode_decode w i hd]
              exact nofun
            exact instruction_goes henc (s := { v with cur := some n }) rfl hg
          | error e => simp only [hg, hw, hd]; exact ⟨_, rfl⟩

/-- The model's own policy lists no instruction: its move would change nothing. -/
theorem nextTurn_step (s : State) {i : Instr} {x y z : Nat} (h : nextTurn s = .event i x y z) : encode i = none := by
  unfold nextTurn at h
  simp only at h
  generalize s.candidates.drop _ ++ s.candidates.take _ = cs at h
  cases hf : cs.find? s.moves with
  | none =>
    rw [hf] at h
    cases h
    rfl
  | some m =>
    rw [hf] at h
    have hm : s.moves m = true := List.find?_some hf
    rw [show m = .event i x y z from h] at hm
    refine Classical.byContradiction fun hne => ?_
    unfold State.moves at hm
    rw [moveOf_instruction hne] at hm
    cases hm

/-- Settles O36: an instruction is issued, a step of an agent ends each of its branches in a next state, and a step does one of both. -/
theorem everyStepGoesOn : Obligations.EveryStepGoesOn := by
  unfold Obligations.EveryStepGoesOn
  refine ⟨fun i s n g henc hcur hg => instruction_goes henc hcur hg, agent_goes, ?fault, ?steps, ?default⟩
  case fault =>
    intro i s henc hnone
    obtain ⟨form, op, d, a, b, body, he⟩ := (step_or_issued i).resolve_left henc
    rw [he]
    exact issue_faults hnone
  case steps =>
    intro s
    refine (move_goes s.takeTurn.2 s.takeTurn.1).imp id (fun h => ?_)
    obtain ⟨i, x, y, z, hm, henc⟩ := h
    refine ⟨i, x, y, z, hm, henc, ?_⟩
    unfold step
    rw [hm, moveOf_instruction henc]
  case default =>
    intro s hagenda
    refine (move_goes s.takeTurn.2 s.takeTurn.1).resolve_right (fun h => ?_)
    obtain ⟨i, x, y, z, hm, henc⟩ := h
    unfold State.takeTurn at hm
    rw [hagenda] at hm
    exact henc (nextTurn_step s hm)

/-! ### Reset -/

/-- VFCTL of a function as reset leaves it. -/
theorem vfctlRead_reset : ({} : Fn).vfctlRead.toNat = 0 := by decide

/-- D2DFW is 0 at reset: no crossing is open. -/
theorem openOf_reset (n : Nat) : State.reset.openOf n = 0#32 := BitVec.zero_and

/-- Settles O60: each value is what the fields' defaults give. -/
theorem resetValues : Obligations.ResetValues := by
  unfold Obligations.ResetValues
  refine ⟨?_, ?_, ?_, ?_, ?_, ?_, ?_, ?_, ?_, ?_, rfl, rfl, rfl, rfl, rfl, rfl, rfl, rfl, rfl, rfl, rfl⟩
  · exact fun v => ⟨vfctlRead_reset, rfl, rfl, rfl⟩
  · exact fun v q => ⟨rfl, rfl, rfl, rfl⟩
  · exact fun f => ⟨rfl, rfl, rfl, rfl, rfl, rfl, rfl, rfl, rfl⟩
  · exact fun p => ⟨rfl, rfl, rfl, rfl, rfl⟩
  · exact fun n => congrArg BitVec.toNat (openOf_reset n)
  · decide
  · rfl
  · rfl
  · exact fun n => ⟨rfl, rfl, rfl⟩
  · exact fun n => ⟨rfl, rfl⟩

end Sys2Proof.Machine
end

section
/-!
SUPPORT. EXIT (13 R359; O28): a kill, a retirement, or a release that is waited for.
-/
namespace Sys2Proof.Machine

variable {s u w : State} {g k : Group} {c : FetchedClause} {form : Form} {op d a b : Byte} {x : Ctx}

/-- Behind the pops of an instruction the groups have the numbers they had. -/
theorem Issues.gids (i : Issues s g c form op d a b x u) : u.groups.map (fun k => k.gid) = s.groups.map (fun k => k.gid) := by
  obtain ⟨qs, hu, -⟩ := i.popped
  rw [hu]
  exact map_replaceFirst _ (fun y hy => by simpa using hy)

/-- What the pops of an instruction leave of everything but its group. -/
theorem Issues.mem_ops (i : Issues s g c form op d a b x u) : u.mem = s.mem ∧ u.ops = s.ops ∧ u.nextId = s.nextId := by
  obtain ⟨qs, hu, -⟩ := i.popped
  rw [hu]
  exact ⟨rfl, rfl, rfl⟩

/-- An instruction whose group has gone from its slot leaves what its effect says. -/
theorem issue_gone (i : Issues s g c form op d a b x u) {body : Ctx → State → Act} (hb : body x u = .gone w) :
    issue form op d a b body s = .next w := by
  rw [issue_ready i, hb]
  rfl

/-- An instruction that stalls in place, with what its attempt has done to the state before its pops. -/
theorem issue_stalls (i : Issues s g c form op d a b x u) {body : Ctx → State → Act} {st : Stall} {f : State → State}
    (hb : body x u = .stall st f) (hk : (f s.tick).group? g.gid = some k) : issue form op d a b body s = .next ((f s.tick).stall k st) := by
  rw [issue_ready i, hb]
  unfold Ctx.finish
  simp only [i.ctx.1, hk]

/-- A group that has stalled. -/
theorem stall_rest (hk : w.group? k.gid = some k) (st : Stall) : (w.stall k st).group? k.gid = some { k with stalled := some st } ∧
    (w.stall k st).ops = w.ops := by
  unfold State.stall
  refine ⟨?_, (State.leaveRail_ops _ _).1⟩
  rw [State.group?_congr (leaveRail_groups _ _)]
  exact State.group?_putGroup_self (g := { k with stalled := some st }) hk

/-- Without an operation a release would wait for, none is earlier. -/
theorem earlier_nil {n : Nat} (h : ∀ o ∈ w.ops, o.gid = n → o.beforeRelease = false) (lanes : Word) : w.earlier n lanes = [] := by
  unfold State.earlier
  rw [List.map_eq_nil_iff, List.filter_eq_nil_iff]
  intro o ho hsel
  simp only [Bool.and_eq_true, beq_iff_eq] at hsel
  rw [h o ho hsel.1.1] at hsel
  exact absurd hsel.1.2 (by decide)

/-- The release that EXIT starts (05 R133). -/
def exitRelease (x : Ctx) (w : State) : State :=
  w.fresh.2.startRelease { id := w.nextId, gid := x.gid, flag := 16, handler := false, lanes := x.g.ctl.live, kind := .lease } 4 none .exit

/-- That release as an operation, with what it waits for. -/
def exitHeld (n : Nat) (g : Group) (before entries : List Nat) : OutOp where
  id := n
  gid := g.gid
  flag := 16
  handler := false
  lanes := g.ctl.live
  kind := .release 4 before entries .exit

/-- Outside a handler, with every flag clear and no release of its own outstanding, EXIT looks at the stores that are left. -/
theorem exitEffect_clear (hh : x.g.ctl.handler = false) (hf : w.flagsClear x.gid 0x1FFF#13 = true)
    (ho : ∀ o ∈ w.ops, o.gid = x.gid → o.beforeRelease = false) :
    exitEffect x w = if x.g.ctl.psb.any (fun e => e.held.isNone) then .stall ⟨.barrier, .ops [w.nextId]⟩ (exitRelease x)
      else .gone (w.retire x.gid) := by
  have hnone : ∀ p : OutOp → Bool, (∀ o, p o = true → o.gid = x.gid ∧ o.beforeRelease = true) → w.ops.filter p = [] := by
    intro p hp
    refine List.filter_eq_nil_iff.2 (fun o hm hsel => ?_)
    obtain ⟨h1, h2⟩ := hp o hsel
    rw [ho o hm h1] at h2
    cases h2
  unfold exitEffect
  simp only [hh, hf, earlier_nil ho]
  rw [hnone]
  · cases x.g.ctl.psb.any (fun e => e.held.isNone) <;> rfl
  · intro o hsel
    rw [Bool.and_eq_true, beq_iff_eq] at hsel
    refine ⟨hsel.1, ?_⟩
    unfold OutOp.beforeRelease
    cases hk : o.kind with
    | release _ _ _ _ => rfl
    | _ => simp [hk] at hsel

/-- Settles O28: in a handler a kill; outside one a retirement, or a release of the live lanes behind which EXIT stalls. -/
theorem exit : Obligations.Exit := by
  unfold Obligations.Exit
  intro s g c d a b x u i hnodup hret
  obtain ⟨hgid, hxg, -⟩ := i.ctx
  obtain ⟨k, hk, -, hkk⟩ := i.stands
  have hkret : k.gstate ≠ .retired := by
    rw [hkk]
    exact hret
  have hnodup' : (u.groups.map (fun k => k.gid)).Nodup := by
    rw [i.gids]
    exact hnodup
  obtain ⟨humem, huops, hunext⟩ := i.mem_ops
  have hclear : g.ctl.handler = false → u.flagsClear g.gid 0x1FFF#13 = true → (∀ o ∈ u.ops, o.gid = g.gid → o.beforeRelease = false) →
      exitEffect x u = if g.ctl.psb.any (fun e => e.held.isNone) then .stall ⟨.barrier, .ops [u.nextId]⟩ (exitRelease x)
        else .gone (u.retire x.gid) := by
    intro hh hf ho
    rw [← hxg] at hh ⊢
    rw [← hgid] at hf
    exact exitEffect_clear hh hf (fun o hm he => ho o hm (he.trans hgid))
  refine ⟨?kill, ?retire, ?release⟩
  case kill =>
    intro hh
    obtain ⟨h, h1, h2⟩ := killGroup_retires hnodup' hk hkret
    refine ⟨_, h, issue_gone i (w := u.killGroup g.gid) ?_, h1, h2⟩
    unfold exitEffect
    rw [hxg, hh, hgid]
    rfl
  case retire =>
    intro hh hf ho hheld
    obtain ⟨-, hr⟩ := retire_spec hk
    obtain ⟨h, h1, h2, -⟩ := hr hnodup'
    refine ⟨_, h, issue_gone i (w := u.retire g.gid) ?_, h1, h2, (retire_mem u g.gid).trans humem⟩
    have hany : g.ctl.psb.any (fun e => e.held.isNone) = false := by
      rw [List.any_eq_false]
      intro e he
      rw [Option.isNone_eq_false_iff.2 (hheld e he)]
      exact Bool.false_ne_true
    rw [hclear hh hf ho, hany, hgid]
    rfl
  case release =>
    intro hh hf ho hfree
    have hany : g.ctl.psb.any (fun e => e.held.isNone) = true := by
      obtain ⟨e, he, hn⟩ := hfree
      exact List.any_eq_true.2 ⟨e, he, by rw [hn]; rfl⟩
    have hg : s.tick.fresh.2.group? g.gid = some g := i.group
    obtain ⟨h, cs, before, entries, near, hops, -, -, -, -, hpsb, -⟩ := State.startRelease_near hg
      { id := s.nextId, gid := g.gid, flag := 16, handler := false, lanes := g.ctl.live, kind := .lease } rfl 4 none .exit
    have hstart : exitRelease x s.tick = s.tick.fresh.2.startRelease
        { id := s.nextId, gid := g.gid, flag := 16, handler := false, lanes := g.ctl.live, kind := .lease } 4 none .exit := by
      unfold exitRelease
      rw [hgid, hxg]
      rfl
    have hhgid : h.gid = g.gid := near.context.gid
    have hfound : (exitRelease x s.tick).group? g.gid = some h := by
      rw [hstart]
      exact near.found
    obtain ⟨hst, hstops⟩ := stall_rest (k := h) (by rw [hhgid]; exact hfound) ⟨.barrier, .ops [u.nextId]⟩
    refine ⟨_, { h with stalled := some ⟨.barrier, .ops [s.nextId]⟩ }, exitHeld s.nextId g before entries,
      issue_stalls i (st := ⟨.barrier, .ops [u.nextId]⟩) ?_ hfound, ?_,
      rfl, ?_, rfl, rfl, rfl, ⟨before, entries, rfl⟩, ?_⟩
    · rw [hclear hh hf ho, hany]
      rfl
    · rw [← hhgid, hst, hunext]
    · rw [hstops, hstart, hops]
      rfl
    · intro l hl e he hnone hlane
      have he' : e ∈ h.ctl.psb := he
      rw [hpsb rfl, List.mem_filter] at he'
      rw [hnone, hlane, hl] at he'
      exact absurd he'.2 (by decide)

end Sys2Proof.Machine
end

section
/-!
SUPPORT. Queue operands (06 R170 to R172; O26): an instruction that waits for its queues, and one that pushes its results.
-/
namespace Sys2Proof.Machine

variable {s t u w : State} {g h k : Group} {c : FetchedClause} {form : Form} {op d a b : Byte} {x : Ctx} {n : Nat}

/-! ### An instruction that reaches its frame (13 R348) -/

/-- An instruction that has passed its checks is issued by the frame. -/
theorem issue_reaches (r : Reaches s g c form op d a b x) (body : Ctx → State → Act) :
    issue form op d a b body s = .next (x.issueActive s.tick (mkWord op d a b) body) := by
  unfold issue
  rw [r.cur]
  simp only [r.group]
  unfold State.issueIn
  rw [r.legal]
  simp only
  rw [if_neg (by simpa using r.lanes), r.ctx]

theorem Reaches.group_ctx (r : Reaches s g c form op d a b x) : x.gid = g.gid ∧ x.g = g ∧ x.form = form ∧ x.d = d.toNat := by
  rw [r.ctx]
  exact ⟨rfl, rfl, rfl, rfl⟩

/-- A stall leaves everything but the group's hold (05 R143). -/
theorem stall_stalls (hg : s.group? g.gid = some g) (st : Stall) : Stalls s (s.tick.stall g st) g st := by
  let h : Group := { g with stalled := some st }
  obtain ⟨only, hres, hwin⟩ := State.leaveRail_spec (s := s.tick) (h := h) hg rfl rfl rfl
  obtain ⟨hops, hcommits⟩ := State.leaveRail_ops (s.tick.putGroup h) h
  have hall : OnlyGroup s (s.tick.stall g st) g h := (State.tick_only hg).trans only rfl rfl rfl
  refine ⟨hall, hops, hcommits, fun r l => ?_⟩
  refine State.heldReg_congr ⟨?_, ?_, ?_, rfl, rfl, rfl, rfl⟩ rfl rfl rfl rfl rfl rfl hres hwin r l
  · rw [only.rest]
  · rw [only.rest]
  · rw [only.rest]

/-! ### The launch assembly buffer (05 R134) -/

/-- A list with its word at a place replaced, up to that place and from behind it. -/
theorem take_set_succ {l : List Word} {i : Nat} (hi : i < l.length) (v : Word) : (l.set i v).take (i + 1) = l.take i ++ [v] := by
  rw [List.take_succ_eq_append_getElem (by simpa using hi), List.getElem_set_self, List.take_set_of_le (Nat.le_refl i)]

theorem drop_set_gt (l : List Word) {i j : Nat} (h : i < j) (v : Word) : (l.set i v).drop j = l.drop j :=
  List.drop_set_of_lt h

/-- Words that do not fill the buffer stand behind those it holds. -/
theorem assemble_open (ws : List Word) (k : Control) (hn : k.laWords + ws.length < 32) :
    ∃ buf : Vector Word 32, buf.toList = k.launchBuf.toList.take k.laWords ++ ws ++ k.launchBuf.toList.drop (k.laWords + ws.length) ∧
      k.assemble ws = ({ k with launchBuf := buf, laWords := k.laWords + ws.length }, none) := by
  induction ws generalizing k with
  | nil => exact ⟨k.launchBuf, by simp, rfl⟩
  | cons v vs ih =>
    rw [List.length_cons] at hn
    let k1 : Control := { k with launchBuf := k.launchBuf.setIfInBounds k.laWords v, laWords := k.laWords + 1 }
    obtain ⟨buf, hb, ha⟩ := ih k1 (by show k.laWords + 1 + vs.length < 32; omega)
    have hlen : k.laWords < k.launchBuf.toList.length := by simp; omega
    have hset : k1.launchBuf.toList = k.launchBuf.toList.set k.laWords v := by simp [k1]
    have hcount : k1.laWords + vs.length = k.laWords + (v :: vs).length := by
      show k.laWords + 1 + vs.length = _
      rw [List.length_cons]
      omega
    refine ⟨buf, ?_, ?_⟩
    · rw [hb, hset, hcount, drop_set_gt _ (by rw [List.length_cons]; omega)]
      show (k.launchBuf.toList.set k.laWords v).take (k.laWords + 1) ++ vs ++ _ = _
      rw [take_set_succ hlen, List.append_assoc _ [v] vs]
      rfl
    · rw [← hcount]
      unfold Control.assemble
      simp only
      rw [if_neg (by omega)]
      exact ha

/-- Words that fill the buffer close a packet, and the rest stand in an empty buffer. -/
theorem assemble_closes (ws : List Word) (k : Control) (hk : k.laWords < 32) (hn : 32 ≤ k.laWords + ws.length)
    (hl : k.laWords + ws.length < 64) :
    ∃ buf : Vector Word 32, buf.toList.take (k.laWords + ws.length - 32) = ws.drop (32 - k.laWords) ∧
      k.assemble ws = ({ k with launchBuf := buf, laWords := k.laWords + ws.length - 32 },
        some (k.launchBuf.toList.take k.laWords ++ ws.take (32 - k.laWords))) := by
  induction ws generalizing k with
  | nil => exact absurd hn (by rw [List.length_nil]; omega)
  | cons v vs ih =>
    rw [List.length_cons] at hn hl
    let k1 : Control := { k with launchBuf := k.launchBuf.setIfInBounds k.laWords v, laWords := k.laWords + 1 }
    have hlen : k.laWords < k.launchBuf.toList.length := by simp; omega
    have hset : k1.launchBuf.toList = k.launchBuf.toList.set k.laWords v := by simp [k1]
    by_cases hfull : k.laWords + 1 = 32
    · let k0 : Control := { k1 with launchBuf := Vector.replicate 32 0#32, laWords := 0 }
      obtain ⟨buf, hb, ha⟩ := assemble_open vs k0 (by show 0 + vs.length < 32; omega)
      have hcount : k.laWords + (v :: vs).length - 32 = vs.length := by rw [List.length_cons]; omega
      have hone : 32 - k.laWords = 1 := by omega
      refine ⟨buf, ?_, ?_⟩
      · rw [hb, hcount, hone]
        show (([] : List Word) ++ vs ++ _).take vs.length = vs
        rw [List.nil_append, List.take_left]
      · rw [hcount, hone]
        unfold Control.assemble
        simp only
        rw [if_pos hfull]
        show ((k0.assemble vs).1, some k1.launchBuf.toList) = _
        have hall : k.launchBuf.toList.set k.laWords v = k.launchBuf.toList.take k.laWords ++ [v] := by
          rw [← take_set_succ hlen, List.take_of_length_le (by rw [List.length_set, Vector.length_toList]; omega)]
        rw [ha, hset, hall, show k0.laWords + vs.length = vs.length from Nat.zero_add _]
        rfl
    · obtain ⟨buf, hb, ha⟩ := ih k1 (by show k.laWords + 1 < 32; omega) (by show 32 ≤ k.laWords + 1 + vs.length; omega)
        (by show k.laWords + 1 + vs.length < 64; omega)
      have hcount : k1.laWords + vs.length = k.laWords + (v :: vs).length := by
        show k.laWords + 1 + vs.length = _
        rw [List.length_cons]
        omega
      have hleft : 32 - k.laWords = (32 - k1.laWords) + 1 := by show _ = 32 - (k.laWords + 1) + 1; omega
      refine ⟨buf, ?_, ?_⟩
      · rw [← hcount, hb, hleft, List.drop_succ_cons]
      · rw [← hcount, hleft, List.take_succ_cons]
        unfold Control.assemble
        simp only
        rw [if_neg hfull]
        show k1.assemble vs = _
        rw [ha, hset]
        show _ = (_, some _)
        rw [show k1.laWords = k.laWords + 1 from rfl, take_set_succ hlen, List.append_assoc]
        rfl

/-! ### Pushing results (06 R171) -/

/-- No stream is reported lost by a push to another queue than q4, nor by one of an installation that has lost none (02 R48). -/
theorem sendLost_none (h : x.d ≠ 244 ∨ ∀ i, s.inst? x.g.ctl.handle = some i → i.streamLost = false) (w : State) :
    x.sendLost s w = none := by
  unfold Ctx.sendLost
  rcases h with h | h
  · rw [if_pos (by simp [h])]
  · split
    · rfl
    · split
      · next i k hi hk => simp [h i hi]
      · rfl

/-- The exceptions that the lanes' results raise. -/
def Ctx.raised (x : Ctx) (n : Nat) (outs : List (Nat × LaneOut)) (w : State) : State :=
  w.onGroup n (fun k => k.onCtl (fun k => k.raiseAll (x.spread outs)))

/-- The words that results push. -/
def wordsOf (outs : List (Nat × LaneOut)) : List Word := outs.map (fun o => loWord o.2.val)

/-- Raising exceptions leaves what register words depend on. -/
theorem raiseAll_keepsView (k : Control) (outs : List (Nat × LaneOut)) : KeepsView k (k.raiseAll outs) := by
  rw [Control.raiseAll_shape]
  exact ⟨rfl, rfl, rfl, rfl⟩

theorem killLanes_nil (w : State) : w.killLanes [] = w := rfl

/-- A per-lane instruction that pushes: the push, the exceptions, and the move behind it. -/
theorem issueLanes_pushes (i : Issues s g c form op d a b x u) (f : Ctx → State → Nat → LaneOut) (hp : x.pushes = true) (hdy : x.dying = [])
    (hfpx : fpxTrap (modeTraps g.ctl.mode) (x.results u f) = none) (hsl : ∀ w, x.sendLost s.tick w = none) :
    issueLanes form op d a b f s = .next ((x.raised g.gid (x.results u f) (u.pushQueue x (d.toNat - 240) (wordsOf (x.results u f)))).nextSlot
      g.gid form.lits x.cycles form.long) := by
  obtain ⟨hgid, hxg, hform, hxd, -⟩ := i.ctx
  have hm : x.mode = g.ctl.mode := by unfold Ctx.mode; rw [hxg]
  have hb : laneEffect f x u = .done (x.raised g.gid (x.results u f) (u.pushQueue x (d.toNat - 240) (wordsOf (x.results u f)))) := by
    unfold laneEffect
    simp only [hm, hfpx]
    unfold Ctx.writeD
    rw [if_pos hp, hxd, List.map_map, ← hgid]
    rfl
  unfold issueLanes
  rw [issue_ready i, hb]
  unfold Ctx.finish
  simp only [hsl, hdy, List.map_nil, hform, hgid, killLanes_nil]

/-- The exceptions of the lanes, raised in a group. -/
theorem Ctx.raised_near (hw : w.group? n = some k) (outs : List (Nat × LaneOut)) :
    Near w (x.raised n outs w) k (k.onCtl (fun m => m.raiseAll (x.spread outs))) ∧ (x.raised n outs w).ops = w.ops ∧
      (x.raised n outs w).commits = w.commits :=
  ⟨State.onCtl_near hw _ (raiseAll_keepsView _ _), State.onGroup_ops _ _ _, State.onGroup_commits _ _ _⟩

/-- Exceptions raised, and the move behind them. -/
theorem raised_moves (hw : w.group? k.gid = some k) (hc : k.clause = some c) (outs : List (Nat × LaneOut))
    (lits cycles : Nat) (long : Bool) :
    ∃ j, Near w ((x.raised k.gid outs w).nextSlot k.gid lits cycles long) k j ∧
      ((x.raised k.gid outs w).nextSlot k.gid lits cycles long).ops = w.ops ∧
      ((x.raised k.gid outs w).nextSlot k.gid lits cycles long).commits = w.commits ∧
      j.ctl = (k.ctl.raiseAll (x.spread outs)).behind c lits ∧ j.queues = k.queues ∧
      (((x.raised k.gid outs w).nextSlot k.gid lits cycles long).core k.core).stream = (w.core k.core).stream ∧
      (((x.raised k.gid outs w).nextSlot k.gid lits cycles long).core k.core).devLaunch = (w.core k.core).devLaunch := by
  obtain ⟨raised, hops, hcommits⟩ := Ctx.raised_near (x := x) hw outs
  obtain ⟨j, o, oc, e, q, -, v⟩ := State.nextSlot_spec' (c := c) raised.found hc lits cycles long
  obtain ⟨p1, p2⟩ := State.nextSlot_ops (x.raised k.gid outs w) k.gid lits cycles long
  have hcore : (x.raised k.gid outs w).core k.core = w.core k.core := by
    unfold Ctx.raised
    rw [State.core_onGroup]
  have hmine := o.mine
  refine ⟨j, raised.trans (o.near oc v), p1.trans hops, p2.trans hcommits, e, q, ?_, ?_⟩
  · exact (congrArg Core.stream hmine).trans (show ((x.raised k.gid outs w).core k.core).stream = _ by rw [hcore])
  · exact (congrArg Core.devLaunch hmine).trans (show ((x.raised k.gid outs w).core k.core).devLaunch = _ by rw [hcore])

/-- A push that goes on its way, and what the instruction has done behind it. -/
theorem pushed_near (i : Issues s g c form op d a b x u) (f : Ctx → State → Nat → LaneOut) (hp : x.pushes = true) (hdy : x.dying = [])
    (hfpx : fpxTrap (modeTraps g.ctl.mode) (x.results u f) = none) (hsl : ∀ w, x.sendLost s.tick w = none)
    (hk : u.group? g.gid = some k) (hpush : u.pushQueue x (d.toNat - 240) (wordsOf (x.results u f)) = w) (hn : Near u w k h)
    (hcl : h.clause = k.clause) :
    ∃ t j, issueLanes form op d a b f s = .next t ∧ Near s t g j ∧ t.ops = w.ops ∧ t.commits = w.commits ∧
      j.ctl = (h.ctl.raiseAll (x.spread (x.results u f))).behind c form.lits ∧ j.queues = h.queues ∧
      (t.core g.core).stream = (w.core g.core).stream := by
  obtain ⟨k', hk', hkk, near⟩ := i.near
  rw [hk] at hk'
  cases hk'
  have kgid : k.gid = g.gid := by rw [hkk]
  have kcore : k.core = g.core := by rw [hkk]
  have hgid : h.gid = g.gid := hn.context.gid.trans kgid
  have hcore : h.core = g.core := hn.context.core.trans kcore
  have hfound : w.group? h.gid = some h := by rw [hgid, ← kgid]; exact hn.found
  have hclause : h.clause = some c := by
    rw [hcl, hkk]
    exact i.clause
  obtain ⟨j, moved, hops, hcommits, hctl, hqueues, hstream, -⟩ := raised_moves (x := x) hfound hclause (x.results u f)
    form.lits x.cycles form.long
  have hissue := issueLanes_pushes i f hp hdy hfpx hsl
  rw [hpush, ← hgid] at hissue
  rw [hcore] at hstream
  exact ⟨_, j, hissue, near.trans (hn.trans moved), hops, hcommits, hctl, hqueues, hstream⟩

/-! ### Pushes to each queue -/

/-- A marker of q0 in the core's stream (10 R267). -/
def markerOf (gid number : Nat) (v : Word) : StreamEntry where
  number := number
  gid := gid
  op := 0
  command := .zero 0 0#32 false
  marker := some v

/-- Markers pushed to q0 stand at the end of the core's stream. -/
theorem pushMarkers_near (hx : x.gid = g.gid) (hc : x.g.core = g.core) (ws : List Word) (hw : w.group? g.gid = some g) :
    Near w (w.pushQueue x 0 ws) g g ∧ (w.pushQueue x 0 ws).ops = w.ops ∧ (w.pushQueue x 0 ws).commits = w.commits ∧
      ((w.pushQueue x 0 ws).core g.core).stream =
        (w.core g.core).stream ++ (ws.zipIdx w.nextId).map (fun v => markerOf g.gid v.2 v.1) := by
  induction ws generalizing w with
  | nil => exact ⟨Near.refl hw, rfl, rfl, (List.append_nil _).symm⟩
  | cons v vs ih =>
    let w1 := w.fresh.2.onCore g.core (fun k => { k with stream := k.stream ++ [markerOf g.gid w.nextId v] })
    have hstep : w.pushQueue x 0 (v :: vs) = w1.pushQueue x 0 vs := by
      unfold State.pushQueue
      simp only [List.foldl_cons]
      rw [hx, hc]
      rfl
    have near1 : Near w w1 g g := (near_flight hw _ w.ops w.commits w.dieTlb).trans
      (near_core (s := w.fresh.2) hw (fun k => { k with stream := k.stream ++ [markerOf g.gid w.nextId v] }) (fun _ => rfl))
    obtain ⟨near2, hops, hcommits, hstream⟩ := ih (w := w1) near1.found
    rw [hstep]
    refine ⟨near1.trans near2, hops, hcommits, ?_⟩
    have hmark : (w1.core g.core).stream = (w.core g.core).stream ++ [markerOf g.gid w.nextId v] := by
      show ((w.fresh.2.onCore _ _).core g.core).stream = _
      rw [State.core_onCore, if_pos rfl]
      rfl
    rw [hstream, hmark, List.append_assoc]
    rfl

/-- Words pushed to a queue of a group that has not retired. -/
theorem pushWords_eq (hw : w.group? n = some k) (hr : k.gstate ≠ .retired) (q : Nat) (ws : List Word) :
    w.pushWords n q ws = w.onGroup n (fun k => k.setQueue q (k.queue q ++ ws)) := by
  unfold State.pushWords
  rw [State.onGroup_some hw, State.onGroup_some hw, if_neg hr]

/-- The release of an instruction's lanes that a push starts (08 Table 8.2). -/
def Ctx.pushRelease (x : Ctx) (w : State) (scope : Nat) (next : ReleaseThen) : State :=
  w.fresh.2.startRelease
    { id := w.nextId, gid := x.gid, flag := 16, handler := x.g.ctl.handler, lanes := x.sMask, kind := .lease } scope none next

/-- That release as an operation, with what it waits for. -/
def Ctx.pushedOp (x : Ctx) (n scope : Nat) (before entries : List Nat) (next : ReleaseThen) : OutOp where
  id := n
  gid := x.gid
  flag := 16
  handler := x.g.ctl.handler
  lanes := x.sMask
  kind := .release scope before entries next

theorem pushRelease_near (hx : x.gid = g.gid) (hw : w.group? g.gid = some g) (scope : Nat) (next : ReleaseThen) :
    ∃ h before entries, Near w (x.pushRelease w scope next) g h ∧ h.clause = g.clause ∧ h.queues = g.queues ∧
      (x.pushRelease w scope next).ops = w.ops ++ [x.pushedOp w.nextId scope before entries next] ∧
      h.ctl = { g.ctl with psb := h.ctl.psb, psbHead := h.ctl.psbHead, psbScope := max g.ctl.psbScope scope, sdrop := h.ctl.sdrop } ∧
      h.ctl.psb = g.ctl.psb.filter (fun e => !(e.held.isNone && x.sMask.getLsbD e.lane)) := by
  obtain ⟨h, cs, before, entries, near, hops, -, hcl, hq, hctl, hpsb, -⟩ := State.startRelease_near (s := w.fresh.2) hw
    { id := w.nextId, gid := x.gid, flag := 16, handler := x.g.ctl.handler, lanes := x.sMask, kind := .lease } hx scope none next
  exact ⟨h, before, entries, (near_flight hw _ w.ops w.commits w.dieTlb).trans near, hcl, hq, hops, hctl, hpsb rfl⟩

/-- What a push leaves of the buffer, behind the exceptions and the move. -/
theorem behind_raised_psb (m : Control) (outs : List (Nat × LaneOut)) (c : FetchedClause) (lits : Nat) :
    ((m.raiseAll outs).behind c lits).psb = m.psb ∧ ((m.raiseAll outs).behind c lits).laWords = m.laWords ∧
      ((m.raiseAll outs).behind c lits).launchBuf = m.launchBuf := by
  rw [Control.raiseAll_shape]
  unfold Control.behind
  split <;> exact ⟨rfl, rfl, rfl⟩

/-- A push to the assembly buffer that closes a packet (05 R134). -/
def Ctx.launched (x : Ctx) (g : Group) (packet : List Word) (w : State) : State :=
  ((x.pushRelease w 4 (.launch packet)).onFn g.fn (fun f =>
    { f with devQueue := f.devQueue ++ [⟨packet, w.nextId, g.core, g.ctl.handle⟩] })).onCore g.core
      (fun k => { k with devLaunch := k.devLaunch ++ [packet] })

/-- Results pushed to q1, q2 or q5 stand there, and nothing else has happened. -/
theorem push_words (i : Issues s g c form op d a b x u) (f : Ctx → State → Nat → LaneOut) (hp : x.pushes = true) (hdy : x.dying = [])
    (hret : g.gstate ≠ .retired) (hfpx : fpxTrap (modeTraps g.ctl.mode) (x.results u f) = none)
    (hq : d.toNat - 240 ∈ [1, 2, 5]) :
    ∃ t, issueLanes form op d a b f s = .next t ∧
      Behind (x.raised g.gid (x.results u f) (u.onGroup g.gid (fun k => k.setQueue (d.toNat - 240)
        (k.queue (d.toNat - 240) ++ wordsOf (x.results u f))))) t g.gid c form.lits := by
  obtain ⟨hgid, -, -, hxd, -⟩ := i.ctx
  obtain ⟨k, hk, hkc, hkk⟩ := i.stands
  have hpush : u.pushQueue x (d.toNat - 240) (wordsOf (x.results u f)) = u.onGroup g.gid (fun k => k.setQueue (d.toNat - 240)
      (k.queue (d.toNat - 240) ++ wordsOf (x.results u f))) := by
    rw [← pushWords_eq hk (by rw [hkk]; exact hret), ← hgid]
    generalize d.toNat - 240 = q at hq
    simp only [List.mem_cons, List.not_mem_nil, or_false] at hq
    rcases hq with rfl | rfl | rfl <;> rfl
  obtain ⟨k1, hk1, hc1⟩ := stands_on hk (fun k => k.setQueue (d.toNat - 240)
      (k.queue (d.toNat - 240) ++ wordsOf (x.results u f))) rfl rfl
  obtain ⟨k2, hk2, hc2⟩ := stands_ctl hk1 (fun m => m.raiseAll (x.spread (x.results u f)))
  have hne : x.d ≠ 244 := by
    rw [hxd]
    simp only [List.mem_cons, List.not_mem_nil, or_false] at hq
    omega
  rw [issueLanes_pushes i f hp hdy hfpx (sendLost_none (.inl hne)), hpush]
  refine ⟨_, rfl, nextSlot_behind ?_ (hc2.trans (hc1.trans hkc)) _ _ _⟩
  exact hk2

/-- Results pushed to q0 stand as markers in the core's stream. -/
theorem push_markers (i : Issues s g c form op d a b x u) (f : Ctx → State → Nat → LaneOut) (hp : x.pushes = true) (hdy : x.dying = [])
    (hfpx : fpxTrap (modeTraps g.ctl.mode) (x.results u f) = none) (hq : d.toNat - 240 = 0) :
    ∃ t h, issueLanes form op d a b f s = .next t ∧ Near s t g h ∧
      h.ctl = (g.ctl.raiseAll (x.spread (x.results u f))).behind c form.lits ∧ (u.group? g.gid).map (fun k => k.queues) = some h.queues ∧
      t.ops = u.ops ∧ t.commits = u.commits ∧ (t.core g.core).stream = (s.core g.core).stream ++
        ((wordsOf (x.results u f)).zipIdx u.nextId).map (fun v => markerOf g.gid v.2 v.1) := by
  obtain ⟨hgid, hxg, -, hxd, -⟩ := i.ctx
  obtain ⟨k, hk, hkc, hkk⟩ := i.stands
  have kgid : k.gid = g.gid := by rw [hkk]
  have kcore : k.core = g.core := by rw [hkk]
  obtain ⟨near, hops, hcommits, hstream⟩ := pushMarkers_near (g := k) (hgid.trans kgid.symm) (by rw [hxg, kcore])
    (wordsOf (x.results u f)) (w := u) (by rw [kgid]; exact hk)
  rw [← hq] at near hops hcommits hstream
  obtain ⟨t, h, e, hn, o1, c1, hctl, hqs, hst⟩ := pushed_near i f hp hdy hfpx (sendLost_none (.inl (by rw [hxd]; omega))) hk rfl near rfl
  refine ⟨t, h, e, hn, ?_, ?_, o1.trans hops, c1.trans hcommits, ?_⟩
  · rw [hctl, hkk]
  · rw [hk, hqs]
    rfl
  · rw [kcore, kgid] at hstream
    obtain ⟨qs, hu, -⟩ := i.popped
    rw [hst, hstream, hu]
    rfl

/-- Results pushed to q4 or q8 stand there, behind a core-scope release of the instruction's lanes. -/
theorem push_releases (i : Issues s g c form op d a b x u) (f : Ctx → State → Nat → LaneOut) (hp : x.pushes = true) (hdy : x.dying = [])
    (hret : g.gstate ≠ .retired) (hfpx : fpxTrap (modeTraps g.ctl.mode) (x.results u f) = none)
    (hq : d.toNat - 240 = 4 ∨ d.toNat - 240 = 8) (hlost : ∀ i, s.inst? g.ctl.handle = some i → i.streamLost = false) :
    ∃ t h before entries, issueLanes form op d a b f s = .next t ∧ Near s t g h ∧
      h.ctl.psb = g.ctl.psb.filter (fun e => !(e.held.isNone && x.sMask.getLsbD e.lane)) ∧
      (u.group? g.gid).map (fun k => k.queue (d.toNat - 240) ++ wordsOf (x.results u f)) = some (h.queue (d.toNat - 240)) ∧
      t.ops = u.ops ++ [x.pushedOp u.nextId 1 before entries (.push (d.toNat - 240) (g.queue (d.toNat - 240)).length)] := by
  obtain ⟨hgid, hxg, -, hxd, -⟩ := i.ctx
  obtain ⟨k, hk, hkc, hkk⟩ := i.stands
  have kgid : k.gid = g.gid := by rw [hkk]
  generalize hqq : d.toNat - 240 = q at hq ⊢
  let k1 : Group := k.setQueue q (k.queue q ++ wordsOf (x.results u f))
  let w1 := u.pushWords g.gid q (wordsOf (x.results u f))
  have near1 : Near u w1 k k1 := by
    show Near u (u.pushWords _ _ _) _ _
    rw [pushWords_eq hk (by rw [hkk]; exact hret)]
    exact State.onGroup_near hk _ ⟨rfl⟩ rfl rfl (KeepsView.refl _)
  have hops1 : w1.ops = u.ops := State.onGroup_ops ..
  have hnext1 : w1.nextId = u.nextId := State.onGroup_nextId ..
  obtain ⟨h, before, entries, near2, hcl, hqs, hops, -, hpsb⟩ := pushRelease_near (x := x) (w := w1) (g := k1) (hgid.trans kgid.symm)
    (by rw [show k1.gid = k.gid from rfl]; exact near1.found) 1 (.push q (g.queue q).length)
  have hpush : u.pushQueue x (d.toNat - 240) (wordsOf (x.results u f)) = x.pushRelease w1 1 (.push q (g.queue q).length) := by
    rw [hqq, ← hxg]
    show _ = x.pushRelease (u.pushWords g.gid q _) _ _
    rw [← hgid]
    rcases hq with rfl | rfl <;> rfl
  obtain ⟨t, j, e, hn, o1, -, hctl, hjq, -⟩ := pushed_near i f hp hdy hfpx
    (sendLost_none (.inr (by rw [hxg]; exact hlost))) hk hpush (near1.trans near2) hcl
  refine ⟨t, j, before, entries, e, hn, ?_, ?_, ?_⟩
  · rw [hctl, (behind_raised_psb _ _ _ _).1, hpsb]
    show k.ctl.psb.filter _ = _
    rw [hkk]
  · rw [hk]
    show some _ = some (Sparse.get [] j.queues q)
    rw [hjq, hqs]
    exact congrArg some (Sparse.get_set_self ..).symm
  · rw [o1, hops, hops1, hnext1]

/-- Results pushed to q12 that do not fill the assembly buffer stand in it. -/
theorem push_assembles (i : Issues s g c form op d a b x u) (f : Ctx → State → Nat → LaneOut) (hp : x.pushes = true) (hdy : x.dying = [])
    (hfpx : fpxTrap (modeTraps g.ctl.mode) (x.results u f) = none) (hq : d.toNat - 240 = 12)
    (hn : g.ctl.laWords + (wordsOf (x.results u f)).length < 32) :
    ∃ t buf, issueLanes form op d a b f s = .next t ∧
      buf.toList = g.ctl.launchBuf.toList.take g.ctl.laWords ++ wordsOf (x.results u f) ++
        g.ctl.launchBuf.toList.drop (g.ctl.laWords + (wordsOf (x.results u f)).length) ∧
      Behind (x.raised g.gid (x.results u f) (u.onGroup g.gid (fun k => k.onCtl (fun k =>
        { k with launchBuf := buf, laWords := g.ctl.laWords + (wordsOf (x.results u f)).length })))) t g.gid c form.lits := by
  obtain ⟨hgid, -, -, hxd, -⟩ := i.ctx
  obtain ⟨k, hk, hkc, hkk⟩ := i.stands
  have kctl : k.ctl = g.ctl := by rw [hkk]
  obtain ⟨buf, hbuf, ha⟩ := assemble_open (wordsOf (x.results u f)) g.ctl hn
  let put (m : Control) : Control := { m with launchBuf := buf, laWords := g.ctl.laWords + (wordsOf (x.results u f)).length }
  have hpush : u.pushQueue x (d.toNat - 240) (wordsOf (x.results u f)) = u.onGroup g.gid (fun k => k.onCtl put) := by
    rw [hq, State.onGroup_some hk]
    unfold State.pushQueue
    simp only [hgid, hk, kctl, ha]
    rw [show k.onCtl put = { k with ctl := put k.ctl } from rfl, kctl]
  obtain ⟨k1, hk1, hc1⟩ := stands_ctl hk put
  obtain ⟨k2, hk2, hc2⟩ := stands_ctl hk1 (fun m => m.raiseAll (x.spread (x.results u f)))
  rw [issueLanes_pushes i f hp hdy hfpx (sendLost_none (.inl (by rw [hxd]; omega))), hpush]
  refine ⟨_, buf, rfl, hbuf, nextSlot_behind ?_ (hc2.trans (hc1.trans hkc)) _ _ _⟩
  exact hk2

/-- A core whose launches alone change leaves the register words of its groups. -/
theorem heldReg_launch (m : Nat) (f : Fn → Fn) (l : Core → List (List Word)) (r j : Nat) :
    ((w.onFn m f).onCore g.core (fun k => { k with devLaunch := l k })).heldReg g r j = w.heldReg g r j := by
  have hcore : ((w.onFn m f).onCore g.core (fun k => { k with devLaunch := l k })).core g.core =
      { w.core g.core with devLaunch := l (w.core g.core) } := by
    rw [State.core_onCore, if_pos rfl]
    rfl
  refine State.heldReg_congr (s := w) (t := (w.onFn m f).onCore g.core _) (g := g) (h := g) ⟨rfl, rfl, rfl, rfl, rfl, rfl, rfl⟩
    rfl rfl rfl rfl rfl rfl (fun _ _ => ?_) (fun _ => ?_) r j
  · rw [hcore]
    rfl
  · unfold State.rail
    rw [hcore]

/-- What a closed packet leaves: it stands in the device launch queue and at its core, behind a release at pkg scope. -/
theorem launched_rest (hx : x.gid = g.gid) (hw : w.group? g.gid = some g) (packet : List Word) :
    ∃ h before entries, (x.launched g packet w).group? g.gid = some h ∧ h.gid = g.gid ∧ h.core = g.core ∧ h.fn = g.fn ∧
      h.clause = g.clause ∧ h.ctl.laWords = g.ctl.laWords ∧ h.ctl.launchBuf = g.ctl.launchBuf ∧
      h.ctl.psb = g.ctl.psb.filter (fun e => !(e.held.isNone && x.sMask.getLsbD e.lane)) ∧
      (x.launched g packet w).ops = w.ops ++ [x.pushedOp w.nextId 4 before entries (.launch packet)] ∧
      ((x.launched g packet w).fn g.fn).devQueue = (w.fn g.fn).devQueue ++ [⟨packet, w.nextId, g.core, g.ctl.handle⟩] ∧
      ((x.launched g packet w).core g.core).devLaunch = (w.core g.core).devLaunch ++ [packet] ∧
      (∀ r l, r < 256 → l < 32 → (x.launched g packet w).heldReg h r l = w.heldReg g r l) ∧
      ∀ p, Memory.read (x.launched g packet w).mem.bytes p = Memory.read w.mem.bytes p := by
  obtain ⟨h, before, entries, near, hcl, -, hops, hctl, hpsb⟩ := pushRelease_near hx hw 4 (.launch packet)
  have hcore : h.core = g.core := near.context.core
  have hfn : h.fn = g.fn := by rw [near.context.rest]
  have hhost : (x.pushRelease w 4 (.launch packet)).host = w.host := by rw [near.rest]
  have hcores : (x.pushRelease w 4 (.launch packet)).cores = w.cores := State.startRelease_cores w.fresh.2 _ 4 none _
  refine ⟨h, before, entries, near.found, near.context.gid, hcore, hfn, hcl, ?_, ?_, hpsb, hops, ?_, ?_, ?_, near.bytes⟩
  · rw [hctl]
  · rw [hctl]
  · show (State.fn ((x.pushRelease w 4 (.launch packet)).onFn g.fn _) g.fn).devQueue = _
    rw [State.fn_onFn_self]
    show ((x.pushRelease w 4 (.launch packet)).fn g.fn).devQueue ++ _ = _
    unfold State.fn
    rw [hhost]
  · unfold Ctx.launched
    rw [State.core_onCore, if_pos rfl]
    show ((x.pushRelease w 4 (.launch packet)).core g.core).devLaunch ++ _ = _
    rw [State.core_congr hcores]
  · intro r l hr hl
    rw [← near.regs r l hr hl]
    unfold Ctx.launched
    rw [← hcore]
    exact heldReg_launch ..

/-- A lane list has at most 32 lanes. -/
theorem Issues.lanes_le (i : Issues s g c form op d a b x u) : x.L.length ≤ 32 := by
  obtain ⟨-, -, -, -, -, -, hS, -⟩ := i.ctx
  have hS32 : x.S.length ≤ 32 := by
    rw [hS]
    unfold laneList
    exact Nat.le_trans (List.length_filter_le _ _) (by simp)
  rw [i.lanes_L]
  split
  · exact Nat.le_trans (List.length_take_le' _ _) hS32
  · exact hS32

/-- The 32nd word of the assembly buffer closes its packet. -/
theorem push_closes (i : Issues s g c form op d a b x u) (f : Ctx → State → Nat → LaneOut) (hp : x.pushes = true) (hdy : x.dying = [])
    (hfpx : fpxTrap (modeTraps g.ctl.mode) (x.results u f) = none) (hq : d.toNat - 240 = 12)
    (hlt : g.ctl.laWords < 32) (hge : 32 ≤ g.ctl.laWords + (wordsOf (x.results u f)).length) (packet : List Word)
    (hpacket : packet = g.ctl.launchBuf.toList.take g.ctl.laWords ++ (wordsOf (x.results u f)).take (32 - g.ctl.laWords)) :
    ∃ t h before entries, issueLanes form op d a b f s = .next t ∧ t.group? g.gid = some h ∧
      h.ctl.psb = g.ctl.psb.filter (fun e => !(e.held.isNone && x.sMask.getLsbD e.lane)) ∧
      h.ctl.laWords = g.ctl.laWords + (wordsOf (x.results u f)).length - 32 ∧
      h.ctl.launchBuf.toList.take h.ctl.laWords = (wordsOf (x.results u f)).drop (32 - g.ctl.laWords) ∧
      t.ops = u.ops ++ [x.pushedOp u.nextId 4 before entries (.launch packet)] ∧
      (t.fn g.fn).devQueue = (u.fn g.fn).devQueue ++ [⟨packet, u.nextId, g.core, g.ctl.handle⟩] ∧
      (t.core g.core).devLaunch = (u.core g.core).devLaunch ++ [packet] ∧
      (∀ r l, r < 256 → l < 32 → t.heldReg h r l = s.heldReg g r l) ∧ ∀ p, Memory.read t.mem.bytes p = Memory.read s.mem.bytes p := by
  obtain ⟨hgid, -, -, hxd, -⟩ := i.ctx
  obtain ⟨k, hk, hkk, near⟩ := i.near
  have kgid : k.gid = g.gid := by rw [hkk]
  have kcore : k.core = g.core := by rw [hkk]
  have kfn : k.fn = g.fn := by rw [hkk]
  have kctl : k.ctl = g.ctl := by rw [hkk]
  have kclause : k.clause = some c := by rw [hkk]; exact i.clause
  have hlen : (wordsOf (x.results u f)).length ≤ 32 := by
    unfold wordsOf Ctx.results
    rw [List.length_map, List.length_map]
    exact i.lanes_le
  obtain ⟨buf, hbuf, ha⟩ := assemble_closes (wordsOf (x.results u f)) g.ctl hlt hge (by omega)
  rw [← hpacket] at ha
  let put (m : Control) : Control := { m with launchBuf := buf, laWords := g.ctl.laWords + (wordsOf (x.results u f)).length - 32 }
  have near1 : Near u (u.onGroup g.gid (fun k => k.onCtl put)) k (k.onCtl put) := State.onCtl_near hk put ⟨rfl, rfl, rfl, rfl⟩
  have hops1 : (u.onGroup g.gid (fun k => k.onCtl put)).ops = u.ops := State.onGroup_ops ..
  have hnext1 : (u.onGroup g.gid (fun k => k.onCtl put)).nextId = u.nextId := State.onGroup_nextId ..
  have hcore1 : (u.onGroup g.gid (fun k => k.onCtl put)).core g.core = u.core g.core := State.core_onGroup ..
  have hfn1 : (u.onGroup g.gid (fun k => k.onCtl put)).fn g.fn = u.fn g.fn := by
    unfold State.fn
    rw [State.onGroup_host]
  have hput : k.onCtl put = { k with ctl := put g.ctl } := by
    rw [← kctl]
    rfl
  have hpush : u.pushQueue x (d.toNat - 240) (wordsOf (x.results u f)) =
      x.launched (k.onCtl put) packet (u.onGroup g.gid (fun k => k.onCtl put)) := by
    rw [hq, State.onGroup_some hk]
    unfold State.pushQueue
    simp only [hgid, hk, kctl, ha]
    rw [hput]
    unfold Ctx.launched Ctx.pushRelease
    rw [hgid]
    rfl
  obtain ⟨h, before, entries, hfound, hgid1, hcore, hfn, hclause, hla, hbuf1, hpsb, hops, hdev, hlaunch, hregs, hbytes⟩ :=
    launched_rest (x := x) (g := k.onCtl put) (hgid.trans kgid.symm) near1.found packet
  have hgid' : h.gid = g.gid := hgid1.trans kgid
  have hissue := issueLanes_pushes i f hp hdy hfpx (sendLost_none (.inl (by rw [hxd]; omega)))
  rw [← hgid', hpush] at hissue
  obtain ⟨j, moved, mops, -, mctl, -, -, mlaunch⟩ := raised_moves (x := x) (by rw [hgid1]; exact hfound)
    (hclause.trans kclause) (x.results u f) form.lits x.cycles form.long
  obtain ⟨hpsb', hla', hbuf'⟩ := behind_raised_psb h.ctl (x.spread (x.results u f)) c form.lits
  refine ⟨_, j, before, entries, hissue, ?_, ?_, ?_, ?_, ?_, ?_, ?_, ?_, ?_⟩
  · exact (congrArg _ hgid'.symm).trans moved.found
  · rw [mctl, hpsb', hpsb, ← kctl]
    rfl
  · rw [mctl, hla', hla]
    rfl
  · rw [mctl, hla', hbuf', hla, hbuf1]
    exact hbuf
  · rw [mops, hops, hops1, hnext1]
  · rw [moved.rest]
    rw [show (k.onCtl put).fn = g.fn from kfn, hfn1, hnext1, show (k.onCtl put).core = g.core from kcore] at hdev
    rw [← kctl]
    exact hdev
  · rw [show (k.onCtl put).core = g.core from kcore] at hcore hlaunch
    rw [hcore] at mlaunch
    rw [mlaunch, hlaunch, hcore1]
  · intro r l hr hl
    rw [moved.regs r l hr hl, hregs r l hr hl, near1.regs r l hr hl, near.regs r l hr hl]
  · intro p
    rw [moved.bytes, hbytes, near1.bytes, near.bytes]

/-- Settles O26: an instruction waits for its queues in place; what it pushes stands in the queue that d names, with the release that goes
before it. -/
theorem queueOperands : Obligations.QueueOperands := by
  unfold Obligations.QueueOperands
  refine ⟨?waits, ?pushes⟩
  case waits =>
    intro mk form op body he s g c d a b x r hsh
    obtain ⟨-, hxg, -, hxd⟩ := r.group_ctx
    have hact : x.g.ctl.shadow ≠ true := by rw [hxg, hsh]; exact Bool.false_ne_true
    rw [he, issue_reaches r]
    unfold Ctx.issueActive
    rw [if_neg hact]
    refine ⟨fun hn => ⟨_, rfl, ?_⟩, fun u y hy hp hroom => ⟨_, rfl, ?_⟩⟩
    · rw [hn, hxg]
      exact stall_stalls r.group _
    · obtain ⟨k, qs, -, -, hyx⟩ := Ctx.takePops_spec hy
      have hwait : y.mustWait u = some ⟨.queueFull, .queueRoom (d.toNat - 240) x.L.length⟩ := by
        have hroom' : (y.pushes && decide (u.queueRoom y.g (y.d - 240) < y.L.length)) = true := by
          rw [hyx]
          show (x.pushes && decide (u.queueRoom x.g (x.d - 240) < x.L.length)) = true
          rw [hp, hxg, hxd]
          exact decide_eq_true hroom
        unfold Ctx.mustWait
        simp only [hroom', if_true]
        rw [hyx, ← hxd]
      rw [hy]
      simp only [hwait]
      rw [hxg]
      exact stall_stalls r.group _
  case pushes =>
    intro mk form op f he s g c d a b x u i hdy hp hret hfpx
    have hhandler : x.g.ctl.handler = g.ctl.handler := by rw [i.ctx.2.1]
    rw [he]
    refine ⟨fun hq => push_words i f hp hdy hret hfpx hq, fun hq => push_markers i f hp hdy hfpx hq, fun hq hlost => ?_, ?_, ?_⟩
    · obtain ⟨t, h, before, entries, e, near, hpsb, hqs, hops⟩ := push_releases i f hp hdy hret hfpx hq hlost
      refine ⟨t, h, before, entries, e, near, hpsb, hqs, ?_⟩
      rw [hops, ← hhandler, ← i.ctx.1]
      rfl
    · intro hq n hn hlt
      subst hn
      exact push_assembles i f hp hdy hfpx hq hlt
    · intro hq hlt hge
      obtain ⟨t, h, before, entries, e, hfound, hpsb, hla, hbuf, hops, hrest⟩ := push_closes i f hp hdy hfpx hq hlt hge _ rfl
      refine ⟨t, h, before, entries, e, hfound, hpsb, hla, hbuf, ?_, hrest⟩
      rw [hops, ← hhandler, ← i.ctx.1]
      rfl

end Sys2Proof.Machine
end

section
/-!
SUPPORT. Leader and shadow (06 R190 to R193; O27): a kill takes the partner along, and what the frame makes of a pair's instructions.
-/
namespace Sys2Proof.Machine

variable {s t u w : State} {g h k j : Group} {c e : FetchedClause} {form : Form} {op d a b : Byte} {x y : Ctx} {n m : Nat}

/-! ### A kill and the partner (06 R178, R192) -/

/-- The job that kills a group retires it. -/
theorem doJob_kill_retires (hn : (s.groups.map (fun k => k.gid)).Nodup) (hg : s.group? n = some g) :
    ∃ h, (s.doJob (.kill n)).1.group? n = some h ∧ h.gstate = .retired := by
  have stays : ∀ p : State, StaysRetired s p → ∃ h, ((p.onGroup n (fun g => { g with killed := true })).retire n).group? n = some h ∧
      h.gstate = .retired := by
    intro p hp
    have hmem : n ∈ p.groups.map (fun k => k.gid) := by
      rw [hp.1, ← State.group?_gid hg]
      exact List.mem_map_of_mem (List.mem_of_find?_eq_some hg)
    obtain ⟨k, hk, hkn⟩ := List.mem_map.1 hmem
    have hfound : p.group? n = some k := by
      rw [← hkn]
      exact group?_of_mem (by rw [hp.1]; exact hn) hk
    obtain ⟨-, hret⟩ := retire_spec (State.group?_onGroup_self (f := fun g => { g with killed := true }) hfound
      (show k.gid = n from hkn))
    obtain ⟨h, h1, h2, -⟩ := hret (by rw [killed_mark.1, hp.1]; exact hn)
    exact ⟨h, h1, h2⟩
  unfold State.doJob
  simp only [hg]
  refine stays _ ?_
  have stays1 (v : Nat) : StaysRetired s ((s.launchStatus g.launch v).abandon n) :=
    (StaysRetired.of_groups (by unfold State.launchStatus; simp)).trans (abandon_stays _ n)
  split
  · exact stays1 _
  · exact (stays1 _).trans (countKilled_stays _ g)

/-- What a job leaves, it leaves under the numbers there were. -/
theorem group_of_stays (st : StaysRetired s t) (hn : (s.groups.map (fun k => k.gid)).Nodup) (hg : s.group? n = some g) :
    ∃ k, t.group? n = some k := by
  have hmem : n ∈ t.groups.map (fun k => k.gid) := by
    rw [st.1, ← State.group?_gid hg]
    exact List.mem_map_of_mem (List.mem_of_find?_eq_some hg)
  obtain ⟨k, hk, hkn⟩ := List.mem_map.1 hmem
  exact ⟨k, by rw [← hkn]; exact group?_of_mem (by rw [st.1]; exact hn) hk⟩

/-- Settling a list of jobs that begins with a kill retires that group. -/
theorem settle_kill_retires (hn : (s.groups.map (fun k => k.gid)).Nodup) (hg : s.group? n = some g) (fuel : Nat) (js : List Job) :
    ∃ h, (s.settle (fuel + 1) (.kill n :: js)).group? n = some h ∧ h.gstate = .retired := by
  by_cases hr : g.gstate = .retired
  · obtain ⟨k, h1, h2, -⟩ := (settle_stays s (fuel + 1) (.kill n :: js)).2 hn n g hg hr
    exact ⟨k, h1, h2⟩
  · have hst : s.stands (.kill n) = true := by
      unfold State.stands
      simp only [hg]
      simpa using hr
    obtain ⟨h, h1, h2⟩ := doJob_kill_retires hn hg
    obtain ⟨k, k1, k2, -⟩ := (settle_stays (s.doJob (.kill n)).1 fuel (js ++ (s.doJob (.kill n)).2)).2
      (by rw [(doJob_stays s _).1]; exact hn) n h h1 h2
    refine ⟨k, ?_, k2⟩
    unfold State.settle
    rw [List.dropWhile_cons_of_neg (by simp [hst])]
    exact k1

/-- A partner is another group of the state. -/
theorem partner_found (hp : s.partner g = some h) : h ∈ s.groups ∧ h.gid ≠ g.gid := by
  unfold State.partner at hp
  split at hp
  · refine ⟨List.mem_of_find?_eq_some hp, ?_⟩
    have := List.find?_some hp
    simp only [Bool.and_eq_true, bne_iff_ne] at this
    exact this.2
  · cases hp

theorem partner_congr (e : t.groups = s.groups) (g : Group) : t.partner g = s.partner g := by
  unfold State.partner
  rw [e]

/-- The first job behind the kill of a group is the kill of its partner. -/
theorem doJob_kill_partner (hg : s.group? g.gid = some g) (hp : s.partner g = some h) :
    ∃ js, (s.doJob (.kill g.gid)).2 = .kill h.gid :: js := by
  unfold State.doJob
  simp only [hg, hp]
  exact ⟨_, rfl⟩

/-- A kill of a group of a pair kills both. -/
theorem killGroup_partner (hn : (s.groups.map (fun k => k.gid)).Nodup) (hg : s.group? g.gid = some g) (hr : g.gstate ≠ .retired)
    (hp : s.partner g = some h) : ∃ k, (s.killGroup g.gid).group? h.gid = some k ∧ k.gstate = .retired := by
  have hst : s.stands (.kill g.gid) = true := by
    unfold State.stands
    simp only [hg]
    simpa using hr
  obtain ⟨js, hjs⟩ := doJob_kill_partner hg hp
  have stays := doJob_stays s (.kill g.gid)
  obtain ⟨k, hk⟩ := group_of_stays stays hn (group?_of_mem hn (partner_found hp).1)
  unfold State.killGroup State.fuel
  rw [show 256 * (s.groups.length + 1) = 256 * s.groups.length + 254 + 1 + 1 by omega]
  unfold State.settle
  rw [List.dropWhile_cons_of_neg (by simp [hst])]
  simp only [hjs, List.nil_append]
  exact settle_kill_retires (by rw [stays.1]; exact hn) hk _ js

/-- A mismatch reports event 0x36 and kills both groups. -/
theorem mismatch_spec (hn : (s.groups.map (fun k => k.gid)).Nodup) (hg : s.group? g.gid = some g) (hr : g.gstate ≠ .retired)
    (hp : s.partner g = some h) : Mismatched s (s.tick.mismatch g) g h := by
  let say (w : State) (q : Nat) : State := w.event q 0x36 g.fn g.ctl.pc.toNat g.ctl.handle.toNat g.ctl.group.toNat
  have hgroups : (say (say s.tick 0) g.fn).groups = s.groups := by simp [say]
  have hg' : (say (say s.tick 0) g.fn).group? g.gid = some g := by
    rw [State.group?_congr hgroups]
    exact hg
  have hn' : ((say (say s.tick 0) g.fn).groups.map (fun k => k.gid)).Nodup := by
    rw [hgroups]
    exact hn
  exact ⟨rfl, killGroup_retires hn' hg' hr, killGroup_partner hn' hg' hr ((partner_congr hgroups g).trans hp)⟩

/-! ### The frame (13 R348) -/

/-- An effect that is done and reports no lost stream: the move behind it. -/
theorem finish_done (hsl : y.sendLost s w = none) (hdy : y.dying = []) (word : Word) :
    y.finish s word (.done w) = w.nextSlot y.gid y.form.lits y.cycles y.form.long := by
  unfold Ctx.finish
  simp only [hsl, hdy]
  rfl

theorem sendLost_of_no_push (hp : y.pushes = false) (w : State) : y.sendLost s w = none := by
  unfold Ctx.sendLost
  rw [hp]
  rfl

/-- A push of nothing reports no lost stream. -/
theorem sendLost_same (hg : s.group? y.gid = some y.g) : y.sendLost s s = none := by
  unfold Ctx.sendLost
  split
  · rfl
  · split
    · next i k hi hk =>
      rw [hg] at hk
      cases hk
      simp
    · rfl

/-- A group in its clause moves on, near the state. -/
theorem nextSlot_near (hw : w.group? k.gid = some k) (hc : k.clause = some c) (lits cycles : Nat) (long : Bool) :
    ∃ j, Near w (w.nextSlot k.gid lits cycles long) k j ∧ j.ctl = k.ctl.behind c lits ∧ j.queues = k.queues ∧
      (w.nextSlot k.gid lits cycles long).ops = w.ops ∧ (w.nextSlot k.gid lits cycles long).commits = w.commits := by
  obtain ⟨j, o, oc, e, q, -, v⟩ := State.nextSlot_spec' hw hc lits cycles long
  obtain ⟨p1, p2⟩ := State.nextSlot_ops w k.gid lits cycles long
  exact ⟨j, o.near oc v, e, q, p1, p2⟩

/-! ### A shadow's instruction (06 R190 to R193) -/

/-- An instruction of a shadow. -/
theorem issue_shadow (r : Reaches s g c form op d a b x) (hs : g.ctl.shadow = true) (body : Ctx → State → Act) :
    issue form op d a b body s = .next (x.issueShadow s.tick (mkWord op d a b) body) := by
  rw [issue_reaches r]
  unfold Ctx.issueActive
  rw [r.group_ctx.2.1, if_pos hs]

section
variable (r : Reaches s g c form op d a b x) (hp : s.partner g = some h)
include r hp

/-- At a release a shadow waits for its leader. -/
theorem issueShadow_waits (htrap : (h.ctl.trapPend && sameSlot g h) = false) (hsync : x.syncs = true) (word : Word) (body : Ctx → State → Act) :
    x.issueShadow s.tick word body = s.tick.stall g ⟨.barrier, .partner⟩ := by
  unfold Ctx.issueShadow
  rw [r.group_ctx.2.1]
  simp only [show s.tick.partner g = some h from hp, htrap, hsync]
  rfl

/-- A shadow without a line of its leader does not match it. -/
theorem issueShadow_lineless (htrap : (h.ctl.trapPend && sameSlot g h) = false) (hsync : x.syncs = false)
    (hpops : (x.popsAny || x.form.viaLvq) = true)
    (hline : g.lvq.find? (fun l => l.clause == g.ctl.pc.toNat && l.slot == g.ctl.slot && l.dest == x.d) = none) (word : Word)
    (body : Ctx → State → Act) : x.issueShadow s.tick word body = s.tick.mismatch g := by
  unfold Ctx.issueShadow
  rw [r.group_ctx.2.1]
  simp only [show s.tick.partner g = some h from hp, htrap, hsync, hpops, hline]
  rfl

/-- A shadow takes the words its leader popped. -/
theorem issueShadow_line (htrap : (h.ctl.trapPend && sameSlot g h) = false) (hsync : x.syncs = false)
    (hpops : (x.popsAny || x.form.viaLvq) = true) {l : LvqLine}
    (hline : g.lvq.find? (fun l => l.clause == g.ctl.pc.toNat && l.slot == g.ctl.slot && l.dest == x.d) = some l) (word : Word)
    (body : Ctx → State → Act) : x.issueShadow s.tick word body =
      (x.withLine l).finish (s.tick.putGroup { g with lvq := g.lvq.erase l }) word
        (body (x.withLine l) (s.tick.putGroup { g with lvq := g.lvq.erase l })) := by
  unfold Ctx.issueShadow
  rw [r.group_ctx.2.1]
  simp only [show s.tick.partner g = some h from hp, htrap, hsync, hpops, hline]
  rfl

/-- A shadow pushes nothing. -/
theorem issueShadow_pushes (htrap : (h.ctl.trapPend && sameSlot g h) = false) (hsync : x.syncs = false)
    (hpops : (x.popsAny || x.form.viaLvq) = false) (hpush : x.pushes = true) (word : Word) (body : Ctx → State → Act) :
    x.issueShadow s.tick word body = x.finish s.tick word (.done s.tick) := by
  unfold Ctx.issueShadow
  rw [r.group_ctx.2.1]
  simp only [show s.tick.partner g = some h from hp, htrap, hsync, hpops, hpush]
  rfl

/-- A shadow's long-latency operation waits for its leader's results; it counts its accesses as its leader does. -/
theorem issueShadow_starts (htrap : (h.ctl.trapPend && sameSlot g h) = false) (hsync : x.syncs = false)
    (hpops : (x.popsAny || x.form.viaLvq) = false) (hpush : x.pushes = false) (hlong : (x.form.long && !x.form.own) = true) (word : Word)
    {body : Ctx → State → Act} (hb : body x s.tick = .done w) : ∃ alc, x.issueShadow s.tick word body =
      x.finish s.tick word (.done ((x.shadowOp s.tick).onGroup x.gid (fun g => g.onCtl (fun c => { c with alc := alc })))) := by
  unfold Ctx.issueShadow
  rw [r.group_ctx.2.1]
  simp only [show s.tick.partner g = some h from hp, htrap, hsync, hpops, hpush, hlong, hb]
  exact ⟨_, rfl⟩

end

/-- What a shadow's operation leaves. -/
theorem shadow_started (r : Reaches s g c form op d a b x) (hdy : x.dying = []) (hpush : x.pushes = false) (word alc : Word) :
    ∃ t k n, x.finish s.tick word (.done ((x.shadowOp s.tick).onGroup x.gid (fun g => g.onCtl (fun c => { c with alc := alc })))) = t ∧
      Near s t g k ∧ k.queues = g.queues ∧ t.commits = s.commits ∧
      t.ops = s.ops ++ [x.newOp s.nextId n (.shadow g.ctl.pc.toNat g.ctl.slot)] := by
  obtain ⟨hgid, hxg, -⟩ := r.group_ctx
  let words := x.form.words.getD (if x.form.dWrite then (x.kind .d).span else 0)
  let kind : OpKind := .shadow g.ctl.pc.toNat g.ctl.slot
  have hop : x.shadowOp s.tick = x.start s.tick words kind := by
    unfold Ctx.shadowOp
    rw [hxg]
  obtain ⟨near1, hops1, hcom1⟩ := Ctx.start_near (x := x) (s := s.tick) r.group words kind
  have near0 : Near s s.tick g g := (State.tick_only r.group).near ⟨rfl⟩ (fun _ _ => rfl)
  let w := (x.start s.tick words kind).onGroup g.gid (fun g => g.onCtl (fun c => { c with alc := alc }))
  have near2 : Near (x.start s.tick words kind) w g (g.onCtl (fun c => { c with alc := alc })) :=
    State.onCtl_near near1.found _ ⟨rfl, rfl, rfl, rfl⟩
  obtain ⟨k, near3, -, hq, hops3, hcom3⟩ := nextSlot_near (w := w) (k := g.onCtl (fun c => { c with alc := alc })) near2.found r.clause
    x.form.lits x.cycles x.form.long
  have hops2 : w.ops = (x.start s.tick words kind).ops := State.onGroup_ops ..
  have hcom2 : w.commits = (x.start s.tick words kind).commits := State.onGroup_commits ..
  refine ⟨_, k, words, rfl, ?_, hq, ?_, ?_⟩
  all_goals rw [finish_done (sendLost_of_no_push hpush _) hdy, hgid, hop]
  · exact near0.trans (near1.trans (near2.trans near3))
  · exact hcom3.trans (hcom2.trans hcom1)
  · exact hops3.trans (hops2.trans hops1)

/-! ### A leader's instruction (06 R191, R192) -/

/-- What an instruction has popped leaves its group's partner. -/
theorem partner_popped (hpop : x.takePops s = some (u, y)) (hg : s.group? x.gid = some g) : u.partner g = s.partner g := by
  obtain ⟨k, qs, hk, hu, -⟩ := Ctx.takePops_spec hpop
  rw [hg] at hk
  cases hk
  unfold State.partner
  split
  · rw [hu]
    refine find?_replaceFirst_other _ _ _ _ (by simp) (fun v hv => ?_)
    rw [beq_iff_eq] at hv
    simp [hv]
  · rfl

/-- The state in which a leader's instruction has its effect: its shadow has the words it popped (06 R191). -/
def Ctx.copied (x y : Ctx) (h : Group) (u : State) : State := if x.popsAny then u.putGroup { h with lvq := h.lvq ++ [y.popLine] } else u

section
variable (r : Reaches s g c form op d a b x) (hp : s.partner g = some h)
include r hp

/-- A leader's instruction that need not wait. -/
theorem issue_leads (hs : g.ctl.shadow = false) (hl : g.ctl.leads = true) (hpop : x.takePops s.tick = some (u, y))
    (hwait : y.mustWait u = none) (body : Ctx → State → Act) :
    issue form op d a b body s = .next (if x.syncs then y.issueLeaderSync s.tick (x.copied y h u) (mkWord op d a b) body
      else y.finish s.tick (mkWord op d a b) (body y (x.copied y h u))) := by
  obtain ⟨hgid, hxg, -⟩ := r.group_ctx
  have hpart : u.partner g = some h := (partner_popped hpop (by rw [hgid]; exact r.group)).trans hp
  rw [issue_reaches r]
  unfold Ctx.issueActive
  rw [hxg, if_neg (by rw [hs]; exact Bool.false_ne_true), hpop]
  simp only [hwait, hl, Bool.true_and, hpart]
  rfl

end

section
variable (hyg : y.g = g) (hp : s.partner g = some h)
include hyg hp

/-- A leader waits at a release until its shadow waits there too. -/
theorem leaderSync_waits (hw : ¬(sameSlot g h = true ∧ h.stalled.map (fun st => st.hold) = some .partner)) (v : State) (word : Word)
    (body : Ctx → State → Act) : y.issueLeaderSync s v word body = s.stall g ⟨.barrier, .partner⟩ := by
  have hcond : (!(sameSlot g h && h.stalled.map (fun st => st.hold) == some .partner)) = true := by
    rw [Bool.not_eq_true', Bool.and_eq_false_iff]
    rw [Classical.not_and_iff_not_or_not] at hw
    exact hw.imp (fun h => by simpa using h) (fun h => by simpa using h)
  unfold Ctx.issueLeaderSync
  rw [hyg]
  simp only [hp]
  rw [if_pos hcond]

/-- A pair that differs at a release does not match. -/
theorem leaderSync_differs (hslot : sameSlot g h = true) (hhold : h.stalled.map (fun st => st.hold) = some .partner)
    (heq : y.pairEqual s h = false) (v : State) (word : Word) (body : Ctx → State → Act) :
    y.issueLeaderSync s v word body = s.mismatch g := by
  unfold Ctx.issueLeaderSync
  rw [hyg]
  simp only [hp, hslot, hhold, heq]
  rfl

/-- The shadow drops its entries and moves on with its leader (06 R192). -/
def Ctx.along (y : Ctx) (h : Group) (w : State) : State :=
  let z := { y with gid := h.gid, g := h }
  let w1 := w.onGroup h.gid (fun k => k.onCtl (fun m => { m with psb := [] }))
  (if y.form.long then z.shadowOp w1 else w1).nextSlot h.gid y.form.lits y.cycles y.form.long

theorem leaderSync_agrees (hslot : sameSlot g h = true) (hhold : h.stalled.map (fun st => st.hold) = some .partner)
    (heq : y.pairEqual s h = true) {v : State} (word : Word) {body : Ctx → State → Act} (hb : body y v = .done w) :
    y.issueLeaderSync s v word body = y.finish s word (.done (y.along h w)) := by
  unfold Ctx.issueLeaderSync
  rw [hyg]
  simp only [hp, hslot, hhold, heq, hb]
  rfl

end

/-- What the shadow's move leaves: its own control area is behind the instruction, without entries, and every other group stands. -/
theorem along_spec (hj : w.group? h.gid = some j) (he : j.clause = some e) :
    ∃ j', (y.along h w).group? h.gid = some j' ∧ j'.ctl = ({ j.ctl with psb := [] } : Control).behind e y.form.lits ∧
      (y.along h w).commits = w.commits ∧ ∀ n, n ≠ h.gid → (y.along h w).group? n = w.group? n := by
  have jgid : j.gid = h.gid := State.group?_gid hj
  let f (m : Control) : Control := { m with psb := [] }
  let w1 := w.onGroup h.gid (fun k => k.onCtl f)
  have near1 : Near w w1 j (j.onCtl f) := State.onCtl_near hj f ⟨rfl, rfl, rfl, rfl⟩
  let w2 := if y.form.long then { y with gid := h.gid, g := h }.shadowOp w1 else w1
  have hgroups : w2.groups = w1.groups := by
    simp only [w2]
    split <;> rfl
  have hcommits : w2.commits = w.commits := by
    have h1 : w1.commits = w.commits := State.onGroup_commits ..
    rw [← h1]
    simp only [w2]
    split <;> rfl
  have hfound : w2.group? h.gid = some (j.onCtl f) := by
    rw [State.group?_congr hgroups, ← jgid]
    exact near1.found
  obtain ⟨j', only, -, hctl, -⟩ := State.nextSlot_spec' hfound (show (j.onCtl f).clause = some e from he) y.form.lits y.cycles y.form.long
  obtain ⟨-, hcom⟩ := State.nextSlot_ops w2 h.gid y.form.lits y.cycles y.form.long
  refine ⟨j', ?_, hctl, hcom.trans hcommits, fun n hn => ?_⟩
  · have := only.found
    rw [show (j.onCtl f).gid = h.gid from jgid] at this
    exact this
  · rw [← jgid] at hn
    exact (only.others n hn).trans ((State.group?_congr hgroups n).trans (near1.others n hn))

/-- Settles O27: what a shadow takes from its leader, what a leader waits for, and what a difference of the two comes to. -/
theorem pairs : Obligations.Pairs := by
  unfold Obligations.Pairs
  intro mk form op body he s g h c d a b x r hp hn hg hh hdy
  obtain ⟨hgid, hxg, hform, -⟩ := r.group_ctx
  have hmis : Mismatched s (s.tick.mismatch g) g h := mismatch_spec hn r.group hg hp
  refine ⟨?shadow, ?leader⟩
  case shadow =>
    intro hs hslot
    have htrap : (h.ctl.trapPend && sameSlot g h) = false := by
      cases htp : h.ctl.trapPend with
      | false => rfl
      | true => rw [hslot htp]; rfl
    have hpops : (x.popsAny = true ∨ (form d a b).viaLvq = true) ↔ (x.popsAny || x.form.viaLvq) = true := by
      rw [hform, Bool.or_eq_true]
    rw [he, issue_shadow r hs]
    refine ⟨fun hsync => ⟨_, rfl, ?_⟩, fun hsync ht hline => ⟨_, rfl, ?_⟩, fun l w k hsync ht hline hpush hb hk hkc => ⟨_, rfl, ?_⟩,
      fun hsync ht hpush => ⟨_, rfl, ?_⟩, fun w hsync ht hpush hlong hown hb => ?_⟩
    · rw [issueShadow_waits r hp htrap hsync]
      exact stall_stalls r.group _
    · rw [issueShadow_lineless r hp htrap hsync (hpops.1 ht) hline]
      exact hmis
    · rw [issueShadow_line r hp htrap hsync (hpops.1 ht) hline, hb, finish_done (sendLost_of_no_push (y := x.withLine l) hpush _) hdy,
        show (x.withLine l).gid = g.gid from hgid, show (x.withLine l).form = form d a b from hform]
      exact nextSlot_behind hk hkc _ _ _
    · rw [issueShadow_pushes r hp htrap hsync (Bool.eq_false_iff.2 (fun h => ht (hpops.2 h))) hpush,
        finish_done (sendLost_same (by rw [hgid, hxg]; exact r.group)) hdy, hgid, hform]
      exact (nextSlot_behind (w := s.tick) r.group r.clause _ _ _).of_tick
    · obtain ⟨alc, hshadow⟩ := issueShadow_starts r hp htrap hsync (Bool.eq_false_iff.2 (fun h => ht (hpops.2 h))) hpush
        (by rw [hform, hlong, hown]; rfl) (mkWord op d a b) hb
      rw [hshadow]
      obtain ⟨t, k, n, ht, hrest⟩ := shadow_started r hdy hpush (mkWord op d a b) alc
      exact ⟨t, k, n, congrArg _ ht, hrest⟩
  case leader =>
    intro hs hl u y hpop hwait
    obtain ⟨-, -, -, -, hyx⟩ := Ctx.takePops_spec hpop
    have hyg : y.g = g := by rw [hyx]; exact hxg
    have hygid : y.gid = g.gid := by rw [hyx]; exact hgid
    have hyform : y.form = form d a b := by rw [hyx]; exact hform
    have hydy : y.dying = [] := by rw [hyx]; exact hdy
    have hypush : x.pushes = false → y.pushes = false := by
      intro hpush
      rw [hyx]
      exact hpush
    have hp' : s.tick.partner g = some h := hp
    rw [he, issue_leads r hp hs hl hpop hwait]
    refine ⟨fun hsync hw => ⟨_, rfl, ?_⟩, fun hsync hw heq => ⟨_, rfl, ?_⟩, fun w k j e hsync hw heq hpush hb hk hkc hj hje => ?_,
      fun w k hsync hpush hb hk hkc => ⟨_, rfl, ?_⟩⟩
    · rw [if_pos hsync, leaderSync_waits hyg hp' hw]
      exact stall_stalls r.group _
    · rw [if_pos hsync, leaderSync_differs hyg hp' hw.1 hw.2 heq]
      exact hmis
    · obtain ⟨j', hj', hjctl, hcom, hothers⟩ := along_spec (y := y) hj hje
      have hfound : (y.along h w).group? g.gid = some k := by
        rw [hothers _ (partner_found hp).2.symm]
        exact hk
      obtain ⟨k', only, -, hkctl, -⟩ := State.nextSlot_spec' hfound hkc (form d a b).lits y.cycles (form d a b).long
      have hkgid : k.gid = g.gid := State.group?_gid hk
      refine ⟨(y.along h w).nextSlot g.gid (form d a b).lits y.cycles (form d a b).long, j', ?_, ?_, ?_, ?_, k', ?_, hkctl⟩
      · rw [if_pos hsync, leaderSync_agrees hyg hp' hw.1 hw.2 heq (v := x.copied y h u) _ hb, finish_done (sendLost_of_no_push (hypush hpush) _) hydy, hygid,
          hyform]
      · rw [only.others _ (by rw [hkgid]; exact (partner_found hp).2)]
        exact hj'
      · rw [hjctl, hyform]
      · exact (State.nextSlot_ops _ _ _ _ _).2.trans hcom
      · exact (congrArg _ hkgid.symm).trans only.found
    · change body d a b y (x.copied y h u) = .done w at hb
      rw [if_neg (by rw [hsync]; exact Bool.false_ne_true), hb, finish_done (sendLost_of_no_push (hypush hpush) _) hydy, hygid, hyform]
      exact nextSlot_behind hk hkc _ _ _

end Sys2Proof.Machine
end

section
/-!
SUPPORT. Shape registers (10 R286 to R290; O29), the matrix instructions (10 R267 to R277; O31) and leases (15 R428 to R431; O32).
-/
namespace Sys2Proof.Machine

variable {s u w : State} {g h k : Group} {c : FetchedClause} {form : Form} {op d a b : Byte} {x : Ctx} {n : Nat}

/-! ### Register operands (12 R318) -/

/-- The upper half of a word. -/
theorem wbits_upper (v : Word) : wbits v 31 16 = v.toNat / 65536 := by
  show v.toNat >>> 16 % 65536 = _
  rw [Nat.shiftRight_eq_div_pow]
  exact Nat.mod_eq_of_lt (by have := v.isLt; omega)

/-- A pair of register operands without a bit that must be zero. -/
theorem pairMbz_none {lo hi m1 m2 : Word} (h1 : lo &&& m1 = 0#32) (h2 : hi &&& m2 = 0#32) : x.pairMbz lo hi m1 m2 = none := by
  unfold Ctx.pairMbz
  rw [h1, h2]
  rfl

/-- A shape register written, in a state in which the group stands. -/
theorem stands_putShape (x : Ctx) (hn : x.gid = n) (hw : w.group? n = some k) (sh : Word512) :
    ∃ h, (w.putShape x.gid x.d sh).group? n = some h ∧ h.clause = k.clause := by
  subst hn
  exact stands_on hw _ rfl rfl

/-- An instruction that writes a shape register. -/
theorem completes_shape {mk form op ok} {sh : Ctx → State → Word512} {body : Ctx → State → Act}
    (he : ∀ d a b s, exec (mk d a b) s = issue (form d a b) op d a b body s)
    (hb : ∀ x w, ok x w → body x w = .done (w.putShape x.gid x.d (sh x w))) :
    Completes mk form op ok (fun x w => w.putShape x.gid x.d (sh x w)) :=
  completes_of he (fun _ _ _ _ _ _ x u _ _ _ hok => hb x u hok) (fun x _ _ _ hn hw _ => stands_putShape x hn hw _)

/-! ### SETSHAPE and SHFIELD (10 R288, R289) -/

/-- A tail as SHFIELD clamps it. -/
theorem clampTail_eq (v : Word) : clampTail v = if v.toInt < 0 then 0 else min v.toNat 65535 := by
  unfold clampTail
  rw [BitVec.msb_eq_toInt]
  simp only [decide_eq_true_eq]

theorem setShape_empty (hb : x.b = 0) : setShape x w = .done (w.putShape x.gid x.d 0#512) := by
  unfold setShape
  simp only [hb]
  rw [pairMbz_none (BitVec.and_zero) (BitVec.and_zero)]
  rfl

theorem setShape_tile (hb : x.b = 1) (hm : x.reg w (x.a + 1) x.low &&& 0xFFF00000#32 = 0#32) :
    setShape x w = .done (w.putShape x.gid x.d (grantShape (shapeSets 0#512 [(0, 1), (3, (x.reg w x.a x.low).toNat % 65536),
      (4, (x.reg w x.a x.low).toNat / 65536), (5, (x.reg w (x.a + 1) x.low).toNat % 65536),
      (2, (x.reg w (x.a + 1) x.low).toNat / 65536 % 16)]) (w.floorOf x.g))) := by
  unfold setShape
  simp only [hb]
  rw [pairMbz_none BitVec.and_zero hm, ← wbits_upper (x.reg w x.a x.low)]
  simp only
  rw [if_neg (by decide)]
  have hfmt : wbits (x.reg w (x.a + 1) x.low) 19 16 = (x.reg w (x.a + 1) x.low).toNat / 65536 % 16 := by
    rw [← Nat.shiftRight_eq_div_pow _ 16]
    rfl
  rw [hfmt]
  rfl

theorem setShape_vector (hb : x.b = 2) (hl : x.reg w x.a x.low &&& 0xFFFF0000#32 = 0#32) (hm : x.reg w (x.a + 1) x.low = 0#32) :
    setShape x w = .done (w.putShape x.gid x.d
      (grantShape (shapeSets 0#512 [(0, 2), (13, (x.reg w x.a x.low).toNat % 65536)]) (w.floorOf x.g))) := by
  unfold setShape
  simp only [hb]
  rw [pairMbz_none hl (by rw [hm]; rfl)]
  simp only
  rw [if_neg (by decide)]
  rfl

theorem shapeField_tail (hb : x.b = 9 ∨ x.b = 10 ∨ x.b = 11) :
    shapeField x w = .done (w.putShape x.gid x.d (shapeSet (x.g.shape x.d) x.b
      (if (x.rd w .a x.low).toInt < 0 then 0 else min (x.rd w .a x.low).toNat 65535))) := by
  rw [← clampTail_eq]
  unfold shapeField
  simp only
  have hok : (decide (15 < x.b) || shapeRO x.b || (x.b == 0 && decide (3 ≤ wbits (x.rd w .a x.low) 15 0)) ||
      (x.b == 2 && decide (15 < wbits (x.rd w .a x.low) 15 0))) = false := by
    rcases hb with hb | hb | hb <;> rw [hb] <;> rfl
  rw [hok, if_neg Bool.false_ne_true, if_pos (by omega)]

theorem shapeField_request (hb : (x.b = 0 ∧ (x.rd w .a x.low).toNat % 65536 < 3) ∨ (x.b = 2 ∧ (x.rd w .a x.low).toNat % 65536 < 16) ∨
      x.b ∈ [3, 4, 5, 13]) :
    shapeField x w = .done (w.putShape x.gid x.d (shapeSets (shapeSet (x.g.shape x.d) x.b ((x.rd w .a x.low).toNat % 65536))
      [(1, 0), (6, 0), (7, 0), (8, 0), (12, 0), (14, 0)])) := by
  have hv : wbits (x.rd w .a x.low) 15 0 = (x.rd w .a x.low).toNat % 65536 := rfl
  unfold shapeField
  simp only [hv]
  have hok : (decide (15 < x.b) || shapeRO x.b || (x.b == 0 && decide (3 ≤ (x.rd w .a x.low).toNat % 65536)) ||
      (x.b == 2 && decide (15 < (x.rd w .a x.low).toNat % 65536))) = false := by
    simp only [List.mem_cons, List.not_mem_nil, or_false] at hb
    rcases hb with ⟨hb, hlt⟩ | ⟨hb, hlt⟩ | hb | hb | hb | hb
    · rw [hb, decide_eq_false (Nat.not_le.2 hlt)]
      rfl
    · rw [hb, decide_eq_false (show ¬15 < (x.rd w .a x.low).toNat % 65536 by omega)]
      rfl
    all_goals rw [hb]; rfl
  have hnot : ¬(9 ≤ x.b ∧ x.b ≤ 11) := by
    simp only [List.mem_cons, List.not_mem_nil, or_false] at hb
    omega
  rw [hok, if_neg Bool.false_ne_true, if_neg hnot]

/-! ### GETSHAPE (10 R289) -/

/-- GETSHAPE reads a field into d of every lane of S. -/
theorem getshape_done (i : Issues s g c { d := .reg, a := .shape, b := .any, dWrite := true, one := true, cycles := .one } 0xBC#8 d a b x u)
    (hdy : x.dying = []) (hd : d.toNat < 240) (hb : b.toNat ≤ 15) :
    ∃ t h, exec (.getshape d a b) s = .next t ∧ LaneDone s t g c x u h (x.S.map (fun l =>
      (l, LaneOut.plain (BitVec.ofNat 64 (shapeGet (g.shape a.toNat) b.toNat))))) := by
  obtain ⟨-, hxg, -, -, hxa, hxb, -⟩ := i.ctx
  let f (x : Ctx) (_ : State) (_ : Nat) : LaneOut := .plain (BitVec.ofNat 64 (shapeGet (x.g.shape x.a) x.b))
  have hexec : exec (.getshape d a b) s =
      issueLanes { d := .reg, a := .shape, b := .any, dWrite := true, one := true, cycles := .one } 0xBC#8 d a b f s := by
    have heffect : getShape x u = laneEffect f x u := if_neg (by rw [hxb]; omega)
    exact (issue_ready i getShape).trans (heffect ▸ (issue_ready i (laneEffect f)).symm)
  obtain ⟨t, h, e, hdone⟩ := issueLanes_done i f rfl (.inl i.kind_d) hd hdy (fpxTrap_quiet x u _ f (fun _ => rfl))
  have houts : x.spread (x.results u f) = x.S.map (fun l =>
      (l, LaneOut.plain (BitVec.ofNat 64 (shapeGet (g.shape a.toNat) b.toNat)))) := by
    have hone := i.acts_once rfl
    have hS := i.lanes_S
    unfold Ctx.spread Ctx.results
    rw [i.lanes_L, hone, if_pos rfl, if_pos rfl, ← hxg, ← hxa, ← hxb]
    cases hs : x.S with
    | nil => exact absurd hs hS
    | cons l ls => rfl
  exact ⟨t, h, hexec.trans e, houts ▸ hdone⟩

/-! ### LDSHAPE (10 R290) -/

/-- Lines without poison give a lane no poisoned byte. -/
theorem laneBytes_clean {lines : List LineAccess} (h : ∀ n ∈ lines, n.poison = false) (l : LaneAccess) (n : Nat) :
    (laneBytes lines l n).2 = false := by
  unfold laneBytes
  simp only
  rw [List.any_eq_false]
  intro v hv
  simp only [List.mem_map] at hv
  obtain ⟨j, -, rfl⟩ := hv
  cases hf : lines.find? (fun k => k.addr == (l.addr + j) / 128 * 128) with
  | none => simp
  | some m => simp [h m (List.mem_of_find?_eq_some hf)]

/-- LDSHAPE with its line at hand. -/
theorem loadShape_returned {o : OutOp} {space : Space} {image : Word256} {hint : Nat} {lines : List LineAccess} {l : LaneAccess}
    {acquire : Option Nat} {uni : Bool} (hs : x.g.ctl.shadow = false) (hl : x.g.ctl.leads = false)
    (hfind : w.ops.find? (fun o => o.gid == x.gid && o.loadsShape) = some o)
    (hkind : o.kind = .load .shape space image hint lines [l] acquire uni)
    (hlines : ∀ n ∈ lines, n.bytes.isSome = true ∧ n.poison = false)
    (hok : shapeFaults (BitVec.ofNat 512 (natOfBytes (laneBytes lines l 64).1)) = 0) :
    loadShape x w = .done ((x.charge (w.dropOp o.id) (bufRec x.image) ((w.dropOp o.id).spaceOf x.g (bufRec x.image))
      (x.L.map (x.probe w (bufRec x.image) 64))).putShape x.gid x.d
        (shapeOfImage (BitVec.ofNat 512 (natOfBytes (laneBytes lines l 64).1)) (w.floorOf x.g))) := by
  have hall : lines.any (fun l => l.bytes.isNone) = false := by
    rw [List.any_eq_false]
    intro m hm
    have := (hlines m hm).1
    simp only [Option.isNone_iff_eq_none]
    intro hn
    rw [hn] at this
    cases this
  have hclean := laneBytes_clean (fun n hn => (hlines n hn).2) l 64
  unfold loadShape
  simp only [hs, hfind, hkind, hall]
  unfold Ctx.leadShape Ctx.takeShape
  simp only [hl, hclean, hok]
  rfl

/-- Settles O29: each of the shape instructions, from its effect. -/
theorem shapeInstructions : Obligations.ShapeInstructions := by
  unfold Obligations.ShapeInstructions
  refine ⟨?empty, ?tile, ?vector, ?tail, ?request, ?get, ?load⟩
  case empty => exact completes_shape (fun _ _ _ _ => rfl) (fun _ _ hb => setShape_empty hb)
  case tile => exact completes_shape (fun _ _ _ _ => rfl) (fun _ _ hok => setShape_tile hok.1 hok.2)
  case vector => exact completes_shape (fun _ _ _ _ => rfl) (fun _ _ hok => setShape_vector hok.1 hok.2.1 hok.2.2)
  case tail => exact completes_shape (fun _ _ _ _ => rfl) (fun _ _ hb => shapeField_tail hb)
  case request => exact completes_shape (fun _ _ _ _ => rfl) (fun _ _ hb => shapeField_request hb)
  case get => exact fun _ _ _ _ _ _ _ _ i hdy hd hb => getshape_done i hdy hd hb
  case load =>
    intro o space image hint lines l acquire uni
    refine completes_of (fun _ _ _ _ => rfl) ?effect (fun x w n k hn hw _ => ?stands)
    · intro s g c d a b x u i _ _ hok
      obtain ⟨hl, hfind, hkind, hlines, hfaults⟩ := hok
      exact loadShape_returned (by rw [i.ctx.2.1]; exact i.first) hl hfind hkind hlines hfaults
    obtain ⟨k1, hk1, hc1⟩ := stands_charge (w := w.dropOp o.id) x hn hw (bufRec x.image) ((w.dropOp o.id).spaceOf x.g (bufRec x.image))
      (x.L.map (x.probe w (bufRec x.image) 64))
    obtain ⟨k2, hk2, hc2⟩ := stands_putShape x hn hk1
      (shapeOfImage (BitVec.ofNat 512 (natOfBytes (laneBytes lines l 64).1)) (w.floorOf x.g))
    exact ⟨k2, hk2, hc2.trans hc1⟩

/-! ### Entering the matrix engine's stream (10 R267, R268) -/

/-- The release of its lanes that a command makes (10 R268). -/
def Ctx.commandRelease (x : Ctx) (w : State) : State :=
  w.fresh.2.fresh.2.startRelease { x.newOp (w.nextId + 1) 0 .lease with flag := 16 } 1 none .matrix

/-- A command enters the stream behind what its issue has released. -/
theorem submit_eq (x : Ctx) (w : State) (m : MatrixCommand) (releases : Bool) :
    x.submit w m releases = (let v := if releases then x.commandRelease w else w.fresh.2.fresh.2
      ({ v with ops := v.ops ++ [x.newOp w.nextId 0 (.matrix m none)] } : State).onCore x.g.core (fun k =>
        { k with stream := k.stream ++
          [{ number := w.nextId, gid := x.gid, op := w.nextId, command := m, release := w.nextId + 1 }] })) := rfl

/-- A command that enters the stream keeps its group in its clause. -/
theorem stands_submit (x : Ctx) (hn : x.gid = n) (hw : w.group? n = some k) (m : MatrixCommand) (releases : Bool) :
    ∃ h, (x.submit w m releases).group? n = some h ∧ h.clause = k.clause := by
  rw [submit_eq]
  cases releases with
  | false => exact ⟨k, hw, rfl⟩
  | true => exact stands_release (w := w.fresh.2.fresh.2) hw { x.newOp (w.nextId + 1) 0 .lease with flag := 16 } hn 1 none .matrix

/-- What a command that enters the stream leaves. -/
theorem submit_near (x : Ctx) (hw : w.group? x.gid = some k) (hc : x.g.core = k.core) (m : MatrixCommand) (releases : Bool) :
    ∃ h, Near w (x.submit w m releases) k h ∧
      ((x.submit w m releases).core k.core).stream = (w.core k.core).stream ++
        [{ number := w.nextId, gid := x.gid, op := w.nextId, command := m, release := w.nextId + 1 }] ∧
      (releases = false → (x.submit w m releases).ops = w.ops ++ [x.newOp w.nextId 0 (.matrix m none)] ∧
        (x.submit w m releases).commits = w.commits ∧ h.ctl = k.ctl) ∧
      (releases = true → ∃ before entries, (x.submit w m releases).ops = w.ops ++
        [{ x.newOp (w.nextId + 1) 0 (.release 1 before entries .matrix) with flag := 16 }, x.newOp w.nextId 0 (.matrix m none)]) := by
  have hgid : k.gid = x.gid := State.group?_gid hw
  have hk : w.group? k.gid = some k := by rw [hgid]; exact hw
  rw [submit_eq, hc]
  let entry : StreamEntry := { number := w.nextId, gid := x.gid, op := w.nextId, command := m, release := w.nextId + 1 }
  have near0 : Near w w.fresh.2.fresh.2 k k := near_flight hk _ _ _ _
  have enters : ∀ (v : State) (h : Group), Near w v k h → (v.core k.core).stream = (w.core k.core).stream → ∀ ops,
      Near w (({ v with ops := ops } : State).onCore k.core (fun k => { k with stream := k.stream ++ [entry] })) k h ∧
      ((({ v with ops := ops } : State).onCore k.core (fun k => { k with stream := k.stream ++ [entry] })).core k.core).stream =
        (w.core k.core).stream ++ [entry] := by
    intro v h hv hstream ops
    have hfound : v.group? h.gid = some h := by rw [hv.context.gid]; exact hv.found
    refine ⟨hv.trans ((near_flight hfound v.nextId ops v.commits v.dieTlb).trans ?_), ?_⟩
    · rw [← hv.context.core]
      exact near_core (s := { v with ops := ops }) (g := h) hfound (fun k => { k with stream := k.stream ++ [entry] }) (fun _ => rfl)
    · rw [State.core_onCore, if_pos rfl, ← hstream]
      rfl
  cases releases with
  | false =>
    obtain ⟨near, hstream⟩ := enters _ k near0 rfl (w.ops ++ [x.newOp w.nextId 0 (.matrix m none)])
    exact ⟨k, near, hstream, fun _ => ⟨rfl, rfl, rfl⟩, fun hf => absurd hf Bool.false_ne_true⟩
  | true =>
    obtain ⟨h, cs, before, ens, near1, hops, -⟩ := State.startRelease_near (s := w.fresh.2.fresh.2) (g := k) hk
      { x.newOp (w.nextId + 1) 0 .lease with flag := 16 } hgid.symm 1 none .matrix
    have hcores : (x.commandRelease w).cores = w.cores := State.startRelease_cores w.fresh.2.fresh.2 _ 1 none _
    obtain ⟨near, hstream⟩ := enters (x.commandRelease w) h (near0.trans near1) (by rw [State.core_congr hcores])
      ((x.commandRelease w).ops ++ [x.newOp w.nextId 0 (.matrix m none)])
    refine ⟨h, near, hstream, fun hf => absurd hf (by decide), fun _ => ⟨before, ens, ?_⟩⟩
    show (x.commandRelease w).ops ++ _ = _
    rw [show (x.commandRelease w).ops = _ from hops, List.append_assoc]
    rfl

/-- With room in q0 no command waits. -/
theorem streamFull_room (h : w.q0Used x.g < 64) : x.streamFull w = false := decide_eq_false (Nat.not_le.2 h)

/-- ACCLD and ACCST with their tests passed. -/
theorem moveTile_submits (store : Bool) (hlost : x.testLost w (bufRec x.image) x.b = none) (hshape : x.testShape w = none)
    (htile : x.testTile w x.shapeNo (shapeGet (x.g.shape x.shapeNo) 2) = none)
    (hmoves : x.testMoves w (bufRec x.image) (tileElem (shapeGet (x.g.shape x.shapeNo) 2)) (if store then .write else .read)
      (x.elements w (bufRec x.image) (x.g.shape x.shapeNo) (wbits (x.rdPair w .a x.low) 31 0) (wbits (x.rdPair w .a x.low) 63 32)) = none)
    (hsoiled : w.soiledElem (x.elements w (bufRec x.image) (x.g.shape x.shapeNo) (wbits (x.rdPair w .a x.low) 31 0)
      (wbits (x.rdPair w .a x.low) 63 32)) (if store then .write else .read) = none)
    (hroom : w.q0Used x.g < 64) :
    x.moveTile w store = .done (if store then
        x.submit w (.store x.tile (x.g.shape x.shapeNo) x.b x.image (wbits (x.rdPair w .a x.low) 31 0) (wbits (x.rdPair w .a x.low) 63 32)
          x.sMask x.option) true
      else x.submit (w.claimTiles x.g (tilesOf x.tile (shapeGet (x.g.shape x.shapeNo) 2)) w.nextId)
        (.load x.tile (x.g.shape x.shapeNo) x.b x.image (wbits (x.rdPair w .a x.low) 31 0) (wbits (x.rdPair w .a x.low) 63 32) x.sMask)
          true) := by
  unfold Ctx.image at hlost hmoves hsoiled ⊢
  unfold Ctx.moveTile
  simp only [hlost, hshape, htile, firstTrap, hmoves, hsoiled, streamFull_room hroom]
  cases store <;> rfl

/-- MMA with its tests passed. -/
theorem matrixMultiply_submits {rA rB : ObRec} (hA : descMbz ((w.recordOf x.g).span == 1) (x.rdPair w .a x.low) = 0)
    (hB : descMbz ((w.recordOf x.g).span == 1) (x.rdPair w .b x.low) = 0) (hshape : x.testShape w = none)
    (hrecords : x.testRecords w (descOf (x.rdPair w .a x.low)) (descOf (x.rdPair w .b x.low)) = none)
    (htile : x.testTile w x.shapeNo (shapeGet (x.g.shape x.shapeNo) 2) = none)
    (hrA : (w.core x.g.core).obRec x.gid (descOf (x.rdPair w .a x.low)).ob = some rA)
    (hrB : (w.core x.g.core).obRec x.gid (descOf (x.rdPair w .b x.low)).ob = some rB)
    (houtA : w.operandOut x.g (descOf (x.rdPair w .a x.low)) rA (mmaRows x.g (x.g.shape x.shapeNo) x.sMask)
      (stagedUnits (x.g.shape x.shapeNo)) = none)
    (houtB : w.operandOut x.g (descOf (x.rdPair w .b x.low)) rB (mmaCols (x.g.shape x.shapeNo)) (stagedUnits (x.g.shape x.shapeNo)) = none)
    (hroom : w.q0Used x.g < 64) :
    matrixMultiply x w = .done (x.submit (w.claimTiles x.g (tilesOf x.tile (shapeGet (x.g.shape x.shapeNo) 2)) w.nextId)
      (.mma x.tile (x.g.shape x.shapeNo) x.option (x.rdPair w .a x.low) (x.rdPair w .b x.low) rA rB x.sMask) true) := by
  unfold matrixMultiply
  simp only [hA, hB, hshape, hrecords, htile, firstTrap, hrA, hrB, Option.getD_some, houtA, houtB, streamFull_room hroom]
  rfl

theorem zeroTile_submits (htile : x.testTile w 0 0 = none) (hroom : w.q0Used x.g < 64) :
    zeroTile x w = .done (x.submit (if x.option then w else w.claimTiles x.g [x.tile] w.nextId) (.zero x.tile x.sMask x.option) false) := by
  unfold zeroTile
  simp only [htile, streamFull_room hroom]
  rfl

/-- OBCLAIM of a group that is no pair writes its answer to every lane of S. -/
theorem claimOperand_writes (i : Issues s g c form op d a b x u) (hdy : x.dying = []) (hk : x.kind .d = .reg) (hu : x.uni = true)
    (hp : x.pushes = false) (hlo : x.reg u x.a x.low &&& 0xF000F000#32 = 0#32) (hhi : x.reg u (x.a + 1) x.low &&& 0x0000FFFF#32 = 0#32)
    (hl : x.g.ctl.leads = false) :
    claimOperand x u = .done (x.wroteAll
      (u.putCore x.g.core ((u.core x.g.core).claimBuffer x.gid (x.reg u x.a x.low) (x.reg u (x.a + 1) x.low)).1) x.d
      ((u.core x.g.core).claimBuffer x.gid (x.reg u x.a x.low) (x.reg u (x.a + 1) x.low)).2) := by
  have hs : x.g.ctl.shadow = false := by rw [i.ctx.2.1]; exact i.first
  unfold claimOperand
  simp only [pairMbz_none hlo hhi, hs, hl]
  exact congrArg Act.done (writeD_all hdy hk hu hp _ _ _)

theorem perturb_arms (hlo : x.reg w x.a x.low &&& 0xFFFFC0C0#32 = 0#32) :
    perturb x w = .done (w.onCore x.g.core (fun k => { k with perturb := some ⟨x.tile, (x.reg w x.a x.low).toNat % 64,
      (x.reg w x.a x.low).toNat / 256 % 64, x.reg w (x.a + 1) x.low, x.g.ctl.handle⟩ })) := by
  have hcol : wbits (x.reg w x.a x.low) 13 8 = (x.reg w x.a x.low).toNat / 256 % 64 := by
    rw [← Nat.shiftRight_eq_div_pow _ 8]
    rfl
  unfold perturb
  simp only [pairMbz_none hlo (show (0#32 : Word) &&& 0#32 = 0#32 from rfl), hcol]
  rfl

/-- Settles O31: each matrix instruction from its effect, and what a command that enters the stream leaves. -/
theorem matrixInstructions : Obligations.MatrixInstructions := by
  unfold Obligations.MatrixInstructions
  refine ⟨?mma, ?move, ?zero, ?claim, ?obrel, ?obnone, ?perturb, fun x w k m releases hw hc => submit_near x hw hc m releases⟩
  case mma =>
    intro rA rB
    refine completes_of (fun _ _ _ _ => rfl) (fun s g c d a b x u i _ _ hok => ?_)
      (fun x w n k hn hw _ => stands_submit (w := w.claimTiles x.g _ _) x hn hw _ _)
    obtain ⟨hA, hB, hshape, hrecords, htile, hrA, hrB, houtA, houtB, hroom⟩ := hok
    exact matrixMultiply_submits hA hB hshape hrecords htile hrA hrB houtA houtB hroom
  case move =>
    intro store
    refine completes_of (body := fun _ _ _ x w => x.moveTile w store) ?_ (fun s g c d a b x u i _ _ hok => ?_) (fun x w n k hn hw _ => ?_)
    · intro d a b s
      cases store <;> rfl
    · obtain ⟨hlost, hshape, htile, hmoves, hsoiled, hroom⟩ := hok
      exact moveTile_submits store hlost hshape htile hmoves hsoiled hroom
    · cases store with
      | true => exact stands_submit x hn hw _ _
      | false => exact stands_submit (w := w.claimTiles x.g _ _) x hn hw _ _
  case zero =>
    refine completes_of (fun _ _ _ _ => rfl) (fun s g c d a b x u i _ _ hok => zeroTile_submits hok.1 hok.2) (fun x w n k hn hw _ => ?_)
    exact stands_submit x hn (by split <;> exact hw) _ _
  case claim =>
    refine completes_of (fun _ _ _ _ => rfl) (fun s g c d a b x u i hdy hp hok => ?_)
      (fun x w n k hn hw _ => wroteAll_stands x (w.putCore x.g.core _) n k hn hw _ _)
    exact claimOperand_writes i hdy i.kind_d (i.acts_once rfl) hp hok.1 hok.2.1 hok.2.2
  case obrel =>
    intro o
    refine starts_of (fun _ _ _ _ => rfl) (fun _ _ _ => rfl) (fun s g c d a b x u i _ hok => ?_)
    unfold releaseOperand
    simp only [hok]
  case obnone =>
    refine completes_of (fun _ _ _ _ => rfl) (fun s g c d a b x u i _ _ hok => ?_) (fun _ _ _ k _ hw _ => ⟨k, hw, rfl⟩)
    unfold releaseOperand
    simp only [hok]
  case perturb =>
    refine completes_of (fun _ _ _ _ => rfl) (fun s g c d a b x u i _ _ hlo => ?_) (fun _ _ _ k _ hw _ => ⟨k, hw, rfl⟩)
    exact perturb_arms hlo

/-! ### Leases (15 R428 to R431) -/

/-- A lease request of a group with a pool, whose stream stands. -/
theorem testLease_none (hlost : w.lostStream x.g = none) (hpool : w.hasPool x.g.ctl.handle = true) (dest : Word) :
    x.testLease w dest = none := by
  unfold Ctx.testLease
  simp only [hlost, hpool]
  rfl

theorem leaseCount_sends (hs : x.g.ctl.shadow = false) (hlost : w.lostStream x.g = none) (hpool : w.hasPool x.g.ctl.handle = true)
    (hroom : x.g.leaseOut + (x.g.queue 10).length < 64) (kind : LeaseKind) :
    x.leaseCount w kind = .done ((x.sendLease w kind (x.rd w .a x.low) (x.rd w .b x.low) 0).onGroup x.gid
      (fun g => { g with leaseOut := g.leaseOut + 1 })) := by
  unfold Ctx.leaseCount
  simp only [testLease_none hlost hpool, hs]
  rw [if_neg (Nat.not_le.2 hroom)]
  rfl

theorem leaseQuery_starts (hlost : w.lostStream x.g = none) (hpool : w.hasPool x.g.ctl.handle = true)
    (hroom : x.g.leaseOut + (x.g.queue 10).length < 64) :
    leaseQuery x w = .done ((x.sendLease (x.start w 2 .lease) .leaseq (x.rd w .a x.low) 0#32 w.nextId).onGroup x.gid
      (fun g => { g with leaseOut := g.leaseOut + 1 })) := by
  unfold leaseQuery
  simp only [testLease_none hlost hpool]
  rw [if_neg (Nat.not_le.2 hroom)]

/-- Settles O32: each lease instruction from its effect. -/
theorem leaseInstructions : Obligations.LeaseInstructions := by
  unfold Obligations.LeaseInstructions
  refine ⟨?lease, ?unlease, ?query, ?slotset⟩
  case lease | unlease =>
    refine completes_of (fun _ _ _ _ => rfl) (fun s g c d a b x u i _ _ hok => ?_)
      (fun x w n k hn hw _ => by subst hn; exact stands_on (w := x.sendLease w _ _ _ _) hw _ rfl rfl)
    exact leaseCount_sends (by rw [i.ctx.2.1]; exact i.first) hok.1 hok.2.1 hok.2.2 _
  case query =>
    refine completes_of (fun _ _ _ _ => rfl) (fun s g c d a b x u i _ _ hok => leaseQuery_starts hok.1 hok.2.1 hok.2.2)
      (fun x w n k hn hw _ => by subst hn; exact stands_on (w := x.sendLease (x.start w 2 .lease) _ _ _ _) hw _ rfl rfl)
  case slotset =>
    refine completes_of (fun _ _ _ _ => rfl) (fun s g c d a b x u i _ _ hok => ?_) (fun _ _ _ k _ hw _ => ⟨k, hw, rfl⟩)
    unfold slotSet
    simp only [pairMbz_none hok.1 hok.2]
    rfl

end Sys2Proof.Machine
end

section
/-!
SUPPORT. Bring-up (01 R16, R17; O39) and the passing of a frame (01 R14; O40).
-/
namespace Sys2Proof.Machine

variable {s t u w : State} {g h : Group} {r : BringUpReport} {n k : Nat}

/-! ### A run of steps -/

/-- What every step of a run keeps, the run keeps. -/
theorem foldl_keeps {α β γ : Type} (F : α → γ) (f : α → β → α) (l : List β) (h : ∀ s n, n ∈ l → F (f s n) = F s) (s : α) :
    F (l.foldl f s) = F s := by
  induction l generalizing s with
  | nil => rfl
  | cons n ns ih =>
    rw [List.foldl_cons, ih (fun s m hm => h s m (List.mem_cons_of_mem _ hm)), h s n List.mem_cons_self]

/-- What one step of a run brings about and the others keep, the run brings about. -/
theorem foldl_brings {α β : Type} (Q : α → Prop) (f : α → β → α) {k : β} {l : List β} (hk : k ∈ l) (hset : ∀ s, Q (f s k))
    (hkeep : ∀ s n, Q s → Q (f s n)) (s : α) : Q (l.foldl f s) := by
  have kept : ∀ (ms : List β) (s : α), Q s → Q (ms.foldl f s) := by
    intro ms
    induction ms with
    | nil => exact fun _ h => h
    | cons m ms ih => exact fun s h => ih (f s m) (hkeep s m h)
  obtain ⟨xs, ys, rfl⟩ := List.append_of_mem hk
  rw [List.foldl_append, List.foldl_cons]
  exact kept ys _ (hset _)

/-! ### The steps of bring-up (01 R16) -/

/-- A sub-array that failed its test is fenced (01 R17). -/
def fenceOne (t : State) (f : Nat × Nat × Nat) : State :=
  t.onCore f.1 (fun k => { k with fenced := insertSorted (4 * f.2.1 + f.2.2) k.fenced })

/-- Fencing changes cores alone. -/
theorem fence_rest (bad : List (Nat × Nat × Nat)) (s : State) : bad.foldl fenceOne s = { s with cores := (bad.foldl fenceOne s).cores } := by
  induction bad generalizing s with
  | nil => rfl
  | cons f fs ih => rw [List.foldl_cons, ih]; rfl

/-- A fenced sub-array stays fenced. -/
theorem fenceOne_keeps (f : Nat × Nat × Nat) (c m : Nat) (h : m ∈ (s.core c).fenced) : m ∈ ((fenceOne s f).core c).fenced := by
  unfold fenceOne
  rw [State.core_onCore]
  split
  · next hc =>
    rw [← hc] at h
    exact (mem_insertSorted _ _ _).2 (.inr h)
  · exact h

/-- The sub-arrays a report names that the device has. -/
def failingOf (r : BringUpReport) : List (Nat × Nat × Nat) :=
  r.failing.filter (fun f => decide (f.1 < Config.cores) && decide (f.2.1 < 4) && decide (f.2.2 < 4))

theorem bringUpStep_six : s.bringUpStep r 6 = (failingOf r).foldl fenceOne (s.onPkg (fun p => { p with fencing := failingOf r })) := rfl

theorem bringUpStep_six_rest : s.bringUpStep r 6 =
    { s with pkg := { s.pkg with fencing := failingOf r }, cores := (s.bringUpStep r 6).cores } := by
  rw [bringUpStep_six, fence_rest]
  rfl

/-- From s to t a step of bring-up has run: what the other steps set is as it was. -/
structure StepKeeps (s t : State) (n : Nat) : Prop where
  bytes  : t.mem.bytes = s.mem.bytes
  groups : t.groups = s.groups
  hash   : n ≠ 2 → t.pkg.firmwareHash = s.pkg.firmwareHash
  clock  : n ≠ 3 → t.pkg.pllLocked = s.pkg.pllLocked
  frame  : n ≠ 3 → t.pkg.frame = s.pkg.frame
  mapped : n ≠ 4 → t.pkg.mappedOut = s.pkg.mappedOut
  garnet : n ≠ 4 → t.garnet = s.garnet
  cores  : n ≠ 6 → t.cores = s.cores
  host   : n ≠ 7 → t.host = s.host

/-- Each step leaves what the others set. -/
theorem bringUpStep_keeps (s : State) (r : BringUpReport) (n : Nat) : StepKeeps s (s.bringUpStep r n) n := by
  by_cases h6 : n = 6
  · subst h6
    rw [bringUpStep_six_rest]
    constructor <;> intros <;> trivial
  · unfold State.bringUpStep
    split
    case h_6 => exact absurd rfl h6
    all_goals constructor <;> intros <;> trivial

/-- Step n of bring-up is reached (01 R16). -/
def reaches (r : BringUpReport) (n : Nat) : Prop := ∀ f, r.failedStep = some f → n < f

/-- The steps that a report says were reached. -/
def stepsOf (r : BringUpReport) : List Nat := [1, 2, 3, 4, 5, 6, 7, 8, 9].filter (fun n =>
  match r.failedStep with | none => true | some f => decide (n < f))

theorem mem_stepsOf : n ∈ stepsOf r ↔ (1 ≤ n ∧ n ≤ 9) ∧ reaches r n := by
  have hlist : n ∈ [1, 2, 3, 4, 5, 6, 7, 8, 9] ↔ 1 ≤ n ∧ n ≤ 9 := by
    simp only [List.mem_cons, List.not_mem_nil, or_false]
    omega
  have hreach : (match r.failedStep with | none => true | some f => decide (n < f)) = true ↔ reaches r n := by
    unfold reaches
    cases r.failedStep <;> simp
  unfold stepsOf
  rw [List.mem_filter, hlist]
  exact and_congr_right (fun _ => hreach)

/-- The state behind the steps that were reached. -/
def State.broughtUp (s : State) (r : BringUpReport) : State := (stepsOf r).foldl (fun t n => t.bringUpStep r n) s

section
variable {Q : State → Prop}

/-- A step that is reached brings about what the others keep. -/
theorem broughtUp_brings (hk : 1 ≤ k ∧ k ≤ 9) (hr : reaches r k) (hset : ∀ s : State, Q (s.bringUpStep r k))
    (hkeep : ∀ (s : State) n, n ≠ k → Q s → Q (s.bringUpStep r n)) (s : State) : Q (s.broughtUp r) :=
  foldl_brings Q _ (mem_stepsOf.2 ⟨hk, hr⟩) hset (fun s n h => by
    by_cases hn : n = k
    · rw [hn]
      exact hset s
    · exact hkeep s n hn h) s

end

/-- Settles O39: each step of bring-up that is reached leaves what it sets, and the others leave it alone. -/
theorem bringUp : Obligations.BringUp := by
  unfold Obligations.BringUp
  intro s r hheld hrst hnot
  let fails (t : State) : State := match r.failedStep with
    | none => t
    | some f => if 1 ≤ f ∧ f ≤ 9 then t.onPkg (fun p => { p with bringUp := .failed f }) else t
  have hexec : exec (.bringUp r) s = .next (fails (s.tick.broughtUp r)) := by
    have hcond : (s.pkg.heldInReset || s.pkg.rstAsserted || s.pkg.bringUp != .notRun) = false := by
      rw [hheld, hrst, hnot]
      rfl
    show execBringUp r s = _
    unfold execBringUp
    rw [hcond]
    rfl
  have hfails : ∀ t : State, fails t = { t with pkg := { t.pkg with bringUp := (fails t).pkg.bringUp } } := by
    intro t
    simp only [fails]
    split
    · rfl
    · split <;> rfl
  let v := s.tick.broughtUp r
  have hpkg : (fails v).pkg = { v.pkg with bringUp := (fails v).pkg.bringUp } := congrArg State.pkg (hfails v)
  have hclock : ¬reaches r 3 → v.pkg.pllLocked = s.pkg.pllLocked := fun hr =>
    foldl_keeps (fun t : State => t.pkg.pllLocked) _ _ (fun t m hm =>
      (bringUpStep_keeps t r m).clock (fun he => hr (he ▸ (mem_stepsOf.1 hm).2))) s.tick
  have hlink : ¬reaches r 7 → v.host.cxlUp = s.host.cxlUp := fun hr =>
    foldl_keeps (fun t : State => t.host.cxlUp) _ _ (fun t m hm =>
      congrArg HostSide.cxlUp ((bringUpStep_keeps t r m).host (fun he => hr (he ▸ (mem_stepsOf.1 hm).2)))) s.tick
  refine ⟨_, hexec, ?done, ?failed, ?hash, ?clock, ?noClock, ?mapped, ?unusable, ?fenced, ?link, ?noLink, ?bytes, ?groups⟩
  case done =>
    intro hnone
    have hall : stepsOf r = [1, 2, 3, 4, 5, 6, 7, 8, 9] := by
      unfold stepsOf
      rw [hnone]
      rfl
    simp only [fails, hnone]
    unfold State.broughtUp
    rw [hall]
    rfl
  case failed =>
    intro f hf h1 h9
    simp only [fails, hf]
    rw [if_pos ⟨h1, h9⟩]
    rfl
  case hash =>
    intro hr
    rw [hpkg]
    exact broughtUp_brings (Q := fun t => t.pkg.firmwareHash = r.firmwareHash) (by decide) hr (fun _ => rfl)
      (fun t m hm hq => ((bringUpStep_keeps t r m).hash hm).trans hq) s.tick
  case clock =>
    intro hr
    rw [hpkg]
    exact broughtUp_brings (Q := fun t => t.pkg.pllLocked = true ∧ t.pkg.frame = 0) (by decide) hr (fun _ => ⟨rfl, rfl⟩)
      (fun t m hm hq => ⟨((bringUpStep_keeps t r m).clock hm).trans hq.1, ((bringUpStep_keeps t r m).frame hm).trans hq.2⟩) s.tick
  case noClock =>
    intro hr
    rw [hpkg]
    exact hclock hr
  case mapped =>
    intro hr
    rw [hpkg]
    refine broughtUp_brings (Q := fun t => ∀ c, c ∈ t.pkg.mappedOut ↔ c ∈ r.untrained ∧ c < Config.channels) (by decide) hr
      (fun t c => ?_) (fun t m hm hq => ?_) s.tick
    · refine (mem_insertAll c _ _).trans ?_
      rw [List.mem_filter, decide_eq_true_eq, or_iff_left List.not_mem_nil]
    · intro c
      rw [(bringUpStep_keeps t r m).mapped hm]
      exact hq c
  case unusable =>
    intro hr
    rw [hfails]
    refine broughtUp_brings (Q := fun t => ∀ c ∈ r.untrained, c < Config.channels → ∀ j ∈ channelCodes c, j ∈ t.garnet.unusable)
      (by decide) hr (fun t c hc hlt j hj => ?_) (fun t m hm hq => ?_) s.tick
    · exact (mem_insertAll j _ _).2 (.inl (List.mem_flatMap.2 ⟨c, List.mem_filter.2 ⟨hc, decide_eq_true hlt⟩, hj⟩))
    · intro c hc hlt j hj
      rw [(bringUpStep_keeps t r m).garnet hm]
      exact hq c hc hlt j hj
  case fenced =>
    intro hr c m n hf hc hm hn
    rw [hfails]
    refine broughtUp_brings (Q := fun t => 4 * m + n ∈ (t.core c).fenced) (by decide) hr (fun t => ?_) (fun t j hj hq => ?_) s.tick
    · have hbad : (c, m, n) ∈ failingOf r := List.mem_filter.2 ⟨hf, by simp [hc, hm, hn]⟩
      refine foldl_brings (fun t : State => 4 * m + n ∈ (t.core c).fenced) fenceOne hbad (fun u => ?_) (fun u f hu => fenceOne_keeps f c _ hu) _
      show 4 * m + n ∈ ((u.onCore c _).core c).fenced
      rw [State.core_onCore, if_pos rfl]
      exact (mem_insertSorted _ _ _).2 (.inl rfl)
    · rw [State.core_congr ((bringUpStep_keeps t r j).cores hj)]
      exact hq
  case link =>
    intro hr
    rw [hfails]
    refine broughtUp_brings (Q := fun t => t.host.cxlUp = true ∧ t.host.vfsVisible = true) (by decide) hr (fun _ => ⟨rfl, rfl⟩)
      (fun t m hm hq => ?_) s.tick
    rw [(bringUpStep_keeps t r m).host hm]
    exact hq
  case noLink =>
    intro hr
    rw [hfails]
    exact hlink hr
  case bytes =>
    rw [hfails]
    exact foldl_keeps (fun t : State => t.mem.bytes) _ _ (fun t m _ => (bringUpStep_keeps t r m).bytes) s.tick
  case groups =>
    rw [hfails]
    exact foldl_keeps (fun t : State => t.groups) _ _ (fun t m _ => (bringUpStep_keeps t r m).groups) s.tick

/-! ### A frame (01 R14; 05 R139, R148) -/

/-- What a frame leaves of a group (05 R139, R148, R149). -/
theorem ageGroup_rest (s : State) (g : Group) :
    s.ageGroup g = { g with ctl := (s.ageGroup g).ctl, age := (s.ageGroup g).age, waitCycles := (s.ageGroup g).waitCycles
                            counters := (s.ageGroup g).counters } ∧
      (s.ageGroup g).ctl = { g.ctl with wdCount := if s.watched g then g.ctl.wdCount + 1000#64 else g.ctl.wdCount } := by
  have hwatch : (if s.watched g then g.onCtl (fun c => { c with wdCount := c.wdCount + 1000#64 }) else g) =
      g.onCtl (fun c => { c with wdCount := if s.watched g then c.wdCount + 1000#64 else c.wdCount }) := by
    cases s.watched g <;> rfl
  unfold State.ageGroup
  simp only [hwatch]
  split
  · exact ⟨rfl, rfl⟩
  · split <;> exact ⟨rfl, rfl⟩

/-- A group of a state in which every group has changed but not its number. -/
theorem find?_map_gid (f : Group → Group) (hf : ∀ g, (f g).gid = g.gid) (l : List Group) (n : Nat) :
    (l.map f).find? (fun g => g.gid == n) = (l.find? (fun g => g.gid == n)).map f := by
  rw [List.find?_map]
  simp only [Function.comp_def, hf]

/-- Settles O40. -/
theorem frameTick : Obligations.FrameTick := by
  unfold Obligations.FrameTick
  intro s hlock hoff hturn
  have hexec : exec .frameTick s = .next s.tick.passFrame := by
    show execFrameTick s = _
    unfold execFrameTick
    simp only [hlock, hturn, if_true, show s.tick.passFrame.pkg.powerOffBy = none from hoff]
    rfl
  refine ⟨_, hexec, rfl, rfl, rfl, rfl, rfl, fun n g hg => ?_⟩
  obtain ⟨hrest, hctl⟩ := ageGroup_rest s.tick g
  refine ⟨s.tick.ageGroup g, ?_, hrest, hctl⟩
  have hgid : ∀ g, (s.tick.ageGroup g).gid = g.gid := fun g => by rw [(ageGroup_rest s.tick g).1]
  exact (find?_map_gid _ hgid _ n).trans (congrArg (Option.map _) hg)

end Sys2Proof.Machine
end

section
/-!
SUPPORT. Resets, partitions and the firewall (01 R15, Table 1.3; 03 R66, R67, R93; O41).
-/
namespace Sys2Proof.Machine

variable {s t u w : State} {g h : Group} {n p : Nat}

/-! ### What an installation that is freed leaves (04 R101) -/

/-- Freeing an installation loses no byte of HBM, and leaves the package and the dump as they are. -/
theorem freeInstall_rest (s : State) (i : Installation) : (s.freeInstall i).mem.bytes = s.mem.bytes ∧
    (s.freeInstall i).pkg = s.pkg ∧ (s.freeInstall i).host.dump = s.host.dump :=
  ⟨foldl_keeps DeviceMem.bytes (fun m p => m.soil [p] (p / 32)) _ (fun _ _ _ => rfl) s.mem, rfl, rfl⟩

/-- Destroying keys loses no byte of HBM. -/
theorem destroyKeys_bytes (ks : List Nat) (m : DeviceMem) : (ks.foldl DeviceMem.destroyKey m).bytes = m.bytes :=
  foldl_keeps DeviceMem.bytes DeviceMem.destroyKey ks (fun _ _ _ => rfl) m

/-! ### Killing the groups of a die (01 Table 1.3) -/

/-- Of a run of kills, every group killed has retired, and so has every one that had before. -/
theorem killAll_retires (ms : List Nat) (hn : (s.groups.map (fun k => k.gid)).Nodup) (hg : s.group? n = some g)
    (hm : n ∈ ms ∨ g.gstate = .retired) : ∃ h, (ms.foldl State.killGroup s).group? n = some h ∧ h.gstate = .retired := by
  induction ms generalizing s g with
  | nil => exact ⟨g, hg, hm.resolve_left List.not_mem_nil⟩
  | cons m ms ih =>
    have stays : StaysRetired s (s.killGroup m) := settle_stays s _ _
    have hn' : ((s.killGroup m).groups.map (fun k => k.gid)).Nodup := by
      rw [stays.1]
      exact hn
    rw [List.foldl_cons]
    by_cases hr : g.gstate = .retired
    · obtain ⟨k, hk, hkr, -⟩ := stays.2 hn n g hg hr
      exact ih hn' hk (.inr hkr)
    · rcases List.mem_cons.1 (hm.resolve_right hr) with rfl | hin
      · obtain ⟨k, hk, hkr, -⟩ := killGroup_retires hn hg hr
        exact ih hn' hk (.inr hkr)
      · obtain ⟨k, hk⟩ := group_of_stays stays hn hg
        exact ih hn' hk (.inl hin)

/-- Withdrawing collectives changes no group, core or transfer. -/
theorem withdrawAll_rest (is : List Installation) (scopes : List Nat) (gone : Nat → Bool) (u : State) :
    (is.foldl (fun v i => v.withdrawCollectives i.handle scopes gone) u).groups = u.groups ∧
      (is.foldl (fun v i => v.withdrawCollectives i.handle scopes gone) u).cores = u.cores ∧
      (is.foldl (fun v i => v.withdrawCollectives i.handle scopes gone) u).transfers = u.transfers := by
  have keeps {γ : Type} (F : State → γ) (hF : ∀ (v : State) (i : Installation), F (v.withdrawCollectives i.handle scopes gone) = F v) :=
    foldl_keeps F (fun (v : State) (i : Installation) => v.withdrawCollectives i.handle scopes gone) is (fun v i _ => hF v i) u
  exact ⟨keeps State.groups (fun v i => State.onInst_groups ..), keeps State.cores (fun v i => State.onInst_cores ..),
    keeps State.transfers (fun v i => State.onInst_transfers ..)⟩

/-- A core that its die's warm reset has cleared. -/
def Core.cleared (k : Core) : Prop := k.mantle = [] ∧ k.acc = [] ∧ k.tileOwner = [] ∧ k.stream = [] ∧ k.obrecs = []

/-- A warm reset of a die kills the groups there, and clears its cores and transfers. -/
theorem dieWarmReset_eq (hdie : s.turn.x < 8) : ∃ t u : State, exec .dieWarmReset s = .next t ∧
    u = ((s.groups.filter (fun g => dieOfCore g.core == s.turn.x)).map (fun g => g.gid)).foldl State.killGroup s.tick ∧
    t.groups = u.groups ∧ t.transfers = u.transfers.filter (fun x => dieOfCore x.core != s.turn.x) ∧
    t.cores = Sparse.mapAll {} u.cores (fun c k =>
      if dieOfCore c == s.turn.x then { k.afterReset with spadUnits := k.spadUnits } else k) := by
  have hexec : exec .dieWarmReset s = execDieWarmReset s := rfl
  rw [hexec]
  unfold execDieWarmReset
  simp only
  rw [if_neg (Nat.not_le.2 hdie)]
  obtain ⟨hgroups, hcores, htransfers⟩ := withdrawAll_rest _ [0, 1] (· == s.turn.x) _
  exact ⟨_, _, rfl, rfl, hgroups, htransfers, hcores⟩

theorem dieWarmReset_spec (hdie : s.turn.x < 8) (hn : (s.groups.map (fun k => k.gid)).Nodup) :
    ∃ t, exec .dieWarmReset s = .next t ∧
      (∀ n g, s.group? n = some g → dieOfCore g.core = s.turn.x → ∃ h, t.group? n = some h ∧ h.gstate = .retired) ∧
      (∀ c, dieOfCore c = s.turn.x → (t.core c).mantle = [] ∧ (t.core c).acc = [] ∧ (t.core c).tileOwner = [] ∧ (t.core c).stream = [] ∧
        (t.core c).obrecs = [] ∧ ∀ x ∈ t.transfers, x.core ≠ c) := by
  obtain ⟨t, u, hexec, hu, hgroups, htransfers, hcores⟩ := dieWarmReset_eq hdie
  refine ⟨t, hexec, fun n g hg hc => ?_, fun c hc => ?_⟩
  · rw [State.group?_congr hgroups, hu]
    refine killAll_retires (s := s.tick) _ hn hg (.inl ?_)
    rw [← State.group?_gid hg]
    exact List.mem_map_of_mem (List.mem_filter.2 ⟨List.mem_of_find?_eq_some hg, beq_iff_eq.2 hc⟩)
  · have hcleared : (t.core c).cleared := by
      unfold State.core
      rw [hcores]
      refine Sparse.get_mapAll (P := Core.cleared) _ ⟨rfl, rfl, rfl, rfl, rfl⟩ (fun k => ?_)
      rw [if_pos (beq_iff_eq.2 hc)]
      exact ⟨rfl, rfl, rfl, rfl, rfl⟩
    obtain ⟨h1, h2, h3, h4, h5⟩ := hcleared
    refine ⟨h1, h2, h3, h4, h5, fun x hx he => ?_⟩
    rw [htransfers] at hx
    have := (List.mem_filter.1 hx).2
    rw [he, hc] at this
    exact absurd this (by simp)

/-! ### Partitions (03 R66, R93) -/

/-- A reset partition has no installation, and its cores are cleared. -/
theorem resetPartition_spec (s : State) (p : Nat) : (∀ i ∈ s.installs, i.part = p → (s.resetPartition p).inst? i.handle = none) ∧
    ∀ c, dieOfCore c ∈ (s.part p).dies → ((s.resetPartition p).core c).mantle = [] ∧ ((s.resetPartition p).core c).acc = [] ∧
      ((s.resetPartition p).core c).stream = [] ∧ ((s.resetPartition p).core c).spadUnits = [] := by
  let gated := (s.tenantsOf p).foldl (fun t v => t.onFn v (fun f => { f with vfctl := f.vfctl ||| 0x8000#32 })) s
  have hgated : gated.installs = s.installs :=
    foldl_keeps State.installs (fun t v => t.onFn v (fun f => { f with vfctl := f.vfctl ||| 0x8000#32 })) _ (fun _ _ _ => rfl) s
  refine ⟨fun i hi hp => ?_, fun c hc => ?_⟩
  · exact removeAll_gone gated (gone := fun i => i.part == p) (by rw [hgated]; exact hi) (beq_iff_eq.2 hp)
  · refine Sparse.get_mapAll (d := ({} : Core)) (P := fun k => k.mantle = [] ∧ k.acc = [] ∧ k.stream = [] ∧ k.spadUnits = [])
      ((gated.removeAll (fun i => i.part == p)).cores) (f := fun c k => if (s.part p).dies.contains (dieOfCore c) then k.afterReset else k)
      ⟨rfl, rfl, rfl, rfl⟩ (fun k => ?_)
    rw [if_pos (List.contains_iff_mem.2 hc)]
    exact ⟨rfl, rfl, rfl, rfl⟩

/-- A write of PARTCFG over the link. -/
theorem partcfg_exec (hup : s.host.cxlUp = true) (hp : p < 8) (value : Word) :
    exec (.partcfgWrite p value) s = .next (s.tick.partcfgWrite p value) :=
  if_pos (by rw [show s.pfOpen = true from hup, decide_eq_true hp]; rfl)

/-- A write of PARTCFG that is not rejected is stored. -/
theorem partcfgWrite_stored {value : Word} (hup : s.pkg.bringUp = .done) (hok : s.partcfgRejects p value = false) :
    ((s.partcfgWrite p value).part p).cfg = value := by
  unfold State.partcfgWrite
  rw [if_neg (by rw [hup]; decide), if_neg (by rw [hok]; exact Bool.false_ne_true)]
  have stored (w : State) (f : Partition → Nat) : ((w.onPart p (fun q => { q with cfg := value, since := f q })).part p).cfg = value := by
    rw [State.part_onPart_self]
  simp only
  split
  · exact stored _ _
  · exact stored _ _

/-- Settles O41. That a host reset drops launches and groups, that a die's warm reset retires its groups, and which dies PARTCFG withholds
are the model's readings (logs 46, 47, 49). -/
theorem resetsAndPartitions : Obligations.ResetsAndPartitions := by
  unfold Obligations.ResetsAndPartitions
  refine ⟨fun s => ⟨?hostReset, dieWarmReset_spec⟩, fun s p hup hp => ⟨?rejected, ?stored, ?reset, ?firewall⟩⟩
  case hostReset =>
    have freed {γ : Type} (F : State → γ) (hF : ∀ (v : State) (i : Installation), F (v.freeInstall i) = F v) :
        F (s.installs.foldl State.freeInstall s) = F s := foldl_keeps F State.freeInstall s.installs (fun v i _ => hF v i) s
    have hbytes := freed (fun t => t.mem.bytes) (fun v i => (freeInstall_rest v i).1)
    have hpkg := freed State.pkg (fun v i => (freeInstall_rest v i).2.1)
    have hdump := freed (fun t => t.host.dump) (fun v i => (freeInstall_rest v i).2.2)
    have hexec : exec .hostReset s = execHostReset s := rfl
    rw [hexec]
    unfold execHostReset
    simp only
    generalize (List.range 256).map (· + 1) = keys
    exact ⟨_, rfl, rfl, rfl, rfl, rfl, rfl, (destroyKeys_bytes keys _).trans hbytes, hdump, congrArg Package.fencing hpkg,
      congrArg Package.mappedOut hpkg⟩
  case rejected =>
    intro value hdone hrej
    refine ⟨_, s.tick.logEntry 0x32 0 p value.toNat 0, partcfg_exec hup hp value, ?_⟩
    have hev : s.tick.partcfgWrite p value = s.tick.event 0 0x32 0 p value.toNat 0 := by
      unfold State.partcfgWrite
      rw [if_neg (show ¬((s.tick.pkg.bringUp != .done) = true) by rw [show s.tick.pkg.bringUp = .done from hdone]; decide),
        if_pos (show s.tick.partcfgRejects p value = true from hrej)]
    rw [hev]
    exact ⟨State.event_parts .., State.event_log .., rfl, State.event_groups .., State.event_installs ..⟩
  case stored => exact fun value hdone hok => ⟨_, partcfg_exec hup hp value, partcfgWrite_stored (s := s.tick) hdone hok⟩
  case reset =>
    intro value hreset hpart hzero
    let u := s.tick.onHost (fun h => { h with partCmd := value &&& 7#32 })
    have hexec : exec (.partitionReset value) s = .next (u.resetPartition p) := by
      show (if s.pfOpen && wbit value 31 then Host.Outcome.next (s.tick.partcmdWrite value) else .next s) = _
      rw [show s.pfOpen = true from hup, hreset]
      unfold State.partcmdWrite
      rw [hpart, hzero, hreset]
      rfl
    exact ⟨_, hexec, resetPartition_spec u p⟩
  case firewall =>
    intro source target g hsource htarget hclosed hg hdie hlive
    have hbusy : s.groups.any (fun g => dieOfCore g.core == source && g.gstate != .retired) = true :=
      List.any_eq_true.2 ⟨g, hg, by simp [hdie, hlive]⟩
    have hcond : ¬(8 ≤ source ∨ 8 ≤ target ∨ s.crossing source target = true ∨ (!s.groups.any (fun g => dieOfCore g.core == source &&
        g.gstate != .retired)) = true) := by
      rw [hclosed, hbusy]
      simp only [Bool.not_true, Bool.false_eq_true, or_false]
      omega
    let v : State := match s.crossingRequest source target with
      | none => s
      | some k => { s with dropped := s.dropped ++ [k] }
    have hv : v.mem = s.mem ∧ v.groups = s.groups ∧ v.host = s.host := by
      simp only [v]
      split <;> exact ⟨rfl, rfl, rfl⟩
    let n := Sparse.get 0 s.host.fwDrop source + 1
    let u := v.onHost (fun h => { h with fwDrop := Sparse.set 0 h.fwDrop source n })
    have hexec : exec (.firewallDrop source target) s = .next (u.event 0 0x33 0 source n 0) := by
      show execFirewallDrop source target s = _
      unfold execFirewallDrop
      exact if_neg hcond
    have hdrop : (u.event 0 0x33 0 source n 0).host.fwDrop = Sparse.set 0 v.host.fwDrop source n := by
      rw [State.event_rest]
      rfl
    refine ⟨_, u.logEntry 0x33 0 source n 0, hexec, ?_, ?_, rfl, ?_, ?_⟩
    · rw [hdrop]
      exact Sparse.get_set_self ..
    · rw [State.event_log]
      rw [show u.host.eventLog = s.host.eventLog from (congrArg HostSide.eventLog hv.2.2 : v.host.eventLog = _)]
    · rw [State.event_mem]
      exact hv.1
    · rw [State.event_groups]
      exact hv.2.1

end Sys2Proof.Machine
end

section
/-!
SUPPORT. Launch queues and launches (03 R59 to R65; 05 R130, R133; O43).
-/
namespace Sys2Proof.Machine

variable {s t u : State} {vf q : Nat}

/-! ### The write of LQCFG that sets EN (03 R60, Table 3.4) -/

/-- ERR set in a stored LQCFG leaves EN and SIZELOG. -/
theorem wbit_orErr (cfg : Word) (err : Bool) : wbit (cfg ||| if err then 0x40000000#32 else 0#32) 31 = wbit cfg 31 := by
  unfold wbit
  rw [BitVec.getLsbD_or]
  cases err <;> simp

theorem wbits_orErr (cfg : Word) (err : Bool) : wbits (cfg ||| if err then 0x40000000#32 else 0#32) 23 20 = wbits cfg 23 20 := by
  have hbit : ∀ i, i < 4 → (if err then 0x40000000#32 else 0#32 : Word).getLsbD (20 + i) = false := by
    intro i hi
    cases err with
    | false => exact BitVec.getLsbD_zero
    | true =>
      have : ∀ k : Fin 4, (0x40000000#32 : Word).getLsbD (20 + k.val) = false := by decide
      exact this ⟨i, hi⟩
  apply Nat.eq_of_testBit_eq
  intro i
  rw [testBit_wbits, testBit_wbits]
  by_cases hi : i < 4
  · unfold wbit
    rw [BitVec.getLsbD_or, hbit i hi, Bool.or_false]
  · rw [decide_eq_false (by omega), Bool.false_and, Bool.false_and]

/-- Setting EN of a queue takes its head from the tail line. -/
theorem lqcfgWrite_enables {value : Word} (hoff : (s.queueOf vf q).enabled = false) (hen : wbit value 31 = true)
    (hz29 : wbits value 29 24 = 0) (hz19 : wbits value 19 16 = 0) (hz7 : wbits value 7 0 = 0) (hsize : 4 ≤ wbits value 23 20) :
    ∃ err : Bool, (s.lqcfgWrite vf q value).queueOf vf q = { s.queueOf vf q with
      cfg := clearedCfg value (wbits value 23 20) ||| if err then 0x40000000#32 else 0#32
      head := s.tailWord vf q, tail := s.tailWord vf q, held := true } := by
  have hok : (wbits value 29 24 != 0 || wbits value 19 16 != 0 || wbits value 7 0 != 0 ||
      (wbit value 31 && decide (wbits value 23 20 < 4))) = false := by
    rw [hz29, hz19, hz7, decide_eq_false (Nat.not_lt.2 hsize), Bool.and_false]
    rfl
  refine ⟨(s.queueOf vf q).err && !wbit value 30, ?_⟩
  unfold State.lqcfgWrite
  rw [hen] at hok
  simp only [hoff, Bool.false_eq_true, if_false, hen, hok, Bool.not_false, Bool.and_self, if_true]
  rw [State.queueOf_onLq_self, State.queueOf_onLq_self]
  rfl

/-! ### Tail lines (03 R60) -/

/-- A write of these bytes touches the tail line of a queue. -/
def LaunchQueue.touched (addr len : Nat) (l : LaunchQueue) : Bool := overlaps l.tailLine (l.tailLine + 128) addr (addr + len)

/-- What a write of these bytes makes of a queue: its tail line is given up if it was touched. -/
def LaunchQueue.snooped (addr len : Nat) (l : LaunchQueue) : LaunchQueue := if l.touched addr len then { l with held := false } else l

/-- A queue does not hold a tail line that a write of these bytes touched. -/
def LaunchQueue.Released (addr len : Nat) (l : LaunchQueue) : Prop := l.touched addr len = true → l.held = false

theorem snooped_released (addr len : Nat) (l : LaunchQueue) : (l.snooped addr len).Released addr len := by
  unfold LaunchQueue.snooped
  split
  · exact fun _ => rfl
  · next h => exact fun h' => absurd h' h

/-- What a write of these bytes makes of a function's queues. -/
def Fn.snooped (addr len : Nat) (f : Fn) : Fn := { f with queues := Sparse.mapAll {} f.queues (fun _ l => l.snooped addr len) }

theorem fn_snooped_released (addr len q : Nat) (f : Fn) : (Sparse.get {} (f.snooped addr len).queues q).Released addr len :=
  Sparse.get_mapAll (f := fun _ l => l.snooped addr len) f.queues (fun _ => rfl) (snooped_released addr len)

theorem exec_tailSnoop (addr : Nat) (bytes : List Byte) : exec (.tailSnoop addr bytes) s = .next (s.onHost (fun h => { h with
    mem := Memory.writeBytes h.mem addr bytes, fns := Sparse.mapAll {} h.fns (fun _ f => f.snooped addr bytes.length) })) := rfl

/-- Behind a write of host memory no queue holds a tail line that it touched. -/
theorem tailSnoop_releases (addr : Nat) (bytes : List Byte) : ∃ t, exec (.tailSnoop addr bytes) s = .next t ∧
    t.host.mem = Memory.writeBytes s.host.mem addr bytes ∧ ∀ vf q,
      overlaps (t.queueOf vf q).tailLine ((t.queueOf vf q).tailLine + 128) addr (addr + bytes.length) = true →
        (t.queueOf vf q).held = false := by
  have hempty : ∀ q, (Sparse.get {} ({} : Fn).queues q).Released addr bytes.length := fun q => by
    intro h
    rfl
  have hfn : ∀ vf q, (Sparse.get {} (Sparse.get {} (Sparse.mapAll {} s.host.fns (fun _ f => f.snooped addr bytes.length)) vf).queues
      q).Released addr bytes.length := by
    intro vf q
    apply Sparse.get_mapAll (d := ({} : Fn)) (P := fun f : Fn => (Sparse.get {} f.queues q).Released addr bytes.length)
    · exact hempty q
    · exact (fn_snooped_released addr bytes.length q)
  exact ⟨_, exec_tailSnoop addr bytes, rfl, fun vf q => hfn vf q⟩

/-! ### Packets (03 R63 to R65; 05 R130) -/

/-- The state in which the launch unit has taken the packet at the head of a host queue. -/
def State.takenFrom (s : State) (vf q : Nat) : State := (s.tick.onLq vf q (fun l => { l with head := l.head + 1 })).turnAfter vf q

theorem takenFrom_queueOf : (s.takenFrom vf q).queueOf vf q = { s.queueOf vf q with head := (s.queueOf vf q).head + 1 } := by
  have hturn : (s.takenFrom vf q).queueOf vf q = (s.tick.onLq vf q (fun l => { l with head := l.head + 1 })).queueOf vf q := by
    unfold State.takenFrom State.turnAfter State.queueOf
    exact congrArg (fun f : Fn => Sparse.get {} f.queues q) (State.fn_onFn_self _ vf (fun f => { f with nextQueue := (q + 1) % 9 }))
  exact hturn.trans (State.queueOf_onLq_self s.tick vf q _)

/-- A packet of a host queue whose turn it is, over a link that stands. -/
theorem exec_packetStart (hq : q < 8) (hs : s.served vf q = true) : exec (.launchPacketStart (.host vf q) true) s =
    .next ((s.takenFrom vf q).takePacket vf q (s.queueOf vf q).head.toNat (s.hostPacket vf q) none) := by
  rw [exec_launchPacketStart]
  unfold execLaunchPacketStart
  simp only [hs]
  rw [if_neg (by simp [Nat.not_le.2 hq])]
  rfl

/-- A packet that passes its checks starts a launch, numbered on from the kernel's earlier ones. -/
theorem startLaunch_spec (i : Installation) (p : Packet) (index : Nat) : ∃ l, (s.startLaunch vf q index i p none).launches = s.launches ++ [l] ∧
    l.handle = i.handle ∧ l.wgCount = p.field 16 4 ∧ l.ctxBase = p.field 8 8 ∧ l.started = [] ∧ l.retired = [] ∧ l.complete = false ∧
    (∀ k, i.kernel? l.kernel = some k → l.first = k.seqNext) ∧
    (s.startLaunch vf q index i p none).queueOf vf q = s.queueOf vf q := by
  unfold State.startLaunch
  simp only
  refine ⟨_, congrArg (· ++ _) (State.onInst_launches ..), rfl, rfl, rfl, rfl, rfl, rfl, fun k hk => ?_, ?_⟩
  · have hk' : i.kernel? (p.field 1 1) = some k := hk
    simp only [hk']
  · exact congrArg (fun h : HostSide => Sparse.get {} (Sparse.get {} h.fns vf).queues q) (State.onInst_host ..)

/-- A packet that is turned away writes its record, and starts nothing. -/
theorem rejectPacket_spec (p : Packet) (status : Nat) (ha : p.field 24 8 ≠ 0) :
    (s.rejectPacket vf q p none status).launches = s.launches ∧
      (s.rejectPacket vf q p none status).host.mem =
        Memory.writeBytes s.host.mem (p.field 24 8) (completionBytes (BitVec.ofNat 64 (p.field 32 8)) status 0) ∧
      (s.rejectPacket vf q p none status).queueOf vf q = s.queueOf vf q := by
  unfold State.rejectPacket State.hostRecord
  simp only
  rw [if_neg ha]
  split <;> exact ⟨rfl, rfl, rfl⟩

/-! ### The end of a launch (03 R64; 05 R133) -/

/-- A launch that has ended writes its record and raises its vector if its packet asked for it. -/
theorem launchComplete_spec {l : Launch} (hl : s.launch? s.turn.x = some l) (hover : s.launchOver l = true) (hp : l.pusher = none)
    (ha : l.compAddr ≠ 0#64) : ∃ t, exec .launchComplete s = .next t ∧ t.launch? s.turn.x = some { l with complete := true } ∧
      t.host.mem = Memory.writeBytes s.host.mem l.compAddr.toNat (completionBytes l.compVal l.status l.retired.length) ∧
      t.host.vectors = s.host.vectors ++ (if l.flags % 2 = 1 then [(l.fn, (s.queueOf l.fn l.queue).vector)] else []) := by
  have haddr : l.compAddr.toNat ≠ 0 := fun h => ha (BitVec.eq_of_toNat_eq h)
  have hid : l.id = s.turn.x := by simpa using List.find?_some hl
  let ended : State := s.tick.putLaunch { l with complete := true }
  let bytes := completionBytes l.compVal l.status l.retired.length
  let u := ended.hostRecord l.compAddr.toNat bytes
  have hu : u = ended.onHost (fun h => { h with mem := Memory.writeBytes h.mem l.compAddr.toNat bytes }) := if_neg haddr
  have hexec : exec .launchComplete s =
      .next (if l.flags % 2 == 1 then u.raiseVector l.fn (s.queueOf l.fn l.queue).vector else u) := by
    show execLaunchComplete s = _
    unfold execLaunchComplete
    simp only [hl]
    rw [if_neg (by rw [hover]; decide)]
    split
    · next p hp' => exact absurd (hp.symm.trans hp') nofun
    · rfl
  have hlaunch : ended.launch? s.turn.x = some { l with complete := true } := State.launch?_putLaunch s.tick _ hl hid
  refine ⟨_, hexec, ?_, ?_, ?_⟩
  · rw [hu]
    split <;> exact hlaunch
  · rw [hu]
    split <;> rfl
  · rw [hu]
    by_cases hf : l.flags % 2 = 1
    · rw [if_pos (beq_iff_eq.2 hf), if_pos hf]
      rfl
    · rw [if_neg (by simpa using hf), if_neg hf]
      exact (List.append_nil _).symm

/-- Settles O43. That a record is written at COMPADDR as given is the model's choice (log 58). -/
theorem launches : Obligations.Launches := by
  unfold Obligations.Launches
  refine fun s => ⟨?enable, fun addr bytes => tailSnoop_releases addr bytes, fun vf q i hq hs => ⟨?start, ?reject⟩,
    fun l hl hover hp ha => launchComplete_spec hl hover hp ha⟩
  case enable =>
    intro vf q value hopen hoff hen hz29 hz19 hz7 hsize
    have hexec : exec (.lqEnable vf q value) s = .next (s.lqcfgWrite vf q value) :=
      if_pos (by rw [hopen, hoff, hen]; rfl)
    obtain ⟨err, hqueue⟩ := lqcfgWrite_enables hoff hen hz29 hz19 hz7 hsize
    have hlt := sizelog_lt value
    refine ⟨_, hexec, ?_, ?_, ?_, ?_⟩
    · rw [hqueue]
      exact (wbit_orErr _ err).trans ((clearedCfg_enabled value hlt).trans hen)
    · rw [hqueue]
      rfl
    · rw [hqueue]
      rfl
    · rw [hqueue]
      exact congrArg (2 ^ ·) ((wbits_orErr _ err).trans (clearedCfg_size value hlt))
  case start =>
    intro hinst hfits hlost hfound
    have htake : (s.takenFrom vf q).takePacket vf q (s.queueOf vf q).head.toNat (s.hostPacket vf q) none =
        (s.takenFrom vf q).startLaunch vf q (s.queueOf vf q).head.toNat i (s.hostPacket vf q) none := by
      have hinst' : (s.takenFrom vf q).packetInst vf none (s.hostPacket vf q) = some i := hinst
      unfold State.takePacket
      simp only [hinst', hfits, hlost]
      rfl
    obtain ⟨l, hlaunches, h1, h2, h3, h4, h5, h6, h7, hqueue⟩ :=
      startLaunch_spec (s := s.takenFrom vf q) (vf := vf) (q := q) i (s.hostPacket vf q) (s.queueOf vf q).head.toNat
    refine ⟨_, l, (exec_packetStart hq hs).trans (congrArg _ htake), hlaunches, h1, h2, h3, h4, h5, h6, h7, ?_⟩
    rw [hqueue, takenFrom_queueOf]
  case reject =>
    intro hinst ha
    have htake : (s.takenFrom vf q).takePacket vf q (s.queueOf vf q).head.toNat (s.hostPacket vf q) none =
        (s.takenFrom vf q).rejectPacket vf q (s.hostPacket vf q) none 4 := by
      have hinst' : (s.takenFrom vf q).packetInst vf none (s.hostPacket vf q) = none := hinst
      unfold State.takePacket
      simp only [hinst']
    obtain ⟨hlaunches, hmem, hqueue⟩ := rejectPacket_spec (s := s.takenFrom vf q) (vf := vf) (q := q) (s.hostPacket vf q) 4 ha
    refine ⟨_, (exec_packetStart hq hs).trans (congrArg _ htake), hlaunches, hmem, ?_⟩
    rw [hqueue, takenFrom_queueOf]

end Sys2Proof.Machine
end

section
/-!
SUPPORT. Tenants: the writes of VFCTL and the end of a swap-out (03 R56, R58, R68 to R70, Table 3.7; O44).
-/
namespace Sys2Proof.Machine

variable {s t u : State} {g : Group} {vf : Nat} {value : Word}

/-! ### The stored bits of VFCTL -/

theorem wbit_vfctlStored (value : Word) {n : Nat} (h : (0xFFFF9FFF#32 : Word).getLsbD n = true) : wbit (vfctlStored value) n = wbit value n := by
  unfold wbit vfctlStored
  rw [BitVec.getLsbD_and, h, Bool.and_true]

theorem wbits_vfctlStored (value : Word) : wbits (vfctlStored value) 23 16 = wbits value 23 16 := by
  have hmask : ∀ k : Fin 8, (0xFFFF9FFF#32 : Word).getLsbD (16 + k.val) = true := by decide
  apply Nat.eq_of_testBit_eq
  intro i
  rw [testBit_wbits, testBit_wbits]
  by_cases hi : i < 8
  · exact congrArg (_ && ·) (wbit_vfctlStored value (hmask ⟨i, hi⟩))
  · rw [decide_eq_false (by omega), Bool.false_and, Bool.false_and]

/-! ### What a change of seats leaves (05 R140, 06 R179) -/

/-- Only groups, and what their cores hold, differ. -/
def GroupsAndCores (s t : State) : Prop := t = { s with groups := t.groups, cores := t.cores }

theorem GroupsAndCores.refl (s : State) : GroupsAndCores s s := rfl

theorem GroupsAndCores.trans (h : GroupsAndCores s t) (h' : GroupsAndCores t u) : GroupsAndCores s u :=
  (show u = { t with groups := u.groups, cores := u.cores } from h').trans
    (congrArg (fun v : State => { v with groups := u.groups, cores := u.cores }) h)

/-- What of the state is neither a group nor a core's stays. -/
theorem GroupsAndCores.keeps {γ : Type} (h : GroupsAndCores s t) (F : State → γ)
    (hF : ∀ gs cs, F { s with groups := gs, cores := cs } = F s) : F t = F s := (congrArg F h).trans (hF _ _)

theorem enterOldest_side (s : State) (c r : Nat) : GroupsAndCores s (s.enterOldest c r) := by
  have henter (g : Group) : GroupsAndCores s (s.enterHandler g) := by
    unfold State.enterHandler
    split <;> rfl
  unfold State.enterOldest
  split
  · rfl
  · split
    · rfl
    · exact henter _

theorem leaveSeat_side (s : State) (g : Group) : GroupsAndCores s (s.leaveSeat g) := by
  have hrail : GroupsAndCores s (s.leaveRail g) := by
    unfold State.leaveRail
    split <;> rfl
  have hwindow (v : State) : GroupsAndCores v (v.freeWindow g) := by
    unfold State.freeWindow
    split <;> rfl
  exact (hrail.trans (hwindow _)).trans rfl

theorem unseat_side (s : State) (g : Group) : GroupsAndCores s (s.unseat g) := by
  unfold State.unseat
  simp only
  have hpair : GroupsAndCores s (match (s.leaveSeat g).partner g with
      | none => s.leaveSeat g
      | some h => if h.gstate = .seated then (s.leaveSeat g).leaveSeat h else s.leaveSeat g) := by
    refine (leaveSeat_side s g).trans ?_
    split
    · rfl
    · split
      · exact leaveSeat_side _ _
      · rfl
  split
  · exact hpair
  · exact hpair.trans (enterOldest_side _ _ _)

theorem unseatTenant_side (s : State) (vf : Nat) : GroupsAndCores s (s.unseatTenant vf) := by
  unfold State.unseatTenant
  generalize (s.groups.filter (fun g => g.fn == vf && g.gstate == .seated)).map (fun g => g.gid) = gids
  induction gids generalizing s with
  | nil => rfl
  | cons n ns ih =>
    rw [List.foldl_cons]
    refine GroupsAndCores.trans ?_ (ih _)
    split
    · rfl
    · split
      · exact unseat_side _ _
      · rfl

/-! ### VFCTL (03 R58, R68) -/

/-- A write of VFCTL that is taken and keeps the function enabled, or finds it disabled, is stored; banks that are cleared start the
swap-out (03 R70). -/
theorem vfctlWrite_stored (hide : s.host.ide = true) (hok : s.vfctlRejects vf value = false)
    (hen : ((s.fn vf).enabled && !wbit value 31) = false)
    (hbanks : ((s.fn vf).enabled && (s.fn vf).banks != 0 && wbits value 23 16 == 0) = false) :
    s.vfctlWrite vf value = s.onFn vf (fun f => { f with vfctl := vfctlStored value }) := by
  unfold State.vfctlWrite
  simp only
  rw [if_neg (by rw [hide]; simp), if_neg (by rw [hok]; exact Bool.false_ne_true), if_neg (by
    rw [show ({ s.fn vf with vfctl := value } : Fn).enabled = wbit value 31 from rfl, hen]; exact Bool.false_ne_true), if_neg (by
    rw [show ({ s.fn vf with vfctl := value } : Fn).banks = wbits value 23 16 from rfl, hbanks]; exact Bool.false_ne_true)]

/-- What a stored write of VFCTL leaves. -/
theorem stored_rest (s : State) (vf : Nat) (value : Word) :
    (s.onFn vf (fun f => { f with vfctl := vfctlStored value })).fn vf = { s.fn vf with vfctl := vfctlStored value } ∧
      (s.onFn vf (fun f => { f with vfctl := vfctlStored value })).groups = s.groups ∧
      (s.onFn vf (fun f => { f with vfctl := vfctlStored value })).mem = s.mem := ⟨State.fn_onFn_self .., rfl, rfl⟩

/-- Clearing the banks of a resident tenant starts its swap-out. -/
theorem vfctlWrite_leaving (hide : s.host.ide = true) (hok : s.vfctlRejects vf value = false) (hen : (s.fn vf).enabled = true)
    (hstay : wbit value 31 = true) (hres : (s.fn vf).banks ≠ 0) (hclear : wbits value 23 16 = 0) :
    ((s.vfctlWrite vf value).fn vf).banks = 0 ∧ ((s.vfctlWrite vf value).fn vf).leaving = (s.fn vf).banks ∧
      (s.vfctlWrite vf value).installs = s.installs := by
  have hwrite : s.vfctlWrite vf value = ((s.onFn vf (fun f => { f with vfctl := vfctlStored value })).onFn vf
      (fun g => { g with leaving := (s.fn vf).banks })).unseatTenant vf := by
    unfold State.vfctlWrite
    simp only
    rw [if_neg (by rw [hide]; simp), if_neg (by rw [hok]; exact Bool.false_ne_true), if_neg (by
      rw [show ({ s.fn vf with vfctl := value } : Fn).enabled = wbit value 31 from rfl, hstay]; simp), if_pos (by
      rw [show ({ s.fn vf with vfctl := value } : Fn).banks = wbits value 23 16 from rfl, hclear, hen]; simpa using hres)]
  have hside := unseatTenant_side ((s.onFn vf (fun f => { f with vfctl := vfctlStored value })).onFn vf
    (fun g => { g with leaving := (s.fn vf).banks })) vf
  rw [← hwrite] at hside
  have hfn : (s.vfctlWrite vf value).fn vf = { s.fn vf with vfctl := vfctlStored value, leaving := (s.fn vf).banks } := by
    refine (hside.keeps (fun v => v.fn vf) (fun _ _ => rfl)).trans ((State.fn_onFn_self _ _ _).trans ?_)
    rw [State.fn_onFn_self]
  refine ⟨?_, ?_, hside.keeps State.installs (fun _ _ => rfl)⟩
  · rw [hfn]
    exact (wbits_vfctlStored value).trans hclear
  · rw [hfn]

/-- Clearing EN removes the function's installations and destroys its key (03 R58). -/
theorem vfctlWrite_disables (hok : s.vfctlRejects vf value = false) (hen : (s.fn vf).enabled = true) (hoff : wbit value 31 = false) :
    ((s.vfctlWrite vf value).fn vf).enabled = false ∧ vf ∉ (s.vfctlWrite vf value).mem.keyLive ∧
      ∀ i ∈ s.installs, i.fn = vf → (s.vfctlWrite vf value).inst? i.handle = none := by
  have hwrite : s.vfctlWrite vf value = (s.disableFn vf).onFn vf (fun f => { f with vfctl := vfctlStored value }) := by
    unfold State.vfctlWrite
    simp only
    rw [if_neg (by rw [show ({ s.fn vf with vfctl := value } : Fn).enabled = wbit value 31 from rfl, hoff]; simp),
      if_neg (by rw [hok]; exact Bool.false_ne_true),
      if_pos (by rw [show ({ s.fn vf with vfctl := value } : Fn).enabled = wbit value 31 from rfl, hoff, hen]; rfl)]
  rw [hwrite]
  refine ⟨?_, ?_, fun i hi hf => ?_⟩
  · rw [State.fn_onFn_self]
    exact (wbit_vfctlStored value (by decide)).trans hoff
  · intro hin
    have : vf ∈ (s.removeAll (fun i => i.fn == vf)).mem.keyLive.filter (· != vf) := hin
    exact absurd (List.mem_filter.1 this).2 (by simp)
  · exact removeAll_gone s (gone := fun i => i.fn == vf) hi (beq_iff_eq.2 hf)

/-! ### The end of a swap-out (03 R70) -/

/-- With no dirty line of a tenant in a core, its write-back finds nothing to do. -/
theorem swapCore_clean (c : Nat)
    (hclean : ∀ m g, m ∈ (s.core c).mantle → s.group? m.gid = some g → g.fn = vf → m.dirty = false) : s.swapCore vf c = (s, true) := by
  unfold State.swapCore
  generalize hms : (s.core c).mantle = ms at hclean
  clear hms
  induction ms with
  | nil => rfl
  | cons m ms ih =>
    rw [List.foldl_cons]
    refine Eq.trans (congrArg (fun a => List.foldl _ a ms) ?_) (ih (fun n g hn => hclean n g (List.mem_cons_of_mem _ hn)))
    split
    · rfl
    · next g hg =>
      refine if_pos ?_
      by_cases hf : g.fn = vf
      · rw [hclean m g List.mem_cons_self hg hf]
        simp
      · simp [bne_iff_ne.2 hf]

/-- With no dirty line of a tenant left, it is queued, and no core holds a line of its groups. -/
theorem swapOut_ends (hleaving : (s.fn vf).leaving ≠ 0) (hvf : s.turn.x = vf)
    (hclean : ∀ c m g, m ∈ (s.core c).mantle → s.group? m.gid = some g → g.fn = vf → m.dirty = false) :
    exec .swapOutComplete s = .next ((s.tick.dropTenantLines vf).onFn vf (fun f => { f with leaving := 0 })) := by
  have hcores : ∀ cs : List Nat, cs.foldl (fun (acc : State × Bool) c =>
      let q := acc.1.swapCore vf c
      (q.1, acc.2 && q.2)) (s.tick, true) = (s.tick, true) := by
    intro cs
    induction cs with
    | nil => rfl
    | cons c cs ih =>
      rw [List.foldl_cons]
      simp only
      rw [swapCore_clean (s := s.tick) c (hclean c)]
      exact ih
  show execSwapOutComplete s = _
  unfold execSwapOutComplete
  simp only
  rw [hvf, if_neg (by simpa using hleaving), hcores]
  rfl

/-- Behind it no Mantle holds a line of the tenant's groups. -/
theorem dropTenantLines_gone (s : State) (vf c : Nat) : ∀ m g, m ∈ ((s.dropTenantLines vf).core c).mantle → s.group? m.gid = some g →
    g.fn ≠ vf := by
  let mine := (s.groups.filter (fun g => g.fn == vf)).map (fun g => g.gid)
  have hcore : ∀ m ∈ ((s.dropTenantLines vf).core c).mantle, m.gid ∉ mine :=
    Sparse.get_mapAll (d := ({} : Core)) (P := fun k => ∀ m ∈ k.mantle, m.gid ∉ mine) s.cores
      (f := fun _ k => { k with mantle := k.mantle.filter (fun m => !mine.contains m.gid) }) (fun _ hm => absurd hm List.not_mem_nil)
      (fun k m hm => by simpa using (List.mem_filter.1 hm).2)
  intro m g hm hg hf
  refine hcore m hm ?_
  rw [← State.group?_gid hg]
  exact List.mem_map_of_mem (List.mem_filter.2 ⟨List.mem_of_find?_eq_some hg, beq_iff_eq.2 hf⟩)

/-- Settles O44. The transitions that Table 3.7 lacks are rejected by the model's choice (log 48). -/
theorem tenants : Obligations.Tenants := by
  unfold Obligations.Tenants
  intro s vf value hopen
  refine ⟨?closed, ?rejected, ?enabled, fun hen hstay hide hok => ⟨?gateSet, ?gateClear, ?banksSet, ?banksClear⟩, ?disabled, ?swapped⟩
  case closed =>
    intro hen hset hide
    refine (if_pos (by rw [hopen, hen, hset]; rfl)).trans (congrArg Host.Outcome.next ?_)
    exact if_pos (by rw [show ({ s.fn vf with vfctl := value } : Fn).enabled = wbit value 31 from rfl, hset, hide]; rfl)
  case rejected =>
    intro hen hset hide hrej
    have hexec : exec (.vfEnable vf value) s = .next (s.event 0 0x31 vf vf value.toNat 0) := by
      refine (if_pos (by rw [hopen, hen, hset]; rfl)).trans (congrArg Host.Outcome.next ?_)
      exact (if_neg (by rw [hide]; simp)).trans (if_pos hrej)
    refine ⟨_, _, hexec, ?_, State.event_log .., rfl, rfl, State.event_groups ..⟩
    exact (congrArg Fn.vfctl (State.event_fn s 0 0x31 vf vf value.toNat 0 vf)).trans rfl
  case enabled =>
    intro hen hset hide hok
    have hexec : exec (.vfEnable vf value) s = .next (s.onFn vf (fun f => { f with vfctl := vfctlStored value })) := by
      refine (if_pos (by rw [hopen, hen, hset]; rfl)).trans (congrArg Host.Outcome.next ?_)
      exact vfctlWrite_stored hide hok (by rw [hen]; rfl) (by rw [hen]; rfl)
    refine ⟨_, hexec, stored_rest s vf value, ?_⟩
    rw [State.fn_onFn_self]
    exact (wbit_vfctlStored value (by decide)).trans hset
  case gateSet =>
    intro hgate hset hbanks
    have hexec : exec (.vfGateSet vf value) s = .next (s.onFn vf (fun f => { f with vfctl := vfctlStored value })) := by
      refine (if_pos (by rw [hopen, hgate, hset]; rfl)).trans (congrArg Host.Outcome.next ?_)
      exact vfctlWrite_stored hide hok (by rw [hen, hstay]; rfl) (by rcases hbanks with h | h <;> simp [h])
    refine ⟨_, hexec, stored_rest s vf value, fun g hg => ?_⟩
    have : ((s.onFn vf (fun f => { f with vfctl := vfctlStored value })).fn g.fn).gate = true := by
      rw [hg, State.fn_onFn_self]
      exact (wbit_vfctlStored value (by decide)).trans hset
    exact (congrArg (· || _) this).trans (Bool.true_or _)
  case gateClear =>
    intro hgate hclear hbanks
    have hexec : exec (.vfGateClear vf value) s = .next (s.onFn vf (fun f => { f with vfctl := vfctlStored value })) := by
      refine (if_pos (by rw [hopen, hgate, hclear]; rfl)).trans (congrArg Host.Outcome.next ?_)
      exact vfctlWrite_stored hide hok (by rw [hen, hstay]; rfl) (by rcases hbanks with h | h <;> simp [h])
    refine ⟨_, hexec, stored_rest s vf value, ?_⟩
    rw [State.fn_onFn_self]
    exact (wbit_vfctlStored value (by decide)).trans hclear
  case banksSet =>
    intro hnone hset
    have hexec : exec (.vfBanksSet vf value) s = .next (s.onFn vf (fun f => { f with vfctl := vfctlStored value })) := by
      refine (if_pos (by rw [hopen, hnone]; simpa using hset)).trans (congrArg Host.Outcome.next ?_)
      exact vfctlWrite_stored hide hok (by rw [hen, hstay]; rfl) (by simp [hnone])
    have hbanks : ((s.onFn vf (fun f => { f with vfctl := vfctlStored value })).fn vf).banks ≠ 0 := by
      rw [State.fn_onFn_self]
      exact fun h => hset ((wbits_vfctlStored value).symm.trans h)
    refine ⟨_, hexec, stored_rest s vf value, hbanks, fun g hg => ?_⟩
    rw [← hg] at hbanks ⊢
    exact (congrArg (_ || ·) (bne_iff_ne.2 hbanks)).trans (Bool.or_true _)
  case banksClear =>
    intro hres hclear
    have hexec : exec (.vfBanksClear vf value) s = .next (s.tick.vfctlWrite vf value) :=
      if_pos (by rw [hopen, hclear]; simpa using hres)
    exact ⟨_, hexec, vfctlWrite_leaving (s := s.tick) hide hok hen hstay hres hclear⟩
  case disabled =>
    intro hen hoff hok
    have hexec : exec (.vfDisable vf value) s = .next (s.tick.vfctlWrite vf value) :=
      if_pos (by rw [hopen, hen, hoff]; rfl)
    exact ⟨_, hexec, vfctlWrite_disables (s := s.tick) hok hen hoff⟩
  case swapped =>
    intro hvf hleaving hclean
    refine ⟨_, swapOut_ends hleaving hvf hclean, ?_, rfl, rfl, fun c m g hm hg => dropTenantLines_gone s.tick vf c m g hm hg⟩
    rw [State.fn_onFn_self]

end Sys2Proof.Machine
end

section
/-!
SUPPORT. Device memory: binding, scrubbing, poison, LINEFILL and pools (03 R73 to R80, R90 to R92; O45).
-/
namespace Sys2Proof.Machine

variable {s t : State} {region key vf : Nat}

/-! ### REGBIND (03 R90, Table 3.13) -/

theorem bindStatus_lt (s : State) (region key : Nat) : s.bindStatus region key < 8 := by
  unfold State.bindStatus
  simp only
  split
  · decide
  · split
    · decide
    · split
      · decide
      · split <;> decide

/-- Pages that are soiled are unscrubbed, and their region is queued. -/
theorem soil_spec (m : DeviceMem) (pages : List Nat) (region : Nat) : (∀ p ∈ pages, p ∈ (m.soil pages region).unscrubbed) ∧
    region ∈ (m.soil pages region).toScrub := by
  refine ⟨fun p hp => (mem_insertAll p _ _).2 (.inl hp), ?_⟩
  unfold DeviceMem.soil
  simp only
  split
  · next h => exact List.contains_iff_mem.1 h
  · exact List.mem_append_right _ List.mem_cons_self

theorem soil_rest (m : DeviceMem) (pages : List Nat) (region : Nat) : (m.soil pages region).regionKey = m.regionKey ∧
    (m.soil pages region).bytes = m.bytes := ⟨rfl, rfl⟩

/-- A bind gives the region its key, changes no byte, and soils the region. -/
theorem bind_soils (m : DeviceMem) (region key : Nat) : ∃ n : DeviceMem, m.bind region key = n.soil (pagesOfRegion region) region ∧
    Sparse.get 0 n.regionKey region = key ∧ n.bytes = m.bytes := by
  have hdestroy (p : Prop) [Decidable p] (n : DeviceMem) (k : Nat) : (if p then n.destroyKey k else n).regionKey = n.regionKey ∧
      (if p then n.destroyKey k else n).bytes = n.bytes := by
    split <;> exact ⟨rfl, rfl⟩
  unfold DeviceMem.bind
  refine ⟨_, rfl, ?_, ?_⟩
  · rw [(hdestroy _ _ _).1]
    exact Sparse.get_set_self ..
  · rw [(hdestroy _ _ _).2]
    simp only
    split <;> rfl

/-- A region that is bound belongs to its key and is unscrubbed; no byte changes. -/
theorem bind_spec (m : DeviceMem) (region key : Nat) : Sparse.get 0 (m.bind region key).regionKey region = key ∧
    (∀ p ∈ pagesOfRegion region, p ∈ (m.bind region key).unscrubbed) ∧ region ∈ (m.bind region key).toScrub ∧
    (m.bind region key).bytes = m.bytes := by
  obtain ⟨n, hbind, hkey, hbytes⟩ := bind_soils m region key
  obtain ⟨hpages, hqueued⟩ := soil_spec n (pagesOfRegion region) region
  obtain ⟨hsame, hkept⟩ := soil_rest n (pagesOfRegion region) region
  rw [hbind, hsame, hkept]
  exact ⟨hkey, hpages, hqueued, hbytes⟩

/-- What REGBIND reads in its low bits behind a bind is the status. -/
theorem regBind_status (value : Word64) {status : Nat} (h : status < 8) :
    wbits ((value &&& 0xFFFFFFFFFFFFF000#64) ||| BitVec.ofNat 64 status) 2 0 = status := by
  have hmask : ∀ i : Fin 3, (0xFFFFFFFFFFFFF000#64 : Word64).getLsbD i.val = false := by decide
  have hstatus : ∀ n : Fin 8, wbits (BitVec.ofNat 64 n.val) 2 0 = n.val := by decide
  refine Eq.trans ?_ (hstatus ⟨status, h⟩)
  apply Nat.eq_of_testBit_eq
  intro i
  rw [testBit_wbits, testBit_wbits]
  by_cases hi : i < 3
  · have hbit : ((value &&& 0xFFFFFFFFFFFFF000#64) ||| BitVec.ofNat 64 status).getLsbD (0 + i) =
        (BitVec.ofNat 64 status).getLsbD (0 + i) := by
      rw [BitVec.getLsbD_or, BitVec.getLsbD_and, Nat.zero_add, hmask ⟨i, hi⟩, Bool.and_false, Bool.false_or]
    exact congrArg (_ && ·) hbit
  · rw [decide_eq_false (by omega), Bool.false_and, Bool.false_and]

/-- A write of REGBIND over the link. -/
theorem exec_regbindBind {value : Word64} (hup : s.host.cxlUp = true) (hgo : wbit value 3 = true) (hz : wbits value 11 4 = 0) :
    exec (.regbindBind value) s = .next (
      let status := s.bindStatus (wbits value 63 21) (wbits value 20 12)
      let t := s.onHost (fun h => { h with regBind := (value &&& 0xFFFFFFFFFFFFF000#64) ||| BitVec.ofNat 64 status })
      if status = 0 then t.onMem (fun m => m.bind (wbits value 63 21) (wbits value 20 12)) else t) := by
  refine (if_pos (by rw [show s.pfOpen = true from hup, hgo]; rfl)).trans (congrArg Host.Outcome.next ?_)
  unfold State.regbindWrite
  rw [if_neg (by rw [hz]; decide)]
  simp only
  rw [if_neg (by rw [hgo]; decide)]

/-! ### The scrubber (03 R75, R76) -/

/-- A region that is scrubbed has no unscrubbed page, and what was unscrubbed of it reads 0. -/
theorem scrub_spec (m : DeviceMem) (region : Nat) : (∀ p ∈ pagesOfRegion region, p ∉ (m.scrub region).unscrubbed ∧
    (p ∈ m.unscrubbed → ∀ a, a / Config.pageBytes = p → Memory.read (m.scrub region).bytes a = 0#8)) ∧
    region ∉ (m.scrub region).toScrub := by
  unfold DeviceMem.scrub
  simp only
  have hmem : ∀ p ∈ pagesOfRegion region, p ∈ m.unscrubbed → p ∈ (pagesOfRegion region).filter (fun p =>
      !(decide (region < m.bootSwept) || m.early.contains region) || m.unscrubbed.contains p) := fun p hp hu =>
    List.mem_filter.2 ⟨hp, by rw [List.contains_iff_mem.2 hu, Bool.or_true]⟩
  refine ⟨fun p hp => ⟨fun hin => ?_, fun hu a ha => ?_⟩, fun hin => ?_⟩
  · obtain ⟨hu, hnot⟩ := (DeviceMem.zeroPages_unscrubbed _ m p).1 hin
    exact hnot (hmem p hp hu)
  · exact DeviceMem.zeroPages_read _ m a (ha ▸ hmem p hp hu)
  · exact absurd (List.mem_filter.1 hin).2 (by simp)

/-- Scrubbing leaves the keys of the regions. -/
theorem scrub_regionKey (m : DeviceMem) (region : Nat) : (m.scrub region).regionKey = m.regionKey :=
  foldl_keeps DeviceMem.regionKey DeviceMem.zeroPage _ (fun _ _ _ => rfl) m

/-! ### Poisoned lines (03 R78 to R80) -/

/-- A key of a virtual function. -/
def ownKey (key : Nat) : Bool := decide (1 ≤ key) && decide (key ≤ 256)

/-- The state behind the detection of a line that is poisoned: the line is, the host hears of it, and so does the key's function. -/
def State.detected (s : State) (line : Nat) : State :=
  let key := s.mem.keyOf line
  let u := (s.tick.onMem (fun m => { m with poison := insertSorted line m.poison })).event 0 0x37 (if ownKey key then key else 0) line key 0
  if ownKey key then u.event key 0x37 key (((s.fn key).offsetOf line).getD (Config.unlistedOffset s.freeCtr)) key 0 else u

theorem detected_rest (s : State) (line : Nat) : line ∈ (s.detected line).mem.poison ∧ (s.detected line).mem.bytes = s.mem.bytes ∧
    (s.detected line).groups = s.groups := by
  have hmem : (s.detected line).mem = { s.mem with poison := insertSorted line s.mem.poison } := by
    unfold State.detected
    simp only
    split
    · rw [State.event_mem, State.event_mem]
      rfl
    · rw [State.event_mem]
      rfl
  refine ⟨?_, (congrArg DeviceMem.bytes hmem).trans rfl, ?_⟩
  · rw [hmem]
    exact (mem_insertSorted _ _ _).2 (.inl rfl)
  · unfold State.detected
    simp only
    split
    · rw [State.event_groups, State.event_groups]
      rfl
    · rw [State.event_groups]
      rfl

/-- A poisoned line raises one event, or two when a function owns its key (03 R79, R80). -/
theorem detected_events (s : State) (line : Nat) : ∃ es, (s.detected line).host.eventLog = s.host.eventLog ++ es ∧
    es.length = (if 1 ≤ s.mem.keyOf line ∧ s.mem.keyOf line ≤ 256 then 2 else 1) ∧ ∀ e ∈ es, e.code = 0x37 := by
  unfold State.detected
  simp only
  by_cases hown : ownKey (s.mem.keyOf line) = true
  · have hrange : 1 ≤ s.mem.keyOf line ∧ s.mem.keyOf line ≤ 256 := by simpa [ownKey] using hown
    rw [if_pos hown, if_pos hrange, State.event_log, State.event_log]
    refine ⟨[_, _], List.append_assoc .., rfl, fun e he => ?_⟩
    rcases List.mem_cons.1 he with rfl | he
    · rfl
    · rw [List.mem_singleton.1 he]
      rfl
  · have hrange : ¬(1 ≤ s.mem.keyOf line ∧ s.mem.keyOf line ≤ 256) := by simpa [ownKey] using hown
    rw [if_neg hown, if_neg hrange, State.event_log]
    refine ⟨[_], rfl, rfl, fun e he => ?_⟩
    rw [List.mem_singleton.1 he]
    rfl

/-! ### LINEFILL (03 R92) -/

/-- LFCMD reads the status of a LINEFILL in its top bits. -/
theorem lfCmd_status {status : Nat} (h : status < 4) : wbits (BitVec.ofNat 32 (status * 2 ^ 28)) 31 28 = status := by
  have : ∀ n : Fin 4, wbits (BitVec.ofNat 32 (n.val * 2 ^ 28)) 31 28 = n.val := by decide
  exact this ⟨status, h⟩

theorem linefillStatus_lt (s : State) : s.linefillStatus < 4 := by
  unfold State.linefillStatus
  simp only
  split
  · decide
  · split
    · decide
    · split <;> decide

/-- A write of LFCMD over the link. -/
theorem exec_linefill {value : Word} (hup : s.host.cxlUp = true) (hgo : wbit value 31 = true) (hz : wbits value 27 0 = 0) :
    exec (.linefill value) s = .next (
      let t := s.tick.onHost (fun h => { h with lfCmd := BitVec.ofNat 32 (s.linefillStatus * 2 ^ 28) })
      if s.linefillStatus = 0 then
        (t.writeHome (.virt 0#32) s.host.lfAddr.toNat 128 (2 ^ 1024 - 1) (natOfBytes (s.host.lfData.take 128))).1 else t) := by
  refine (if_pos (by rw [show s.pfOpen = true from hup, hgo]; rfl)).trans (congrArg Host.Outcome.next ?_)
  unfold State.lfcmdWrite
  rw [if_neg (by rw [hz, hgo]; decide)]
  rfl

/-- A write of a whole line puts its bytes in place and clears its poison (03 R80). -/
theorem writeHome_line (s : State) (h : Word) {a bits : Nat} {bs : List Byte} (ha : a % 128 = 0) (hlen : bs.length = 128)
    (hbits : bits = 2 ^ 1024 - 1) : (∀ i, i < 128 →
      Memory.read (s.writeHome (.virt h) a 128 bits (natOfBytes bs)).1.mem.bytes (a + i) = bs.getD i 0#8) ∧
      a ∉ (s.writeHome (.virt h) a 128 bits (natOfBytes bs)).1.mem.poison := by
  have hline : a / 128 * 128 = a := Nat.div_mul_cancel (Nat.dvd_of_mod_eq_zero ha)
  have hall : (2 : Nat) ^ 1024 = 256 ^ 128 := by rw [show 1024 = 8 * 128 from rfl, Nat.pow_mul]
  have hwhole : s.writeHome (.virt h) a 128 bits (natOfBytes bs) = ((s.touchL2 a).onMem (fun m => { m with
      bytes := Memory.writeBits m.bytes a bits (natOfBytes bs) 128, poison := m.poison.filter (· != a / 128 * 128) }), true) := by
    have hkept : (s.mem.poisoned a && !(128 == 128 && bits == 2 ^ 1024 - 1)) = false := by
      rw [beq_iff_eq.2 hbits, Bool.and_true, beq_self_eq_true, Bool.not_true, Bool.and_false]
    unfold State.writeHome
    generalize (2 : Nat) ^ 1024 - 1 = whole at hkept
    simp only
    exact if_neg (fun h => absurd (hkept.symm.trans h) Bool.false_ne_true)
  rw [hwhole]
  refine ⟨fun i hi => ?_, fun hin => ?_⟩
  · have hi' : i < bs.length := Nat.lt_of_lt_of_eq hi hlen.symm
    have hget : bs.getD i 0#8 = bs[i] := by
      rw [List.getD_eq_getElem?_getD, List.getElem?_eq_getElem hi']
      rfl
    rw [hget, ← natOfBytes_byte bs i hi']
    simp only [State.onMem]
    rw [hbits, hall]
    exact Memory.read_writeBits_whole _ a _ 128 i hi
  · have : a ∈ (s.touchL2 a).mem.poison.filter (· != a / 128 * 128) := hin
    rw [hline] at this
    exact absurd (List.mem_filter.1 this).2 (by simp)

/-! ### Pools (03 R91) -/

/-- The pool that a list is read into: no region twice, and each one bound to the function's key. -/
def State.goodPool (s : State) (v : Nat) (rs : List Nat) : Prop := rs.Nodup ∧ ∀ r ∈ rs, Sparse.get 0 s.mem.regionKey r = v

theorem goodPool_congr {v : Nat} {rs : List Nat} (h : t.mem.regionKey = s.mem.regionKey) (hgood : t.goodPool v rs) : s.goodPool v rs := by
  unfold State.goodPool at hgood ⊢
  rw [← h]
  exact hgood

theorem readPool_good {v : Nat} (ns : List Nat) {s : State} {got : List Nat} (h : s.goodPool v got) :
    s.goodPool v (s.readPool v ns got).2 := by
  induction ns generalizing s got with
  | nil => exact h
  | cons n ns ih =>
    have hevent : ∀ d2, s.goodPool v ((s.event 0 0x3C v v n d2).readPool v ns got).2 := fun d2 => by
      have hmem : (s.event 0 0x3C v v n d2).mem = s.mem := State.event_mem ..
      have := ih (s := s.event 0 0x3C v v n d2) (got := got) (by
        unfold State.goodPool
        rw [hmem]
        exact h)
      unfold State.goodPool at this ⊢
      rw [hmem] at this
      exact this
    unfold State.readPool
    split
    · next r _ =>
      split
      · next htake =>
        obtain ⟨htakes, hnew⟩ := Bool.and_eq_true_iff.1 htake
        refine ih ⟨List.nodup_append.2 ⟨h.1, List.pairwise_singleton _ r, fun a ha b hb => ?_⟩, fun r' hr' => ?_⟩
        · rw [List.mem_singleton.1 hb]
          rintro rfl
          rw [List.contains_iff_mem.2 ha] at hnew
          exact absurd hnew (by decide)
        · rcases List.mem_append.1 hr' with hin | hin
          · exact h.2 r' hin
          · rw [List.mem_singleton.1 hin]
            have hkey := htakes
            unfold State.poolTakes at hkey
            simp only [Bool.and_eq_true] at hkey
            exact beq_iff_eq.1 hkey.1.1.1.2
      · exact hevent _
    · exact hevent _

/-- Waiting for regions to be scrubbed leaves their keys. -/
theorem awaitPhys_regionKey (s : State) (phys : Nat) : (s.awaitPhys phys).mem.regionKey = s.mem.regionKey := by
  unfold State.awaitPhys
  split
  · rfl
  · exact scrub_regionKey _ _

/-- Reads that each leave the regions' keys leave them together. -/
theorem awaitEach_regionKey (await : State → Nat → State) (h : ∀ s p, (await s p).mem.regionKey = s.mem.regionKey) (base size : Nat)
    (l : List Nat) (s : State) : (l.foldl (fun t k => await t (base + k * size)) s).mem.regionKey = s.mem.regionKey :=
  foldl_keeps (fun t : State => t.mem.regionKey) _ _ (fun t _ _ => h t _) s

theorem poolAwait_regionKey (s : State) (base n : Nat) :
    ((List.range ((base % Config.regionBytes + 8 * n + Config.regionBytes - 1) / Config.regionBytes)).foldl (fun t k =>
      t.awaitPhys (base + k * Config.regionBytes)) s).mem.regionKey = s.mem.regionKey :=
  awaitEach_regionKey State.awaitPhys awaitPhys_regionKey base Config.regionBytes _ s

/-- A write of POOLCOUNT stores the count and a good pool. -/
theorem poolcountWrite_good {value : Word} (v : Nat) (hz : wbits value 31 20 = 0) : ∃ r : State × List Nat, s.goodPool v r.2 ∧
    s.poolcountWrite v value = r.1.onFn v (fun f => { f with pool := r.2, poolCount := value }) := by
  unfold State.poolcountWrite
  rw [if_neg (by rw [hz]; decide)]
  have hkeys := poolAwait_regionKey s ((s.fn v).poolBase.toNat / 4096 * 4096) (wbits value 19 0)
  simp only
  generalize List.foldl _ s _ = s1 at hkeys ⊢
  have hgood := goodPool_congr hkeys (readPool_good (v := v) (List.range (wbits value 19 0)) ⟨List.nodup_nil, fun _ h => nomatch h⟩)
  generalize s1.readPool v _ [] = r at hgood ⊢
  exact ⟨r, hgood, rfl⟩

theorem exec_poolListRead {value : Word} (hup : s.host.cxlUp = true) (hvf : vf ≤ 256) :
    exec (.poolListRead vf value) s = .next (s.poolcountWrite vf value) :=
  if_pos (by rw [show s.pfOpen = true from hup, decide_eq_true hvf]; rfl)

/-- Settles O45. The order of the refusals of LINEFILL, and of those of REGBIND, is the model's (logs 51, 37). -/
theorem deviceMemory : Obligations.DeviceMemory := by
  unfold Obligations.DeviceMemory
  refine fun s => ⟨fun value hup hgo hz => ⟨?bound, ?refused⟩, ?scrubbed, ?poisoned, fun value hup hgo hz => ⟨?filled, ?kept⟩, ?pools⟩
  case bound =>
    intro hok
    obtain ⟨hkey, hpages, hqueued, hbytes⟩ := bind_spec s.mem (wbits value 63 21) (wbits value 20 12)
    have hexec := exec_regbindBind hup hgo hz
    simp only at hexec
    rw [if_pos hok] at hexec
    refine ⟨_, hexec, hkey, hpages, hqueued, hbytes, ?_⟩
    exact (regBind_status value (bindStatus_lt s _ _)).trans hok
  case refused =>
    intro hno
    have hexec := exec_regbindBind hup hgo hz
    simp only at hexec
    rw [if_neg hno] at hexec
    exact ⟨_, hexec, rfl, regBind_status value (bindStatus_lt s _ _)⟩
  case scrubbed =>
    intro r rest hruns hqueue
    have hnext : s.mem.scrubNext = s.mem.scrub r := by
      unfold DeviceMem.scrubNext
      rw [hqueue]
    obtain ⟨hpages, hgone⟩ := scrub_spec s.mem r
    refine ⟨s.onMem DeviceMem.scrubNext, if_pos hruns, ?_⟩
    have hmem : (s.onMem DeviceMem.scrubNext).mem = s.mem.scrub r := hnext
    rw [hmem]
    exact ⟨hpages, hgone⟩
  case poisoned =>
    intro addr haddr
    have hexec : exec (.poisonDetect addr) s = .next (s.detected (addr / 128 * 128)) := if_neg (Nat.not_le.2 haddr)
    obtain ⟨es, hlog, hlen, hcodes⟩ := detected_events s (addr / 128 * 128)
    obtain ⟨hpoison, hbytes, hgroups⟩ := detected_rest s (addr / 128 * 128)
    exact ⟨_, hexec, hpoison, hbytes, hgroups, es, hlog, hlen, hcodes⟩
  case filled =>
    intro hok hlen
    have halign : s.host.lfAddr.toNat % 128 = 0 := by
      refine Classical.byContradiction fun h => ?_
      have : s.linefillStatus = 3 := if_pos h
      omega
    have hexec := exec_linefill hup hgo hz
    simp only at hexec
    rw [if_pos hok, List.take_of_length_le (Nat.le_of_eq hlen)] at hexec
    obtain ⟨hbytes, hpoison⟩ := writeHome_line (s.tick.onHost (fun h => { h with lfCmd := BitVec.ofNat 32 (s.linefillStatus * 2 ^ 28) }))
      0#32 halign hlen rfl
    refine ⟨_, hexec, ?_, hbytes, hpoison, fun a ha => State.writeHome_out _ _ _ _ _ _ _ ha⟩
    rw [State.writeHome_rest]
    exact (lfCmd_status (linefillStatus_lt s)).trans hok
  case kept =>
    intro hno
    have hexec := exec_linefill hup hgo hz
    simp only at hexec
    rw [if_neg hno] at hexec
    exact ⟨_, hexec, rfl, lfCmd_status (linefillStatus_lt s)⟩
  case pools =>
    intro vf value hup hvf hz
    obtain ⟨r, hgood, hwrite⟩ := poolcountWrite_good (s := s) vf hz
    refine ⟨_, (exec_poolListRead hup hvf).trans (congrArg _ hwrite), ?_⟩
    rw [State.fn_onFn_self]
    exact ⟨rfl, hgood⟩

end Sys2Proof.Machine
end

section
/-!
SUPPORT. The requests of a DOE mailbox (03 R55, R82 to R84; O47).
-/
namespace Sys2Proof.Machine

variable {s t : State} {f : Nat}

/-- A request of a mailbox that answers is served. -/
theorem served_open (hopen : s.doeOpen f = true) {i : Instr} {serve : State → State} (h : exec i s = s.onRequest f serve) :
    exec i s = .next (serve s.tick) := h.trans (if_pos hopen)

/-- What a signature of the identity key leaves (03 R83): its index is recorded, or the request fails with error 5. -/
structure Signs (f : Nat) (s t : State) (a : SpdmAnswer) : Prop where
  answered : t.host.spdmOut = s.host.spdmOut ++ [(f, a)]
  counted : s.host.xmssNext < 2 ^ 20 → t.host.xmssNext = s.host.xmssNext + 1
  spent : 2 ^ 20 ≤ s.host.xmssNext → t.host.xmssNext = s.host.xmssNext ∧ a = .error 0x05
  kept : t.host.handshakes = s.host.handshakes

theorem sign_signs (s : State) (f : Nat) (answer : Nat → Word256 → SpdmAnswer) : ∃ a, Signs f s (s.sign f answer) a := by
  unfold State.sign
  simp only
  by_cases hspent : 2 ^ 20 ≤ s.host.xmssNext
  · rw [if_pos hspent]
    exact ⟨_, rfl, fun h => absurd h (Nat.not_lt.2 hspent), fun _ => ⟨rfl, rfl⟩, rfl⟩
  · rw [if_neg hspent]
    exact ⟨_, rfl, fun _ => rfl, fun h => absurd h hspent, rfl⟩

theorem challenge_signs (hopen : s.doeOpen f = true) : ∃ t a, exec (.spdmChallenge f) s = .next t ∧ Signs f s t a := by
  obtain ⟨a, hsigns⟩ := sign_signs s.tick f .signed
  exact ⟨_, a, served_open (serve := fun t => t.sign f .signed) hopen rfl, ⟨hsigns.answered, hsigns.counted, hsigns.spent, hsigns.kept⟩⟩

/-- What the device does at a KEY_EXCHANGE. -/
def State.exchangeKeys (s : State) (f : Nat) : State :=
  if 2 ^ 20 ≤ s.host.xmssNext then s.sign f .keyExchange
  else (s.onHost (fun h => { h with handshakes := insertSorted f h.handshakes })).sign f .keyExchange

/-- A key exchange is signed, and its handshake waits for FINISH. -/
theorem keyExchange_signs (hopen : s.doeOpen f = true) : ∃ t a, exec (.spdmKeyExchange f) s = .next t ∧
    t.host.spdmOut = s.host.spdmOut ++ [(f, a)] ∧ (s.host.xmssNext < 2 ^ 20 → t.host.xmssNext = s.host.xmssNext + 1) ∧
      (2 ^ 20 ≤ s.host.xmssNext → t.host.xmssNext = s.host.xmssNext ∧ a = .error 0x05) ∧
      (s.host.xmssNext < 2 ^ 20 → f ∈ t.host.handshakes) := by
  have hexec : exec (.spdmKeyExchange f) s = .next (s.tick.exchangeKeys f) :=
    served_open (serve := fun t => t.exchangeKeys f) hopen rfl
  by_cases hspent : 2 ^ 20 ≤ s.host.xmssNext
  · obtain ⟨a, hsigns⟩ := sign_signs s.tick f .keyExchange
    refine ⟨_, a, hexec.trans (congrArg _ (if_pos hspent)), hsigns.answered, hsigns.counted, hsigns.spent, ?_⟩
    exact fun h => absurd h (Nat.not_lt.2 hspent)
  · obtain ⟨a, hsigns⟩ := sign_signs (s.tick.onHost (fun h => { h with handshakes := insertSorted f h.handshakes })) f .keyExchange
    refine ⟨_, a, hexec.trans (congrArg _ (if_neg hspent)), hsigns.answered, hsigns.counted, hsigns.spent, ?_⟩
    rw [hsigns.kept]
    exact fun _ => (mem_insertSorted f f s.host.handshakes).2 (.inl rfl)

/-- Settles O47. The error codes are those of DSP0274 (log 54). -/
theorem deviceTrust : Obligations.DeviceTrust := by
  unfold Obligations.DeviceTrust
  intro s f hopen
  have answers {i : Instr} {a : SpdmAnswer} (h : exec i s = s.onRequest f (fun t => t.answer f a)) :
      exec i s = .next (s.tick.answer f a) := served_open hopen h
  refine ⟨answers rfl, answers rfl, answers rfl, ⟨s.freeCtr, answers rfl⟩, ⟨s.freeCtr, answers rfl⟩,
    served_open (serve := fun t => t.answer f (.measurements (t.measurements f))) hopen rfl, ?unsupported, ?signed, ?finish, ?early,
    ?update, ?ends, ?without, ?keys,
    ?establish, ?unkeyed⟩
  case unsupported =>
    intro code hcode
    refine (if_neg ?_).trans (if_pos hopen)
    rw [List.contains_iff_mem]
    exact hcode
  case signed =>
    rintro i (rfl | rfl)
    · obtain ⟨t, a, hexec, hsigns⟩ := challenge_signs hopen
      exact ⟨t, a, hexec, hsigns.answered, hsigns.counted, hsigns.spent, nofun⟩
    · obtain ⟨t, a, hexec, hanswer, hcount, hspent, hwaits⟩ := keyExchange_signs hopen
      exact ⟨t, a, hexec, hanswer, hcount, hspent, fun _ => hwaits⟩
  case finish =>
    intro hin
    refine ⟨(s.tick.onHost (fun h => { h with
      handshakes := h.handshakes.filter (· != f), sessions := insertSorted f h.sessions })).answer f .finished,
      (if_pos hopen).trans (congrArg Host.Outcome.next (if_pos (List.contains_iff_mem.2 hin))), ?_, ?_, rfl⟩
    · exact (mem_insertSorted f f s.host.sessions).2 (.inl rfl)
    · exact fun h => absurd (List.mem_filter.1 h).2 (by simp)
  case early =>
    intro hnot
    exact (if_pos hopen).trans (congrArg _ (if_neg (fun h => hnot (List.contains_iff_mem.1 h))))
  case update =>
    refine (if_pos hopen).trans (congrArg (fun a => Host.Outcome.next (s.tick.answer f a)) ?_)
    by_cases hin : f ∈ s.host.sessions
    · rw [if_pos hin]
      exact if_pos (List.contains_iff_mem.2 hin)
    · rw [if_neg hin]
      exact if_neg (fun h => hin (List.contains_iff_mem.1 h))
  case ends =>
    intro hin
    refine ⟨(s.tick.onHost (fun h => { h with sessions := h.sessions.filter (· != f) })).answer f .ended,
      (if_pos hopen).trans (congrArg Host.Outcome.next (if_pos (List.contains_iff_mem.2 hin))), ?_, rfl⟩
    exact fun h => absurd (List.mem_filter.1 h).2 (by simp)
  case without =>
    intro hnot
    have hno : s.host.sessions.contains f = false := by simpa using hnot
    refine ⟨(if_pos hopen).trans (congrArg _ (if_neg (fun h => hnot (List.contains_iff_mem.1 h)))), if_neg ?_⟩
    rw [hno, Bool.and_false]
    exact Bool.false_ne_true
  case keys =>
    intro hin
    exact if_pos (by rw [hopen, List.contains_iff_mem.2 hin]; rfl)
  case establish =>
    intro hup hkeys
    exact if_pos (by rw [hup, hkeys]; rfl)
  case unkeyed =>
    intro hkeys
    exact if_neg (by rw [hkeys, Bool.and_false]; exact Bool.false_ne_true)

end Sys2Proof.Machine
end

section
/-!
SUPPORT. Install and remove requests, and the withdrawal of a die (04 R98 to R101, R110, R111; 10 R283; O48).
-/
namespace Sys2Proof.Machine

variable {s t u : State} {v : Nat} {value h : Word} {i j : Installation}

/-! ### Steps that change device memory alone -/

/-- Only device memory differs. -/
def OnlyMem (s t : State) : Prop := t = { s with mem := t.mem }

theorem OnlyMem.refl (s : State) : OnlyMem s s := rfl

theorem OnlyMem.trans (h : OnlyMem s t) (h' : OnlyMem t u) : OnlyMem s u :=
  (show u = { t with mem := u.mem } from h').trans (congrArg (fun w : State => { w with mem := u.mem }) h)

/-- What of the state is not device memory stays. -/
theorem OnlyMem.keeps {γ : Type} (h : OnlyMem s t) (F : State → γ) (hF : ∀ m, F { s with mem := m } = F s) : F t = F s :=
  (congrArg F h).trans (hF _)

theorem awaitPhys_mem (s : State) (phys : Nat) : OnlyMem s (s.awaitPhys phys) := by
  unfold State.awaitPhys
  split <;> rfl

theorem awaitDev_mem (s : State) (v off n : Nat) : OnlyMem s (s.awaitDev v off n) := by
  unfold State.awaitDev
  generalize List.range _ = ks
  induction ks generalizing s with
  | nil => rfl
  | cons k ks ih =>
    rw [List.foldl_cons]
    refine OnlyMem.trans ?_ (ih _)
    split
    · rfl
    · exact awaitPhys_mem _ _

theorem writeDev_mem (v : Nat) (bs : List Byte) : ∀ (s : State) (off : Nat), OnlyMem s (s.writeDev v off bs) := by
  induction bs with
  | nil => exact fun s _ => OnlyMem.refl s
  | cons b bs ih =>
    intro s off
    unfold State.writeDev
    refine OnlyMem.trans ?_ (ih _ _)
    split <;> rfl

theorem awaitImage_mem (s : State) (v : Nat) : OnlyMem s (s.awaitImage v) := (awaitDev_mem ..).trans (awaitPhys_mem ..)

/-! ### INSTCMD (04 Table 4.2) -/

/-- INSTCMD behind the end of a request: BUSY clear, DONE set. -/
def instDone (cmd : Word) : Word := (cmd &&& 0xDFFFFFFF#32) ||| 0x10000000#32

theorem instDone_done (cmd : Word) : wbit (instDone cmd) 28 = true ∧ wbit (instDone cmd) 29 = false := by
  have hbits : (0xDFFFFFFF#32 : Word).getLsbD 29 = false ∧ (0x10000000#32 : Word).getLsbD 28 = true ∧
      (0x10000000#32 : Word).getLsbD 29 = false := by decide
  obtain ⟨h1, h2, h3⟩ := hbits
  unfold wbit instDone
  rw [BitVec.getLsbD_or, BitVec.getLsbD_or, BitVec.getLsbD_and, BitVec.getLsbD_and, h1, h2, h3, Bool.or_true, Bool.and_false]
  exact ⟨rfl, rfl⟩

/-- VECTOR is stored as it is written. -/
theorem instFields_vector (f : Fn) (value : Word) : wbits (f.instFields value).instCmd 27 24 = wbits value 27 24 := by
  have hbits : ∀ k : Fin 4, (0x20000000#32 : Word).getLsbD (24 + k.val) = false ∧ (0x0F000000#32 : Word).getLsbD (24 + k.val) = true ∧
      (0x10000000#32 : Word).getLsbD (24 + k.val) = false := by decide
  apply Nat.eq_of_testBit_eq
  intro n
  rw [testBit_wbits, testBit_wbits]
  by_cases hn : n < 4
  · obtain ⟨h1, h2, h3⟩ := hbits ⟨n, hn⟩
    have hlast : (if wbit value 28 then 0#32 else f.instCmd &&& 0x10000000#32 : Word).getLsbD (24 + n) = false := by
      split
      · exact BitVec.getLsbD_zero
      · rw [BitVec.getLsbD_and, h3, Bool.and_false]
    refine congrArg (_ && ·) ?_
    show ((f.instCmd &&& 0x20000000#32) ||| (value &&& 0x0F000000#32) ||| _).getLsbD (24 + n) = value.getLsbD (24 + n)
    rw [BitVec.getLsbD_or, BitVec.getLsbD_or, BitVec.getLsbD_and, BitVec.getLsbD_and, h1, h2, hlast, Bool.and_false, Bool.and_true,
      Bool.false_or, Bool.or_false]
  · rw [decide_eq_false (by omega), Bool.false_and, Bool.false_and]

/-! ### The end of a request (04 R99) -/

/-- What an install request leaves of the machine's tables. -/
def SameTables (s t : State) : Prop := t.installs = s.installs ∧ t.garnet = s.garnet ∧ t.fab = s.fab ∧ t.groups = s.groups

theorem SameTables.trans (h : SameTables t u) (h' : SameTables s t) : SameTables s u := by
  obtain ⟨h1, h2, h3, h4⟩ := h
  obtain ⟨g1, g2, g3, g4⟩ := h'
  exact ⟨h1.trans g1, h2.trans g2, h3.trans g3, h4.trans g4⟩

/-- What the end of a request leaves: DONE, its vector, and everything but device memory. -/
structure Finished (v : Nat) (s t : State) : Prop where
  done : wbit (t.fn v).instCmd 28 = true ∧ wbit (t.fn v).instCmd 29 = false
  vectors : t.host.vectors = s.host.vectors ++ [(v, wbits (s.fn v).instCmd 27 24)]
  tables : SameTables s t

theorem finishRequest_finished (s : State) (v : Nat) (report : List Byte) : Finished v s (s.finishRequest v report) := by
  have hmem := (awaitDev_mem s v ((s.fn v).instRpt.toNat / 256 * 256) report.length).trans
    (writeDev_mem v report _ ((s.fn v).instRpt.toNat / 256 * 256))
  unfold State.finishRequest
  simp only
  generalize State.writeDev _ v _ report = w at hmem
  refine ⟨?_, ?_, ?_⟩
  · have hcmd : ((w.onFn v (fun f => { f with instCmd := instDone f.instCmd })).fn v).instCmd = instDone (w.fn v).instCmd :=
      congrArg Fn.instCmd (State.fn_onFn_self w v _)
    have hdone := instDone_done (w.fn v).instCmd
    rw [← hcmd] at hdone
    exact hdone
  · exact congrArg (· ++ [(v, wbits (s.fn v).instCmd 27 24)]) (hmem.keeps (fun w => w.host.vectors) (fun _ => rfl))
  · exact ⟨hmem.keeps State.installs (fun _ => rfl), hmem.keeps State.garnet (fun _ => rfl), hmem.keeps State.fab (fun _ => rfl),
      hmem.keeps State.groups (fun _ => rfl)⟩

/-! ### Install requests (04 R98 to R100, R110) -/

/-- The state in which Garnet reads the image of an install request. -/
def State.takingImage (s : State) (v : Nat) (value : Word) : State := (s.tick.onFn v (fun f => f.instFields value)).awaitImage v

theorem takingImage_rest (s : State) (v : Nat) (value : Word) : SameTables s (s.takingImage v value) ∧
    (s.takingImage v value).host.vectors = s.host.vectors ∧ wbits ((s.takingImage v value).fn v).instCmd 27 24 = wbits value 27 24 := by
  have hmem : OnlyMem (s.tick.onFn v (fun f => f.instFields value)) (s.takingImage v value) := awaitImage_mem _ v
  have hfn := hmem.keeps (fun w => w.fn v) (fun _ => rfl)
  rw [State.fn_onFn_self] at hfn
  refine ⟨⟨hmem.keeps State.installs (fun _ => rfl), hmem.keeps State.garnet (fun _ => rfl), hmem.keeps State.fab (fun _ => rfl),
    hmem.keeps State.groups (fun _ => rfl)⟩, hmem.keeps (fun w => w.host.vectors) (fun _ => rfl), ?_⟩
  rw [hfn]
  exact instFields_vector _ value

theorem exec_install (hopen : s.barOpen v = true) (hop : wbits value 31 30 = 1) (hok : (s.fn v).instRejects value = false) :
    exec (.install v value) s = .next ((s.takingImage v value).takeImage v) :=
  (if_neg (by rw [hop, hopen]; decide)).trans (if_neg (by rw [hok]; exact Bool.false_ne_true))

/-- An image that cannot be read ends the request. -/
theorem takeImage_unread (h : s.imageOf v = none) : Finished v s (s.takeImage v) := by
  unfold State.takeImage
  rw [h]
  exact finishRequest_finished ..

/-- An image that is refused ends the request in the state that the refusal leaves. -/
theorem takeImage_refused {img : Image} {r : Refused} (h : s.imageOf v = some img) (hr : (s.admission v img).refused = some r) :
    Finished v (s.admission v img).state (s.takeImage v) := by
  unfold State.takeImage
  simp only [h, hr]
  exact finishRequest_finished ..

/-- An image that is admitted leaves the installations of its admission. -/
theorem takeImage_admitted {img : Image} (h : s.imageOf v = some img) (hr : (s.admission v img).refused = none) :
    (s.takeImage v).installs = (s.admission v img).state.installs := by
  unfold State.takeImage
  simp only [h, hr]
  split
  · rfl
  · exact (finishRequest_finished ..).tables.1

/-- An image whose hash is not listed is refused at once. -/
theorem admission_unlisted {img : Image} (h : s.hashListed v img.hash = false) :
    s.admission v img = ⟨s, some { code := resCode 13 0 0 0 }⟩ := by
  unfold State.admission
  simp only [h]
  rfl

/-- A refused admission leaves no installation, no reservation and no fabric state behind (04 R100). -/
theorem admission_undone {img : Image} (h : (s.admission v img).refused ≠ none) : (s.admission v img).state.installs = s.installs ∧
    (s.admission v img).state.garnet = s.garnet ∧ (s.admission v img).state.fab = s.fab := by
  revert h
  unfold State.admission
  simp only
  split
  · exact fun _ => ⟨rfl, rfl, rfl⟩
  · split
    · exact fun _ => ⟨rfl, rfl, rfl⟩
    · split
      · exact fun _ => ⟨rfl, rfl, rfl⟩
      · split
        · next hnone => exact fun h => absurd hnone h
        · exact fun _ => ⟨rfl, rfl, rfl⟩

/-! ### Remove requests (04 R101) -/

theorem exec_remove (hopen : s.barOpen v = true) (hop : wbits value 31 30 = 2) (hok : (s.fn v).instRejects value = false) :
    exec (.remove v value) s = .next ((s.onFn v (fun f => f.instFields value)).removeRequest v) :=
  (if_neg (by rw [hop, hopen]; decide)).trans (if_neg (by rw [hok]; exact Bool.false_ne_true))

theorem fields_handle (s : State) (v : Nat) (value : Word) :
    ((s.onFn v (fun f => f.instFields value)).fn v).instHandle = (s.fn v).instHandle := by
  rw [State.fn_onFn_self]
  rfl

/-- A remove request of an installation that its function owns is busy, and marks it. -/
theorem removeRequest_busy (hi : s.inst? (s.fn v).instHandle = some i) (hown : i.fn = v) (hstays : i.removing = false) :
    s.removeRequest v = (s.putInst { i with removing := true }).onFn v (fun f => { f with instCmd := f.instCmd ||| 0x20000000#32 }) := by
  unfold State.removeRequest
  simp only [hi]
  rw [if_neg (by rw [hown, hstays]; simp)]

theorem removeRequest_unknown (h : s.inst? (s.fn v).instHandle = none) : Finished v s (s.removeRequest v) := by
  unfold State.removeRequest
  simp only [h]
  exact finishRequest_finished ..

/-- A removal that takes effect frees the installation and ends the request. -/
theorem removeTakeEffect_spec (hi : s.inst? h = some i) (hrem : i.removing = true) (hquiet : s.quiet h = true) :
    ∃ t, exec (.removeTakeEffect h) s = .next t ∧ t.inst? h = none ∧ t.groups = s.groups ∧
      t.installs = s.installs.filter (fun j => j.handle != h) ∧ (∀ e ∈ t.garnet.held, e.2 ≠ h) ∧
      wbit (t.fn i.fn).instCmd 28 = true ∧ wbit (t.fn i.fn).instCmd 29 = false := by
  have hhandle : i.handle = h := by simpa using List.find?_some hi
  have hfin := finishRequest_finished ((s.dropWork (· == h)).freeInstall i) i.fn (reportHeader 0 h { code := 0 } [])
  have hexec : exec (.removeTakeEffect h) s =
      .next (((s.dropWork (· == h)).freeInstall i).finishRequest i.fn (reportHeader 0 h { code := 0 } [])) := by
    show execRemoveTakeEffect h s = _
    unfold execRemoveTakeEffect
    simp only [hi]
    rw [if_pos (by rw [hrem, hquiet]; rfl)]
  obtain ⟨hinstalls, hgarnet, -, hgroups⟩ := hfin.tables
  have hkept : ((s.dropWork (· == h)).freeInstall i).installs = s.installs.filter (fun j => j.handle != h) := by
    rw [State.freeInstall_installs, hhandle]
    rfl
  refine ⟨_, hexec, ?_, hgroups, hinstalls.trans hkept, ?_, hfin.done⟩
  · unfold State.inst?
    rw [hinstalls, hkept]
    exact List.find?_eq_none.2 (fun j hj => by simpa using (List.mem_filter.1 hj).2)
  · intro e he
    rw [hgarnet] at he
    have : e ∈ s.garnet.held.filter (fun e => e.2 != i.handle) := he
    rw [hhandle] at this
    simpa using (List.mem_filter.1 this).2

/-! ### The withdrawal of a die (10 R283) -/

/-- An installation whose groups on a die are to be suspended. -/
def Installation.leaving (die : Nat) (i : Installation) : Installation := { i with withdrawing := insertSorted die i.withdrawing }

/-- Installations in handle order are those of the list. -/
theorem insertHandle_perm (i : Installation) (l : List Installation) : (insertHandle i l).Perm (i :: l) := by
  induction l with
  | nil => exact .refl _
  | cons j js ih =>
    unfold insertHandle
    split
    · exact .refl _
    · exact (ih.cons j).trans (.swap i j js)

theorem insertAll_perm (l : List Installation) : ∀ acc : List Installation, (l.foldl (fun l i => insertHandle i l) acc).Perm (l ++ acc) := by
  induction l with
  | nil => exact fun acc => .refl _
  | cons i l ih => exact fun acc => (ih _).trans (((insertHandle_perm i acc).append_left l).trans List.perm_middle)

theorem inst?_of_mem (hn : (s.installs.map (fun i => i.handle)).Nodup) (hi : i ∈ s.installs) : s.inst? i.handle = some i := by
  unfold State.inst?
  induction hl : s.installs generalizing s with
  | nil =>
    rw [hl] at hi
    exact nomatch hi
  | cons j js ih =>
    rw [hl, List.map_cons, List.nodup_cons] at hn
    rw [hl] at hi
    rw [List.find?_cons]
    rcases List.mem_cons.1 hi with rfl | hm
    · rw [beq_self_eq_true]
    · have hne : (j.handle == i.handle) = false := by
        refine beq_eq_false_iff_ne.2 (fun he => hn.1 ?_)
        rw [he]
        exact List.mem_map_of_mem hm
      rw [hne]
      exact ih (s := { s with installs := js }) hn.2 hm rfl

theorem inst?_putInst_ne {n : Word} (s : State) (k : Installation) (h : k.handle ≠ n) : (s.putInst k).inst? n = s.inst? n :=
  find?_replaceFirst_other _ _ k _ (beq_eq_false_iff_ne.2 h) (fun j hj => by
    have : j.handle = k.handle := beq_iff_eq.1 hj
    exact beq_eq_false_iff_ne.2 (this ▸ h))

/-- An installation that a die no longer serves suspends its groups there, or leaves the die once they have stopped. -/
def State.leaveDie (die : Nat) (t : State) (i : Installation) : State :=
  match t.inst? i.handle with
  | none => t
  | some j =>
    if !j.withdrawing.contains die then t.putInst { j with withdrawing := insertSorted die j.withdrawing }
    else if t.stopped j die then t.withdraw j die
    else t

/-- The first withdrawal of an installation from a die only suspends its groups there. -/
theorem leaveDie_first {die : Nat} (hi : t.inst? i.handle = some i) (hfirst : die ∉ i.withdrawing) :
    t.leaveDie die i = t.putInst (i.leaving die) := by
  unfold State.leaveDie
  simp only [hi]
  exact if_pos (by simpa using hfirst)

/-- A run of first withdrawals suspends each installation's groups on the die, and changes nothing else. -/
structure SuspendsEach (die : Nat) (l : List Installation) (t u : State) : Prop where
  marked : ∀ i ∈ l, u.inst? i.handle = some (i.leaving die)
  others : ∀ n : Word, (∀ i ∈ l, i.handle ≠ n) → u.inst? n = t.inst? n
  groups : u.groups = t.groups
  mem : u.mem = t.mem
  garnet : u.garnet = t.garnet

theorem leaveDie_each {die : Nat} (l : List Installation) (hn : (l.map (fun i => i.handle)).Nodup)
    (hl : ∀ i ∈ l, t.inst? i.handle = some i ∧ die ∉ i.withdrawing) : SuspendsEach die l t (l.foldl (State.leaveDie die) t) := by
  induction l generalizing t with
  | nil => exact ⟨fun i hi => absurd hi List.not_mem_nil, fun _ _ => rfl, rfl, rfl, rfl⟩
  | cons i l ih =>
    rw [List.map_cons, List.nodup_cons] at hn
    obtain ⟨hnew, hn⟩ := hn
    have hne : ∀ j ∈ l, i.handle ≠ j.handle := fun j hj he => hnew (he ▸ List.mem_map_of_mem hj)
    obtain ⟨hi, hfirst⟩ := hl i List.mem_cons_self
    have hstep := leaveDie_first hi hfirst
    have hrest := ih (t := t.putInst (i.leaving die)) hn (fun j hj => by
      rw [inst?_putInst_ne t (i.leaving die) (hne j hj)]
      exact hl j (List.mem_cons_of_mem _ hj))
    rw [List.foldl_cons, hstep]
    refine ⟨fun j hj => ?_, fun n hn' => ?_, hrest.groups, hrest.mem, hrest.garnet⟩
    · rcases List.mem_cons.1 hj with rfl | hj
      · rw [hrest.others j.handle (fun k hk he => hne k hk he.symm)]
        exact State.inst?_putInst t (j.leaving die) hi rfl
      · exact hrest.marked j hj
    · rw [hrest.others n (fun j hj => hn' j (List.mem_cons_of_mem _ hj))]
      exact inst?_putInst_ne t (i.leaving die) (hn' i List.mem_cons_self)

/-- Whether a die no longer serves an installation that uses it. -/
def State.unserved (s : State) (die : Nat) (i : Installation) : Bool :=
  decide (i.floor &&& s.dieCap die ≠ i.floor) && (s.part i.part).dies.contains die && !i.withdrawn.contains die && !i.lost

theorem exec_dieWithdrawal (die : Nat) (s : State) : exec (.dieWithdrawal die) s =
    .next (((s.installs.filter (s.unserved die)).foldl (fun l i => insertHandle i l) []).foldl (State.leaveDie die) s.tick) := rfl

theorem dieWithdrawal_spec (die : Nat) (s : State) (hn : (s.installs.map (fun i => i.handle)).Nodup)
    (hfirst : ∀ i ∈ s.installs, die ∉ i.withdrawing) : ∃ t, exec (.dieWithdrawal die) s = .next t ∧ t.groups = s.groups ∧ t.mem = s.mem ∧
      t.garnet = s.garnet ∧ ∀ i ∈ s.installs, t.inst? i.handle = some (if s.unserved die i = true then i.leaving die else i) := by
  have hperm := (insertAll_perm (s.installs.filter (s.unserved die)) []).trans (.of_eq (List.append_nil _))
  have hmem : ∀ i, i ∈ (s.installs.filter (s.unserved die)).foldl (fun l i => insertHandle i l) [] ↔ i ∈ s.installs ∧ s.unserved die i = true :=
    fun i => hperm.mem_iff.trans List.mem_filter
  have hnodup : (((s.installs.filter (s.unserved die)).foldl (fun l i => insertHandle i l) []).map (fun i => i.handle)).Nodup :=
    (hperm.map _).nodup_iff.2 (hn.sublist (List.filter_sublist.map _))
  have heach := leaveDie_each (t := s.tick) _ hnodup (fun i hi =>
    ⟨inst?_of_mem (s := s.tick) hn ((hmem i).1 hi).1, hfirst i ((hmem i).1 hi).1⟩)
  refine ⟨_, exec_dieWithdrawal die s, heach.groups, heach.mem, heach.garnet, fun i hi => ?_⟩
  split
  · next hgone => exact heach.marked i ((hmem i).2 ⟨hi, hgone⟩)
  · next hstays =>
    rw [heach.others i.handle (fun j hj he => ?_)]
    · exact inst?_of_mem (s := s.tick) hn hi
    · obtain ⟨hj, hgone⟩ := (hmem j).1 hj
      have : some j = some i := by rw [← inst?_of_mem hn hj, he, inst?_of_mem hn hi]
      cases this
      exact hstays hgone

/-- Settles O48. The order of a removal's refusals, the reading of INSTLEN and the two phases of a withdrawal are the model's (logs 43 to
45). -/
theorem installations : Obligations.Installations := by
  unfold Obligations.Installations
  refine ⟨fun s v value hopen => ⟨?ignored, fun hop hok => ⟨?unread, fun img himg => ⟨?unlisted, ?refused, ?admitted⟩⟩,
    fun hop hok => ⟨?busy, ?unknown⟩⟩, fun s h i hi hrem => ⟨removeTakeEffect_spec hi hrem, ?waits⟩, ?withdrawn⟩
  case ignored =>
    intro i hop hrej
    have hexec : exec i s = .next (s.instIgnored v value) := by
      rcases hop with ⟨rfl, hop⟩ | ⟨rfl, hop⟩
      · exact (if_neg (by rw [hop, hopen]; decide)).trans (if_pos hrej)
      · exact (if_neg (by rw [hop, hopen]; decide)).trans (if_pos hrej)
    refine ⟨_, _, hexec, ⟨State.event_installs .., State.event_garnet .., State.event_fab .., State.event_groups ..⟩, State.event_mem ..,
      ?_, State.event_log .., rfl, rfl⟩
    exact (congrArg Fn.instCmd (State.event_fn s 0 0x34 v v value.toNat 0 v)).trans rfl
  case unread =>
    intro hnone
    obtain ⟨htables, hvectors, hvector⟩ := takingImage_rest s v value
    have hfin := takeImage_unread (s := s.takingImage v value) hnone
    refine ⟨_, exec_install hopen hop hok, ⟨hfin.done.1, hfin.done.2, ?_⟩, hfin.tables.trans htables⟩
    rw [hfin.vectors, hvectors, hvector]
  case unlisted =>
    intro hnot
    obtain ⟨htables, hvectors, hvector⟩ := takingImage_rest s v value
    have hadm := admission_unlisted (s := s.takingImage v value) hnot
    have hfin := takeImage_refused (s := s.takingImage v value) himg (congrArg Admission.refused hadm)
    rw [show ((s.takingImage v value).admission v img).state = s.takingImage v value from congrArg Admission.state hadm] at hfin
    refine ⟨_, exec_install hopen hop hok, ⟨hfin.done.1, hfin.done.2, ?_⟩, hfin.tables.trans htables⟩
    rw [hfin.vectors, hvectors, hvector]
  case refused =>
    intro href
    obtain ⟨htables, -⟩ := takingImage_rest s v value
    obtain ⟨r, hr⟩ := Option.ne_none_iff_exists'.1 href
    have hfin := takeImage_refused (s := s.takingImage v value) himg hr
    obtain ⟨hinstalls, hgarnet, hfab⟩ := admission_undone (s := s.takingImage v value) href
    exact ⟨_, exec_install hopen hop hok, hfin.tables.1.trans (hinstalls.trans htables.1),
      hfin.tables.2.1.trans (hgarnet.trans htables.2.1), hfin.tables.2.2.1.trans (hfab.trans htables.2.2.1)⟩
  case admitted =>
    intro hadm
    exact ⟨_, exec_install hopen hop hok, takeImage_admitted (s := s.takingImage v value) himg hadm⟩
  case busy =>
    intro i hi hown hstays
    have hbusy := removeRequest_busy (s := s.onFn v (fun f => f.instFields value)) (v := v) (i := i)
      (by rw [fields_handle]; exact hi) hown hstays
    refine ⟨_, (exec_remove hopen hop hok).trans (congrArg _ hbusy), ?_, ?_, rfl, rfl, rfl⟩
    · rw [State.fn_onFn_self]
      unfold wbit
      rw [BitVec.getLsbD_or, show (0x20000000#32 : Word).getLsbD 29 = true by decide, Bool.or_true]
    · exact State.inst?_putInst (s.onFn v (fun f => f.instFields value)) { i with removing := true } hi (by simpa using List.find?_some hi)
  case unknown =>
    intro hnone
    have hfin := removeRequest_unknown (s := s.onFn v (fun f => f.instFields value)) (v := v) (by rw [fields_handle]; exact hnone)
    refine ⟨_, exec_remove hopen hop hok, ⟨hfin.done.1, hfin.done.2, ?_⟩, hfin.tables⟩
    rw [hfin.vectors, State.fn_onFn_self, instFields_vector]
    rfl
  case waits =>
    intro hbusy
    show execRemoveTakeEffect h s = _
    unfold execRemoveTakeEffect
    simp only [hi]
    exact if_neg (by rw [hbusy, Bool.and_false]; exact Bool.false_ne_true)
  case withdrawn =>
    intro s die hn hfirst
    obtain ⟨t, hexec, hgroups, hmem, hgarnet, hall⟩ := dieWithdrawal_spec die s hn hfirst
    refine ⟨t, hexec, hgroups, hmem, hgarnet, fun i hi => (hall i hi).trans (congrArg some ?_)⟩
    have hiff : s.unserved die i = true ↔ i.floor &&& s.dieCap die ≠ i.floor ∧ (s.part i.part).dies.contains die = true ∧
        die ∉ i.withdrawn ∧ i.lost = false := by
      unfold State.unserved
      simp [and_assoc]
    rw [ite_congr (propext hiff) (fun _ => rfl) (fun _ => rfl)]
    rfl

end Sys2Proof.Machine
end

section
/-!
SUPPORT. Reserved requests at their slots, re-placement and far ways (04 R112, R113, R120, R123; 07 R208; O49).
-/
namespace Sys2Proof.Machine

variable {s t u : State} {g : Group} {i : Installation}

/-! ### Operations and installations that are put back -/

theorem op?_putOp {n : Nat} {o p : OutOp} (h : s.op? n = some o) (hp : p.id = n) : (s.putOp p).op? n = some p := by
  subst hp
  exact find?_replaceFirst_self _ p _ (beq_self_eq_true _) (congrArg Option.isSome h)

theorem op?_id {n : Nat} {o : OutOp} (h : s.op? n = some o) : o.id = n := by simpa using List.find?_some h

theorem inst?_handle {h : Word} (hi : s.inst? h = some i) : i.handle = h := by simpa using List.find?_some hi

theorem onLine_id (o : OutOp) (line : Nat) (f : LineAccess → LineAccess) : (o.onLine line f).id = o.id := by
  unfold OutOp.onLine
  split <;> rfl

/-- A request that is served changes its operation, or its commit, and nothing else. -/
theorem serveRequest_rest (s : State) (id line : Nat) : (s.serveRequest id line).installs = s.installs ∧
    (s.serveRequest id line).garnet = s.garnet ∧ (s.serveRequest id line).mem = s.mem := by
  unfold State.serveRequest
  split <;> exact ⟨rfl, rfl, rfl⟩

theorem serveRequest_op {id : Nat} {o : OutOp} (line : Nat) (h : s.op? id = some o) :
    (s.serveRequest id line).op? id = some (o.onLine line (fun l => { l with served := true })) ∧ (s.serveRequest id line).commits = s.commits := by
  unfold State.serveRequest
  rw [h]
  exact ⟨op?_putOp h ((onLine_id ..).trans (op?_id h)), rfl⟩

theorem serveRequest_commit {id : Nat} (line : Nat) (h : s.op? id = none) : (s.serveRequest id line).ops = s.ops ∧
    (s.serveRequest id line).commits = s.commits.map (fun c => if c.id == id then { c with served := true } else c) := by
  unfold State.serveRequest
  rw [h]
  exact ⟨rfl, rfl⟩

/-! ### SLOT_SERVICE (04 R112, R123) -/

/-- The counts of a resource. -/
def State.countAt (s : State) (code : Nat) : ResourceCount := Sparse.get {} s.garnet.counts code

theorem countAt_onCount (s : State) (code : Nat) (f : ResourceCount → ResourceCount) : (s.onCount code f).countAt code = f (s.countAt code) := by
  unfold State.countAt State.onCount
  exact (Sparse.get_alter ..).trans (if_pos rfl)

theorem spare_kept (c : ResourceCount) (use : Nat) : (c.spare use).donated = c.donated ∧ (c.spare use).used = c.used := by
  unfold ResourceCount.spare
  split <;> exact ⟨rfl, rfl⟩

/-- The `Inst` of a slot, as it becomes. -/
def Installation.put (mine : Inst → Bool) (i : Installation) (m : Inst) : Installation :=
  { i with insts := i.insts.map (fun k => if mine k then m else k) }

/-- The owner of a slot that is served (04 R112). -/
def ownsSlot (s : State) (n : Inst) : Bool := n.anchor == s.turn.x && n.slots.contains s.turn.y && !n.lost

/-- The installation whose `Inst` owns the slot that is served. -/
def State.slotOwner (s : State) : Option Installation :=
  s.installs.find? (fun i => decide (i.effective ≤ s.pkg.frame) && i.insts.any (ownsSlot s))

/-- A slot whose owner has no request waiting is donated. -/
theorem slotService_donates {n : Inst} (ho : s.slotOwner = some i) (hi : s.inst? i.handle = some i)
    (hn : i.insts.find? (ownsSlot s) = some n) (hw : n.waiting = []) : ∃ t, exec .slotService s = .next t ∧
      t.inst? i.handle = some (i.put (ownsSlot s) { n with donated := n.donated + 1 }) ∧
      (t.countAt s.turn.x).donated = (s.countAt s.turn.x).donated + 1 ∧ (t.countAt s.turn.x).used = (s.countAt s.turn.x).used ∧
      t.ops = s.ops ∧ t.commits = s.commits ∧ t.mem = s.mem := by
  have hexec : exec .slotService s = .next ((s.putInst (i.put (ownsSlot s) { n with donated := n.donated + 1 })).onCount s.turn.x (fun c =>
      { (c.spare (s.turn.z % 4)) with donated := c.donated + 1 })) := by
    show execSlotService s = _
    unfold execSlotService
    unfold State.slotOwner ownsSlot at ho
    unfold ownsSlot at hn
    simp only [ho, hn, hw]
    rfl
  refine ⟨_, hexec, State.inst?_putInst s (i.put (ownsSlot s) _) hi rfl, ?_, ?_, rfl, rfl, rfl⟩
  · rw [countAt_onCount]
    rfl
  · rw [countAt_onCount]
    exact (spare_kept _ _).2

/-- A slot serves the request that has waited longest at its owner. -/
theorem slotService_serves {n : Inst} {w : Nat × Nat} {ws : List (Nat × Nat)} (ho : s.slotOwner = some i) (hi : s.inst? i.handle = some i)
    (hn : i.insts.find? (ownsSlot s) = some n) (hw : n.waiting = w :: ws) : ∃ t, exec .slotService s = .next t ∧
      t.inst? i.handle = some (i.put (ownsSlot s) { n with waiting := ws, used := n.used + 1, late := n.late + s.turn.z / 4 }) ∧
      (t.countAt s.turn.x).used = (s.countAt s.turn.x).used + 1 ∧ (t.countAt s.turn.x).donated = (s.countAt s.turn.x).donated ∧
      t.mem = s.mem ∧
      (∀ o, s.op? w.1 = some o → t.op? w.1 = some (o.onLine w.2 (fun l => { l with served := true })) ∧ t.commits = s.commits) ∧
      (s.op? w.1 = none → t.ops = s.ops ∧
        t.commits = s.commits.map (fun c => if c.id == w.1 then { c with served := true } else c)) := by
  let owned := i.put (ownsSlot s) { n with waiting := ws, used := n.used + 1, late := n.late + s.turn.z / 4 }
  let counted := (s.putInst owned).onCount s.turn.x (fun c => { c with used := c.used + 1 })
  have hexec : exec .slotService s = .next (counted.serveRequest w.1 w.2) := by
    show execSlotService s = _
    unfold execSlotService
    unfold State.slotOwner ownsSlot at ho
    unfold ownsSlot at hn
    simp only [ho, hn, hw]
    rfl
  obtain ⟨hinstalls, hgarnet, hmem⟩ := serveRequest_rest counted w.1 w.2
  have hcount : (counted.serveRequest w.1 w.2).countAt s.turn.x = { s.countAt s.turn.x with used := (s.countAt s.turn.x).used + 1 } := by
    refine (congrArg (fun g : Garnet => Sparse.get {} g.counts s.turn.x) hgarnet).trans ?_
    exact countAt_onCount (s.putInst owned) s.turn.x _
  refine ⟨_, hexec, ?_, ?_, ?_, hmem, fun o ho => serveRequest_op (s := counted) w.2 ho, fun hno => serveRequest_commit (s := counted) w.2 hno⟩
  · refine (congrArg (fun is : List Installation => is.find? (fun j => j.handle == i.handle)) hinstalls).trans ?_
    exact State.inst?_putInst s owned hi rfl
  · rw [hcount]
  · rw [hcount]

/-- A slot that no installation owns yet serves none of its requests. -/
theorem slotService_unowned (ho : s.slotOwner = none) : ∃ t, exec .slotService s = .next t ∧ t.installs = s.installs ∧ t.ops = s.ops ∧
    t.commits = s.commits ∧ (Sparse.get 0#32 s.garnet.held (512 * s.turn.x + s.turn.y) = 0#32 →
      (t.countAt s.turn.x).donated = (s.countAt s.turn.x).donated ∧ (t.countAt s.turn.x).used = (s.countAt s.turn.x).used) := by
  have hexec : exec .slotService s = .next (s.onCount s.turn.x (fun c =>
      if !(Sparse.get 0#32 s.garnet.held (512 * s.turn.x + s.turn.y) != 0#32) then c.spare (s.turn.z % 4)
      else if s.turn.z % 4 = 3 then { c with used := c.used + 1 }
      else { (c.spare (s.turn.z % 4)) with donated := c.donated + 1 })) := by
    show execSlotService s = _
    unfold execSlotService
    unfold State.slotOwner ownsSlot at ho
    simp only [ho]
  refine ⟨_, hexec, rfl, rfl, rfl, fun hfree => ?_⟩
  rw [countAt_onCount, if_pos (by rw [hfree]; rfl)]
  exact spare_kept _ _

/-! ### RESERVED_REQUEST_DEPART (04 R113) -/

/-- A request that enters the queue of its `Inst` changes that installation alone. -/
theorem enqueue_rest (s : State) (g : Group) (slot : Nat) (write : Bool) (sp : Space) (phys id line : Nat) :
    (s.enqueue g slot write sp phys id line).groups = s.groups ∧ (s.enqueue g slot write sp phys id line).mem = s.mem ∧
      (s.enqueue g slot write sp phys id line).ops = s.ops ∧ (s.enqueue g slot write sp phys id line).commits = s.commits :=
  ⟨State.onInst_groups .., State.onInst_mem .., State.onInst_ops .., State.onInst_commits ..⟩

/-- An installation with a request queued at the instances that serve it. -/
def Installation.queued (i : Installation) (g : Group) (slot : Nat) (write : Bool) (sp : Space) (phys id line : Nat) : Installation :=
  { i with insts := i.insts.map (fun n =>
    if n.serves g.kernel slot g.core write sp phys then { n with waiting := n.waiting ++ [(id, line)] } else n) }

theorem enqueue_inst {slot phys id line : Nat} {write : Bool} {sp : Space} (hi : s.inst? g.ctl.handle = some i) :
    (s.enqueue g slot write sp phys id line).inst? g.ctl.handle = some (i.queued g slot write sp phys id line) :=
  State.inst?_onInst s (f := fun i => i.queued g slot write sp phys id line) hi (show i.handle = _ from inst?_handle hi)

theorem exec_departLine {o : OutOp} {sp : Space} {l : LineAccess} (ho : s.op? s.turn.x = some o) (hl : o.line? s.turn.y = some (sp, l))
    (hg : s.group? o.gid = some g) (hleft : l.left = false) : exec .reservedRequestDepart s = .next (s.tick.departLine o g sp l) := by
  show execReservedRequestDepart s = _
  unfold execReservedRequestDepart
  simp only [ho, hl, hg]
  exact if_neg (by rw [hleft]; exact Bool.false_ne_true)

theorem exec_departStore {c : Commit} (ho : s.op? s.turn.x = none) (hc : s.commits.find? (fun c => c.id == s.turn.x) = some c)
    (hg : s.group? c.gid = some g) (hleft : c.left = false) (hacc : c.accepted = true) :
    exec .reservedRequestDepart s = .next (s.tick.departStore c g) := by
  show execReservedRequestDepart s = _
  unfold execReservedRequestDepart
  simp only [ho, hc, hg]
  exact if_neg (by rw [hleft, hacc]; exact Bool.false_ne_true)

/-- A load's line that leaves its core queues at its `Inst`, or is served at once (log 28). -/
theorem departLine_spec {o : OutOp} {sp : Space} {l : LineAccess} (ho : s.op? o.id = some o) :
    (s.departLine o g sp l).groups = s.groups ∧ (s.departLine o g sp l).mem = s.mem ∧
      (∀ i, s.inst? g.ctl.handle = some i → s.servable g l.slot false sp l.phys = true →
        (s.departLine o g sp l).inst? g.ctl.handle = some (i.queued g l.slot false sp l.phys o.id l.addr) ∧
        (s.departLine o g sp l).op? o.id = some (o.onLine l.addr (fun l => { l with left := true }))) ∧
      (s.servable g l.slot false sp l.phys = false → (s.departLine o g sp l).installs = s.installs ∧
        (s.departLine o g sp l).op? o.id = some (o.onLine l.addr (fun l => { l with left := true, served := true }))) := by
  have hput (f : LineAccess → LineAccess) : (s.putOp (o.onLine l.addr f)).op? o.id = some (o.onLine l.addr f) :=
    op?_putOp ho (onLine_id ..)
  unfold State.departLine
  cases hserve : s.servable g l.slot false sp l.phys with
  | true =>
    rw [if_pos rfl]
    obtain ⟨hgroups, hmem, hops, -⟩ := enqueue_rest (s.putOp (o.onLine l.addr (fun l => { l with left := true }))) g l.slot false sp
      l.phys o.id l.addr
    refine ⟨hgroups, hmem, fun i hi _ => ⟨enqueue_inst (s := s.putOp _) hi, ?_⟩, nofun⟩
    exact (congrArg (fun os : List OutOp => os.find? (fun p : OutOp => p.id == o.id)) hops).trans (hput _)
  | false => exact ⟨rfl, rfl, nofun, fun _ => ⟨rfl, hput _⟩⟩

/-- A store that leaves its core queues at its `Inst`, or is served at once (log 28). -/
theorem departStore_spec (c : Commit) : (s.departStore c g).groups = s.groups ∧ (s.departStore c g).mem = s.mem ∧
    (∀ i, s.inst? g.ctl.handle = some i → s.servable g c.slot true c.space c.phys = true →
      (s.departStore c g).inst? g.ctl.handle = some (i.queued g c.slot true c.space c.phys c.id c.block) ∧
      (s.departStore c g).commits = s.commits.map (fun k => if k.id == c.id then { k with left := true } else k)) ∧
    (s.servable g c.slot true c.space c.phys = false → (s.departStore c g).installs = s.installs ∧
      (s.departStore c g).commits = s.commits.map (fun k => if k.id == c.id then { k with left := true, served := true } else k)) := by
  unfold State.departStore
  cases hserve : s.servable g c.slot true c.space c.phys with
  | true =>
    rw [if_pos rfl]
    obtain ⟨hgroups, hmem, -, hcommits⟩ := enqueue_rest (s.onCommit c.id (fun c => { c with left := true })) g c.slot true c.space
      c.phys c.id c.block
    exact ⟨hgroups, hmem, fun i hi _ => ⟨enqueue_inst (s := s.onCommit _ _) hi, hcommits⟩, nofun⟩
  | false => exact ⟨rfl, rfl, nofun, fun _ => ⟨rfl, rfl⟩⟩

/-! ### RESERVATION_REPLACEMENT (04 R120, R121) -/

/-- Only installations and the slots that they hold differ. -/
structure Reserves (s t : State) : Prop where
  groups : t.groups = s.groups
  mem : t.mem = s.mem
  ops : t.ops = s.ops
  unusable : t.garnet.unusable = s.garnet.unusable

theorem Reserves.refl (s : State) : Reserves s s := ⟨rfl, rfl, rfl, rfl⟩

theorem Reserves.trans (h : Reserves s t) (h' : Reserves t u) : Reserves s u :=
  ⟨h'.groups.trans h.groups, h'.mem.trans h.mem, h'.ops.trans h.ops, h'.unusable.trans h.unusable⟩

theorem Reserves.onInst (s : State) (h : Word) (f : Installation → Installation) : Reserves s (s.onInst h f) :=
  ⟨State.onInst_groups .., State.onInst_mem .., State.onInst_ops .., congrArg Garnet.unusable (State.onInst_garnet ..)⟩

theorem Reserves.foldl {α : Type} (f : State → α → State) (h : ∀ t a, Reserves t (f t a)) (l : List α) (s : State) :
    Reserves s (l.foldl f s) := by
  induction l generalizing s with
  | nil => exact .refl s
  | cons a l ih => exact (h s a).trans (ih _)

theorem reassign_reserves (s : State) (i : Installation) (hit : Inst → Bool) : Reserves s (s.reassign i hit) := by
  unfold State.reassign
  simp only
  have hfreed (held : Sparse Word) : Reserves s { s with garnet := { s.garnet with held := held } } := ⟨rfl, rfl, rfl, rfl⟩
  refine (hfreed _).trans (Reserves.foldl _ (fun t n => ?_) _ _)
  split
  · exact .refl t
  · split
    · exact .onInst ..
    · exact (Reserves.onInst t i.handle _).trans ⟨rfl, rfl, rfl, rfl⟩

/-- The state in which a resource has become unusable. -/
def State.withUnusable (s : State) (resource : Nat) : State :=
  { s.tick with garnet := { s.garnet with unusable := insertSorted resource s.garnet.unusable } }

/-- An installation whose instances touch a resource is placed again. -/
def State.replaceFor (resource : Nat) (t : State) (i : Installation) : State :=
  match t.inst? i.handle with
  | none => t
  | some j => if j.insts.any (fun n => j.touches n resource) then t.reassign j (fun n => j.touches n resource) else t

theorem replaceFor_reserves (resource : Nat) (t : State) (i : Installation) : Reserves t (t.replaceFor resource i) := by
  unfold State.replaceFor
  split
  · exact .refl t
  · split
    · exact reassign_reserves ..
    · exact .refl t

/-- An installation that does not touch the resource is not placed again. -/
theorem replaceFor_far {resource : Nat} (hfar : ∀ i ∈ t.installs, ∀ n ∈ i.insts, i.touches n resource = false) (i : Installation) :
    t.replaceFor resource i = t := by
  unfold State.replaceFor
  split
  · rfl
  · next j hj =>
    refine if_neg (fun hany => ?_)
    obtain ⟨n, hn, htouch⟩ := List.any_eq_true.1 hany
    rw [hfar j (List.mem_of_find?_eq_some hj) n hn] at htouch
    exact Bool.false_ne_true htouch

/-- A resource that has become unusable stays so; an installation that does not touch it moves nothing. -/
theorem reservationReplacement_spec (resource : Nat) (s : State) : ∃ t, exec (.reservationReplacement resource) s = .next t ∧
    t.groups = s.groups ∧ t.mem = s.mem ∧ t.ops = s.ops ∧ (∀ c, c ∈ t.garnet.unusable ↔ c = resource ∨ c ∈ s.garnet.unusable) ∧
    ((∀ i ∈ s.installs, ∀ n ∈ i.insts, i.touches n resource = false) → t.installs = s.installs ∧ t.garnet.held = s.garnet.held) := by
  have hexec : exec (.reservationReplacement resource) s =
      .next (s.installs.foldl (State.replaceFor resource) (s.withUnusable resource)) := rfl
  have hall := Reserves.foldl (State.replaceFor resource) (replaceFor_reserves resource) s.installs (s.withUnusable resource)
  refine ⟨_, hexec, hall.groups, hall.mem, hall.ops, fun c => ?_, fun hfar => ?_⟩
  · rw [hall.unusable]
    exact mem_insertSorted resource c s.garnet.unusable
  · have hsame (l : List Installation) : l.foldl (State.replaceFor resource) (s.withUnusable resource) = s.withUnusable resource := by
      induction l with
      | nil => rfl
      | cons i l ih => rw [List.foldl_cons, replaceFor_far (t := s.withUnusable resource) hfar, ih]
    rw [hsame]
    exact ⟨rfl, rfl⟩

/-! ### The far ways (07 R208) -/

/-- Far lines that are written back leave the rest of the machine, and each one's dirty bytes wait for the fabric. -/
structure WritesBack (ls : List FarLine) (s t : State) : Prop where
  groups : t.groups = s.groups
  mem : t.mem = s.mem
  far : t.fab.far = s.fab.far
  keeps : ∀ f ∈ s.fab.waiting, f ∈ t.fab.waiting
  sends : ∀ l ∈ ls, l.dirty = 0#128 ∨ ∃ n, (l.handle, l.addr / 2 ^ 52, farFlit l n) ∈ t.fab.waiting

theorem writeBackFar_sends (s : State) (l : FarLine) : WritesBack [l] s (s.writeBackFar l) := by
  unfold State.writeBackFar
  split
  · next h =>
    refine ⟨rfl, rfl, rfl, fun f hf => hf, fun m hm => .inl ?_⟩
    rw [List.mem_singleton.1 hm]
    exact beq_iff_eq.1 h
  · refine ⟨rfl, rfl, rfl, fun f hf => List.mem_append_left _ hf, fun m hm => .inr ⟨s.nextId, ?_⟩⟩
    rw [List.mem_singleton.1 hm]
    exact List.mem_append_right _ List.mem_cons_self

theorem writeBackAll_sends (ls : List FarLine) : ∀ s : State, WritesBack ls s (ls.foldl (fun t l => t.writeBackFar l) s) := by
  induction ls with
  | nil => exact fun s => ⟨rfl, rfl, rfl, fun f hf => hf, fun m hm => absurd hm List.not_mem_nil⟩
  | cons l ls ih =>
    intro s
    have hone := writeBackFar_sends s l
    have hrest := ih (s.writeBackFar l)
    refine ⟨hrest.groups.trans hone.groups, hrest.mem.trans hone.mem, hrest.far.trans hone.far, fun f hf => hrest.keeps f (hone.keeps f hf),
      fun m hm => ?_⟩
    rcases List.mem_cons.1 hm with rfl | hm
    · exact (hone.sends m List.mem_cons_self).imp id (fun ⟨n, hn⟩ => ⟨n, hrest.keeps _ hn⟩)
    · exact hrest.sends m hm

theorem same_symm {a b : FarLine} (h : a.same b = true) : b.same a = true := by
  unfold FarLine.same at h ⊢
  simp only [Bool.and_eq_true, beq_iff_eq] at h ⊢
  exact ⟨⟨h.1.1.symm, h.1.2.symm⟩, h.2.symm⟩

/-- A change of FAR takes effect: every far line stays, or its dirty bytes wait for the fabric. -/
theorem l2farTakeEffect_spec (s : State) (p : Nat) : ∃ t, exec (.l2farTakeEffect p) s = .next t ∧
    (t.part p).farNow = min 8 (wbits (s.part p).l2far 3 0) ∧ t.groups = s.groups ∧ t.mem = s.mem ∧ (∀ l ∈ t.fab.far, l ∈ s.fab.far) ∧
    ∀ l ∈ s.fab.far, l ∈ t.fab.far ∨ ∃ m ∈ s.fab.far, m.same l = true ∧
      (m.dirty = 0#128 ∨ ∃ n, (m.handle, m.addr / 2 ^ 52, farFlit m n) ∈ t.fab.waiting) := by
  show ∃ t, execL2farTakeEffect p s = .next t ∧ _
  unfold execL2farTakeEffect
  simp only
  by_cases hsame : (s.part p).farNow = min 8 (wbits (s.part p).l2far 3 0)
  · rw [if_pos hsame]
    exact ⟨s, rfl, hsame, rfl, rfl, fun l hl => hl, fun l hl => .inl hl⟩
  · rw [if_neg hsame]
    generalize hleaving : List.filter _ (List.filter _ s.fab.far) = leaving
    have hback := writeBackAll_sends leaving s.tick
    refine ⟨_, rfl, congrArg Partition.farNow (State.part_onPart_self _ p _), hback.groups, hback.mem, fun l hl => ?_, fun l hl => ?_⟩
    · exact hback.far ▸ (List.mem_filter.1 hl).1
    · by_cases hgone : leaving.any l.same = true
      · obtain ⟨m, hm, hms⟩ := List.any_eq_true.1 hgone
        have hfar : m ∈ s.fab.far := by
          rw [← hleaving] at hm
          exact (List.mem_filter.1 (List.mem_filter.1 hm).1).1
        exact .inr ⟨m, hfar, same_symm hms, hback.sends m hm⟩
      · refine .inl (List.mem_filter.2 ⟨hback.far.symm ▸ hl, ?_⟩)
        rw [Bool.not_eq_true] at hgone
        rw [hgone]
        rfl

/-- Settles O49. That a request that no `Inst` serves is served at once is the model's choice (log 28). -/
theorem reservedSlotsAndFarWays : Obligations.ReservedSlotsAndFarWays := by
  unfold Obligations.ReservedSlotsAndFarWays
  refine ⟨fun s => ⟨fun i n ho hi hn => ⟨fun hw => slotService_donates ho hi hn hw, fun w ws hw => slotService_serves ho hi hn hw⟩,
    slotService_unowned⟩, fun s => ⟨?line, ?store⟩, fun s resource => reservationReplacement_spec resource s,
    fun s p => ⟨?ignored, ?stored, l2farTakeEffect_spec s p⟩⟩
  case line =>
    intro o g sp l ho hl hg hleft
    have hid := op?_id ho
    obtain ⟨hgroups, hmem, hqueued, hserved⟩ := departLine_spec (s := s.tick) (g := g) (o := o) (sp := sp) (l := l) (by rw [hid]; exact ho)
    rw [hid] at hqueued hserved
    exact ⟨_, exec_departLine ho hl hg hleft, hgroups, hmem, hqueued, hserved⟩
  case store =>
    intro c g ho hc hg hleft hacc
    have hid : c.id = s.turn.x := by simpa using List.find?_some hc
    obtain ⟨hgroups, hmem, hqueued, hserved⟩ := departStore_spec (s := s.tick) (g := g) c
    refine ⟨_, exec_departStore ho hc hg hleft hacc, hgroups, hmem, ?_, hserved⟩
    rw [← hid]
    exact hqueued
  case ignored =>
    intro value hbad
    refine if_pos ?_
    rcases hbad with hp | hz
    · rw [decide_eq_true hp, Bool.or_true]
    · rw [bne_iff_ne.2 hz, Bool.true_or]
  case stored =>
    intro value hp hz
    have hexec : exec (.l2farWrite p value) s = .next (s.onPart p (fun q => { q with l2far := value })) :=
      if_neg (by rw [hz, decide_eq_false (Nat.not_le.2 hp)]; decide)
    refine ⟨_, hexec, ?_, ?_, rfl, rfl⟩
    · rw [State.part_onPart_self]
    · rw [State.part_onPart_self]

end Sys2Proof.Machine
end

section
/-!
SUPPORT. Transmit channels: how a channel reads back, and what moves it (02 R27 to R37, R43, R46, R47, Tables 2.1 and 2.2; O50).
-/
namespace Sys2Proof.Machine

variable {s t u : State} {f : Fabric} {g : Group} {i : Installation} {c d : Channel} {n m : Nat}

/-! ### Channels of the fabric -/

/-- A search passes over a filter that keeps all it looks for. -/
theorem find?_filter_keeps {α : Type} (p q : α → Bool) (l : List α) (h : ∀ x, q x = true → p x = true) :
    (l.filter p).find? q = l.find? q := by
  induction l with
  | nil => rfl
  | cons x l ih =>
    rw [List.filter_cons, List.find?_cons]
    cases hq : q x with
    | true => rw [if_pos (h x hq), List.find?_cons, hq]
    | false =>
      split
      · rw [List.find?_cons, hq, ih]
      · exact ih

/-- A search finds nothing behind a filter that drops all it looks for. -/
theorem find?_filter_drops {α : Type} (p q : α → Bool) (l : List α) (h : ∀ x, q x = true → p x = false) : (l.filter p).find? q = none :=
  List.find?_eq_none.2 (fun x hx hq => by
    have := (List.mem_filter.1 hx).2
    rw [h x hq] at this
    exact Bool.false_ne_true this)

/-- A channel is the first entry of its number. -/
theorem chan?_eq (f : Fabric) (n : Nat) : f.chan? n = (f.channels.find? (fun e => e.1 == n)).map (fun e => e.2) := by
  have hget (l : List (Nat × Channel)) : Sparse.get (none : Option Channel) (l.map (fun e => (e.1, some e.2))) n =
      (l.find? (fun e => e.1 == n)).map (fun e => e.2) := by
    induction l with
    | nil => rfl
    | cons e l ih =>
      rw [List.map_cons, List.find?_cons]
      unfold Sparse.get
      by_cases he : e.1 = n
      · rw [if_pos he, beq_iff_eq.2 he]
        rfl
      · rw [if_neg he, beq_eq_false_iff_ne.2 he]
        exact ih
  unfold Fabric.chan?
  rw [hget]
  cases (f.channels.find? (fun e => e.1 == n)).map (fun e => e.2) <;> rfl

/-- Channels read alike where the lists of channels are one. -/
theorem chan?_congr {e f : Fabric} (h : e.channels = f.channels) (n : Nat) : e.chan? n = f.chan? n := by rw [chan?_eq, chan?_eq, h]

theorem chan?_putChan_self (f : Fabric) (n : Nat) (c : Channel) : (f.putChan n c).chan? n = some c := by
  rw [chan?_eq]
  unfold Fabric.putChan
  simp only
  rw [List.append_assoc, List.find?_append, find?_filter_drops _ _ _ (fun e he => by simp [beq_iff_eq.1 he]), List.singleton_append,
    List.find?_cons, beq_self_eq_true]
  rfl

theorem chan?_putChan_ne (f : Fabric) (c : Channel) (h : n ≠ m) : (f.putChan n c).chan? m = f.chan? m := by
  rw [chan?_eq, chan?_eq]
  unfold Fabric.putChan
  simp only
  rw [List.append_assoc, List.find?_append, List.singleton_append, List.find?_cons, beq_eq_false_iff_ne.2 h]
  simp only
  rcases Nat.lt_or_gt_of_ne h with hlt | hgt
  · rw [find?_filter_drops _ _ _ (fun e he => by simp [beq_iff_eq.1 he]; omega),
      find?_filter_keeps _ _ _ (fun e he => by simp [beq_iff_eq.1 he]; omega), Option.none_or]
  · rw [find?_filter_keeps _ _ _ (fun e he => by simp [beq_iff_eq.1 he]; omega),
      find?_filter_drops _ _ _ (fun e he => by simp [beq_iff_eq.1 he]; omega), Option.or_none]

theorem chan?_dropChan_ne (f : Fabric) (h : n ≠ m) : (f.dropChan n).chan? m = f.chan? m := by
  rw [chan?_eq, chan?_eq]
  unfold Fabric.dropChan
  simp only
  rw [find?_filter_keeps _ _ _ (fun e he => by simpa [beq_iff_eq.1 he] using h.symm)]

theorem chan?_dropChan_self (f : Fabric) (n : Nat) : (f.dropChan n).chan? n = none := by
  rw [chan?_eq]
  unfold Fabric.dropChan
  simp only
  rw [find?_filter_drops _ _ _ (fun e he => by simp [beq_iff_eq.1 he])]
  rfl

/-- With one entry for each number, every entry is its channel. -/
theorem chan?_of_mem {e : Nat × Channel} (hn : (f.channels.map (fun e => e.1)).Nodup) (he : e ∈ f.channels) : f.chan? e.1 = some e.2 := by
  rw [chan?_eq]
  generalize f.channels = l at hn he
  induction l with
  | nil => exact nomatch he
  | cons a l ih =>
    rw [List.map_cons, List.nodup_cons] at hn
    rw [List.find?_cons]
    rcases List.mem_cons.1 he with rfl | hm
    · rw [beq_self_eq_true]
      rfl
    · have hne : (a.1 == e.1) = false := beq_eq_false_iff_ne.2 (fun h => hn.1 (by rw [h]; exact List.mem_map_of_mem hm))
      rw [hne]
      exact ih hn.2 hm

/-! ### Revoking a channel (02 R46, R49) -/

/-- A channel out of service. -/
def Channel.revoked (c : Channel) : Channel := { c with state := .revoked, queue := [], guard := 0 }

/-- Restoring the turns of a pool's destinations moves slot-table entries and pools alone. -/
theorem restore_rest (f : Fabric) (p : Pool) (dests : List Nat) : f.restore p dests = { f with
    slots := (f.restore p dests).slots, pools := (f.restore p dests).pools } := by
  unfold Fabric.restore
  induction dests generalizing f with
  | nil => rfl
  | cons d dests ih =>
    rw [List.foldl_cons, ih]
    split
    · rfl
    · split
      · rfl
      · split <;> rfl

/-- What revoking a channel leaves: the channel out of service and noted, every other channel as it is. -/
structure Revokes (n : Nat) (f e : Fabric) : Prop where
  chan : ∀ c, f.chan? n = some c → e.chan? n = some c.revoked ∧ n ∈ e.revoked
  others : ∀ m, m ≠ n → e.chan? m = f.chan? m
  noted : ∀ m, m ∈ f.revoked → m ∈ e.revoked

theorem revoke_revokes (f : Fabric) (n : Nat) : Revokes n f (f.revoke n) := by
  unfold Fabric.revoke
  cases hc : f.chan? n with
  | none => exact ⟨fun c h => absurd (hc.symm.trans h) nofun, fun m _ => rfl, fun m h => h⟩
  | some c =>
    simp only
    have hput : Revokes n f { (f.putChan n { c with state := .revoked, queue := [], guard := 0 }) with
        revoked := if f.revoked.contains n then f.revoked else f.revoked ++ [n] } := by
      refine ⟨fun d hd => ⟨?_, ?_⟩, fun m hm => chan?_putChan_ne f _ hm.symm, fun m hm => ?_⟩
      · cases hc.symm.trans hd
        exact chan?_putChan_self f n c.revoked
      · simp only
        split
        · next h => exact List.contains_iff_mem.1 h
        · exact List.mem_append_right _ List.mem_cons_self
      · simp only
        split
        · exact hm
        · exact List.mem_append_left _ hm
    split
    · exact hput
    · next p _ =>
      have hrest := restore_rest { (f.putChan n { c with state := .revoked, queue := [], guard := 0 }) with
        revoked := if f.revoked.contains n then f.revoked else f.revoked ++ [n] } p
      refine ⟨fun d hd => ?_, fun m hm => ?_, fun m hm => ?_⟩
      · rw [hrest]
        exact hput.chan d hd
      · rw [hrest]
        exact hput.others m hm
      · rw [hrest]
        exact hput.noted m hm

/-- A run of revocations takes every channel that it names out of service. -/
theorem revokeAll_chan (ns : List Nat) {f : Fabric} (hc : f.chan? n = some c) (hn : n ∈ ns ∨ (c = c.revoked ∧ n ∈ f.revoked)) :
    (ns.foldl Fabric.revoke f).chan? n = some c.revoked ∧ n ∈ (ns.foldl Fabric.revoke f).revoked := by
  induction ns generalizing f c with
  | nil =>
    obtain ⟨hrev, hin⟩ := hn.resolve_left List.not_mem_nil
    exact ⟨hrev ▸ hc, hin⟩
  | cons m ns ih =>
    have hone := revoke_revokes f m
    rw [List.foldl_cons]
    by_cases hm : m = n
    · subst hm
      obtain ⟨hchan, hin⟩ := hone.chan c hc
      exact ih (c := c.revoked) hchan (.inr ⟨rfl, hin⟩)
    · have hchan := (hone.others n (fun h => hm h.symm)).trans hc
      refine ih hchan (hn.imp (fun h => (List.mem_cons.1 h).resolve_left (fun h => hm h.symm)) (fun h => ⟨h.1, hone.noted n h.2⟩))

/-! ### The event that reports a failure (02 R43) -/

/-- What raising one event of a kind leaves. -/
structure Reports (code : Nat) (s t : State) : Prop where
  log : ∃ e : HostEvent, t.host.eventLog = s.host.eventLog ++ [e] ∧ e.code = code
  fab : t.fab = s.fab
  groups : t.groups = s.groups
  mem : t.mem = s.mem

theorem fabricHostEvent_reports (s : State) (w : Word) : Reports (0x20 + wbits w 31 28) s (s.fabricHostEvent w) :=
  ⟨⟨s.logEntry (0x20 + wbits w 31 28) 0 w.toNat 0 0, State.event_log .., rfl⟩, State.event_fab .., State.event_groups .., State.event_mem ..⟩

theorem fabricEvent_reports (s : State) (h w : Word) : Reports (0x20 + wbits w 31 28) s (s.fabricEvent h w) := by
  unfold State.fabricEvent
  refine ⟨⟨_, (State.event_log ..).trans (congrArg (fun x : HostSide => x.eventLog ++ _) (State.onInst_host ..)), by rfl⟩, ?_, ?_, ?_⟩
  · rw [State.event_fab, State.onInst_fab]
  · rw [State.event_groups, State.onInst_groups]
  · rw [State.event_mem, State.onInst_mem]

theorem channelEvent_reports (s : State) (n : Nat) (w : Word) : Reports (0x20 + wbits w 31 28) s (s.channelEvent n w) := by
  unfold State.channelEvent
  split
  · exact fabricHostEvent_reports ..
  · split
    · exact fabricHostEvent_reports ..
    · exact fabricEvent_reports ..

/-- The kind of an event word. -/
theorem fabricWord_kind {kind : Nat} (h : kind < 16) (port laser dest : Nat) : wbits (fabricWord kind port laser dest) 31 28 = kind := by
  unfold fabricWord wbits bitsOf
  rw [BitVec.toNat_ofNat, Nat.shiftRight_eq_div_pow]
  omega

/-- Events to each of some installations leave the fabric, the groups and device memory. -/
theorem fabricEvents_rest (hs : List Word) (w : Word) (s : State) : (hs.foldl (fun t h => t.fabricEvent h w) s).fab = s.fab ∧
    (hs.foldl (fun t h => t.fabricEvent h w) s).groups = s.groups ∧ (hs.foldl (fun t h => t.fabricEvent h w) s).mem = s.mem ∧
    (hs.foldl (fun t h => t.fabricEvent h w) s).pkg = s.pkg := by
  have hpkg (t : State) (h : Word) : (t.fabricEvent h w).pkg = t.pkg := by
    unfold State.fabricEvent
    rw [State.event_pkg, State.onInst_pkg]
  exact ⟨foldl_keeps State.fab _ _ (fun t h _ => (fabricEvent_reports t h w).fab) s,
    foldl_keeps State.groups _ _ (fun t h _ => (fabricEvent_reports t h w).groups) s,
    foldl_keeps State.mem _ _ (fun t h _ => (fabricEvent_reports t h w).mem) s, foldl_keeps State.pkg _ _ (fun t h _ => hpkg t h) s⟩

/-! ### The moves of a channel (02 Table 2.1, R37, R46) -/

/-- A port's channels and its receive side out of service. -/
def Fabric.failPort (f : Fabric) (p : Nat) : Fabric :=
  let f1 := ((f.ofPort p).map (fun e => e.1)).foldl Fabric.revoke f
  { f1 with ports := Sparse.alter {} f1.ports p (fun q => { q with failed := true, ingress := [], relay := [] }) }

theorem port_alter (f : Fabric) (p : Nat) (change : Port → Port) :
    ({ f with ports := Sparse.alter {} f.ports p change } : Fabric).port p = change (f.port p) := (Sparse.get_alter ..).trans (if_pos rfl)

theorem failPort_port (f : Fabric) (p : Nat) : (f.failPort p).port p =
    { (((f.ofPort p).map (fun e => e.1)).foldl Fabric.revoke f).port p with failed := true, ingress := [], relay := [] } := port_alter ..

theorem portFailure_reports (hx : s.turn.x < 36) : ∃ t, exec .portFailure s = .next t ∧ t.fab = s.fab.failPort s.turn.x ∧
    t.groups = s.groups := by
  show ∃ t, execPortFailure s = .next t ∧ _
  unfold execPortFailure
  simp only
  rw [if_neg (Nat.not_le.2 hx)]
  split
  · exact ⟨(s.onFab (fun f => f.failPort s.turn.x)).fabricHostEvent (fabricWord 2 s.turn.x 0 0), rfl, (fabricHostEvent_reports ..).fab,
      (fabricHostEvent_reports ..).groups⟩
  · exact ⟨_, rfl, (fabricEvents_rest ..).1, (fabricEvents_rest ..).2.1⟩

/-- An entry that is not kept reads as the default. -/
theorem get_keep_drops {α : Type} (d : α) {p : Nat → Bool} (m : Sparse α) (k : Nat) (h : p k = false) :
    Sparse.get d (Sparse.keep p m) k = d := by
  unfold Sparse.keep
  induction m with
  | nil => rfl
  | cons e m ih =>
    rw [List.filter_cons]
    split
    · next he =>
      unfold Sparse.get
      rw [if_neg (fun hk => by rw [hk, h] at he; exact Bool.false_ne_true he)]
      exact ih
    · exact ih

section
variable (hc : s.fab.chan? (chanOf s.turn.x s.turn.y) = some c)
include hc

/-- The state in which the turn's channel has become another. -/
theorem guardElapsed_stands (ht : c.state = .tuning) (hg : c.guard = 0) :
    exec .guardElapsed s = .next (s.onFab (fun f => f.putChan (chanOf s.turn.x s.turn.y) { c with state := .standing })) := by
  show execGuardElapsed s = _
  unfold execGuardElapsed
  simp only [hc]
  exact if_pos (by rw [ht, hg]; rfl)

theorem guardElapsed_stays (h : c.state ≠ .tuning ∨ c.guard ≠ 0) : exec .guardElapsed s = .next s := by
  show execGuardElapsed s = _
  unfold execGuardElapsed
  simp only [hc]
  exact if_neg (by simpa [Classical.or_iff_not_imp_left] using h)

theorem drainComplete_frees (hd : c.state = .draining) (hq : c.queue = []) :
    exec .drainComplete s = .next (s.onFab (fun f => f.putChan (chanOf s.turn.x s.turn.y) { c with state := .free })) := by
  show execDrainComplete s = _
  unfold execDrainComplete
  simp only [hc]
  exact if_pos (by rw [hd, hq]; rfl)

theorem drainComplete_stays (h : c.state ≠ .draining ∨ c.queue ≠ []) : exec .drainComplete s = .next s := by
  show execDrainComplete s = _
  unfold execDrainComplete
  simp only [hc]
  exact if_neg (by simpa [Classical.or_iff_not_imp_left] using h)

/-- At a turn's guard frames a slotted channel turns to the turn's destination, and sends what it holds for the old one. -/
theorem turnBoundary_turns {d : Nat} (hd : s.fab.turnDest (chanOf s.turn.x s.turn.y) (turnAt s.fab.rotcfg s.pkg.frame) = some d)
    (hg : guardAt s.fab.rotcfg s.pkg.frame = true) (hne : c.dest ≠ d) :
    ∃ kept, exec .turnBoundary s = .next (s.onFab (fun f => f.putChan (chanOf s.turn.x s.turn.y) { c with dest := d, queue := kept })) ∧
      kept.Sublist c.queue ∧ (∀ q ∈ c.queue, q.1 ≠ c.dest → q ∈ kept) ∧ ∀ q ∈ kept, q.1 = c.dest → q.2.reserved = false := by
  refine ⟨c.queue.filter (fun q => q.1 != c.dest || (!q.2.reserved && s.fab.paused s.turn.x q.1)), ?_, List.filter_sublist, ?_, ?_⟩
  · show execTurnBoundary s = _
    unfold execTurnBoundary
    simp only [hc, hd]
    exact if_pos (by rw [hg, bne_iff_ne.2 hne]; rfl)
  · exact fun q hq hother => List.mem_filter.2 ⟨hq, by rw [bne_iff_ne.2 hother, Bool.true_or]⟩
  · intro q hq hsame
    have := (List.mem_filter.1 hq).2
    rw [hsame, bne_self_eq_false, Bool.false_or] at this
    simpa using (Bool.and_eq_true_iff.1 this).1

theorem laserFailure_spec (hx : s.turn.x < 36) (hy : s.turn.y < 16) : ∃ t e, exec .laserFailure s = .next t ∧ t.groups = s.groups ∧
    chanOf s.turn.x s.turn.y ∈ t.fab.revoked ∧
    t.fab.chan? (chanOf s.turn.x s.turn.y) = some { c with state := .revoked, queue := [], guard := 0 } ∧
    t.host.eventLog = s.host.eventLog ++ [e] ∧ e.code = 0x21 := by
  obtain ⟨hchan, hin⟩ := (revoke_revokes s.fab (chanOf s.turn.x s.turn.y)).chan c hc
  have hexec := (if_neg (by omega) : execLaserFailure s = _)
  have hrep := channelEvent_reports (s.onFab (fun f => f.revoke (chanOf s.turn.x s.turn.y))) (chanOf s.turn.x s.turn.y)
    (fabricWord 1 s.turn.x s.turn.y
      (((s.fab.chan? (chanOf s.turn.x s.turn.y)).map (fun c => if c.state.tuned || c.state == .slotted then c.dest else 0)).getD 0))
  rw [fabricWord_kind (by decide)] at hrep
  obtain ⟨e, hlog, hcode⟩ := hrep.log
  refine ⟨_, e, hexec, hrep.groups, ?_, ?_, hlog, hcode⟩
  · rw [hrep.fab]
    exact hin
  · rw [hrep.fab]
    exact hchan

theorem portFailure_spec (hx : s.turn.x < 36) : ∃ t, exec .portFailure s = .next t ∧ t.groups = s.groups ∧
    (t.fab.port s.turn.x).failed = true ∧ (t.fab.port s.turn.x).ingress = [] ∧
    (chanOf s.turn.x s.turn.y / 16 = s.turn.x → chanOf s.turn.x s.turn.y ∈ t.fab.revoked ∧
      t.fab.chan? (chanOf s.turn.x s.turn.y) = some { c with state := .revoked, queue := [], guard := 0 }) := by
  obtain ⟨t, hexec, hfab, hgroups⟩ := portFailure_reports hx
  refine ⟨t, hexec, hgroups, ?_, ?_, fun hport => ?_⟩
  · rw [hfab, failPort_port]
  · rw [hfab, failPort_port]
  · have hin : chanOf s.turn.x s.turn.y ∈ (s.fab.ofPort s.turn.x).map (fun e => e.1) := by
      have hc' := hc
      rw [chan?_eq] at hc'
      obtain ⟨e, he, -⟩ := Option.map_eq_some_iff.1 hc'
      have hnum : e.1 = chanOf s.turn.x s.turn.y := by simpa using List.find?_some he
      refine List.mem_map.2 ⟨e, List.mem_filter.2 ⟨List.mem_of_find?_eq_some he, ?_⟩, hnum⟩
      rw [hnum, hport]
      exact beq_self_eq_true _
    rw [hfab]
    exact (revokeAll_chan _ hc (.inl hin)).symm

/-- A repair frees a channel, clears its entries, and lets its port serve again. -/
theorem channelRepair_spec (hr : c.state = .revoked) : ∃ t, exec .channelRepair s = .next t ∧
    t.fab.chan? (chanOf s.turn.x s.turn.y) = some { c with state := .free, dest := 0 } ∧ chanOf s.turn.x s.turn.y ∉ t.fab.revoked ∧
    (∀ turn, turn < 64 → t.fab.entry (chanOf s.turn.x s.turn.y) turn = 0#32) ∧ (t.fab.port s.turn.x).failed = false := by
  let n := chanOf s.turn.x s.turn.y
  have hexec : exec .channelRepair s = .next (s.onFab (fun f => { (f.putChan n { c with state := .free, dest := 0 }) with
      slots := Sparse.keep (fun k => k / 64 != n) f.slots, revoked := f.revoked.filter (· != n)
      ports := Sparse.alter {} f.ports s.turn.x (fun q => { q with failed := false }) })) := by
    show execChannelRepair s = _
    unfold execChannelRepair
    simp only [hc]
    exact if_pos (by rw [hr]; rfl)
  refine ⟨_, hexec, chan?_putChan_self s.fab n _, fun h => absurd (List.mem_filter.1 h).2 (by simp [n]), fun turn ht => ?_, ?_⟩
  · have hslot : slotOf n turn / 64 = n := by
      unfold slotOf
      omega
    refine get_keep_drops (p := fun k => k / 64 != n) 0#32 s.fab.slots (slotOf n turn) ?_
    simp only [hslot]
    exact bne_self_eq_false n
  · exact congrArg Port.failed (port_alter s.fab s.turn.x (fun q => { q with failed := false }))

end

end Sys2Proof.Machine
end

section
/-!
SUPPORT. The lease controller, the rotation, allotments and fabric events (02 R27 to R30, R32, R35, R43, R47; O50).
-/
namespace Sys2Proof.Machine

variable {s t u : State} {f : Fabric} {g : Group} {i : Installation} {c d : Channel} {n m : Nat}

/-! ### The lease controller (02 R28 to R30) -/

/-- A grant does not read what is asked for. -/
theorem grant_requests (rs : List LeaseReq) (pool dest : Nat) (ports : List Nat) : ∀ (f : Fabric) (count : Nat),
    ({ f with requests := rs } : Fabric).grant pool dest count ports =
      ({ (f.grant pool dest count ports).1 with requests := rs }, (f.grant pool dest count ports).2) := by
  induction ports with
  | nil => exact fun f count => rfl
  | cons p ports ih =>
    intro f count
    unfold Fabric.grant
    by_cases h0 : count = 0
    · rw [if_pos h0, if_pos h0]
    · rw [if_neg h0, if_neg h0]
      have hfree : (if ({ f with requests := rs } : Fabric).reaches p dest && !({ f with requests := rs } : Fabric).portHolds p dest then
          (({ f with requests := rs } : Fabric).ofPort p).find? (fun e => e.2.pool == pool && e.2.state == .free) else none) =
          (if f.reaches p dest && !f.portHolds p dest then (f.ofPort p).find? (fun e => e.2.pool == pool && e.2.state == .free) else none) := rfl
      rw [hfree]
      cases (if f.reaches p dest && !f.portHolds p dest then
        (f.ofPort p).find? (fun e => e.2.pool == pool && e.2.state == .free) else none) with
      | none => exact ih f count
      | some e =>
        have hput := ih (f.putChan e.1 { e.2 with state := .tuning, dest := dest, guard := rotGuard f.rotcfg }) (count - 1)
        have hsame : ({ f with requests := rs } : Fabric).putChan e.1 { e.2 with state := .tuning, dest := dest, guard := rotGuard f.rotcfg } =
            { (f.putChan e.1 { e.2 with state := .tuning, dest := dest, guard := rotGuard f.rotcfg }) with requests := rs } := rfl
        simp only
        rw [hsame, hput]

/-- A grant gives at most as many channels as are asked for. -/
theorem grant_le (pool dest : Nat) (ports : List Nat) : ∀ (f : Fabric) (count : Nat), (f.grant pool dest count ports).2 ≤ count := by
  induction ports with
  | nil => exact fun f count => Nat.zero_le _
  | cons p ports ih =>
    intro f count
    unfold Fabric.grant
    split
    · exact Nat.zero_le _
    · next h0 =>
      split
      · exact ih f count
      · exact Nat.add_le_of_le_sub (Nat.one_le_iff_ne_zero.2 h0) (ih _ _)

/-- Draining does not read what is asked for. -/
theorem drain_requests (rs : List LeaseReq) (chans : List Nat) : ∀ f : Fabric,
    ({ f with requests := rs } : Fabric).drain chans = { f.drain chans with requests := rs } := by
  unfold Fabric.drain
  induction chans with
  | nil => exact fun f => rfl
  | cons n chans ih =>
    intro f
    rw [List.foldl_cons, List.foldl_cons]
    have hchan : ({ f with requests := rs } : Fabric).chan? n = f.chan? n := rfl
    rw [hchan]
    cases f.chan? n with
    | none => exact ih f
    | some c => exact ih (f.putChan n { c with state := if c.queue.isEmpty then .free else .draining })

/-- Whether a lease request's destination or count is refused (02 R29). -/
def Fabric.refuses (f : Fabric) (p : Pool) (r : LeaseReq) : Bool :=
  (decide (4096 ≤ r.dest.toNat) || !f.leasable p r.dest.toNat) || (decide (r.count.toNat = 0) || decide (18 < r.count.toNat))

/-- The status of a request by how many channels it moved (02 Table 2.5). -/
def moveStatus (asked moved : Nat) : Nat := if moved = asked then 0 else if 0 < moved then 1 else 2

theorem applyLease_lease {r : LeaseReq} {p : Pool} (hi : s.inst? r.handle = some i) (hp : s.fab.pool? r.handle = some p)
    (hk : r.kind = .lease) : s.applyLease r =
      if i.streamLost then s.leaseResult r 1 4 0
      else if s.fab.refuses p r then s.leaseResult r 1 3 0
      else if !p.starved.isEmpty then s.leaseResult r 1 2 0
      else (s.onFab (fun _ => (s.fab.grant p.number r.dest.toNat r.count.toNat (List.range 36)).1)).leaseResult r 1
        (moveStatus r.count.toNat (s.fab.grant p.number r.dest.toNat r.count.toNat (List.range 36)).2)
        (s.fab.grant p.number r.dest.toNat r.count.toNat (List.range 36)).2 := by
  unfold State.applyLease
  simp only [hi, hp, hk]
  rfl

theorem applyLease_unlease {r : LeaseReq} {p : Pool} (hi : s.inst? r.handle = some i) (hp : s.fab.pool? r.handle = some p)
    (hk : r.kind = .unlease) : s.applyLease r =
      if i.streamLost then s.leaseResult r 2 4 0
      else if s.fab.refuses p r then s.leaseResult r 2 3 0
      else (s.onFab (fun f => f.drain ((s.drainable p.number r.dest.toNat).take r.count.toNat))).leaseResult r 2
        (moveStatus r.count.toNat ((s.drainable p.number r.dest.toNat).take r.count.toNat).length)
        ((s.drainable p.number r.dest.toNat).take r.count.toNat).length := by
  unfold State.applyLease
  simp only [hi, hp, hk]
  rfl

/-- The state in which the controller takes the one request that is due: it is no longer asked for, and its group waits for one
answer less. -/
def State.takingLease (s : State) (r : LeaseReq) : State :=
  (s.tick.onFab (fun f => { f with requests := [] })).onGroup r.gid (fun g => { g with leaseOut := g.leaseOut - 1 })

theorem leaseApply_one {r : LeaseReq} {p : Pool} (hr : s.fab.requests = [r]) (hdue : r.frame < s.pkg.frame)
    (hk : r.kind = .lease ∨ r.kind = .unlease) (hp : s.fab.pool? r.handle = some p) :
    exec .leaseControllerApply s = .next ((s.takingLease r).applyLease r) := by
  have hreq : s.tick.fab.requests = [r] := hr
  have hdue' : decide (r.frame < s.tick.pkg.frame) = true := decide_eq_true hdue
  have hkept : s.tick.onFab (fun f => { f with requests := f.requests.filter (fun r => !decide (r.frame < s.tick.pkg.frame)) }) =
      s.tick.onFab (fun f => { f with requests := [] }) := by
    have hnone : s.tick.fab.requests.filter (fun r => !decide (r.frame < s.tick.pkg.frame)) = [] := by
      rw [hreq, List.filter_cons, hdue']
      rfl
    exact congrArg (fun rs : List LeaseReq => s.tick.onFab (fun f => { f with requests := rs })) hnone
  have hpool : (s.takingLease r).fab.pool? r.handle = some p := by
    unfold State.takingLease
    rw [State.onGroup_fab]
    exact hp
  show Host.Outcome.next s.tick.leaseApply = _
  unfold State.leaseApply
  simp only
  rw [hkept, hreq, List.filter_cons, hdue']
  rcases hk with hk | hk
  · simp only [List.filter_nil, if_true, sortLeases, insertLease, List.foldl_cons, List.foldl_nil, hk]
    unfold State.takingLease at hpool ⊢
    rw [hpool]
  · simp only [List.filter_nil, if_true, sortLeases, insertLease, List.foldl_cons, List.foldl_nil, hk]
    unfold State.takingLease at hpool ⊢
    rw [hpool]

/-- What an answer of the controller leaves: its word in q10, and one answer less to wait for. -/
structure Answers (r : LeaseReq) (g : Group) (op status count : Nat) (t : State) : Prop where
  group : ∃ h, t.group? r.gid = some h ∧ h.leaseOut = g.leaseOut - 1 ∧
    h.queue 10 = g.queue 10 ++ [leaseWord op status count (wbits r.dest 11 0)]

theorem leaseResult_answers {r : LeaseReq} (hg : s.group? r.gid = some { g with leaseOut := g.leaseOut - 1 })
    (hlive : g.gstate ≠ .retired) (op status count : Nat) : Answers r g op status count (s.leaseResult r op status count) ∧
      (s.leaseResult r op status count).fab = s.fab ∧ (s.leaseResult r op status count).mem = s.mem := by
  refine ⟨⟨({ g with leaseOut := g.leaseOut - 1 } : Group).setQueue 10 (g.queue 10 ++ [leaseWord op status count (wbits r.dest 11 0)]), ?_,
    rfl, ?_⟩, State.onGroup_fab .., State.onGroup_mem ..⟩
  · refine (congrArg (fun w : State => w.group? r.gid) (pushWords_eq hg hlive 10 _)).trans ?_
    exact State.group?_onGroup_self (f := fun k => k.setQueue 10 (k.queue 10 ++ [leaseWord op status count (wbits r.dest 11 0)])) hg
      (State.group?_gid (g := { g with leaseOut := g.leaseOut - 1 }) hg)
  · exact Sparse.get_set_self ..

theorem takingLease_group {r : LeaseReq} (hg : s.group? r.gid = some g) : (s.takingLease r).group? r.gid = some { g with leaseOut := g.leaseOut - 1 } :=
  State.group?_onGroup_self (s := s.tick.onFab (fun f => { f with requests := [] })) (f := fun g => { g with leaseOut := g.leaseOut - 1 }) hg
    (show g.gid = r.gid from State.group?_gid hg)

theorem takingLease_rest (s : State) (r : LeaseReq) : (s.takingLease r).fab = { s.fab with requests := [] } ∧ (s.takingLease r).installs = s.installs ∧
    (s.takingLease r).mem = s.mem := by
  unfold State.takingLease
  rw [State.onGroup_fab, State.onGroup_installs, State.onGroup_mem]
  exact ⟨rfl, rfl, rfl⟩

/-- An answer in the state that took the request. -/
theorem takingLease_answers {r : LeaseReq} (hg : s.group? r.gid = some g) (hlive : g.gstate ≠ .retired) (f : Fabric) (op status count : Nat) :
    let t := ((s.takingLease r).onFab (fun _ => f)).leaseResult r op status count
    Answers r g op status count t ∧ t.fab = f ∧ t.mem = s.mem := by
  obtain ⟨hans, hfab, hmem⟩ := leaseResult_answers (s := (s.takingLease r).onFab (fun _ => f)) (takingLease_group hg) hlive op status count
  exact ⟨hans, hfab, hmem.trans (takingLease_rest s r).2.2⟩

theorem refuses_eq (s : State) (p : Pool) (r : LeaseReq) : (s.takingLease r).fab.refuses p r =
    (decide (4096 ≤ r.dest.toNat) || !s.fab.leasable p r.dest.toNat || decide (r.count.toNat = 0) || decide (18 < r.count.toNat)) := by
  rw [(takingLease_rest s r).1]
  exact (Bool.or_assoc ..).symm

/-- A LEASE or UNLEASE that is due is taken in the state `takingLease`. -/
theorem takingLease_finds {r : LeaseReq} {p : Pool} (hp : s.fab.pool? r.handle = some p) (hi : s.inst? r.handle = some i) :
    (s.takingLease r).inst? r.handle = some i ∧ (s.takingLease r).fab.pool? r.handle = some p := by
  obtain ⟨hfab, hinst, -⟩ := takingLease_rest s r
  refine ⟨?_, ?_⟩
  · unfold State.inst?
    rw [hinst]
    exact hi
  · rw [hfab]
    exact hp

/-- What the controller's answer to LEASE or UNLEASE leaves: the request is gone, memory is as it was, and the channels are those of a
fabric that asks for nothing. -/
theorem answered_rest {r : LeaseReq} (hg : s.group? r.gid = some g) (hlive : g.gstate ≠ .retired) {f : Fabric} (hf : f.requests = [])
    (op status count : Nat) : let t := ((s.takingLease r).onFab (fun _ => f)).leaseResult r op status count
    t.fab.requests = [] ∧ t.mem = s.mem ∧ Answers r g op status count t ∧ t.fab.channels = f.channels := by
  obtain ⟨hans, hfab, hmem⟩ := takingLease_answers (r := r) hg hlive f op status count
  exact ⟨(congrArg Fabric.requests hfab).trans hf, hmem, hans, congrArg Fabric.channels hfab⟩

/-- An answer that moves no channel. -/
theorem answered_kept {r : LeaseReq} (hg : s.group? r.gid = some g) (hlive : g.gstate ≠ .retired) (op status count : Nat) :
    let t := (s.takingLease r).leaseResult r op status count
    t.fab.requests = [] ∧ t.mem = s.mem ∧ Answers r g op status count t ∧ t.fab.channels = s.fab.channels := by
  obtain ⟨hfab, -⟩ := takingLease_rest s r
  obtain ⟨hreq, hmem, hans, hchan⟩ := answered_rest hg hlive (f := (s.takingLease r).fab) (congrArg Fabric.requests hfab) op status count
  exact ⟨hreq, hmem, hans, hchan.trans ((congrArg Fabric.channels hfab).trans rfl)⟩

/-! ### The rotation (02 R32) -/

theorem rotCheck_rest (s : State) (before : Bool) : (s.rotCheck before).fab = s.fab ∧ (s.rotCheck before).groups = s.groups ∧
    (s.rotCheck before).pkg = s.pkg := by
  unfold State.rotCheck State.fabricEventAll
  split
  · split
    · exact ⟨State.event_fab .., State.event_groups .., State.event_pkg ..⟩
    · obtain ⟨hfab, hgroups, -, hpkg⟩ := fabricEvents_rest ((s.installs.filter s.usesFabric).map (fun i => i.handle)) (fabricWord 5 0 0 0) s
      exact ⟨hfab, hgroups, hpkg⟩
  · exact ⟨rfl, rfl, rfl⟩

/-! ### STREAM_REPLACEMENT (02 R47) -/

theorem replaceStream_rest (s : State) (h : Word) (st : Stream) : (s.replaceStream h st).groups = s.groups ∧
    (s.replaceStream h st).mem = s.mem := by
  unfold State.replaceStream
  split
  · exact ⟨rfl, rfl⟩
  · simp only
    split
    · rw [(fabricEvent_reports ..).groups, (fabricEvent_reports ..).mem]
      exact ⟨State.onInst_groups .., State.onInst_mem ..⟩
    · rw [(fabricEvent_reports ..).groups, (fabricEvent_reports ..).mem]
      exact ⟨State.onInst_groups .., State.onInst_mem ..⟩

/-! ### POOL_ALLOTMENT (02 R27) -/

/-- Setting a pool's destinations moves no channel. -/
theorem setDests_rest (s : State) (h : Word) (dests : List Nat) : (s.setDests h dests).groups = s.groups ∧
    (s.setDests h dests).mem = s.mem ∧ (s.setDests h dests).fab.channels = s.fab.channels := by
  unfold State.setDests
  split
  · exact ⟨rfl, rfl, rfl⟩
  · simp only
    generalize distinct _ = all
    split
    · exact ⟨(fabricEvent_reports ..).groups, (fabricEvent_reports ..).mem, congrArg Fabric.channels (fabricEvent_reports ..).fab⟩
    · exact ⟨rfl, rfl, rfl⟩

/-- Dropping channels leaves those of other numbers, and which channels may be pooled. -/
theorem dropAll_chan (es : List (Nat × Channel)) (f : Fabric) (h : ∀ e ∈ es, e.1 ≠ n) :
    (es.foldl (fun f e => f.dropChan e.1) f).chan? n = f.chan? n := by
  induction es generalizing f with
  | nil => rfl
  | cons e es ih =>
    rw [List.foldl_cons, ih _ (fun d hd => h d (List.mem_cons_of_mem _ hd))]
    exact chan?_dropChan_ne f (h e List.mem_cons_self)

theorem dropAll_none (es : List (Nat × Channel)) (f : Fabric) (h : f.chan? n = none) :
    (es.foldl (fun f e => f.dropChan e.1) f).chan? n = none := by
  induction es generalizing f with
  | nil => exact h
  | cons e es ih =>
    rw [List.foldl_cons]
    refine ih _ ?_
    by_cases he : e.1 = n
    · rw [← he]
      exact chan?_dropChan_self f e.1
    · exact (chan?_dropChan_ne f he).trans h

theorem dropAll_poolable (es : List (Nat × Channel)) (f : Fabric) (n : Nat) :
    (es.foldl (fun f e => f.dropChan e.1) f).poolable n = f.poolable n :=
  foldl_keeps (fun f : Fabric => f.poolable n) (fun f (e : Nat × Channel) => f.dropChan e.1) es (fun _ _ _ => rfl) f

/-- Channels that join a pool are free in it; the others stay. -/
theorem joinAll_chan (ns : List Nat) (p : Nat) (f : Fabric) : (n ∈ ns ∨ f.chan? n = some { pool := p } →
    (ns.foldl (fun f n => f.putChan n { pool := p }) f).chan? n = some { pool := p }) ∧
    (n ∉ ns → (ns.foldl (fun f n => f.putChan n { pool := p }) f).chan? n = f.chan? n) := by
  induction ns generalizing f with
  | nil => exact ⟨fun h => h.resolve_left List.not_mem_nil, fun _ => rfl⟩
  | cons m ns ih =>
    rw [List.foldl_cons]
    obtain ⟨hjoins, hstays⟩ := ih (f.putChan m { pool := p })
    refine ⟨fun h => hjoins ?_, fun h => ?_⟩
    · by_cases hm : m = n
      · rw [hm]
        exact .inr (chan?_putChan_self f n _)
      · exact h.imp (fun h => (List.mem_cons.1 h).resolve_left (fun h => hm h.symm)) (fun h => (chan?_putChan_ne f _ hm).trans h)
    · rw [hstays (fun hn => h (List.mem_cons_of_mem _ hn))]
      exact chan?_putChan_ne f _ (fun hm => h (List.mem_cons.2 (.inl hm.symm)))

/-- The channels that leave a pool with an allotment: free ones that the list no longer names. -/
def Fabric.leavers (f : Fabric) (pool : Nat) (chans : List Nat) : List (Nat × Channel) :=
  (f.ofPool pool).filter (fun e => e.2.state == .free && !chans.contains e.1)

/-- The fabric with a pool's leavers dropped. -/
def Fabric.without (f : Fabric) (pool : Nat) (chans : List Nat) : Fabric := (f.leavers pool chans).foldl (fun f e => f.dropChan e.1) f

/-- The fabric with a pool's channels allotted. -/
def Fabric.allotted (f : Fabric) (pool : Nat) (chans : List Nat) : Fabric :=
  (chans.filter (fun n => (f.without pool chans).poolable n && ((f.without pool chans).chan? n).isNone)).foldl
    (fun f n => f.putChan n { pool := pool }) (f.without pool chans)

theorem allot_eq {h : Word} {p : Pool} (hp : s.fab.pool? h = some p) (chans dests : List Nat) :
    s.allot h chans dests = (s.onFab (fun _ => s.fab.allotted p.number chans)).setDests h dests := by
  unfold State.allot
  simp only [hp]
  rfl

/-- A channel outside every pool that an allotment names joins the pool free. -/
theorem allotted_joins {p : Nat} {chans : List Nat} (hn : n ∈ chans) (hpool : f.poolable n = true) (hfree : f.chan? n = none) :
    (f.allotted p chans).chan? n = some { pool := p } := by
  refine (joinAll_chan _ p _).1 (.inl (List.mem_filter.2 ⟨hn, ?_⟩))
  have hnone : (f.without p chans).chan? n = none := dropAll_none _ f hfree
  have hsame : (f.without p chans).poolable n = f.poolable n := dropAll_poolable _ f n
  rw [hnone, hsame, hpool]
  rfl

/-- A channel of another pool, or one that is in use, stays as it is. -/
theorem allotted_stays {p : Nat} {chans : List Nat} (hnodup : (f.channels.map (fun e => e.1)).Nodup) (hc : f.chan? n = some c)
    (hkeep : c.pool ≠ p ∨ c.state ≠ .free) : (f.allotted p chans).chan? n = some c := by
  have hin : (f.without p chans).chan? n = some c := by
    refine (dropAll_chan _ f (fun e he hen => ?_)).trans hc
    obtain ⟨hpool, hfree⟩ := List.mem_filter.1 he
    obtain ⟨hmem, hsame⟩ := List.mem_filter.1 hpool
    have : some e.2 = some c := by rw [← chan?_of_mem hnodup hmem, hen, hc]
    cases this
    rcases hkeep with hother | hused
    · exact hother (beq_iff_eq.1 hsame)
    · exact hused (beq_iff_eq.1 (Bool.and_eq_true_iff.1 hfree).1)
  refine ((joinAll_chan _ p _).2 (fun hjoin => ?_)).trans hin
  have := (Bool.and_eq_true_iff.1 (List.mem_filter.1 hjoin).2).2
  rw [hin] at this
  exact Bool.false_ne_true this

/-! ### FABRIC_EVENT_DELIVER (02 R43) -/

/-- The group that hears of an event is seated, of the installation, and has room in q11. -/
theorem eventGroup_hears {h : Word} (hg : s.eventGroup h = some g) : g.gstate = .seated ∧ g.ctl.handle = h ∧
    (g.queue 11).length < queueDepth 11 := by
  have hmem : g ∈ s.groups.filter (fun g => g.ctl.handle == h && g.gstate == .seated && decide ((g.queue 11).length < queueDepth 11)) := by
    have hbest : ∀ (l : List Group) (best : Option Group), l.foldl (fun (best : Option Group) g => match best with
        | none => some g
        | some b => if g.core < b.core ∨ (g.core = b.core ∧ g.seat.getD 0 < b.seat.getD 0) then some g else some b) best = some g →
        g ∈ l ∨ best = some g := by
      intro l
      induction l with
      | nil => exact fun best hb => .inr hb
      | cons k l ih =>
        intro best hb
        rcases ih _ hb with hl | hk
        · exact .inl (List.mem_cons_of_mem _ hl)
        · cases best with
          | none => exact .inl (List.mem_cons.2 (.inl (Option.some.inj hk).symm))
          | some b =>
            simp only at hk
            split at hk
            · exact .inl (List.mem_cons.2 (.inl (Option.some.inj hk).symm))
            · exact .inr hk
    exact (hbest _ none hg).resolve_right nofun
  have := (List.mem_filter.1 hmem).2
  simp only [Bool.and_eq_true, beq_iff_eq, decide_eq_true_eq] at this
  exact ⟨this.1.2, this.1.1, this.2⟩

/-- Settles O50. That an allotment is kept for a handle without an installation is the model's choice (log 21). -/
theorem fabricChannels : Obligations.FabricChannels := by
  unfold Obligations.FabricChannels
  refine ⟨fun s c hc => ⟨guardElapsed_stands hc, guardElapsed_stays hc, drainComplete_frees hc, drainComplete_stays hc,
    fun d hd hg hne => turnBoundary_turns hc hd hg hne, laserFailure_spec hc, portFailure_spec hc, channelRepair_spec hc⟩,
    fun s r g p i hr hdue hg hlive hp hi => ⟨?lease, ?unlease⟩, fun s => ⟨?rotates, ?refused, ?effect, ?waits⟩, ?streams,
    fun s h channels dests => ⟨?pending, ?allots⟩, ?delivers⟩
  case lease =>
    intro hk
    obtain ⟨hi', hp'⟩ := takingLease_finds (r := r) hp hi
    have hexec := (leaseApply_one hr hdue (.inl hk) hp).trans (congrArg _ (applyLease_lease hi' hp' hk))
    rw [refuses_eq s p r, (takingLease_rest s r).1, grant_requests] at hexec
    generalize hgrant : s.fab.grant p.number r.dest.toNat r.count.toNat (List.range 36) = granted at hexec
    have hle : granted.2 ≤ r.count.toNat := hgrant ▸ grant_le ..
    cases hlost : i.streamLost with
    | true =>
      rw [hlost, if_pos rfl] at hexec
      obtain ⟨hreq, hmem, hans, hchan⟩ := answered_kept hg hlive 1 4 0
      exact ⟨_, hexec, hreq, hmem, fun _ => ⟨hans.group, hchan⟩, nofun, nofun, nofun⟩
    | false =>
      rw [hlost, if_neg Bool.false_ne_true] at hexec
      generalize (decide (4096 ≤ r.dest.toNat) || !s.fab.leasable p r.dest.toNat || decide (r.count.toNat = 0) ||
        decide (18 < r.count.toNat)) = bad at hexec ⊢
      cases bad with
      | true =>
        rw [if_pos rfl] at hexec
        obtain ⟨hreq, hmem, hans, hchan⟩ := answered_kept hg hlive 1 3 0
        exact ⟨_, hexec, hreq, hmem, nofun, fun _ _ => ⟨hans.group, hchan⟩, nofun, nofun⟩
      | false =>
        rw [if_neg Bool.false_ne_true] at hexec
        by_cases hstarved : p.starved = []
        · rw [if_neg (by rw [hstarved]; decide)] at hexec
          obtain ⟨hreq, hmem, hans, hchan⟩ := answered_rest hg hlive (f := { granted.1 with requests := [] }) rfl 1
            (moveStatus r.count.toNat granted.2) granted.2
          exact ⟨_, hexec, hreq, hmem, nofun, nofun, fun _ _ h => absurd hstarved h,
            fun _ _ _ => ⟨granted.2, hle, hans.group, rfl, hchan⟩⟩
        · rw [if_pos (by simpa using hstarved)] at hexec
          obtain ⟨hreq, hmem, hans, hchan⟩ := answered_kept hg hlive 1 2 0
          exact ⟨_, hexec, hreq, hmem, nofun, nofun, fun _ _ _ => ⟨hans.group, hchan⟩, fun _ _ h => absurd h hstarved⟩
  case unlease =>
    intro hk
    obtain ⟨hi', hp'⟩ := takingLease_finds (r := r) hp hi
    have hdrainable : (s.takingLease r).drainable p.number r.dest.toNat = s.drainable p.number r.dest.toNat := by
      obtain ⟨hfab, hinst, -⟩ := takingLease_rest s r
      unfold State.drainable
      rw [hfab, hinst]
      rfl
    have hexec := (leaseApply_one hr hdue (.inr hk) hp).trans (congrArg _ (applyLease_unlease hi' hp' hk))
    rw [refuses_eq s p r, hdrainable] at hexec
    generalize (s.drainable p.number r.dest.toNat).take r.count.toNat = chans at hexec
    have hdrain : (s.takingLease r).onFab (fun f => f.drain chans) =
        (s.takingLease r).onFab (fun _ => { s.fab.drain chans with requests := [] }) := by
      refine congrArg (fun f => (s.takingLease r).onFab (fun _ => f)) ?_
      rw [(takingLease_rest s r).1]
      exact drain_requests [] chans s.fab
    rw [hdrain] at hexec
    cases hlost : i.streamLost with
    | true =>
      rw [hlost, if_pos rfl] at hexec
      obtain ⟨hreq, hmem, hans, hchan⟩ := answered_kept hg hlive 2 4 0
      exact ⟨_, hexec, hreq, hmem, fun _ => ⟨hans.group, hchan⟩, nofun, nofun⟩
    | false =>
      rw [hlost, if_neg Bool.false_ne_true] at hexec
      generalize (decide (4096 ≤ r.dest.toNat) || !s.fab.leasable p r.dest.toNat || decide (r.count.toNat = 0) ||
        decide (18 < r.count.toNat)) = bad at hexec ⊢
      cases bad with
      | true =>
        rw [if_pos rfl] at hexec
        obtain ⟨hreq, hmem, hans, hchan⟩ := answered_kept hg hlive 2 3 0
        exact ⟨_, hexec, hreq, hmem, nofun, fun _ _ => ⟨hans.group, hchan⟩, nofun⟩
      | false =>
        rw [if_neg Bool.false_ne_true] at hexec
        obtain ⟨hreq, hmem, hans, hchan⟩ := answered_rest hg hlive (f := { s.fab.drain chans with requests := [] }) rfl 2
          (moveStatus r.count.toNat chans.length) chans.length
        exact ⟨_, hexec, hreq, hmem, nofun, nofun, fun _ _ => ⟨hans.group, hchan⟩⟩
  case rotates => exact fun w hw => congrArg Host.Outcome.next (if_pos hw)
  case refused =>
    intro w hw
    have hexec : exec (.rotcfgWrite w) s = .next (s.fabricHostEvent (fabricWord 5 0 0 0)) :=
      congrArg Host.Outcome.next (if_neg (by rw [hw]; exact Bool.false_ne_true))
    have hrep := fabricHostEvent_reports s (fabricWord 5 0 0 0)
    obtain ⟨e, hlog, hcode⟩ := hrep.log
    refine ⟨_, e, hexec, hrep.fab, hrep.groups, hlog, hcode.trans ?_⟩
    rw [fabricWord_kind (by decide)]
  case effect =>
    intro w hw hframe
    have hexec : exec .rotcfgTakeEffect s =
        .next ((s.onFab (fun f => { f with rotcfg := w, rotNext := none })).rotCheck s.fab.rotAgrees) := by
      show execRotcfgTakeEffect s = _
      unfold execRotcfgTakeEffect
      simp only [hw]
      exact if_pos hframe
    obtain ⟨hfab, hgroups, hpkg⟩ := rotCheck_rest (s.onFab (fun f => { f with rotcfg := w, rotNext := none })) s.fab.rotAgrees
    exact ⟨_, hexec, hfab, hgroups, hpkg⟩
  case waits =>
    intro w hw hframe
    show execRotcfgTakeEffect s = _
    unfold execRotcfgTakeEffect
    simp only [hw]
    exact if_neg hframe
  case streams =>
    intro s
    have hreplaced (hit : List (Word × Stream)) : (hit.foldl (fun t p => t.replaceStream p.1 p.2) s).groups = s.groups ∧
        (hit.foldl (fun t p => t.replaceStream p.1 p.2) s).mem = s.mem :=
      ⟨foldl_keeps State.groups _ _ (fun t p _ => (replaceStream_rest t p.1 p.2).1) s,
        foldl_keeps State.mem _ _ (fun t p _ => (replaceStream_rest t p.1 p.2).2) s⟩
    refine ⟨_, rfl, (hreplaced _).1, (hreplaced _).2, rfl, fun hfar => ?_⟩
    have hnone : s.installs.flatMap (fun i => (i.streams.filter (fun st => st.fab.kind == 0 && !st.lost &&
        s.fab.revoked.contains (chanOf st.port st.laser))).map (fun st => (i.handle, st))) = [] := by
      refine List.flatMap_eq_nil_iff.2 (fun i hi => List.map_eq_nil_iff.2 (List.filter_eq_nil_iff.2 (fun st hst h => ?_)))
      exact hfar i hi st hst (List.contains_iff_mem.1 (Bool.and_eq_true_iff.1 h).2)
    rw [hnone]
    exact ⟨rfl, rfl, rfl⟩
  case pending =>
    intro hnone
    have hexec : exec (.poolAllotment h channels dests) s =
        .next (s.onFab (fun f => { f with pending := Sparse.set ([], []) f.pending h.toNat (channels, dests) })) := by
      show execPoolAllotment h channels dests s = _
      unfold execPoolAllotment
      simp only [hnone]
    exact ⟨_, hexec, Sparse.get_set_self .., rfl, rfl⟩
  case allots =>
    intro i p hi hp hnodup
    have hexec : exec (.poolAllotment h channels dests) s = .next (s.allot h channels dests) := by
      show execPoolAllotment h channels dests s = _
      unfold execPoolAllotment State.makePool
      simp only [hi, hp]
    obtain ⟨hgroups, hmem, hchans⟩ := setDests_rest (s.onFab (fun _ => s.fab.allotted p.number channels)) h dests
    rw [← allot_eq hp] at hgroups hmem hchans
    refine ⟨_, hexec, hgroups, hmem, fun n hn hpool hfree => ?_, fun n c hc hother => ?_, fun n c hc hused => ?_⟩
    · exact (chan?_congr hchans n).trans (allotted_joins hn hpool hfree)
    · exact (chan?_congr hchans n).trans (allotted_stays hnodup hc (.inl hother))
    · exact (chan?_congr hchans n).trans (allotted_stays hnodup hc (.inr hused))
  case delivers =>
    intro s h i g w ws hi hg hgid hev
    obtain ⟨hseated, hhandle, hroom⟩ := eventGroup_hears hg
    let word : Word := if i.evLost then w ||| 0x8000#32 else w
    let heard := s.onInst h (fun i => { i with events := ws, evLost := false })
    have hexec : exec (.fabricEventDeliver h) s = .next (heard.pushWords g.gid 11 [word]) := by
      show execFabricEventDeliver h s = _
      unfold execFabricEventDeliver
      simp only [hi, hg, hev]
      rfl
    have hheard : heard.group? g.gid = some g := (State.group?_congr (State.onInst_groups ..) g.gid).trans hgid
    have hpush := pushWords_eq hheard (by rw [hseated]; decide) 11 [word]
    refine ⟨_, g.setQueue 11 (g.queue 11 ++ [word]), hexec.trans (congrArg _ hpush), ?_, ?_, Sparse.get_set_self .., hseated, hhandle, hroom⟩
    · refine (congrArg (fun is : List Installation => is.find? (fun j => j.handle == h)) (State.onGroup_installs ..)).trans ?_
      exact State.inst?_onInst s (f := fun i => { i with events := ws, evLost := false }) hi (show i.handle = h from inst?_handle hi)
    · exact State.group?_onGroup_self (f := fun k => k.setQueue 11 (k.queue 11 ++ [word])) hheard rfl

end Sys2Proof.Machine
end

section
/-!
SUPPORT. Workgroups and seats: WORKGROUP_START, GROUP_SEAT, GROUP_UNSEAT and GROUP_WAKE (05 R124 to R140, 06 R156; O52).
-/
namespace Sys2Proof.Machine

variable {s t u : State} {g h : Group}

/-! ### WORKGROUP_START (05 R127, R131) -/

/-- The acquire of a launch takes the core's L1 copies alone. -/
theorem acquireAll_side (handle : Word) (cores : List Nat) (s : State) :
    ∃ cs, cores.foldl (fun t c => t.acquireEffect c handle 4) s = { s with cores := cs } := by
  induction cores generalizing s with
  | nil => exact ⟨s.cores, rfl⟩
  | cons c cs ih =>
    obtain ⟨ds, hd⟩ := ih (s.acquireEffect c handle 4)
    exact ⟨ds, hd⟩

/-- Objects that are reset are empty; only the objects change. -/
theorem resetAll_spec (keys : List Nat) (s : State) :
    ∃ bs, keys.foldl (fun t key => t.onBar key (fun _ => {})) s = { s with bars := bs } ∧
      ∀ key, (key ∈ keys ∨ Sparse.get {} s.bars key = {}) → Sparse.get {} bs key = ({} : Barrier) := by
  induction keys generalizing s with
  | nil => exact ⟨s.bars, rfl, fun key hk => hk.resolve_left List.not_mem_nil⟩
  | cons k ks ih =>
    obtain ⟨bs, hbs, hempty⟩ := ih (s.onBar k (fun _ => {}))
    refine ⟨bs, hbs, fun key hk => hempty key ?_⟩
    by_cases hin : key ∈ ks
    · exact .inl hin
    · refine .inr ?_
      show Sparse.get {} (Sparse.alter {} s.bars k (fun _ => {})) key = {}
      rw [Sparse.get_alter]
      split
      · rfl
      · next hne =>
        refine hk.resolve_left fun hmem => ?_
        rcases List.mem_cons.mp hmem with rfl | hks
        · exact hne rfl
        · exact hin hks

/-- What WORKGROUP_START makes: one group of each local number named, with its shadow in a paired kernel. -/
theorem addGroups_spec (i : Installation) (k : Kernel) (l : Launch) (p : Position) (wg : Nat) (ns : List Nat) (s : State) :
    ∃ news, (s.addGroups i k l p wg ns).groups = s.groups ++ news ∧
      (∀ g ∈ news, ∃ gid, ∃ n ∈ ns, ∃ b, g = newGroup gid i k l p wg n b) ∧
      (∀ n ∈ ns, ∃ gid, newGroup gid i k l p wg n false ∈ news) ∧ (s.addGroups i k l p wg ns).mem = s.mem ∧
      (s.addGroups i k l p wg ns).launches = s.launches ∧ (s.addGroups i k l p wg ns).bars = s.bars := by
  induction ns generalizing s with
  | nil => exact ⟨[], (List.append_nil _).symm, fun g hg => absurd hg List.not_mem_nil, fun n hn => absurd hn List.not_mem_nil, rfl, rfl, rfl⟩
  | cons n ns ih =>
    unfold State.addGroups
    simp only
    split
    · obtain ⟨news, hgroups, hnew, hall, hmem, hlaunch, hbars⟩ := ih { s with
        nextId := s.nextId + 1 + 1
        groups := (s.groups ++ [newGroup s.nextId i k l p wg n false]) ++ [newGroup (s.nextId + 1) i k l p wg n true] }
      refine ⟨newGroup s.nextId i k l p wg n false :: newGroup (s.nextId + 1) i k l p wg n true :: news, ?_, ?_, ?_, hmem, hlaunch, hbars⟩
      · exact hgroups.trans (by simp)
      · intro g hg
        rcases List.mem_cons.mp hg with rfl | hg
        · exact ⟨_, n, List.mem_cons_self, false, rfl⟩
        · rcases List.mem_cons.mp hg with rfl | hg
          · exact ⟨_, n, List.mem_cons_self, true, rfl⟩
          · obtain ⟨gid, m, hm, b, hgm⟩ := hnew g hg
            exact ⟨gid, m, List.mem_cons_of_mem _ hm, b, hgm⟩
      · intro m hm
        rcases List.mem_cons.mp hm with rfl | hm
        · exact ⟨_, List.mem_cons_self⟩
        · obtain ⟨gid, hin⟩ := hall m hm
          exact ⟨gid, List.mem_cons_of_mem _ (List.mem_cons_of_mem _ hin)⟩
    · obtain ⟨news, hgroups, hnew, hall, hmem, hlaunch, hbars⟩ := ih { s with
        nextId := s.nextId + 1
        groups := s.groups ++ [newGroup s.nextId i k l p wg n false] }
      refine ⟨newGroup s.nextId i k l p wg n false :: news, ?_, ?_, ?_, hmem, hlaunch, hbars⟩
      · exact hgroups.trans (by simp)
      · intro g hg
        rcases List.mem_cons.mp hg with rfl | hg
        · exact ⟨_, n, List.mem_cons_self, false, rfl⟩
        · obtain ⟨gid, m, hm, b, hgm⟩ := hnew g hg
          exact ⟨gid, m, List.mem_cons_of_mem _ hm, b, hgm⟩
      · intro m hm
        rcases List.mem_cons.mp hm with rfl | hm
        · exact ⟨_, List.mem_cons_self⟩
        · obtain ⟨gid, hin⟩ := hall m hm
          exact ⟨gid, List.mem_cons_of_mem _ hin⟩

/-- A workgroup started at a position: the groups it adds, its launch, the objects and the memory. -/
theorem startWorkgroup_spec (i : Installation) (k : Kernel) {l : Launch} {x : Nat} (p : Position) (wg : Nat) (hl : s.launch? x = some l) :
    ∃ news, (s.startWorkgroup i k l p wg).groups = s.groups ++ news ∧
      (∀ g ∈ news, ∃ gid, ∃ n, n < l.groups ∧ ∃ b, g = newGroup gid i k l p wg n b) ∧
      (∀ n, n < l.groups → ∃ gid, newGroup gid i k l p wg n false ∈ news) ∧ (s.startWorkgroup i k l p wg).mem = s.mem ∧
      (s.startWorkgroup i k l p wg).launch? x = some { l with started := insertSorted wg l.started } ∧
      ∀ key ∈ positionObjects k p, (s.startWorkgroup i k l p wg).bar key = {} := by
  unfold State.startWorkgroup
  simp only
  obtain ⟨bs, hbs, hempty⟩ := resetAll_spec (positionObjects k p) s
  rw [hbs]
  obtain ⟨cs, hcs⟩ := acquireAll_side l.handle (if k.record.span = 0 then [p.core] else (List.range 4).map (fun j => p.core + j))
    (({ s with bars := bs } : State).putLaunch { l with started := insertSorted wg l.started })
  rw [hcs]
  obtain ⟨news, hgroups, hnew, hall, hmem, hlaunch, hbars⟩ := addGroups_spec i k l p wg (List.range l.groups)
    { ({ s with bars := bs } : State).putLaunch { l with started := insertSorted wg l.started } with cores := cs }
  refine ⟨news, hgroups, ?_, fun n hn => hall n (List.mem_range.mpr hn), hmem, ?_, ?_⟩
  · intro g hg
    obtain ⟨gid, n, hn, b, hgn⟩ := hnew g hg
    exact ⟨gid, n, List.mem_range.mp hn, b, hgn⟩
  · refine (congrArg (List.find? (fun m : Launch => m.id == x)) hlaunch).trans ?_
    have hid : l.id = x := by simpa using List.find?_some hl
    exact State.launch?_putLaunch (s := { s with bars := bs }) { l with started := insertSorted wg l.started } hl hid
  · intro key hkey
    exact (congrArg (fun b => Sparse.get {} b key) hbars).trans (hempty key (.inl hkey))

/-- A new group's fields (06 R156). -/
theorem newGroup_fields (gid : Nat) (i : Installation) (k : Kernel) (l : Launch) (p : Position) (wg n : Nat) (b : Bool) :
    let g := newGroup gid i k l p wg n b
    g.gstate = .ready ∧ g.seat = none ∧ g.launch = l.id ∧ g.workgroup = wg ∧ g.kernel = l.kernel ∧ g.localNo = n ∧
      g.ctl.handle = l.handle ∧ g.ctl.pc = BitVec.ofNat 64 (i.textBase + k.record.entry) ∧
      g.ctl.group = BitVec.ofNat 32 (wg * l.groups + n) ∧ g.core = coreOfLocal k.record.span p n ∧ g.ctl.shadow = b :=
  ⟨rfl, rfl, rfl, rfl, rfl, rfl, rfl, rfl, rfl, rfl, rfl⟩

/-! ### The order of seating (05 R139, R140) -/

/-- Age is the order of launch, group number and shadow, in this order. -/
theorem older_iff {a b : Group} : a.older b = true ↔ a.launch < b.launch ∨ (a.launch = b.launch ∧
    (a.ctl.group.toNat < b.ctl.group.toNat ∨ (a.ctl.group.toNat = b.ctl.group.toNat ∧ a.ctl.shadow.toNat < b.ctl.shadow.toNat))) := by
  unfold Group.older
  rw [Bool.or_eq_true, Bool.and_eq_true, Bool.or_eq_true, Bool.and_eq_true, Bool.and_eq_true, decide_eq_true_eq, decide_eq_true_eq, beq_iff_eq,
    beq_iff_eq, ← BitVec.toNat_inj, and_assoc]
  cases a.ctl.shadow <;> cases b.ctl.shadow <;> simp

theorem older_asymm {a b : Group} (hab : a.older b = true) : b.older a = false := by
  rw [older_iff] at hab
  rw [← Bool.not_eq_true, older_iff]
  omega

theorem seatBefore_asymm {a b : Group} (hab : seatBefore a b = true) : seatBefore b a = false := by
  unfold seatBefore at *
  cases hua : a.urgent <;> cases hub : b.urgent <;> rw [hua, hub] at hab <;> simp at hab ⊢ <;> exact older_asymm hab

theorem mem_insertGroup {x : Group} (l : List Group) : x ∈ insertGroup g l ↔ x = g ∨ x ∈ l := by
  induction l with
  | nil => exact List.mem_cons
  | cons k ks ih =>
    unfold insertGroup
    split
    · exact List.mem_cons
    · rw [List.mem_cons, ih, List.mem_cons]
      exact or_left_comm

theorem insertGroup_first {l : List Group} (hl : ∀ h ∈ l, seatBefore g h = true) : insertGroup g l = g :: l := by
  cases l with
  | nil => rfl
  | cons k ks => exact if_pos (hl k List.mem_cons_self)

theorem mem_foldl_insertGroup {x : Group} (l : List Group) (acc : List Group) :
    x ∈ l.foldl (fun l g => insertGroup g l) acc ↔ x ∈ l ∨ x ∈ acc := by
  induction l generalizing acc with
  | nil => simp
  | cons k ks ih =>
    rw [List.foldl_cons, ih, mem_insertGroup, List.mem_cons, or_assoc]
    exact or_left_comm

/-- A group that stands first stays first when those behind it are put in. -/
theorem foldl_insertGroup_keeps {l : List Group} (hl : ∀ h ∈ l, seatBefore g h = true) (rest : List Group) :
    l.foldl (fun l g => insertGroup g l) (g :: rest) = g :: l.foldl (fun l g => insertGroup g l) rest := by
  induction l generalizing rest with
  | nil => rfl
  | cons k ks ih =>
    have hk : insertGroup k (g :: rest) = g :: insertGroup k rest :=
      if_neg (by rw [seatBefore_asymm (hl k List.mem_cons_self)]; exact Bool.false_ne_true)
    rw [List.foldl_cons, List.foldl_cons, hk]
    exact ih (fun h hh => hl h (List.mem_cons_of_mem _ hh)) _

/-- The group that comes before all others is the first in the order. -/
theorem seatOrder_first {l : List Group} (hg : g ∈ l) (hn : (l.map (fun h => h.gid)).Nodup)
    (hl : ∀ h ∈ l, h.gid = g.gid ∨ seatBefore g h = true) :
    ∃ rest, l.foldl (fun l g => insertGroup g l) [] = g :: rest ∧ ∀ h ∈ rest, h ∈ l ∧ h.gid ≠ g.gid := by
  obtain ⟨a, b, rfl⟩ := List.append_of_mem hg
  have hother : ∀ h, h ∈ a ∨ h ∈ b → h.gid ≠ g.gid := by
    rw [List.map_append, List.map_cons, List.nodup_append, List.nodup_cons] at hn
    obtain ⟨-, ⟨hgb, -⟩, hga⟩ := hn
    rintro h (ha | hb) he
    · exact hga _ (List.mem_map_of_mem ha) _ List.mem_cons_self he
    · exact hgb (List.mem_map.mpr ⟨h, hb, he⟩)
  have hlow : ∀ h, h ∈ a ∨ h ∈ b → seatBefore g h = true := fun h hh => (hl h (by
    rw [List.mem_append, List.mem_cons]
    exact hh.imp_right .inr)).resolve_left (hother h hh)
  refine ⟨b.foldl (fun l g => insertGroup g l) (a.foldl (fun l g => insertGroup g l) []), ?_, ?_⟩
  · rw [List.foldl_append, List.foldl_cons, insertGroup_first fun h hh => hlow h (.inl (by
      simpa using (mem_foldl_insertGroup a []).mp hh))]
    exact foldl_insertGroup_keeps (fun h hh => hlow h (.inr hh)) _
  · intro h hh
    have hin : h ∈ b ∨ h ∈ a := by simpa [mem_foldl_insertGroup] using hh
    refine ⟨?_, hother h hin.symm⟩
    rw [List.mem_append, List.mem_cons]
    exact hin.symm.imp_right .inr

/-! ### Seats (05 R138, R140) -/

theorem putGroup_gids (s : State) (g : Group) : (s.putGroup g).groups.map (fun h => h.gid) = s.groups.map (fun h => h.gid) :=
  map_replaceFirst _ (fun y hy => by simpa using hy)

/-- A group put back is found at its number. -/
theorem group?_putGroup_at {n : Nat} (k : Group) (hk : k.gid = n) (hg : s.group? n = some g) : (s.putGroup k).group? n = some k := by
  subst hk
  exact State.group?_putGroup_self hg

/-- What taking a seat leaves: the numbers of the groups, memory, and every other group. -/
theorem takeSeat_rest (s : State) (g : Group) (n : Nat) :
    (s.takeSeat g n).groups.map (fun h => h.gid) = s.groups.map (fun h => h.gid) ∧ (s.takeSeat g n).mem = s.mem ∧
      ∀ m, m ≠ g.gid → (s.takeSeat g n).group? m = s.group? m := by
  unfold State.takeSeat
  simp only
  split <;> exact ⟨putGroup_gids .., rfl, fun m hm => State.group?_putGroup_ne _ hm⟩

theorem takeSeat_group {k : Group} (hk : s.group? g.gid = some k) (hh : g.ctl.handler = false) (n : Nat) :
    ∃ h, (s.takeSeat g n).group? g.gid = some h ∧ h.gstate = .seated ∧ h.seat = some n ∧ h.age = 0 ∧ h.lls = 0 ∧ h.ctl = g.ctl ∧ h.regs = g.regs := by
  unfold State.takeSeat
  simp only
  rw [if_neg (by rw [hh]; exact Bool.false_ne_true)]
  exact ⟨_, State.group?_putGroup_self (g := { g with
    gstate := .seated, seat := some n, wait := .none, waitCycles := 0, age := 0, lls := 0, urgent := false, window := []
    counters := { g.counters with seatings := g.counters.seatings + 1 } }) hk, rfl, rfl, rfl, rfl, rfl, rfl⟩

theorem partner_mem (hp : s.partner g = some h) : h ∈ s.groups := by
  unfold State.partner at hp
  split at hp
  · exact List.mem_of_find?_eq_some hp
  · exact absurd hp (by simp)

theorem partner_none (hp : g.ctl.paired = false) (hs : g.ctl.shadow = false) : s.partner g = none := by
  unfold State.partner
  rw [hp, hs]
  rfl

/-- A pair takes its seats only when the partner may be seated. -/
theorem seatFor_mate {n m : Nat} (hseat : s.seatFor g = some (n, some m)) (hp : s.partner g = some h) : s.seatable h = true := by
  unfold State.seatFor at hseat
  simp only [hp] at hseat
  split at hseat
  · obtain ⟨a, -, ha⟩ := Option.map_eq_some_iff.mp hseat
    exact absurd (congrArg Prod.snd ha) (by simp)
  · split at hseat
    · exact absurd hseat (by simp)
    · next hno => simpa using hno

/-- A group that sits keeps its seat, and everything of it, while others are seated. -/
theorem seatAll_keeps {k : Group} {x : Nat} (l : List Group) (hl : ∀ h ∈ l, h.gid ≠ x) (hn : (s.groups.map (fun h => h.gid)).Nodup)
    (hk : s.group? x = some k) (hseated : k.gstate = .seated) :
    (s.seatAll l).group? x = some k ∧ (s.seatAll l).mem = s.mem := by
  induction l generalizing s with
  | nil => exact ⟨hk, rfl⟩
  | cons a as ih =>
    have has : ∀ h ∈ as, h.gid ≠ x := fun h hh => hl h (List.mem_cons_of_mem _ hh)
    have ha : x ≠ a.gid := (hl a List.mem_cons_self).symm
    have hone (n : Nat) : ((s.takeSeat a n).seatAll as).group? x = some k ∧ ((s.takeSeat a n).seatAll as).mem = s.mem := by
      obtain ⟨hgids, hmem, hrest⟩ := takeSeat_rest s a n
      obtain ⟨hgroup, hmem'⟩ := ih has (hgids ▸ hn) ((hrest x ha).trans hk)
      exact ⟨hgroup, hmem'.trans hmem⟩
    unfold State.seatAll
    split
    · exact ih has hn hk
    · exact hone _
    · next n m hseat =>
      split
      · exact hone _
      · next b hb =>
        have hbx : x ≠ b.gid := by
          intro hbx
          have hbk : s.group? x = some b := hbx ▸ group?_of_mem hn (partner_mem hb)
          have hready := seatFor_mate hseat hb
          rw [← Option.some.inj (hk.symm.trans hbk)] at hready
          unfold State.seatable at hready
          rw [hseated] at hready
          exact Bool.false_ne_true hready
        obtain ⟨hgids, hmem, hrest⟩ := takeSeat_rest s a n
        obtain ⟨hgids', hmem', hrest'⟩ := takeSeat_rest (s.takeSeat a n) b m
        obtain ⟨hgroup, hmem''⟩ := ih has ((hgids'.trans hgids) ▸ hn) ((hrest' x hbx).trans ((hrest x ha).trans hk))
        exact ⟨hgroup, hmem''.trans (hmem'.trans hmem)⟩

/-- A group without a partner and outside a handler takes the lowest free seat. -/
theorem seatFor_single {n : Nat} (hp : g.ctl.paired = false) (hs : g.ctl.shadow = false) (hh : g.ctl.handler = false)
    (hfree : (s.freeSeats g.core).head? = some n) : s.seatFor g = some (n, none) := by
  unfold State.seatFor
  simp only [partner_none hp hs, hh]
  cases hf : s.freeSeats g.core with
  | nil => rw [hf] at hfree; exact absurd hfree (by simp)
  | cons a as =>
    rw [hf] at hfree
    rw [← Option.some.inj hfree]
    rfl

/-! ### Leaving a seat (05 R140, R144, R146) -/

theorem enterHandler_rest (s : State) (g : Group) : (s.enterHandler g).groups.map (fun h => h.gid) = s.groups.map (fun h => h.gid) ∧
    (∀ m, m ≠ g.gid → (s.enterHandler g).group? m = s.group? m) ∧
    ∀ c, ((s.enterHandler g).core c).eligible = (s.core c).eligible := by
  unfold State.enterHandler
  split
  · exact ⟨rfl, fun m _ => rfl, fun c => rfl⟩
  · refine ⟨putGroup_gids .., fun m hm => State.group?_putGroup_ne _ hm, fun c => ?_⟩
    unfold State.onRail
    rw [State.core_onCore]
    split
    · next hc =>
      subst hc
      rfl
    · rfl

/-- A trap that enters is of a seated group: others stay, and the eligible sets stay. -/
theorem enterOldest_rest (s : State) (c r : Nat) (hn : (s.groups.map (fun h => h.gid)).Nodup) :
    (∀ m k, s.group? m = some k → k.gstate ≠ .seated → (s.enterOldest c r).group? m = some k) ∧
      ∀ c', ((s.enterOldest c r).core c').eligible = (s.core c').eligible := by
  unfold State.enterOldest
  split
  · exact ⟨fun m k hk _ => hk, fun _ => rfl⟩
  · split
    · exact ⟨fun m k hk _ => hk, fun _ => rfl⟩
    · next a ha =>
      obtain ⟨-, hrest, hel⟩ := enterHandler_rest s a
      refine ⟨fun m k hk hseat => (hrest m fun hm => hseat ?_).trans hk, hel⟩
      have hin := oldestOf_mem ha
      unfold State.onRailGroups at hin
      rw [List.mem_filter, List.mem_filter] at hin
      obtain ⟨⟨hmem, hprop⟩, -⟩ := hin
      rw [hm, group?_of_mem hn hmem] at hk
      rw [← Option.some.inj hk]
      simp only [Bool.and_eq_true, beq_iff_eq] at hprop
      exact hprop.1.2

/-- A group that leaves its seat while it waits. -/
theorem leaveSeat_spec (hg : s.group? g.gid = some g) (hwait : g.wait ≠ .none) :
    ∃ h, (s.leaveSeat g).group? g.gid = some h ∧ h.gstate = .waiting ∧ h.seat = none ∧ h.lls = 0 ∧ h.ctl = g.ctl ∧ h.regs = g.regs ∧
      (s.leaveSeat g).groups.map (fun h => h.gid) = s.groups.map (fun h => h.gid) ∧
      ∀ es, ((s.leaveSeat g).core g.core).eligible = some es → g.gid ∉ es := by
  have hgroups : ((s.leaveRail g).freeWindow g).groups = s.groups := (freeWindow_groups _ _).trans (leaveRail_groups _ _)
  unfold State.leaveSeat
  simp only
  generalize hv : (s.leaveRail g).freeWindow g = v at hgroups ⊢
  refine ⟨_, State.group?_putGroup_self (s := v) (g := { g with
      gstate := if g.wait = .none then .ready else .waiting
      seat := none, lls := 0, age := 0, window := match g.seat with
        | none => []
        | some seat => if g.ctl.handler then (s.rail g.core (railOfSeat seat)).window else []
      counters := { g.counters with unseats := g.counters.unseats + 1 } }) ((State.group?_congr hgroups _).trans hg),
    if_neg hwait, rfl, rfl, rfl, rfl, (putGroup_gids v _).trans (congrArg _ hgroups), fun es hes hin => ?_⟩
  rw [State.core_onCore, if_pos rfl] at hes
  obtain ⟨l, -, hl⟩ := Option.map_eq_some_iff.mp hes
  rw [← hl, List.mem_filter] at hin
  exact absurd hin.2 (by simp)

/-- A seated group without a partner that leaves its seat. -/
theorem unseat_single (hn : (s.groups.map (fun h => h.gid)).Nodup) (hg : s.group? g.gid = some g) (hp : g.ctl.paired = false)
    (hs : g.ctl.shadow = false) (hwait : g.wait ≠ .none) :
    ∃ h, (s.unseat g).group? g.gid = some h ∧ h.gstate = .waiting ∧ h.seat = none ∧ h.lls = 0 ∧ h.ctl = g.ctl ∧ h.regs = g.regs ∧
      ∀ es, ((s.unseat g).core g.core).eligible = some es → g.gid ∉ es := by
  obtain ⟨h, hh, hstate, hseat, hlls, hctl, hregs, hgids, hel⟩ := leaveSeat_spec hg hwait
  unfold State.unseat
  simp only [partner_none (s := s.leaveSeat g) hp hs]
  split
  · exact ⟨h, hh, hstate, hseat, hlls, hctl, hregs, hel⟩
  · obtain ⟨hkeep, hcore⟩ := enterOldest_rest (s.leaveSeat g) g.core (railOfSeat ‹_›) (hgids ▸ hn)
    refine ⟨h, hkeep _ _ hh (by rw [hstate]; simp), hstate, hseat, hlls, hctl, hregs, fun es hes => hel es ?_⟩
    rw [← hcore]
    exact hes

/-! ### The obligation -/

/-- Settles O52: a workgroup's groups are the new groups of its position; the first in the order of seating finds the lowest free seat and
is nobody's partner; a trap that enters behind an unseating is another group's. -/
theorem workgroupsAndSeats : Obligations.WorkgroupsAndSeats := by
  unfold Obligations.WorkgroupsAndSeats
  refine ⟨?starts, ?nobody, ?seats, ?unseats, ?wakes⟩
  case starts =>
    intro s l i k hl hi hk
    have hexec : exec .workgroupStart s = execWorkgroupStart s := rfl
    refine ⟨fun hafter => ?_, fun p hopen hstatus hwg hnew hstay hafter hp => ?_⟩
    · rw [hexec]
      unfold execWorkgroupStart
      simp only [hl, hi, hk]
      exact if_pos (by rw [hafter]; simp)
    · obtain ⟨news, hgroups, hfresh, hall, hmem, hlaunch, hbars⟩ := startWorkgroup_spec (s := s.tick) i k p s.turn.y hl
      refine ⟨s.tick.startWorkgroup i k l p s.turn.y, _, news, ?_, hlaunch, fun w => mem_insertSorted .., hbars, congrArg _ hmem, hgroups, ?_, ?_⟩
      · rw [hexec]
        unfold execWorkgroupStart
        simp only [hl, hi, hk, hp]
        refine if_neg ?_
        rw [hafter, hopen, hnew, hstay, decide_eq_false (by omega)]
        simpa using hstatus
      · intro g hg
        obtain ⟨gid, n, hn, b, rfl⟩ := hfresh g hg
        exact ⟨rfl, rfl, rfl, rfl, rfl, hn, rfl, rfl, rfl, rfl⟩
      · intro n hn
        obtain ⟨gid, hin⟩ := hall n hn
        exact ⟨_, hin, rfl, rfl⟩
  case nobody =>
    intro s hnone
    have hempty : s.groups.filter (fun g => g.core == s.turn.x && s.seatable g && !g.ctl.shadow) = [] := by
      rw [List.filter_eq_nil_iff]
      intro g hg hprop
      simp only [Bool.and_eq_true, beq_iff_eq, Bool.not_eq_true'] at hprop
      obtain ⟨⟨hcore, hready⟩, hshadow⟩ := hprop
      rw [hnone g hg hcore hready] at hshadow
      exact Bool.false_ne_true hshadow.symm
    refine (show exec .groupSeat s = execGroupSeat s from rfl).trans ?_
    unfold execGroupSeat
    rw [hempty]
    rfl
  case seats =>
    intro s g n hn hg hcore hready hshadow hfirst hpaired hhandler hfree
    have hmem : g ∈ s.groups.filter (fun g => g.core == s.turn.x && s.seatable g && !g.ctl.shadow) := by
      rw [List.mem_filter, hready, hshadow, hcore]
      exact ⟨hg, by simp⟩
    obtain ⟨rest, horder, hrest⟩ := seatOrder_first hmem (hn.sublist (List.filter_sublist.map _)) (by
      intro h hh
      rw [List.mem_filter] at hh
      obtain ⟨hin, hprop⟩ := hh
      simp only [Bool.and_eq_true, beq_iff_eq, Bool.not_eq_true'] at hprop
      exact hfirst h hin hprop.1.1 hprop.1.2 hprop.2)
    obtain ⟨h, hh, hstate, hseat, hage, hlls, hctl, hregs⟩ := takeSeat_group (s := s.tick) (group?_of_mem hn hg) hhandler n
    obtain ⟨hgids, htake, -⟩ := takeSeat_rest s.tick g n
    obtain ⟨hgroup, hkeep⟩ := seatAll_keeps rest (fun h hh => (hrest h hh).2) (hgids ▸ hn) hh hstate
    refine ⟨(s.tick.takeSeat g n).seatAll rest, h, ?_, hgroup, hstate, hseat, hage, hlls, hctl, hregs, hkeep.trans htake⟩
    refine (show exec .groupSeat s = execGroupSeat s from rfl).trans ?_
    unfold execGroupSeat
    rw [horder]
    simp only [State.seatAll, seatFor_single (s := s.tick) hpaired hshadow hhandler hfree]
  case unseats =>
    intro s g hn hg hp hs
    have hgid := State.group?_gid hg
    refine ⟨fun hstay => ?_, fun hseated hwait huen hlong hgate hway => ?_⟩
    · refine (show exec .groupUnseat s = execGroupUnseat s from rfl).trans ?_
      unfold execGroupUnseat
      simp only [hg]
      refine if_neg ?_
      rintro ⟨-, hwait, huen, -, hgate, -⟩
      rcases hstay with h | h | h
      · exact hwait h
      · exact Bool.false_ne_true (h.symm.trans huen)
      · rw [h] at hgate
        exact Bool.false_ne_true hgate
    · obtain ⟨h, hh, hstate, hseat, hlls, hctl, hregs, hel⟩ := unseat_single (s := s.tick) hn (hgid ▸ hg) hp hs hwait
      refine ⟨s.tick.unseat g, h, ?_, hgid ▸ hh, hstate, hseat, hlls, hctl, hregs, (unseat_side s.tick g).keeps State.mem (fun _ _ => rfl), hel⟩
      refine (show exec .groupUnseat s = execGroupUnseat s from rfl).trans ?_
      unfold execGroupUnseat
      simp only [hg]
      exact if_pos ⟨hseated, hwait, huen, hlong, by rw [hgate]; rfl, by rw [hway]; rfl⟩
  case wakes =>
    intro s g hg
    have hgid := State.group?_gid hg
    refine ⟨fun hw hnone => ⟨s.putGroup { g with gstate := .ready, wait := .none, waitCycles := 0 }, ?_, ?_, rfl⟩, fun hstay => ?_⟩
    · refine (show exec .groupWake s = execGroupWake s from rfl).trans ?_
      unfold execGroupWake
      simp only [hg]
      exact if_pos ⟨hw, hnone⟩
    · rw [← hgid]
      exact State.group?_putGroup_self (g := { g with gstate := .ready, wait := .none, waitCycles := 0 }) (hgid ▸ hg)
    · refine (show exec .groupWake s = execGroupWake s from rfl).trans ?_
      unfold execGroupWake
      simp only [hg]
      exact if_neg fun hboth => hstay.elim (fun h => h hboth.1) (fun h => h hboth.2)

end Sys2Proof.Machine
end

section
/-!
SUPPORT. Rails, the throttle's clocks and the watchdog (05 R142 to R148, 06 R179; O53).
-/
namespace Sys2Proof.Machine

variable {s t u : State} {g h : Group}

/-- In a list whose images under a function differ, an image is of one entry. -/
theorem eq_of_nodup_map {α β : Type} {f : α → β} {l : List α} (hn : (l.map f).Nodup) {a b : α} (ha : a ∈ l) (hb : b ∈ l) (h : f a = f b) :
    a = b := by
  induction l with
  | nil => exact absurd ha List.not_mem_nil
  | cons x xs ih =>
    rw [List.map_cons, List.nodup_cons] at hn
    obtain ⟨hx, hxs⟩ := hn
    rcases List.mem_cons.mp ha with hax | hain
    · rcases List.mem_cons.mp hb with hbx | hbin
      · rw [hax, hbx]
      · exact absurd (hax ▸ h ▸ List.mem_map_of_mem hbin) hx
    · rcases List.mem_cons.mp hb with hbx | hbin
      · exact absurd (hbx ▸ h ▸ List.mem_map_of_mem hain) hx
      · exact ih hxs hain hbin

/-! ### The oldest group of a list (05 R142) -/

theorem older_of_not {a b c : Group} (hab : a.older b = false) (hbc : b.older c = false) : a.older c = false := by
  rw [← Bool.not_eq_true, older_iff] at *
  omega

theorem oldestOf_none {l : List Group} (ho : oldestOf l = none) : l = [] := by
  cases l with
  | nil => rfl
  | cons a as =>
    unfold oldestOf at ho
    split at ho
    · exact absurd ho (by simp)
    · split at ho <;> exact absurd ho (by simp)

/-- No group of a list is older than its oldest. -/
theorem oldestOf_least {l : List Group} (ho : oldestOf l = some g) : ∀ h ∈ l, h.older g = false := by
  have hirrefl (a : Group) : a.older a = false := by
    rw [← Bool.not_eq_true, older_iff]
    omega
  induction l generalizing g with
  | nil => exact fun h hh => absurd hh List.not_mem_nil
  | cons a as ih =>
    unfold oldestOf at ho
    split at ho
    · next hnone =>
      rw [oldestOf_none hnone, ← Option.some.inj ho]
      intro h hh
      rw [List.mem_singleton.mp hh]
      exact hirrefl a
    · next b hb =>
      split at ho
      · next hba =>
        rw [← Option.some.inj ho]
        intro h hh
        rcases List.mem_cons.mp hh with rfl | hh
        · exact older_asymm hba
        · exact ih hb h hh
      · next hba =>
        rw [← Option.some.inj ho]
        intro h hh
        rcases List.mem_cons.mp hh with rfl | hh
        · exact hirrefl _
        · exact older_of_not (ih hb h hh) (Bool.not_eq_true _ ▸ hba)

/-- The groups that a rail may take sit on it and are ready. -/
theorem takers_ready {c r : Nat} (hg : g ∈ s.takers c r) : g ∈ s.onRailGroups c r ∧ (s.readiness g).go = true := by
  unfold State.takers at hg
  simp only at hg
  split at hg
  · exact List.mem_filter.mp hg
  · exact List.mem_filter.mp (List.mem_filter.mp hg).1

/-- The group a rail takes is the oldest that is ready, one in its handler before the others (06 R179). -/
theorem taker_spec {c r : Nat} (hg : s.taker c r = some g) : g ∈ s.takers c r ∧
    (∀ h ∈ s.takers c r, h.ctl.handler = g.ctl.handler → h.older g = false) ∧
    ∀ h ∈ s.takers c r, h.ctl.handler = true → g.ctl.handler = true := by
  unfold State.taker at hg
  split at hg
  · next a ha =>
    rw [← Option.some.inj hg]
    obtain ⟨hin, hhandler⟩ := List.mem_filter.mp (oldestOf_mem ha)
    exact ⟨hin, fun h hh he => oldestOf_least ha h (List.mem_filter.mpr ⟨hh, he.trans hhandler⟩), fun _ _ _ => hhandler⟩
  · next hnone =>
    refine ⟨oldestOf_mem hg, fun h hh _ => oldestOf_least hg h hh, fun h hh hhandler => ?_⟩
    have hin : h ∈ (s.takers c r).filter (fun g => g.ctl.handler) := List.mem_filter.mpr ⟨hh, hhandler⟩
    rw [oldestOf_none hnone] at hin
    exact absurd hin List.not_mem_nil

/-! ### CLAUSE_START (05 R142, R143) -/

theorem noteWaits_mem (s : State) (c r : Nat) : (s.noteWaits c r).mem = s.mem := by
  unfold State.noteWaits
  exact foldl_keeps State.mem _ _ (fun t g _ => State.onGroup_mem t _ _) s

/-- A group that starts a clause holds its rail in it. -/
theorem takeGroup_starts {c r : Nat} {cl : FetchedClause} (hg : s.group? g.gid = some g) (hready : s.readiness g = .start cl)
    (hshadow : g.ctl.shadow = false) (hslot : g.ctl.slot < cl.words.length) :
    ((s.takeGroup c r g).rail c r).clauseOf = some g.gid ∧
      (s.takeGroup c r g).group? g.gid = some { g with clause := some cl, stalled := none, ctl := { g.ctl with resumeWait := false } } ∧
      (s.takeGroup c r g).mem = s.mem := by
  have htake : s.takeGroup c r g = ((s.putGroup { g with clause := some cl, stalled := none, ctl := { g.ctl with resumeWait := false } }).onRail c r
      (fun rl => { rl with clauseOf := some g.gid })).onRail c r (fun rl => { rl with yielded := none }) := by
    unfold State.takeGroup
    simp only [hready, hshadow, Bool.false_and]
    rw [if_neg (by split <;> exact Bool.false_ne_true), if_neg (by omega)]
  rw [htake]
  refine ⟨?_, State.group?_putGroup_self (g := { g with clause := some cl, stalled := none, ctl := { g.ctl with resumeWait := false } }) hg, rfl⟩
  rw [State.rail_onRail, if_pos ⟨rfl, rfl⟩, State.rail_onRail, if_pos ⟨rfl, rfl⟩]

/-! ### The throttle's clocks (05 R145) -/

/-- The order of eligibility: LLS, then the seat. -/
theorem lowerScore_iff {a b : Group} : lowerScore a b = true ↔ a.lls < b.lls ∨ (a.lls = b.lls ∧ a.seat.getD 0 < b.seat.getD 0) := by
  unfold lowerScore
  rw [Bool.or_eq_true, Bool.and_eq_true, decide_eq_true_eq, decide_eq_true_eq, beq_iff_eq]

theorem insertScore_perm (g : Group) (l : List Group) : (insertScore g l).Perm (g :: l) := by
  induction l with
  | nil => exact .refl _
  | cons a as ih =>
    unfold insertScore
    split
    · exact .refl _
    · exact (ih.cons a).trans (.swap g a as)

/-- Putting a group into the order of eligibility keeps the order. -/
theorem insertScore_sorted {l : List Group} (hl : l.Pairwise (fun a b => lowerScore b a = false)) :
    (insertScore g l).Pairwise (fun a b => lowerScore b a = false) := by
  induction l with
  | nil => exact List.pairwise_singleton _ _
  | cons a as ih =>
    obtain ⟨ha, has⟩ := List.pairwise_cons.mp hl
    unfold insertScore
    split
    · next hlow =>
      refine List.pairwise_cons.mpr ⟨fun b hb => ?_, hl⟩
      have hba : b = a ∨ lowerScore b a = false := (List.mem_cons.mp hb).imp_right (ha b)
      rw [← Bool.not_eq_true, lowerScore_iff] at *
      rcases hba with rfl | hba <;> omega
    · next hlow =>
      refine List.pairwise_cons.mpr ⟨fun b hb => ?_, ih has⟩
      rcases List.mem_cons.mp ((insertScore_perm g as).subset hb) with rfl | hb
      · exact Bool.not_eq_true _ ▸ hlow
      · exact ha b hb

theorem scoreOrder_spec (l : List Group) (acc : List Group) (hacc : acc.Pairwise (fun a b => lowerScore b a = false)) :
    (l.foldl (fun l g => insertScore g l) acc).Perm (acc ++ l) ∧
      (l.foldl (fun l g => insertScore g l) acc).Pairwise (fun a b => lowerScore b a = false) := by
  induction l generalizing acc with
  | nil => exact ⟨(List.append_nil acc).symm ▸ .refl _, hacc⟩
  | cons a as ih =>
    obtain ⟨hperm, hsorted⟩ := ih (insertScore a acc) (insertScore_sorted hacc)
    exact ⟨hperm.trans (((insertScore_perm a acc).append_right as).trans List.perm_middle.symm), hsorted⟩

theorem foldl_add_eq_sum (f : Group → Nat) (l : List Group) (n : Nat) : l.foldl (fun n g => n + f g) n = n + (l.map f).sum := by
  induction l generalizing n with
  | nil => rfl
  | cons a as ih =>
    rw [List.foldl_cons, ih, List.map_cons, List.sum_cons, Nat.add_assoc]

/-- The first k of the order of eligibility: as many, each once, and none of the others is lower. -/
theorem lowest_spec {seated : List Group} (hn : (seated.map (fun g => g.gid)).Nodup) (k : Nat) :
    let es := ((seated.foldl (fun l g => insertScore g l) []).take k).map (fun g => g.gid)
    es.length = min k seated.length ∧ es.Nodup ∧ (∀ n ∈ es, ∃ g ∈ seated, g.gid = n) ∧
      ∀ g ∈ seated, ∀ h ∈ seated, g.gid ∈ es → h.gid ∉ es → lowerScore h g = false := by
  intro es
  obtain ⟨hperm, hsorted⟩ := scoreOrder_spec seated [] List.Pairwise.nil
  have hes : es = ((seated.foldl (fun l g => insertScore g l) []).take k).map (fun g => g.gid) := rfl
  generalize seated.foldl (fun l g => insertScore g l) [] = order at hperm hsorted hes
  rw [List.nil_append] at hperm
  rw [hes]
  refine ⟨?_, (((hperm.map _).nodup_iff).mpr hn).sublist ((List.take_sublist k order).map _), ?_, ?_⟩
  · rw [List.length_map, List.length_take, hperm.length_eq]
  · intro n hin
    obtain ⟨g, hg, hgn⟩ := List.mem_map.mp hin
    exact ⟨g, hperm.subset (List.mem_of_mem_take hg), hgn⟩
  · intro g hg h hh hin hout
    obtain ⟨a, ha, hag⟩ := List.mem_map.mp hin
    have hga : a = g := eq_of_nodup_map hn (hperm.subset (List.mem_of_mem_take ha)) hg hag
    have hdrop : h ∈ order.drop k := by
      have horder : h ∈ order.take k ++ order.drop k := (List.take_append_drop k order).symm ▸ hperm.symm.subset hh
      exact (List.mem_append.mp horder).resolve_left fun htake => hout (List.mem_map_of_mem htake)
    rw [← List.take_append_drop k order] at hsorted
    exact (List.pairwise_append.mp hsorted).2.2 g (hga ▸ ha) h hdrop

/-! ### The watchdog (05 R148) -/

theorem replaceFirst_same {α : Type} {p : α → Bool} {x : α} (l : List α) (hx : l.find? p = some x) : replaceFirst p x l = l := by
  induction l with
  | nil => rfl
  | cons y ys ih =>
    unfold replaceFirst
    rw [List.find?_cons] at hx
    split
    · next hp =>
      rw [hp] at hx
      rw [Option.some.inj hx]
    · next hp =>
      rw [Bool.eq_false_iff.mpr hp] at hx
      rw [ih hx]

/-- A group put back as it is. -/
theorem putGroup_same (hg : s.group? g.gid = some g) : s.putGroup g = s := by
  unfold State.putGroup
  rw [replaceFirst_same s.groups hg]

theorem putWatchdog_single (hg : s.group? g.gid = some g) (hp : g.ctl.paired = false) (hs : g.ctl.shadow = false) (mask : Word) :
    s.putWatchdog g mask = s := by
  unfold State.putWatchdog
  simp only [putGroup_same hg, partner_none hp hs]

theorem watchdogDue_alive (hdue : s.watchdogDue g = true) : g.gstate ≠ .retired := by
  unfold State.watchdogDue at hdue
  simp only [Bool.and_eq_true, bne_iff_ne] at hdue
  exact hdue.1.1.1.2

/-! ### The obligation -/

/-- Settles O53: the oldest of the ready groups by the order of age, the K lowest by a sorted insertion, and the watchdog's trap as any
trap's entry. -/
theorem railsAndThrottle : Obligations.RailsAndThrottle := by
  unfold Obligations.RailsAndThrottle
  refine ⟨?clauses, ?choice, ?halving, ?evaluation, ?watchdog⟩
  case clauses =>
    intro s g c r u
    have hexec : exec .clauseStart s = execClauseStart s := rfl
    refine ⟨fun hstay => ?_, fun cl hfree htaker hg hready hshadow hslot => ?_⟩
    · rw [hexec]
      unfold execClauseStart
      simp only
      split
      · rfl
      · next hfree =>
        have hnone : u.takers c r = [] := hstay.resolve_left fun hheld => hfree (Option.isSome_iff_ne_none.mpr hheld)
        have htaker : u.taker c r = none := by
          unfold State.taker
          rw [hnone]
          rfl
        split
        · rfl
        · next g hg => exact absurd (htaker.symm.trans hg) (by simp)
    · obtain ⟨hrail, hgroup, hmem⟩ := takeGroup_starts (c := c) (r := r) hg hready hshadow hslot
      refine ⟨u.takeGroup c r g, _, ?_, hrail, hgroup, rfl, rfl, rfl, hmem.trans (noteWaits_mem s.tick c r)⟩
      rw [hexec]
      unfold execClauseStart
      simp only
      rw [if_neg (by rw [hfree]; exact Bool.false_ne_true)]
      split
      · next hnone => exact absurd (htaker.symm.trans hnone) (by simp)
      · next k hk => rw [Option.some.inj (hk.symm.trans htaker)]
  case choice =>
    intro s c r g hg
    obtain ⟨hin, hold, hhandler⟩ := taker_spec hg
    obtain ⟨hrail, hready⟩ := takers_ready hin
    exact ⟨hrail, hready, hold, hhandler⟩
  case halving =>
    intro s
    refine ⟨_, rfl, rfl, fun n g hg => ?_⟩
    refine (find?_map_gid _ (fun g => by split <;> rfl) s.groups n).trans ?_
    rw [show s.groups.find? (fun g => g.gid == n) = some g from hg, Option.map_some]
    simp only [Bool.and_eq_true, beq_iff_eq]
    split <;> rfl
  case evaluation =>
    intro s p hn hp cfg seated k
    have hexec : exec .throttleEvaluation s = execThrottleEvaluation s := rfl
    refine ⟨fun hoff => ⟨s.onCore s.turn.x (fun k => { k with eligible := none }), ?_, ?_, rfl⟩, fun hon => ?_⟩
    · rw [hexec]
      unfold execThrottleEvaluation
      simp only [hp]
      exact if_pos (by rw [show wbit (s.part p).llsCfg 15 = false from hoff]; rfl)
    · rw [State.core_onCore, if_pos rfl]
    · have hk : s.evaluate s.turn.x (wbits cfg 31 16) = (k, ((seated.foldl (fun l g => insertScore g l) []).take k).map (fun g => g.gid)) := by
        unfold State.evaluate
        simp only [foldl_add_eq_sum, Nat.zero_add]
        rfl
      obtain ⟨hlen, hnodup, hin, hlow⟩ := lowest_spec (seated := seated) (hn.sublist (List.filter_sublist.map _)) k
      refine ⟨s.onCore s.turn.x (fun q => { q with
        eligible := some (((seated.foldl (fun l g => insertScore g l) []).take k).map (fun g => g.gid)), eligibleK := k }), _, ?_, ?_, ?_, hlen,
        hnodup, hin, hlow, rfl⟩
      · rw [hexec]
        unfold execThrottleEvaluation
        simp only [hp]
        rw [if_neg (by rw [show wbit (s.part p).llsCfg 15 = true from hon]; exact Bool.false_ne_true)]
        rw [show s.evaluate s.turn.x (wbits (s.part p).llsCfg 31 16) = _ from hk]
      · rw [State.core_onCore, if_pos rfl]
      · rw [State.core_onCore, if_pos rfl]
  case watchdog =>
    intro s g hn hg hp hs
    have hgid := State.group?_gid hg
    have hexec : exec .watchdogExpiry s = execWatchdogExpiry s := rfl
    have hfound : s.tick.group? g.gid = some g := hgid ▸ hg
    refine ⟨fun hdue => ?_, fun hdue hhandler => ?_, fun c st seat hdue hc hst henter => ?_, fun hdue hhandler hst => ?_⟩
    · rw [hexec]
      unfold execWatchdogExpiry
      simp only [hg]
      exact if_pos (by rw [hs, hdue]; rfl)
    · obtain ⟨m, hm, hretired, hkilled⟩ := killGroup_retires (s := s.tick) hn hfound (watchdogDue_alive hdue)
      refine ⟨s.tick.killGroup g.gid, m, ?_, hgid ▸ hm, hretired, hkilled⟩
      rw [hexec]
      unfold execWatchdogExpiry
      simp only [hg]
      rw [if_neg (by rw [hs, hdue]; exact Bool.false_ne_true), if_pos hhandler]
    · intro uni mask
      obtain ⟨m, hm⟩ := State.raiseTrap_entered (s := s.tick) hfound henter.tick ⟨0x0D, mask, s.tick.watchdogCount g true, 0⟩ uni
        (c.words.getD g.ctl.slot 0#32)
      refine ⟨_, m, _, ?_, hm.of_tick⟩
      rw [hexec]
      unfold execWatchdogExpiry
      simp only [hg]
      rw [if_neg (by rw [hs, hdue]; exact Bool.false_ne_true), if_neg (by rw [henter.outside]; exact Bool.false_ne_true), if_pos henter.placed.1]
      unfold State.watchdogTrap
      simp only [hc, hst, putWatchdog_single hfound hp hs]
      rfl
    · have hnostall (k : Group) (v : State) (hk : k.stalled = none) : v.watchdogTrap k = v.putGroup { k with wdDue := true } := by
        unfold State.watchdogTrap
        rw [hk]
        cases k.clause <;> rfl
      by_cases hseated : g.gstate = .seated
      · refine ⟨s.tick.putGroup { g with wdDue := true }, _, ?_, group?_putGroup_at { g with wdDue := true } hgid hg, rfl, rfl,
          fun _ => ⟨hseated, rfl⟩, fun hno => absurd hseated hno⟩
        rw [hexec]
        unfold execWatchdogExpiry
        simp only [hg]
        rw [if_neg (by rw [hs, hdue]; exact Bool.false_ne_true), if_neg (by rw [hhandler]; exact Bool.false_ne_true), if_pos hseated, hnostall _ _ hst]
      · refine ⟨(s.tick.putGroup { g with gstate := .ready, wait := .none, urgent := true }).putGroup { g with
            gstate := .ready, wait := .none, urgent := true, wdDue := true }, _, ?_, group?_putGroup_at { g with
            gstate := .ready, wait := .none, urgent := true, wdDue := true } hgid
            (group?_putGroup_at { g with gstate := .ready, wait := .none, urgent := true } hgid hg), rfl, rfl,
          fun hyes => absurd hyes hseated, fun _ => ⟨rfl, rfl, rfl⟩⟩
        rw [hexec]
        unfold execWatchdogExpiry
        simp only [hg]
        rw [if_neg (by rw [hs, hdue]; exact Bool.false_ne_true), if_neg (by rw [hhandler]; exact Bool.false_ne_true), if_neg hseated]
        simp only [partner_none hp hs]
        exact congrArg Host.Outcome.next (hnostall _ _ hst)

end Sys2Proof.Machine
end

section
/-!
SUPPORT. Register lines, context-page faults, trap entry and suspension (06 R158 to R165, R176, R179, R182; O54).
-/
namespace Sys2Proof.Machine

variable {s t u : State} {g h : Group}

/-! ### The victim of a full bank (06 R160) -/

/-- A list is built from its front. -/
theorem snoc_induction {α : Type} {motive : List α → Prop} (nil : motive []) (snoc : ∀ l y, motive l → motive (l ++ [y])) (l : List α) :
    motive l := by
  rw [← List.reverse_reverse l]
  induction l.reverse with
  | nil => exact nil
  | cons y ys ih =>
    rw [List.reverse_cons]
    exact snoc _ y ih

theorem oldestLine_append_none {l : List MantleLine} {x : MantleLine} (hl : oldestLine l = none) : oldestLine (l ++ [x]) = some x := by
  unfold oldestLine at *
  rw [List.foldl_append, hl]
  rfl

theorem oldestLine_append_some {l : List MantleLine} {x b : MantleLine} (hl : oldestLine l = some b) :
    oldestLine (l ++ [x]) = if x.stamp < b.stamp then some x else some b := by
  unfold oldestLine at *
  rw [List.foldl_append, hl]
  rfl

theorem oldestLine_none {l : List MantleLine} (hl : oldestLine l = none) : l = [] := by
  induction l using snoc_induction with
  | nil => rfl
  | snoc l x ih =>
    cases hb : oldestLine l with
    | none => rw [oldestLine_append_none hb] at hl; exact absurd hl (by simp)
    | some b =>
      rw [oldestLine_append_some hb] at hl
      split at hl <;> exact absurd hl (by simp)

/-- The least recently used line is one of the list, and none is older. -/
theorem oldestLine_spec {l : List MantleLine} {m : MantleLine} (hl : oldestLine l = some m) : m ∈ l ∧ ∀ x ∈ l, m.stamp ≤ x.stamp := by
  induction l using snoc_induction generalizing m with
  | nil => exact absurd hl (by unfold oldestLine; simp)
  | snoc l y ih =>
    have hlast {n : MantleLine} {x : MantleLine} (hx : x ∈ l ++ [y]) (hln : ∀ z ∈ l, n.stamp ≤ z.stamp) (hy : n.stamp ≤ y.stamp) :
        n.stamp ≤ x.stamp := by
      rcases List.mem_append.mp hx with hx | hx
      · exact hln x hx
      · rw [List.mem_singleton.mp hx]
        exact hy
    cases hb : oldestLine l with
    | none =>
      rw [oldestLine_append_none hb] at hl
      rw [← Option.some.inj hl, oldestLine_none hb]
      simp
    | some b =>
      obtain ⟨hin, hleast⟩ := ih hb
      rw [oldestLine_append_some hb] at hl
      split at hl
      · next hlt =>
        rw [← Option.some.inj hl]
        exact ⟨List.mem_append_right _ List.mem_cons_self,
          fun x hx => hlast hx (fun z hz => Nat.le_of_lt (Nat.lt_of_lt_of_le hlt (hleast z hz))) (Nat.le_refl _)⟩
      · next hge =>
        rw [← Option.some.inj hl]
        exact ⟨List.mem_append_left _ hin, fun x hx => hlast hx hleast (Nat.le_of_not_lt hge)⟩

/-- Whether the group of a line sits. -/
def State.lineSeated (s : State) (m : MantleLine) : Bool := match s.group? m.gid with | none => false | some g => g.gstate == .seated

/-- Whether a line is locked by its group. -/
def State.lineLocked (s : State) (m : MantleLine) : Bool := match s.group? m.gid with | none => false | some g => (s.locked g).contains m.line

/-- The unlocked lines of a bank. -/
def State.openLines (s : State) (core bank : Nat) : List MantleLine :=
  ((s.core core).mantle.filter (fun m => m.bank == bank)).filter (fun m => !s.lineLocked m)

theorem mem_openLines {core bank : Nat} {m : MantleLine} : m ∈ s.openLines core bank ↔
    m ∈ (s.core core).mantle ∧ m.bank = bank ∧ s.lineLocked m = false := by
  unfold State.openLines
  rw [List.mem_filter, List.mem_filter, beq_iff_eq, Bool.not_eq_true', and_assoc]

/-- The victim is an unlocked line of the bank, and the oldest of the clean ones of unseated groups when there is one. -/
theorem victimLine_spec {core bank : Nat} {v : MantleLine} (hv : s.victimLine core bank = some v) : v ∈ s.openLines core bank ∧
    ∀ m ∈ s.openLines core bank, s.lineSeated m = false → m.dirty = false → s.lineSeated v = false ∧ v.dirty = false ∧ v.stamp ≤ m.stamp := by
  have hv' : (match oldestLine ((s.openLines core bank).filter (fun m => !s.lineSeated m && !m.dirty)) with
      | some m => some m
      | none =>
        match oldestLine ((s.openLines core bank).filter (fun m => !s.lineSeated m)) with
        | some m => some m
        | none => oldestLine (s.openLines core bank)) = some v := hv
  have hno (hnone : oldestLine ((s.openLines core bank).filter (fun m => !s.lineSeated m && !m.dirty)) = none) (m : MantleLine)
      (hm : m ∈ s.openLines core bank) (hseat : s.lineSeated m = false) (hclean : m.dirty = false) : False := by
    have hin : m ∈ (s.openLines core bank).filter (fun m => !s.lineSeated m && !m.dirty) :=
      List.mem_filter.mpr ⟨hm, by rw [hseat, hclean]; rfl⟩
    rw [oldestLine_none hnone] at hin
    exact List.not_mem_nil hin
  split at hv'
  · next m hm =>
    rw [← Option.some.inj hv']
    obtain ⟨hin, hleast⟩ := oldestLine_spec hm
    obtain ⟨hopen, hprop⟩ := List.mem_filter.mp hin
    rw [Bool.and_eq_true, Bool.not_eq_true', Bool.not_eq_true'] at hprop
    exact ⟨hopen, fun x hx hseat hclean => ⟨hprop.1, hprop.2, hleast x (List.mem_filter.mpr ⟨hx, by rw [hseat, hclean]; rfl⟩)⟩⟩
  · next hnone =>
    split at hv'
    · next m hm =>
      rw [← Option.some.inj hv']
      exact ⟨(List.mem_filter.mp (oldestLine_spec hm).1).1, fun x hx hseat hclean => (hno hnone x hx hseat hclean).elim⟩
    · exact ⟨(oldestLine_spec hv').1, fun x hx hseat hclean => (hno hnone x hx hseat hclean).elim⟩

/-! ### Room in a bank, and a line put into it (06 R160, R161) -/

theorem makeRoom_free {core bank : Nat} (hfree : decide (Config.bankLines ≤ ((s.core core).mantle.filter (fun m => m.bank == bank)).length) = false) :
    s.makeRoom core bank = (s, true) := by
  unfold State.makeRoom
  exact if_pos (Nat.lt_of_not_le (of_decide_eq_false hfree))

theorem makeRoom_clean {core bank : Nat} {v : MantleLine}
    (hfull : decide (Config.bankLines ≤ ((s.core core).mantle.filter (fun m => m.bank == bank)).length) = true)
    (hv : s.victimLine core bank = some v) (hclean : v.dirty = false) :
    s.makeRoom core bank = (s.onCore core (fun k => k.dropLine v.gid v.line), true) := by
  unfold State.makeRoom
  rw [if_neg (Nat.not_lt_of_le (of_decide_eq_true hfull))]
  simp only [hv, hclean, Bool.not_false, Bool.true_or, if_true]
  split <;> rfl

theorem makeRoom_dirty {core bank p : Nat} {v : MantleLine}
    (hfull : decide (Config.bankLines ≤ ((s.core core).mantle.filter (fun m => m.bank == bank)).length) = true)
    (hv : s.victimLine core bank = some v) (hdirty : v.dirty = true) (hh : s.group? v.gid = some h) (hlive : h.gstate ≠ .retired)
    (hp : s.contextLine h v.line .write = .at_ p) :
    s.makeRoom core bank = ((s.writeBackLine h v.line p).onCore core (fun k => k.dropLine v.gid v.line), true) := by
  unfold State.makeRoom
  rw [if_neg (Nat.not_lt_of_le (of_decide_eq_true hfull))]
  simp only [hv, hh, hdirty, hp, Bool.not_true, Bool.false_or, beq_iff_eq]
  exact if_neg hlive

/-- A line written whole holds the number's bytes (03 R80). -/
theorem writeHome_number (s : State) (w : Word) (a data : Nat) {i : Nat} (hi : i < 128) :
    Memory.read (s.writeHome (.virt w) a 128 (2 ^ 1024 - 1) data).1.mem.bytes (a + i) = BitVec.ofNat 8 (data / 256 ^ i) := by
  have hall : (2 : Nat) ^ 1024 - 1 = 256 ^ 128 - 1 := by rw [show 1024 = 8 * 128 from rfl, Nat.pow_mul]
  generalize hbits : (2 : Nat) ^ 1024 - 1 = bits at hall
  have hwhole : s.writeHome (.virt w) a 128 bits data = ((s.touchL2 a).onMem (fun m => { m with
      bytes := Memory.writeBits m.bytes a bits data 128, poison := m.poison.filter (· != a / 128 * 128) }), true) := by
    unfold State.writeHome
    rw [hbits]
    simp only
    exact if_neg (by rw [beq_self_eq_true, beq_self_eq_true, Bool.and_true, Bool.not_true, Bool.and_false]; exact Bool.false_ne_true)
  rw [hwhole]
  simp only [State.onMem]
  rw [hall]
  exact Memory.read_writeBits_whole _ a _ 128 i hi

/-- A line written back: its bytes, the bytes elsewhere, its group and the others, and the cores. -/
theorem writeBackLine_spec (hh : s.group? h.gid = some h) (j p : Nat) :
    (∀ i, i < 128 → Memory.read (s.writeBackLine h j p).mem.bytes (p + i) = BitVec.ofNat 8 (h.lineNumber j / 256 ^ i)) ∧
      (∀ a, a < p ∨ p + 128 ≤ a → Memory.read (s.writeBackLine h j p).mem.bytes a = Memory.read s.mem.bytes a) ∧
      (∃ k, (s.writeBackLine h j p).group? h.gid = some k ∧ k.backed.contains j = true) ∧
      (∀ n, n ≠ h.gid → (s.writeBackLine h j p).group? n = s.group? n) ∧ (s.writeBackLine h j p).cores = s.cores := by
  unfold State.writeBackLine
  simp only
  have hrest := State.writeHome_rest (s.onMem (fun m => { m with poison := m.poison.filter (· != p / 128 * 128) })) h.ctl.handle p 128
    (2 ^ 1024 - 1) (h.lineNumber j)
  have hin (i : Nat) (hi : i < 128) := writeHome_number (s.onMem (fun m => { m with poison := m.poison.filter (· != p / 128 * 128) }))
    h.ctl.handle p (h.lineNumber j) hi
  have hout (a : Nat) (ha : a < p ∨ p + 128 ≤ a) := State.writeHome_out (s.onMem (fun m => { m with
    poison := m.poison.filter (· != p / 128 * 128) })) h.ctl.handle p 128 (2 ^ 1024 - 1) (h.lineNumber j) a ha
  generalize ((s.onMem (fun m => { m with poison := m.poison.filter (· != p / 128 * 128) })).writeHome (.virt h.ctl.handle) p 128
    (2 ^ 1024 - 1) (h.lineNumber j)).1 = v at hrest hin hout ⊢
  have hgroups : v.groups = s.groups := (congrArg State.groups hrest).trans rfl
  have hcores : v.cores = s.cores := (congrArg State.cores hrest).trans rfl
  have hmarked : ∃ w, (if h.lineMarked j then v.onMem (fun m => { m with poison := insertSorted (p / 128 * 128) m.poison }) else v) = w ∧
      w.groups = s.groups ∧ w.cores = s.cores ∧ w.mem.bytes = v.mem.bytes := by
    split
    · exact ⟨_, rfl, hgroups, hcores, rfl⟩
    · exact ⟨_, rfl, hgroups, hcores, rfl⟩
  obtain ⟨w, hw, hwgroups, hwcores, hwbytes⟩ := hmarked
  rw [hw]
  have hwh : w.group? h.gid = some h := (State.group?_congr hwgroups _).trans hh
  refine ⟨fun i hi => ?_, fun a ha => ?_, ⟨_, State.group?_onGroup_self hwh rfl, by simp⟩, fun n hn => ?_, ?_⟩
  · rw [State.onGroup_mem, hwbytes]
    exact hin i hi
  · rw [State.onGroup_mem, hwbytes]
    exact hout a ha
  · refine Eq.trans ?_ (State.group?_congr hwgroups n)
    exact State.group?_onGroup_ne w (fun _ => rfl) hn
  · exact (State.onGroup_cores ..).trans hwcores

/-- REGISTER_LINE_INSTALL of a line that is asked for, with room made for it. -/
theorem install_room {k : Group} (hg : s.group? s.turn.x = some g) (hlive : g.gstate ≠ .retired) (hbanks : (s.fn g.fn).banks ≠ 0 ∨ g.fn = 0)
    (hout : (s.core g.core).resident g.gid s.turn.y = false) (hneed : s.turn.y ∈ s.neededLines g)
    (hroom : s.tick.makeRoom g.core (bankOf (s.fn g.fn).banks s.turn.y) = (u, true)) (hk : u.group? g.gid = some k) :
    exec .registerLineInstall s = .next (u.fillLine k s.turn.y (bankOf (s.fn g.fn).banks s.turn.y)) := by
  refine (show exec .registerLineInstall s = execRegisterLineInstall s from rfl).trans ?_
  unfold execRegisterLineInstall
  simp only [hg]
  rw [if_neg (by
    rw [hout, List.contains_iff_mem.mpr hneed]
    simp only [Bool.or_eq_true, Bool.and_eq_true, beq_iff_eq, bne_iff_ne, Bool.not_true, Bool.false_eq_true, or_false]
    rintro (hr | ⟨hb, hf⟩)
    · exact hlive hr
    · exact hbanks.elim (fun hn => hn hb) (fun hz => hf hz)), hroom]
  simp only [if_true, hk]

/-- A line that the device holds comes into its bank as the group holds it. -/
theorem fillLine_held {j : Nat} (hback : g.backed.contains j = false) (bank : Nat) : s.fillLine g j bank = s.onCore g.core (fun k => { k with
    mantle := k.mantle ++ [⟨g.gid, j, bank, g.backed.contains (256 + j) || g.lineNumber j != 0, s.freeCtr⟩] }) := by
  unfold State.fillLine
  simp only
  rw [if_neg (by rw [hback]; exact Bool.false_ne_true)]

/-- A line put last into a core's lines. -/
theorem mantle_last (s : State) (c : Nat) (m : MantleLine) : m ∈ ((s.onCore c (fun k => { k with mantle := k.mantle ++ [m] })).core c).mantle := by
  rw [State.core_onCore, if_pos rfl]
  exact List.mem_append_right _ List.mem_cons_self

/-- A line dropped is gone, unless it is the one that comes in. -/
theorem dropLine_gone (k : Core) {m v : MantleLine} (hne : m.gid = v.gid → m.line ≠ v.line) :
    ({ k.dropLine v.gid v.line with mantle := (k.dropLine v.gid v.line).mantle ++ [m] } : Core).resident v.gid v.line = false := by
  unfold Core.resident Core.dropLine
  rw [List.any_eq_false]
  intro x hx
  rcases List.mem_append.mp hx with hx | hx
  · have hno := (List.mem_filter.mp hx).2
    rwa [Bool.not_eq_true', ← Bool.not_eq_true] at hno
  · rw [List.mem_singleton.mp hx]
    simpa using hne

/-- A line that was written back comes with the words of its context page. -/
theorem fillLine_backed {j p : Nat} (hg : s.group? g.gid = some g) (hback : g.backed.contains j = true) (hp : s.contextLine g j .read = .at_ p)
    (bank : Nat) : ∃ h, (s.fillLine g j bank).group? g.gid = some h ∧ (s.fillLine g j bank).mem = s.mem ∧
      (⟨g.gid, j, bank, false, s.freeCtr⟩ : MantleLine) ∈ ((s.fillLine g j bank).core g.core).mantle ∧
      (∀ l, l < 32 → Sparse.get 0#32 h.regs (32 * j + l) = BitVec.ofNat 32 (natOfBytes (Memory.readBytes s.mem.bytes (p + 4 * l) 4))) ∧
      ∀ r, r / 32 ≠ j → Sparse.get 0#32 h.regs r = Sparse.get 0#32 g.regs r := by
  have hlanes : ∀ l ∈ List.range 32, l < 32 := fun l hl => List.mem_range.mp hl
  unfold State.fillLine
  simp only [hback, if_true, hp]
  refine ⟨_, group?_putGroup_at { g with
    regs := (List.range 32).foldl (fun m t => Sparse.set 0#32 m (32 * j + t)
      (BitVec.ofNat 32 (natOfBytes (Memory.readBytes s.mem.bytes (p + 4 * t) 4)))) g.regs
    regErr := g.regErr ++ if s.mem.poisoned p && !g.lineMarked j then (List.range 32).map (fun t => 32 * j + t) else [] } rfl hg, rfl,
    mantle_last _ _ _, fun l hl => ?_, fun r hr => ?_⟩
  · rw [get_setLanes (fun t => BitVec.ofNat 32 (natOfBytes (Memory.readBytes s.mem.bytes (p + 4 * t) 4))) j _ _ j l hlanes hl,
      if_pos ⟨rfl, List.mem_range.mpr hl⟩]
  · have hsplit : r = 32 * (r / 32) + r % 32 := (Nat.div_add_mod r 32).symm
    rw [hsplit, get_setLanes (fun t => BitVec.ofNat 32 (natOfBytes (Memory.readBytes s.mem.bytes (p + 4 * t) 4))) j _ _ (r / 32) (r % 32) hlanes
      (Nat.mod_lt _ (by decide)), if_neg fun hand => hr hand.1]

/-! ### FAULT_SERVICE (06 R164, R165) -/

/-- The faults that a mapped page serves: those of the tenant on the page. -/
def State.faultMate (s : State) (g : Group) (va : Nat) (e : Nat × Nat) : Bool :=
  e.2 == va && (match s.group? e.1 with | none => true | some h => h.ctl.handle == g.ctl.handle)

/-- The faults of a die that are left behind the service of a page. -/
theorem faults_served {die va : Nat} (hf : t.faults = s.faults) (e : Nat × Nat)
    (he : e ∈ Sparse.get [] (Sparse.alter [] t.faults die (fun l => l.filter (fun e => !s.faultMate g va e))) die) :
    e ∈ Sparse.get [] s.faults die ∧ (e.2 = va → ∀ h, s.group? e.1 = some h → h.ctl.handle ≠ g.ctl.handle) := by
  rw [Sparse.get_alter, if_pos rfl, List.mem_filter, hf] at he
  obtain ⟨hin, hleft⟩ := he
  refine ⟨hin, fun hva h hh heq => ?_⟩
  have hmate : s.faultMate g va e = true := by
    unfold State.faultMate
    simp only [hh, hva, heq, beq_self_eq_true, Bool.and_self]
  rw [hmate] at hleft
  exact Bool.false_ne_true hleft

theorem mem_insertPage (p : Page) (l : List Page) : p ∈ insertPage p l := by
  induction l with
  | nil => exact List.mem_cons_self
  | cons q qs ih =>
    unfold insertPage
    split
    · exact List.mem_cons_self
    · exact List.mem_cons_of_mem _ ih

/-- A page mapped from the pool stands in the table. -/
theorem mapFresh_page {i : Installation} {va : Nat} {v : State} (hi : s.inst? i.handle = some i)
    (hmap : s.mapFresh i va false true false false false = some v) : v.faults = s.faults ∧
      ∃ p k, v.inst? i.handle = some k ∧ p ∈ k.pages ∧ p.va = va ∧ p.size = 65536 ∧ p.w = true ∧ p.pooled = true := by
  unfold State.mapFresh at hmap
  simp only at hmap
  split at hmap
  · exact absurd hmap (by simp)
  · rw [← Option.some.inj hmap]
    have hi' : ∀ ps, (s.tick.takePages i.fn ps).inst? i.handle = some i := fun ps => hi
    exact ⟨State.onInst_faults .., _, _, State.inst?_onInst _ (hi' _) rfl, mem_insertPage _ _, rfl, rfl, rfl, rfl⟩

/-! ### TRAP_ENTRY (06 R176, R179) -/

/-- The entry of a group into its handler. -/
theorem enterHandler_spec {seat : Nat} (hg : s.group? g.gid = some g) (hseat : g.seat = some seat) :
    ∃ h, ((s.enterHandler g).rail g.core (railOfSeat seat)).handler = some g.gid ∧ (s.enterHandler g).group? g.gid = some h ∧
      h.ctl = g.ctl.inHandler { g.ctl.trapRec with frame := BitVec.ofNat 64 s.pkg.frame } (s.trapEntryOf g) ∧ h.stalled = none ∧
      h.clause = none ∧ h.regs = g.regs ∧ (s.enterHandler g).mem = s.mem := by
  unfold State.enterHandler
  simp only [hseat]
  refine ⟨_, ?_, group?_putGroup_at _ rfl hg, rfl, rfl, rfl, rfl, rfl⟩
  rw [State.rail_onRail, if_pos ⟨rfl, rfl⟩]

/-! ### The obligation -/

/-- Settles O54: a line comes in behind the room made for it, the faults a page serves are taken out of the queue, and the oldest trap that
waits enters as any trap does. -/
theorem mantleAndHandlers : Obligations.MantleAndHandlers := by
  unfold Obligations.MantleAndHandlers
  refine ⟨?install, ?victim, ?fault, ?scrub, ?entry, ?suspension⟩
  case install =>
    intro s g hg j bank line full asked
    have hgid := State.group?_gid hg
    have hfound : s.tick.group? g.gid = some g := hgid ▸ hg
    refine ⟨fun hstay => ?_, fun hasked hfree hback => ?_, fun p hasked hfree hback hp => ?_, fun va hasked hfree hback hva => ?_,
      fun v hasked hfull hback hv hclean => ?_, fun v h p hasked hfull hback hv hdirty hh hne hlive hp => ?_⟩
    · refine (show exec .registerLineInstall s = execRegisterLineInstall s from rfl).trans ?_
      unfold execRegisterLineInstall
      simp only [hg]
      refine if_pos ?_
      rw [Bool.or_eq_true, Bool.or_eq_true, Bool.or_eq_true, beq_iff_eq, Bool.not_eq_true', ← Bool.not_eq_true, List.contains_iff_mem]
      rcases hstay with h | h | h
      · exact .inl (.inr h)
      · exact .inr h
      · exact .inl (.inl (.inl h))
    · obtain ⟨hlive, hbanks, hout, hneed⟩ := hasked
      refine ⟨_, install_room hg hlive hbanks hout hneed (makeRoom_free hfree) hfound, ?_⟩
      rw [fillLine_held hback]
      exact ⟨⟨_, mantle_last _ _ _, rfl, rfl, rfl, rfl⟩, rfl, rfl⟩
    · obtain ⟨hlive, hbanks, hout, hneed⟩ := hasked
      obtain ⟨h, hh, hmem, hline, hin, hregs⟩ := fillLine_backed hfound hback hp bank
      exact ⟨_, h, install_room hg hlive hbanks hout hneed (makeRoom_free hfree) hfound, ⟨_, hline, rfl, rfl, rfl, rfl⟩, hgid ▸ hh, hmem, hin, hregs⟩
    · obtain ⟨hlive, hbanks, hout, hneed⟩ := hasked
      have hfill : s.tick.fillLine g j bank = s.tick.contextFault g va := by
        unfold State.fillLine
        simp only [hback, if_true, show s.tick.contextLine g j .read = .fault va from hva]
      refine ⟨s.tick.contextFault g va, hfill ▸ install_room hg hlive hbanks hout hneed (makeRoom_free hfree) hfound, ?_, rfl, rfl⟩
      unfold State.contextFault
      rw [Sparse.get_alter, if_pos rfl]
      split
      · next hc => exact List.contains_iff_mem.mp hc
      · exact List.mem_append_right _ List.mem_cons_self
    · obtain ⟨hlive, hbanks, hout, hneed⟩ := hasked
      refine ⟨_, install_room hg hlive hbanks hout hneed (makeRoom_clean hfull hv hclean) hfound, ?_⟩
      rw [fillLine_held hback]
      refine ⟨⟨_, mantle_last _ _ _, rfl, rfl, rfl, rfl⟩, ?_, rfl, rfl⟩
      rw [State.core_onCore, if_pos rfl, State.core_onCore, if_pos rfl]
      refine dropLine_gone _ fun hsame hline => ?_
      have hin := (mem_openLines.mp (victimLine_spec hv).1).1
      unfold Core.resident at hout
      rw [List.any_eq_false] at hout
      exact hout v hin (by rw [← hsame, ← hline]; simp [j])
    · obtain ⟨hlive', hbanks, hout, hneed⟩ := hasked
      have hhgid := State.group?_gid hh
      obtain ⟨hbytes, hrest, ⟨k, hk, hbacked⟩, hothers, -⟩ := writeBackLine_spec (s := s.tick) (h := h) (hhgid ▸ hh) v.line p
      refine ⟨_, k, install_room hg hlive' hbanks hout hneed (makeRoom_dirty hfull hv hdirty hh hlive hp)
        ((hothers g.gid (Ne.symm hne)).trans hfound), ?_⟩
      rw [fillLine_held hback]
      exact ⟨⟨_, mantle_last _ _ _, rfl, rfl, rfl, rfl⟩, hhgid ▸ hk, hbacked, hbytes, hrest⟩
  case victim =>
    intro s core bank v hv
    obtain ⟨hopen, hclean⟩ := victimLine_spec hv
    obtain ⟨hin, hbank, hlock⟩ := mem_openLines.mp hopen
    refine ⟨hin, hbank, fun h hh => ?_, fun m h hm hmbank hmclean hh hmseat hmlock => ?_⟩
    · unfold State.lineLocked at hlock
      rwa [hh] at hlock
    · obtain ⟨hvseat, hvclean, hleast⟩ := hclean m (mem_openLines.mpr ⟨hm, hmbank, by unfold State.lineLocked; rw [hh]; exact hmlock⟩)
        (by unfold State.lineSeated; rw [hh]; exact beq_false_of_ne hmseat) hmclean
      refine ⟨hvclean, hleast, fun k hk hkseat => ?_⟩
      unfold State.lineSeated at hvseat
      rw [hk] at hvseat
      exact ne_of_beq_false hvseat hkseat
  case fault =>
    intro s die
    have hexec : exec .faultService s = .next (s.tick.serveFault die) := rfl
    refine ⟨fun hnone => ?_, ?_⟩
    · rw [hexec]
      unfold State.serveFault
      simp only [show Sparse.get [] s.tick.faults die = [] from hnone]
    intro gid va fs g hn hfaults hg hlive served
    refine ⟨fun p hp hw => ?_, fun p hp hw => ?_, fun i hp hi => ⟨fun hpool => ?_, fun hpool => ?_⟩⟩
    · refine ⟨{ s.tick with faults := Sparse.alter [] s.faults die (fun l => l.filter (fun e => !s.faultMate g va e)) }, ?_,
        faults_served rfl, rfl⟩
      rw [hexec]
      unfold State.serveFault
      simp only [show Sparse.get [] s.tick.faults die = (gid, va) :: fs from hfaults, show s.tick.group? gid = some g from hg, if_neg hlive,
        show s.tick.page? g.ctl.handle va = some p from hp, hw, if_true]
      rfl
    · obtain ⟨h, hh, hretired, hkilled⟩ := killGroup_retires (s := { s.tick with faults := Sparse.set [] s.faults die fs }) hn hg hlive
      refine ⟨_, h, ?_, hh, hretired, hkilled⟩
      rw [hexec]
      unfold State.serveFault
      simp only [show Sparse.get [] s.tick.faults die = (gid, va) :: fs from hfaults, show s.tick.group? gid = some g from hg, if_neg hlive,
        show s.tick.page? g.ctl.handle va = some p from hp, hw]
      rw [if_neg Bool.false_ne_true, State.group?_gid hg]
      rfl
    · have hih : i.handle = g.ctl.handle := by simpa using List.find?_some hi
      cases hmap : s.tick.mapFresh i va false true false false false with
      | none => exact absurd ((mapFresh_none ..).mp hmap) hpool
      | some v =>
        obtain ⟨hvf, p, k, hk, hin, hva, hsize, hw, hpooled⟩ := mapFresh_page (s := s.tick) (hih ▸ hi) hmap
        refine ⟨{ v with faults := Sparse.alter [] v.faults die (fun l => l.filter (fun e => !s.faultMate g va e)) }, p, k, ?_, hih ▸ hk, hin, hva,
          hsize, hw, hpooled, (show v.groups = s.tick.groups from mapFresh_groups hmap), faults_served hvf⟩
        rw [hexec]
        unfold State.serveFault
        simp only [show Sparse.get [] s.tick.faults die = (gid, va) :: fs from hfaults, show s.tick.group? gid = some g from hg, if_neg hlive,
          show s.tick.page? g.ctl.handle va = none from hp, show s.tick.inst? g.ctl.handle = some i from hi, hmap]
        rfl
    · obtain ⟨h, hh, hretired, hkilled⟩ := killGroup_retires (s := { s.tick with faults := Sparse.set [] s.faults die fs }) hn hg hlive
      refine ⟨_, h, ?_, hh, hretired, hkilled⟩
      have hmap : s.tick.mapFresh i va false true false false false = none := (mapFresh_none ..).mpr hpool
      rw [hexec]
      unfold State.serveFault
      simp only [show Sparse.get [] s.tick.faults die = (gid, va) :: fs from hfaults, show s.tick.group? gid = some g from hg, if_neg hlive,
        show s.tick.page? g.ctl.handle va = none from hp, show s.tick.inst? g.ctl.handle = some i from hi, hmap]
      rw [State.group?_gid hg]
      rfl
  case scrub =>
    intro s
    refine ⟨_, rfl, rfl, fun c => ?_⟩
    rw [State.core_onCore]
    by_cases hc : s.turn.x = c
    · rw [if_pos hc, if_pos hc.symm, hc]
    · rw [if_neg hc, if_neg (Ne.symm hc)]
      rfl
  case entry =>
    intro s c r waits
    have hexec : exec .trapEntry s = .next (s.tick.enterOldest c r) := rfl
    refine ⟨fun hstay => ?_, fun g hn hfree hg hfirst => ?_⟩
    · rw [hexec]
      unfold State.enterOldest
      split
      · rfl
      · next hfree =>
        have hnone : waits = [] := hstay.resolve_left fun hheld => hfree (Option.isSome_iff_ne_none.mpr hheld)
        rw [show (s.tick.onRailGroups c r).filter (fun g => g.ctl.trapPend && !g.ctl.suspended && !g.ctl.shadow && s.tick.pairAgrees g) = []
          from hnone]
        rfl
    · have hold : oldestOf waits = some g := by
        cases ho : oldestOf waits with
        | none =>
          rw [oldestOf_none ho] at hg
          exact absurd hg List.not_mem_nil
        | some a =>
          by_cases ha : a = g
          · rw [ha]
          · have := hfirst a (oldestOf_mem ho) ha
            rw [oldestOf_least ho g hg] at this
            exact absurd this Bool.false_ne_true
      obtain ⟨hmem, hprop⟩ := List.mem_filter.mp (List.mem_filter.mp hg).1
      simp only [Bool.and_eq_true, beq_iff_eq] at hprop
      obtain ⟨⟨hcore, -⟩, hrail⟩ := hprop
      obtain ⟨seat, hseat, hr⟩ := Option.map_eq_some_iff.mp hrail
      obtain ⟨h, hheld, hh, hctl, hstalled, hclause, hregs, hkeep⟩ := enterHandler_spec (s := s.tick) (group?_of_mem hn hmem) hseat
      rw [hcore, hr] at hheld
      refine ⟨s.tick.enterHandler g, h, ?_, hheld, hh, hctl, hstalled, hclause, hregs, (enterHandler_rest s.tick g).2.1, hkeep⟩
      rw [hexec]
      unfold State.enterOldest
      rw [if_neg (by rw [show (s.tick.rail c r).handler = none from hfree]; exact Bool.false_ne_true),
        show (s.tick.onRailGroups c r).filter (fun g => g.ctl.trapPend && !g.ctl.suspended && !g.ctl.shadow && s.tick.pairAgrees g) = waits
          from rfl, hold]
  case suspension =>
    intro s g hg
    have hexec : exec .suspensionEffect s = execSuspensionEffect s := rfl
    refine ⟨fun hstay => ?_, fun hby hway hlive => ?_⟩
    · rw [hexec]
      unfold execSuspensionEffect
      simp only [hg]
      refine if_pos ?_
      rw [Bool.or_eq_true, Bool.or_eq_true, beq_iff_eq, List.isEmpty_iff, or_assoc]
      exact hstay
    · refine ⟨s.putGroup (g.onCtl (fun c => { c with suspended := true })), _, ?_,
        group?_putGroup_at (g.onCtl (fun c => { c with suspended := true })) (show g.gid = _ from State.group?_gid hg) hg, rfl, rfl, rfl⟩
      rw [hexec]
      unfold execSuspensionEffect
      simp only [hg]
      refine if_neg ?_
      rw [Bool.or_eq_true, Bool.or_eq_true, beq_iff_eq, List.isEmpty_iff, hway]
      simp [hby, hlive]

end Sys2Proof.Machine
end

section
/-!
SUPPORT. Loads, atomics and other operations end (06 R167; 09 R251, R253; 15 R411, R416; O55).
-/
namespace Sys2Proof.Machine

variable {s t u : State} {g h k : Group} {o : OutOp}

/-! ### An operation that ends in a state alike -/

/-- What an operation's end reads of it is not its kind. -/
theorem Ended.of_kind {c : Control} {ws : List (Nat × Nat × Word)} (kind : OpKind) (e : Ended s t { o with kind := kind } g h c ws) :
    Ended s t o g h c ws := ⟨e.found, e.values, e.kept, e.control, e.context, e.others, e.done, e.stores⟩

theorem Lands.of_kind {ws : List (Nat × Nat × Word)} (l : Lands o g ws) (kind : OpKind) : Lands { o with kind := kind } g ws :=
  ⟨l.owner, l.alone, l.seat, l.clean, l.live, l.once⟩

theorem Lands.of_alike {ws : List (Nat × Nat × Word)} (l : Lands o g ws) (a : Alike s u g k) : Lands o k ws := by
  rw [a.group]
  exact ⟨l.owner, l.alone, l.seat, l.clean, l.live, l.once⟩

theorem Alike.gid (a : Alike s u g k) : k.gid = g.gid := by rw [a.group]

/-- An operation that ends in a state alike: its results stand, and memory is as in that state. -/
theorem endOp_alike {ws : List (Nat × Nat × Word)} (a : Alike s u g k) (l : Lands o g ws) :
    ∃ h, Ended s (u.endOp o ws) o g h g.ctl ws ∧ (u.endOp o ws).mem = u.mem ∧ (u.endOp o ws).bars = u.bars ∧
      (u.endOp o ws).tickets = u.tickets := by
  obtain ⟨h, e, hrest⟩ := State.endOp_spec (s := u) (a.gid ▸ a.found) (l.of_alike a)
  have hctl : k.ctl = g.ctl := by rw [a.group]
  have hmem : (u.endOp o ws).mem = u.mem := (congrArg State.mem hrest).trans rfl
  exact ⟨h, Ended.alike a (hctl ▸ e) (congrArg DeviceMem.bytes hmem), hmem, (congrArg State.bars hrest).trans rfl,
    (congrArg State.tickets hrest).trans rfl⟩

/-! ### Loads (15 R411) -/

/-- What the end of a load's acquire leaves (15 R412). -/
theorem loadAcquire_alike (hg : s.group? g.gid = some g) (acquire : Option Nat) :
    Alike s (match acquire, some g with
      | some scope, some g => s.acquireEffect g.core g.ctl.handle scope
      | _, _ => s) g g ∧ (match acquire, some g with
      | some scope, some g => s.acquireEffect g.core g.ctl.handle scope
      | _, _ => s).mem = s.mem := by
  cases acquire with
  | none => exact ⟨Alike.refl hg, rfl⟩
  | some n =>
    obtain ⟨a, hmem, -⟩ := acquireEffect_alike hg g.core g.ctl.handle n
    exact ⟨a, hmem⟩

/-- The lanes of a load that write, with their words: those of no poisoned line. -/
theorem filter_clean {l : List (Nat × List Word × Bool)} (hl : ∀ v ∈ l, v.2.2 = false) :
    l.filter (fun v => !v.2.2) = l ∧ l.filter (fun v => v.2.2) = [] := by
  rw [List.filter_eq_self, List.filter_eq_nil_iff]
  exact ⟨fun v hv => by rw [hl v hv]; rfl, fun v hv => by rw [hl v hv]; exact Bool.false_ne_true⟩

/-- A load whose lines have all been read, none of them poisoned, ends with its lanes' words. -/
theorem finishLoad_ends {image : Word256} {form : LoadForm} {lines : List LineAccess} {lanes : List LaneAccess} {acquire : Option Nat}
    {uniform : Bool} (hg : s.group? g.gid = some g) (hclean : ∀ l ∈ lanes, (laneValue (bufRec image) form lines l).2 = false)
    (hl : Lands o g (loadResults o image form lines lanes uniform)) :
    ∃ h, Ended s (s.finishLoad o (bufRec image) form lines lanes acquire uniform) o g h g.ctl (loadResults o image form lines lanes uniform) ∧
      (s.finishLoad o (bufRec image) form lines lanes acquire uniform).mem = s.mem := by
  obtain ⟨a, hmem⟩ := loadAcquire_alike hg acquire
  obtain ⟨h, e, hend, -, -⟩ := endOp_alike a hl
  have hfinish : s.finishLoad o (bufRec image) form lines lanes acquire uniform = (match acquire, some g with
      | some scope, some g => s.acquireEffect g.core g.ctl.handle scope
      | _, _ => s).endOp o (loadResults o image form lines lanes uniform) := by
    unfold State.finishLoad loadResults
    simp only [hl.owner, hg]
    cases uniform with
    | true =>
      cases lanes with
      | nil => rfl
      | cons l ls =>
        simp only [List.map_cons, if_true]
        obtain ⟨hgood, hdead⟩ := filter_clean (l := (laneList o.lanes).map (fun t => (t, laneValue (bufRec image) form lines l))) (by
          intro v hv
          obtain ⟨t, -, rfl⟩ := List.mem_map.mp hv
          exact hclean l List.mem_cons_self)
        rw [hgood, hdead, List.flatMap_map]
        rfl
    | false =>
      simp only [Bool.false_eq_true, if_false]
      obtain ⟨hgood, hdead⟩ := filter_clean (l := lanes.map (fun l => (l.lane, laneValue (bufRec image) form lines l))) (by
        intro v hv
        obtain ⟨l, hlane, rfl⟩ := List.mem_map.mp hv
        exact hclean l hlane)
      rw [hgood, hdead, List.flatMap_map]
      rfl
  rw [hfinish]
  exact ⟨h, e, hend.trans hmem⟩

/-- The bytes of a line that has been read stand at its place in the load: the load goes on, or ends with the lanes' words. -/
theorem lineRead_spec {form : LoadForm} {space : Space} {image : Word256} {hint : Nat} {lines : List LineAccess} {lanes : List LaneAccess}
    {acquire : Option Nat} {uniform : Bool} {i id : Nat} {l : LineAccess} (a : Alike s u g k) (hmem : u.mem.bytes = s.mem.bytes)
    (ho : s.op? id = some o) (hk : o.kind = .load form space image hint lines lanes acquire uniform) (hl : lines[i]? = some l) (bs : List Byte)
    (p : Bool) : let ls := lines.set i { l with bytes := some bs, poison := p }
    (form = .shape ∨ ls.any (fun k => k.bytes.isNone) = true →
      (u.lineRead o i bs p).op? id = some { o with kind := .load form space image hint ls lanes acquire uniform } ∧
        (u.lineRead o i bs p).mem.bytes = s.mem.bytes ∧ (u.lineRead o i bs p).commits = s.commits) ∧
    (form ≠ .shape → ls.any (fun k => k.bytes.isNone) = false → (∀ k ∈ lanes, (laneValue (bufRec image) form ls k).2 = false) →
      Lands o g (loadResults o image form ls lanes uniform) → ∃ h,
        Ended s (u.lineRead o i bs p) o g h g.ctl (loadResults o image form ls lanes uniform) ∧ (u.lineRead o i bs p).mem.bytes = s.mem.bytes) := by
  intro ls
  have hread : u.lineRead o i bs p = if form == .shape || ls.any (fun k => k.bytes.isNone) then
        u.putOp { o with kind := .load form space image hint ls lanes acquire uniform }
      else u.finishLoad { o with kind := .load form space image hint ls lanes acquire uniform } (bufRec image) form ls lanes acquire uniform := by
    unfold State.lineRead
    simp only [hk, hl]
    rfl
  have hfound : u.op? id = some o := by
    unfold State.op? at *
    rw [a.ops]
    exact ho
  refine ⟨fun hmore => ?_, fun hform hlast hclean hlands => ?_⟩
  · rw [hread, if_pos (by rw [Bool.or_eq_true, beq_iff_eq]; exact hmore)]
    exact ⟨op?_putOp hfound (show o.id = id from op?_id ho), hmem, a.commits⟩
  · rw [hread, if_neg (by rw [hlast, Bool.or_false, beq_iff_eq]; exact hform)]
    have hctl : k.ctl = g.ctl := by rw [a.group]
    obtain ⟨h, e, hkept⟩ := finishLoad_ends (o := { o with kind := .load form space image hint ls lanes acquire uniform }) (acquire := acquire)
      (a.gid ▸ a.found) hclean ((hlands.of_alike a).of_kind _)
    exact ⟨h, Ended.alike a ((hctl ▸ e).of_kind _) (congrArg DeviceMem.bytes hkept), (congrArg DeviceMem.bytes hkept).trans hmem⟩

/-- A line placed in an L1 leaves the register lines and the rails. -/
theorem fillL1_keeps (c : Core) (l : L1Line) : (c.fillL1 l).mantle = c.mantle ∧ (c.fillL1 l).rails = c.rails := by
  unfold Core.fillL1
  simp only
  split
  · exact ⟨rfl, rfl⟩
  · split <;> exact ⟨rfl, rfl⟩

/-- What reading a line at its home leaves: every group's words. -/
theorem readAtHome_alike (hg : s.group? g.gid = some g) (o : OutOp) (i : Nat) (r : BufRec) (w : Word) (hint : Nat) (wide : Bool) (l : LineAccess) :
    ∃ u k, s.readAtHome o g i r (.virt w) hint wide l = u.lineRead o i (s.seenBytes o g.core (.virt w) l.addr (s.homeBytes (.virt w) l.phys 128))
      (s.mem.poisoned l.phys) ∧ Alike s u g k ∧ u.mem.bytes = s.mem.bytes := by
  have htouch := State.touchL2_rest s l.phys
  have a1 : Alike s (s.touchL2 l.phys) g g := Alike.of_parts hg ((congrArg State.groups htouch).trans rfl) ((congrArg State.ops htouch).trans rfl)
    ((congrArg State.commits htouch).trans rfl) ((congrArg State.installs htouch).trans rfl) ((congrArg State.launches htouch).trans rfl)
    ((congrArg State.cores htouch).trans rfl)
  have hmem1 : (s.touchL2 l.phys).mem.bytes = s.mem.bytes := (congrArg (fun v : State => v.mem.bytes) htouch).trans rfl
  have hvictim : ∃ v k, (if s.l1Takes r (.virt w) l.addr then (s.touchL2 l.phys).victimHit g.core w l.addr else s.touchL2 l.phys) = v ∧
      Alike s v g k ∧ v.mem.bytes = s.mem.bytes := by
    split
    · obtain ⟨k, a2, hmem2⟩ := victimHit_alike a1.found g.core w l.addr
      exact ⟨_, k, rfl, a1.trans a2, (congrArg DeviceMem.bytes hmem2).trans hmem1⟩
    · exact ⟨_, g, rfl, a1, hmem1⟩
  obtain ⟨v, k, hv, a2, hmem2⟩ := hvictim
  have hfound : v.group? k.gid = some k := a2.gid ▸ a2.found
  have a3 := Alike.onCore hfound g.core (fun c => c.refreshL1 w l.addr (s.homeBytes (.virt w) l.phys 128)) (fun _ => ⟨rfl, rfl⟩)
  unfold State.readAtHome
  simp only [hv]
  split
  · have a4 := Alike.onCore (a3.gid ▸ a3.found) g.core (fun c => c.fillL1 ⟨l.addr, w, 0, s.homeBytes (.virt w) l.phys 128, g.gid, s.freeCtr, hint⟩)
      (fun c => fillL1_keeps c _)
    exact ⟨_, k, rfl, (a2.trans a3).trans a4, hmem2⟩
  · exact ⟨_, k, rfl, a2.trans a3, hmem2⟩

/-- A line of a tenant's memory is read from the core's L1 copy, or at its home behind an open crossing. -/
theorem virtSource_reads (hg : s.group? g.gid = some g) (o : OutOp) (i : Nat) (r : BufRec) (w : Word) (hint : Nat) (wide : Bool) (l : LineAccess)
    {src : List Byte} {p : Bool} (hsrc : s.lineSource g r (.virt w) hint wide l = some (src, p)) :
    ∃ u k, (match (if s.l1Takes r (.virt w) l.addr && hint != 3 && !wide then (s.core g.core).l1Line? w l.addr else none) with
      | some c =>
        (s.onCore g.core (fun k => { k with l1 := k.l1.map (fun m =>
          if m.handle == w && m.addr == c.addr then { m with stamp := s.freeCtr } else m) })).lineRead o i
            (s.seenBytes o g.core (.virt w) l.addr c.bytes) false
      | none => if s.passes g.core (.virt w) l.phys then s.readAtHome o g i r (.virt w) hint wide l else s) =
        u.lineRead o i (s.seenBytes o g.core (.virt w) l.addr src) p ∧ Alike s u g k ∧ u.mem.bytes = s.mem.bytes := by
  unfold State.lineSource at hsrc
  simp only at hsrc
  generalize (if s.l1Takes r (.virt w) l.addr && hint != 3 && !wide then (s.core g.core).l1Line? w l.addr else none) = copy at hsrc ⊢
  cases copy with
  | some c =>
    obtain ⟨rfl, rfl⟩ := Prod.mk.inj (Option.some.inj hsrc)
    exact ⟨_, g, rfl, Alike.onCore hg g.core _ (fun _ => ⟨rfl, rfl⟩), rfl⟩
  | none =>
    simp only at hsrc ⊢
    split at hsrc
    · next hpass =>
      obtain ⟨rfl, rfl⟩ := Prod.mk.inj (Option.some.inj hsrc)
      rw [if_pos hpass]
      exact readAtHome_alike hg o i r w hint wide l
    · exact absurd hsrc (by simp)

/-- Whether a load acquires at a scope that looks past the L1 (15 R412). -/
def wideAcquire (acquire : Option Nat) : Bool := match acquire with | some n => decide (2 ≤ n) | none => false

/-- LOAD_DATA_RETURN of a line that may be read: its bytes go into the load, in a state that differs in caches and scores alone. -/
theorem loadReturn_reads {form : LoadForm} {space : Space} {image : Word256} {hint : Nat} {lines : List LineAccess} {lanes : List LaneAccess}
    {acquire : Option Nat} {uniform : Bool} {i id : Nat} {l : LineAccess} {src : List Byte} {p : Bool} (ho : s.op? id = some o)
    (hk : o.kind = .load form space image hint lines lanes acquire uniform) (hg : s.group? o.gid = some g) (hl : lines[i]? = some l)
    (hnew : l.bytes = none) (hserved : l.served = true) (hlost : s.lostFlit id l.addr = false)
    (hsrc : s.lineSource g (bufRec image) space hint (wideAcquire acquire) l = some (src, p)) :
    ∃ u k, s.loadReturn id i = u.lineRead o i (s.seenBytes o g.core space l.addr src) p ∧ Alike s u g k ∧ u.mem.bytes = s.mem.bytes := by
  have hfound : s.group? g.gid = some g := State.group?_gid hg ▸ hg
  have hgo : ¬ ((l.bytes.isSome || !l.served || s.lostFlit o.id l.addr) = true) := by
    rw [hnew, hserved, op?_id ho, hlost]
    exact Bool.false_ne_true
  unfold State.loadReturn
  simp only [ho, hk, hg, hl]
  rw [if_neg hgo]
  cases space with
  | sram =>
    obtain ⟨rfl, rfl⟩ := Prod.mk.inj (Option.some.inj hsrc)
    exact ⟨s, g, rfl, Alike.refl hfound, rfl⟩
  | fabric h k =>
    unfold State.lineSource at hsrc
    simp only at hsrc ⊢
    cases hfar : s.fab.farLine? h k l.addr with
    | none => rw [hfar] at hsrc; exact absurd hsrc (by simp)
    | some f =>
      rw [hfar] at hsrc
      simp only at hsrc ⊢
      split at hsrc
      · next hvalid =>
        obtain ⟨rfl, rfl⟩ := Prod.mk.inj (Option.some.inj hsrc)
        exact ⟨s, g, if_pos hvalid, Alike.refl hfound, rfl⟩
      · exact absurd hsrc (by simp)
  | virt w => exact virtSource_reads hfound o i (bufRec image) w hint (wideAcquire acquire) l hsrc

/-! ### Atomics (09 R253) -/

/-- A write at a home of this package: the bytes it covers, whole, and no other; the groups' words stay. -/
theorem writeHome_alike (hg : s.group? g.gid = some g) {space : Space} (hlocal : ∀ h k, space ≠ .fabric h k) {phys : Nat} (size data : Nat)
    (hclean : space = .sram ∨ s.mem.poisoned phys = false) :
    let u := (s.writeHome space phys size (2 ^ (8 * size) - 1) data).1
    let bytes (t : State) : List Host.Cell := if space = .sram then t.mem.sram else t.mem.bytes
    Alike s u g g ∧ (∀ j, j < size → Memory.read (bytes u) (phys + j) = BitVec.ofNat 8 (data / 256 ^ j)) ∧
      ∀ a, a < phys ∨ phys + size ≤ a → Memory.read (bytes u) a = Memory.read (bytes s) a := by
  have hall : (2 : Nat) ^ (8 * size) - 1 = 256 ^ size - 1 := by rw [Nat.pow_mul]
  rw [hall]
  cases space with
  | fabric h k => exact absurd rfl (hlocal h k)
  | sram =>
    refine ⟨Alike.of_parts hg rfl rfl rfl rfl rfl rfl, fun j hj => ?_, fun a ha => ?_⟩
    · dsimp only
      rw [if_pos rfl]
      exact Memory.read_writeBits_whole _ _ _ _ _ hj
    · dsimp only
      rw [if_pos rfl, if_pos rfl]
      exact Memory.read_writeBits_out _ _ _ _ _ _ ha
  | virt w =>
    have hgood : s.mem.poisoned phys = false := hclean.resolve_left (by simp)
    have hrest := State.writeHome_rest s w phys size (256 ^ size - 1) data
    refine ⟨Alike.of_parts hg ((congrArg State.groups hrest).trans rfl) ((congrArg State.ops hrest).trans rfl)
      ((congrArg State.commits hrest).trans rfl) ((congrArg State.installs hrest).trans rfl) ((congrArg State.launches hrest).trans rfl)
      ((congrArg State.cores hrest).trans rfl), fun j hj => ?_, fun a ha => ?_⟩
    · dsimp only
      rw [if_neg (by simp)]
      unfold State.writeHome
      simp only
      rw [if_neg (by rw [hgood]; exact Bool.false_ne_true)]
      exact Memory.read_writeBits_whole _ _ _ _ _ hj
    · dsimp only
      rw [if_neg (by simp), if_neg (by simp)]
      exact State.writeHome_out s w phys size _ data a ha

theorem homeBytes_tick (s : State) (space : Space) (phys n : Nat) : s.tick.homeBytes space phys n = s.homeBytes space phys n := by
  induction n generalizing phys with
  | zero => rfl
  | succ n ih => exact congrArg (s.homeByte space phys :: ·) (ih (phys + 1))

/-- A request that performs at a clean home reads the old value and writes the new one. -/
theorem performHere_clean {space : Space} (hlocal : ∀ h k, space ≠ .fabric h k) {r : AtomRequest}
    (hclean : space = .sram ∨ s.mem.poisoned r.phys = false) (o : OutOp) (i : Nat) (op : AtomOp) (size rnd : Nat) :
    s.performHere o i op size rnd space r = (s.writeHome space r.phys size (2 ^ (8 * size) - 1)
      (performAtomic op size rnd (natOfBytes (s.homeBytes space r.phys size)) r.lanes).1).1.requestDone o i
        (r.withOld op size rnd (natOfBytes (s.homeBytes space r.phys size))) := by
  unfold State.performHere
  cases space with
  | fabric h k => exact absurd rfl (hlocal h k)
  | sram => rfl
  | virt w =>
    have hgood : s.mem.poisoned r.phys = false := hclean.resolve_left (by simp)
    exact if_neg (by rw [hgood]; exact Bool.false_ne_true)

/-- An atomic none of whose requests died ends with the lanes' old values, if it returns them. -/
theorem finishAtomic_eq {reqs : List AtomRequest} (hlive : reqs.any (fun q => q.died) = false) (size : Nat) (returns uniform : Bool) :
    s.finishAtomic o size reqs returns uniform = s.endOp o (if returns then atomicResults o size reqs uniform else []) := by
  have hnone : (if uniform then (if reqs.any (fun r => r.died) then laneList o.lanes else [])
      else reqs.flatMap (fun r => if r.died then r.lanes.map (fun l => l.lane) else [])) = [] := by
    rw [hlive]
    cases uniform with
    | true => rfl
    | false =>
      rw [if_neg Bool.false_ne_true, List.flatMap_eq_nil_iff]
      intro r hr
      rw [List.any_eq_false] at hlive
      exact if_neg (hlive r hr)
  unfold State.finishAtomic atomicResults
  simp only [hnone]
  have hlanes : (laneList o.lanes).filter (fun t => !([] : List Nat).contains t) = laneList o.lanes :=
    List.filter_eq_self.mpr fun t _ => rfl
  rw [hlanes]
  cases uniform <;> rfl

/-- A request that has performed: the atomic goes on, or ends. -/
theorem requestDone_spec {op : AtomOp} {size rnd i id : Nat} {space : Space} {image : Word256} {reqs : List AtomRequest} {returns uniform : Bool}
    (a : Alike s u g g) (ho : s.op? id = some o) (hk : o.kind = .atomic op size space image reqs returns uniform rnd) (done : AtomRequest) :
    let rs := reqs.set i done
    (rs.any (fun q => !q.done) = true →
      (u.requestDone o i done).op? id = some { o with kind := .atomic op size space image rs returns uniform rnd } ∧
        (u.requestDone o i done).mem = u.mem) ∧
    (rs.any (fun q => !q.done) = false → rs.any (fun q => q.died) = false →
      Lands o g (if returns then atomicResults o size rs uniform else []) → ∃ h,
        Ended s (u.requestDone o i done) o g h g.ctl (if returns then atomicResults o size rs uniform else []) ∧
          (u.requestDone o i done).mem = u.mem) := by
  intro rs
  have hdone : u.requestDone o i done = if rs.any (fun q => !q.done) then
        u.putOp { o with kind := .atomic op size space image rs returns uniform rnd }
      else u.finishAtomic { o with kind := .atomic op size space image rs returns uniform rnd } size rs returns uniform := by
    unfold State.requestDone
    simp only [hk]
    rfl
  have hfound : u.op? id = some o := by
    unfold State.op? at *
    rw [a.ops]
    exact ho
  refine ⟨fun hmore => ?_, fun hlast hlive hlands => ?_⟩
  · rw [hdone, if_pos hmore]
    exact ⟨op?_putOp hfound (show o.id = id from op?_id ho), rfl⟩
  · rw [hdone, if_neg (by rw [hlast]; exact Bool.false_ne_true), finishAtomic_eq hlive]
    obtain ⟨h, e, hmem, -, -⟩ := endOp_alike (o := { o with kind := .atomic op size space image rs returns uniform rnd }) a (hlands.of_kind _)
    exact ⟨h, e.of_kind _, hmem⟩

/-! ### Operations whose results were known at issue (06 R167; 11 R308) -/

/-- Raising exceptions changes no more of a control area than its exception bits. -/
theorem raiseList_rest (c : Control) (exc : List (Nat × BitVec 5)) (sat : Bool) :
    c.raiseList exc sat = { c with fpstat := (c.raiseList exc sat).fpstat, satf := (c.raiseList exc sat).satf } := by
  have hraise (c : Control) : exc.foldl (fun c e => c.raise e.1 e.2) c = { c with
      fpstat := (exc.foldl (fun c e => c.raise e.1 e.2) c).fpstat } := by
    induction exc generalizing c with
    | nil => rfl
    | cons e es ih =>
      have hone : c.raise e.1 e.2 = { c with fpstat := (c.raise e.1 e.2).fpstat } := by
        unfold Control.raise
        split <;> rfl
      rw [List.foldl_cons, ih, hone]
  unfold Control.raiseList
  simp only
  rw [hraise]

/-- The words of a group are those before its exceptions were raised. -/
theorem resultWord_raised (s : State) (g : Group) (o : OutOp) (exc : List (Nat × BitVec 5)) (sat : Bool) (r l : Nat) :
    (s.putGroup (g.onCtl (fun c => c.raiseList exc sat))).resultWord o (g.onCtl (fun c => c.raiseList exc sat)) r l = s.resultWord o g r l := by
  have hctl := raiseList_rest g.ctl exc sat
  unfold State.resultWord
  split
  · rfl
  · unfold State.lineWord
    rw [SameContext.word (s := s) (t := s.putGroup (g.onCtl (fun c => c.raiseList exc sat))) (g := g)
      (h := g.onCtl (fun c => c.raiseList exc sat)) ⟨rfl, rfl, rfl, rfl, (congrArg Control.shadow hctl).trans rfl, (congrArg Control.group hctl).trans rfl,
      (congrArg Control.handle hctl).trans rfl⟩]
    rfl

/-- An operation whose results were known at issue writes them and raises its exceptions. -/
theorem valueOp_ends {ws : List (Nat × Nat × Word)} (hg : s.group? g.gid = some g) (hl : Lands o g ws) (exc : List (Nat × BitVec 5)) (sat : Bool) :
    ∃ h, Ended s ((s.onGroup o.gid (fun g => g.onCtl (fun c => c.raiseList exc sat))).endOp o ws) o g h (g.ctl.raiseList exc sat) ws ∧
      ((s.onGroup o.gid (fun g => g.onCtl (fun c => c.raiseList exc sat))).endOp o ws).mem = s.mem := by
  have hctl := raiseList_rest g.ctl exc sat
  rw [hl.owner, State.onGroup_some hg]
  obtain ⟨h, e, hrest⟩ := State.endOp_spec (s := s.putGroup (g.onCtl (fun c => c.raiseList exc sat))) (o := o)
    (g := g.onCtl (fun c => c.raiseList exc sat)) (group?_putGroup_at _ rfl hg) (ws := ws)
    ⟨hl.owner, (congrArg Control.paired hctl).trans hl.alone, hl.seat, hl.clean, fun w hw => by
      obtain ⟨hreg, hlane, hdead⟩ := hl.live w hw
      exact ⟨hreg, hlane, (congrArg (fun c : Control => c.dead.getLsbD w.2.1) hctl).trans hdead⟩, hl.once⟩
  refine ⟨h, ⟨e.found, e.values, fun r l hr hlane hno hb => (e.kept r l hr hlane hno hb).trans (resultWord_raised s g o exc sat r l), e.control,
    e.context, fun n hn => (e.others n hn).trans (congrArg _ (State.group?_putGroup_ne _ hn)), e.done, e.stores⟩,
    (congrArg State.mem hrest).trans rfl⟩

/-! ### BARTEST (09 R249, R252) -/

/-- The L1 copies that a core holds stay at the end of an operation. -/
theorem endOp_l1 {ws : List (Nat × Nat × Word)} (hg : s.group? g.gid = some g) (hl : Lands o g ws) :
    ((s.endOp o ws).core g.core).l1 = (s.core g.core).l1 := by
  obtain ⟨h, w, -, -⟩ := State.writeResults_spec ws hg hl
  have hend : s.endOp o ws = (s.writeResults o ws).dropOp o.id := by
    unfold State.endOp
    simp only
    rw [State.group?_dropOp, hl.owner, w.found]
    simp only
    rw [if_neg (by rw [w.group, hl.alone]; simp)]
  rw [hend]
  exact (congrArg Core.l1 w.mine).trans rfl

/-- At quad scope or wider an acquire takes the core's L1 copies of the tenant away (08 R228). -/
theorem acquireEffect_l1 (s : State) (c : Nat) (w : Word) {scope : Nat} (hlow : 2 ≤ scope) :
    ∀ m ∈ ((s.acquireEffect c w scope).core c).l1, m.handle ≠ w := by
  have hcore : ((s.acquireEffect c w scope).core c) = (s.onCore c (fun k => k.dropL1 w)).core c := by
    unfold State.acquireEffect
    rw [if_pos hlow]
    simp only
    split
    · refine State.core_congr ?_ c
      unfold State.dropFar
      exact (congrArg State.cores (flushFar_rest (s.onCore c (fun k => k.dropL1 w)) w)).trans rfl
    · rfl
  rw [hcore, State.core_onCore, if_pos rfl]
  intro m hm
  have := (List.mem_filter.mp hm).2
  rwa [bne_iff_ne] at this

/-! ### The obligation -/

/-- Settles O55: a read line, a performed request and an acquire change caches, scores and bytes alone, and an operation that ends in such a
state ends in the first. -/
theorem loadsAtomicsAndResults : Obligations.LoadsAtomicsAndResults := by
  unfold Obligations.LoadsAtomicsAndResults
  refine ⟨?load, ?atomic, ?others⟩
  case load =>
    intro s o g form space image hint lines lanes acquire uniform l id i ho hk hg hl r wide
    have hexec : exec .loadDataReturn s = .next (s.tick.loadReturn id i) := rfl
    refine ⟨fun hstay => ?_, fun src p hnew hserved hlost hsrc => ?_⟩
    · rw [hexec]
      unfold State.loadReturn
      simp only [show s.tick.op? id = some o from ho, hk, show s.tick.group? o.gid = some g from hg, hl]
      refine congrArg Host.Outcome.next (if_pos ?_)
      rw [Bool.or_eq_true, Bool.or_eq_true, op?_id ho, Bool.not_eq_true', Option.isSome_iff_ne_none, or_assoc]
      exact hstay
    · intro line ls
      obtain ⟨u, k, hread, a, hmem⟩ := loadReturn_reads (s := s.tick) ho hk hg hl hnew hserved hlost hsrc
      obtain ⟨hmore, hlast⟩ := lineRead_spec a hmem ho hk hl (s.tick.seenBytes o g.core space l.addr src) p
      rw [hexec, hread]
      refine ⟨fun hopen => ⟨_, rfl, hmore hopen⟩, fun hform hall hclean hlands => ?_⟩
      obtain ⟨h, e, hbytes⟩ := hlast hform hall hclean hlands
      exact ⟨_, h, rfl, ⟨e.found, e.values, e.kept, e.control, e.context, e.others, e.done, e.stores⟩, hbytes⟩
  case atomic =>
    intro s id i o g op size space image reqs returns uniform rnd r ho hk hg hr hnew hlocal hlost hpass hclean v done bytes stored
    have hgid := State.group?_gid hg
    have hfound : s.tick.group? g.gid = some g := hgid ▸ hg
    obtain ⟨a, hin, hout⟩ := writeHome_alike hfound hlocal size (performAtomic op size rnd v r.lanes).1 hclean
    have hexec : exec (.atomicPerform id i .none) s = .next
        ((s.tick.writeHome space r.phys size (2 ^ (8 * size) - 1) (performAtomic op size rnd v r.lanes).1).1.requestDone o i done) := by
      refine (show exec (.atomicPerform id i .none) s = .next (s.tick.atomicPerform id i .none) from rfl).trans (congrArg Host.Outcome.next ?_)
      unfold State.atomicPerform
      simp only [show s.tick.op? id = some o from ho, hk, hr, hnew, Bool.false_eq_true, if_false]
      have hcore : s.tick.coreOf o.gid = g.core := by
        unfold State.coreOf
        rw [show s.tick.group? o.gid = some g from hg]
      have hgo : ¬ ((s.tick.lostFlit o.id r.addr || !s.tick.passes (s.tick.coreOf o.gid) space r.phys) = true) := by
        rw [hcore, op?_id ho, show s.tick.lostFlit id r.addr = false from hlost, show s.tick.passes g.core space r.phys = true from hpass]
        exact Bool.false_ne_true
      have hhere : s.tick.performHere o i op size rnd space r =
          (s.tick.writeHome space r.phys size (2 ^ (8 * size) - 1) (performAtomic op size rnd v r.lanes).1).1.requestDone o i done := by
        have := performHere_clean (s := s.tick) hlocal hclean o i op size rnd
        rwa [homeBytes_tick] at this
      cases space with
      | fabric h k => exact absurd rfl (hlocal h k)
      | sram => exact (if_neg hgo).trans hhere
      | virt w => exact (if_neg hgo).trans hhere
    obtain ⟨hmore, hlast⟩ := requestDone_spec (i := i) a ho hk done
    have hstored (t : State) (ht : t.mem = (s.tick.writeHome space r.phys size (2 ^ (8 * size) - 1) (performAtomic op size rnd v r.lanes).1).1.mem) :
        stored t := by
      refine ⟨fun j hj => ?_, fun b hb => ?_⟩
      · exact (congrArg (fun m : DeviceMem => Memory.read (if space = .sram then m.sram else m.bytes) (r.phys + j)) ht).trans (hin j hj)
      · exact (congrArg (fun m : DeviceMem => Memory.read (if space = .sram then m.sram else m.bytes) b) ht).trans (hout b hb)
    rw [hexec]
    refine ⟨fun hopen => ?_, fun hall hlive => ?_⟩
    · obtain ⟨hop, hmem⟩ := hmore hopen
      exact ⟨_, rfl, hop, hstored _ hmem⟩
    · intro ws hlands
      obtain ⟨h, e, hmem⟩ := hlast hall hlive hlands
      exact ⟨_, h, rfl, ⟨e.found, e.values, e.kept, e.control, e.context, e.others, e.done, e.stores⟩, hstored _ hmem⟩
  case others =>
    intro s o g id ho hg
    have hgid := State.group?_gid hg
    have hfound : s.tick.group? g.gid = some g := hgid ▸ hg
    have hop : s.tick.op? id = some o := ho
    have hexec : exec .longLatencyComplete s = .next (s.tick.longComplete id) := rfl
    have hback {t : State} {h : Group} {c : Control} {ws : List (Nat × Nat × Word)} (e : Ended s.tick t o g h c ws) : Ended s t o g h c ws :=
      ⟨e.found, e.values, e.kept, e.control, e.context, e.others, e.done, e.stores⟩
    rw [hexec]
    refine ⟨fun ws exc sat hk hl => ?_, fun ws hk hl => ?_, fun d each hk => ?_, fun scope key phase hk hfree => ?_⟩
    · obtain ⟨h, e, hmem⟩ := valueOp_ends hfound hl exc sat
      refine ⟨_, h, congrArg Host.Outcome.next ?_, hback e, hmem⟩
      unfold State.longComplete
      simp only [hop, hk]
    · obtain ⟨h, e, hmem, -, -⟩ := endOp_alike (Alike.refl hfound) hl
      refine ⟨_, h, congrArg Host.Outcome.next ?_, hback e, hmem⟩
      unfold State.longComplete
      simp only [hop, hk]
    · intro next ws hl
      have hwords : (ticketList o.lanes each next).map (fun (v : Nat × Word) => (o.dest, v.1, v.2)) = ws := List.map_map ..
      obtain ⟨h, e, hmem, -, htick⟩ := endOp_alike (u := { s.tick with
          tickets := Sparse.set {} s.tickets d { Sparse.get {} s.tickets d with
            next := next + BitVec.ofNat 32 (if each then (laneList o.lanes).length else 1) } })
        (Alike.of_parts hfound rfl rfl rfl rfl rfl rfl) hl
      refine ⟨_, h, congrArg Host.Outcome.next ?_, hback e, ?_, ?_, hmem⟩
      · unfold State.longComplete State.takeTickets
        simp only [hop, hk]
        rw [← hwords]
        rfl
      · rw [htick, Sparse.get_set, if_pos rfl]
      · rw [htick, Sparse.get_set, if_pos rfl]
    · intro hit ws hl _
      have hfree' : s.tick.objectBusy o.gid o.id key = false := (op?_id ho).symm ▸ hfree
      have heff : ∃ u, (match hit, some g with
            | true, some g => s.tick.acquireEffect g.core g.ctl.handle scope
            | _, _ => s.tick) = u ∧ Alike s.tick u g g ∧ u.mem = s.mem ∧ u.bars = s.bars ∧
          (hit = true → 2 ≤ scope → ∀ m ∈ (u.core g.core).l1, m.handle ≠ g.ctl.handle) := by
        cases hit with
        | false => exact ⟨_, rfl, Alike.refl hfound, rfl, rfl, fun hno => absurd hno Bool.false_ne_true⟩
        | true =>
          obtain ⟨a, hmem, hbars⟩ := acquireEffect_alike hfound g.core g.ctl.handle scope
          exact ⟨_, rfl, a, hmem, hbars, fun _ hlow => acquireEffect_l1 s.tick g.core g.ctl.handle hlow⟩
      obtain ⟨u, hu, a, hmem, hbars, hl1⟩ := heff
      obtain ⟨h, e, -, hbars', -⟩ := endOp_alike a hl
      refine ⟨u.endOp o ws, h, congrArg Host.Outcome.next ?_, hback e, hbars'.trans hbars, fun hyes hlow => ?_⟩
      · unfold State.longComplete
        simp only [hop, hk, hfree', show s.tick.group? o.gid = some g from hg]
        rw [← hu]
        rfl
      · rw [endOp_l1 a.found hl]
        exact hl1 hyes hlow

end Sys2Proof.Machine
end

section
/-!
SUPPORT. Stores in flight, releases and acquires (08 R226 to R233; 09 R243, R251, R252; 15 R413 to R419; for O56).
-/
namespace Sys2Proof.Machine

variable {s t u : State} {g h k : Group} {o : OutOp} {c : Commit}

/-! ### A store's 16 bytes at its home (08 R227) -/

theorem mergeByte_zero (old data : Byte) : mergeByte old 0#8 data = old := by
  unfold mergeByte
  rw [BitVec.and_zero, BitVec.or_zero]
  exact BitVec.and_allOnes

/-- A write of bits merges each byte of its run. -/
theorem Memory.read_writeBits (m : List Host.Cell) (a mask data n i : Nat) (h : i < n) :
    Memory.read (Memory.writeBits m a mask data n) (a + i) =
      mergeByte (Memory.read m (a + i)) (BitVec.ofNat 8 (mask / 256 ^ i)) (BitVec.ofNat 8 (data / 256 ^ i)) := by
  induction n generalizing m a mask data i with
  | zero => exact absurd h (Nat.not_lt_zero i)
  | succ n ih =>
    unfold Memory.writeBits
    simp only
    cases i with
    | zero =>
      rw [Memory.read_writeBits_out _ _ _ _ _ _ (Or.inl (by omega)), Nat.pow_zero, Nat.div_one, Nat.div_one, Nat.add_zero]
      split
      · next hzero => rw [hzero, mergeByte_zero]
      · rw [Memory.read_write, if_pos rfl]
        rfl
    | succ i =>
      have hkeep : Memory.read (if BitVec.ofNat 8 mask = 0#8 then m
          else Memory.write m a ((Memory.read m a &&& ~~~BitVec.ofNat 8 mask) ||| (BitVec.ofNat 8 data &&& BitVec.ofNat 8 mask))) (a + 1 + i) =
          Memory.read m (a + 1 + i) := by
        split
        · rfl
        · rw [Memory.read_write, if_neg (by omega)]
      rw [show a + (i + 1) = a + 1 + i by omega, ih _ _ _ _ _ (Nat.lt_of_succ_lt_succ h), hkeep, Nat.pow_succ, Nat.mul_comm (256 ^ i),
        Nat.div_div_eq_div_mul, Nat.div_div_eq_div_mul]

/-- The bytes of a number that stands from an offset of a line on. -/
theorem shifted_in (x off i : Nat) : x * 256 ^ off / 256 ^ (off + i) = x / 256 ^ i := by
  rw [Nat.pow_add, Nat.mul_comm x, Nat.mul_div_mul_left _ _ (Nat.pow_pos (by decide))]

/-- Outside its bytes the line is zero. -/
theorem shifted_out {x n off j : Nat} (hx : x < 256 ^ n) (h : j < off ∨ off + n ≤ j) : BitVec.ofNat 8 (x * 256 ^ off / 256 ^ j) = 0#8 := by
  apply BitVec.eq_of_toNat_eq
  rw [BitVec.toNat_ofNat]
  rcases h with h | h
  · rw [show off = (off - j - 1) + 1 + j by omega, Nat.pow_add, ← Nat.mul_assoc, Nat.mul_div_cancel _ (Nat.pow_pos (by decide)), Nat.pow_succ,
      ← Nat.mul_assoc]
    exact Nat.mul_mod_left _ _
  · have hlt : x < 256 ^ (j - off) := Nat.lt_of_lt_of_le hx (Nat.pow_le_pow_right (by decide) (by omega))
    rw [show j = off + (j - off) by omega, shifted_in, Nat.div_eq_of_lt hlt]
    rfl

/-- The byte of a 128-bit image that stands from an offset of a line on. -/
theorem shiftedByte_in (x : BitVec 128) (off i : Nat) : BitVec.ofNat 8 (x.toNat * 256 ^ off / 256 ^ (off + i)) = byteAt x i := by
  apply BitVec.eq_of_toNat_eq
  unfold byteAt
  rw [BitVec.toNat_ofNat, BitVec.extractLsb'_toNat, Nat.shiftRight_eq_div_pow, shifted_in, show (2 : Nat) ^ (8 * i) = 256 ^ i by rw [Nat.pow_mul]]

theorem mergeByte_masked (old bits data : Byte) : mergeByte old bits (bits &&& data) = mergeByte old bits data := by
  unfold mergeByte
  rw [BitVec.and_comm bits data, BitVec.and_assoc, BitVec.and_self]

theorem byteAt_and (x y : BitVec 128) (i : Nat) : byteAt (x &&& y) i = byteAt x i &&& byteAt y i := by
  unfold byteAt
  apply BitVec.eq_of_getLsbD_eq
  intro n hn
  simp [hn]

/-- A store written into its line: its 16 bytes are merged, and every other byte stays. -/
theorem unitBits_written (m : List Host.Cell) (c : Commit) {line addr : Nat} (haddr : addr = line + c.block % 128) (hblock : c.block % 16 = 0) :
    (∀ i, i < 16 → Memory.read (Memory.writeBits m line (unitBits [c]).1 (unitBits [c]).2 128) (addr + i) =
      mergeByte (Memory.read m (addr + i)) (byteAt c.bits i) (byteAt c.data i)) ∧
    ∀ a, a < addr ∨ addr + 16 ≤ a → Memory.read (Memory.writeBits m line (unitBits [c]).1 (unitBits [c]).2 128) a = Memory.read m a := by
  have hunit : unitBits [c] = (c.bits.toNat * 256 ^ (c.block % 128), (c.bits &&& c.data).toNat * 256 ^ (c.block % 128)) := by
    unfold unitBits
    rw [List.foldl_cons, List.foldl_nil, Nat.zero_or, Nat.zero_or]
  rw [hunit]
  have hoff : c.block % 128 + 16 ≤ 128 := by omega
  generalize c.block % 128 = off at haddr hoff
  subst haddr
  refine ⟨fun i hi => ?_, fun a ha => ?_⟩
  · rw [Nat.add_assoc, Memory.read_writeBits _ _ _ _ _ _ (by omega), shiftedByte_in, shiftedByte_in, byteAt_and, mergeByte_masked]
  · by_cases hline : a < line ∨ line + 128 ≤ a
    · exact Memory.read_writeBits_out _ _ _ _ _ _ hline
    · rw [show a = line + (a - line) by omega, Memory.read_writeBits _ _ _ _ _ _ (by omega),
        shifted_out (n := 16) (by rw [show 256 ^ 16 = 2 ^ 128 by decide]; exact c.bits.isLt) (by omega), mergeByte_zero]

/-! ### STORE_COMMIT (08 R227, R230 to R232) -/

/-- Only memory and the cores' copies differ. -/
def MemoryAndCores (s t : State) : Prop := t = { s with mem := t.mem, cores := t.cores }

theorem MemoryAndCores.trans (h : MemoryAndCores s t) (h' : MemoryAndCores t u) : MemoryAndCores s u :=
  (show u = { t with mem := u.mem, cores := u.cores } from h').trans
    (congrArg (fun v : State => { v with mem := u.mem, cores := u.cores }) h)

/-- What of the state is neither memory nor a core's stays. -/
theorem MemoryAndCores.keeps {γ : Type} (h : MemoryAndCores s t) (F : State → γ)
    (hF : ∀ m cs, F { s with mem := m, cores := cs } = F s) : F t = F s := (congrArg F h).trans (hF _ _)

theorem onMem_side (s : State) (f : DeviceMem → DeviceMem) : MemoryAndCores s (s.onMem f) := rfl

theorem onCore_side (s : State) (c : Nat) (f : Core → Core) : MemoryAndCores s (s.onCore c f) := rfl

theorem dropCommits_one (s : State) (n : Nat) : (s.dropCommits [n]).commits = s.commits.filter (fun d => d.id != n) := by
  unfold State.dropCommits
  refine List.filter_congr fun d _ => ?_
  rw [bne, List.contains_cons, List.contains_nil, Bool.or_false]

theorem writeHome_sram (s : State) (a n bits data : Nat) : ∃ t, (s.writeHome .sram a n bits data).1 = t ∧ MemoryAndCores s t ∧
    t.mem.sram = Memory.writeBits s.mem.sram a bits data n := ⟨_, rfl, rfl, rfl⟩

theorem writeHome_virt (w : Word) {a : Nat} (hclean : s.mem.poisoned a = false) (n bits data : Nat) :
    ∃ t, s.writeHome (.virt w) a n bits data = (t, true) ∧ MemoryAndCores s t ∧ t.mem.bytes = Memory.writeBits s.mem.bytes a bits data n ∧
      ∀ b, t.mem.poisoned b = true → s.mem.poisoned b = true := by
  obtain ⟨l2, htouch⟩ : ∃ l2, s.touchL2 a = { s with mem := { s.mem with l2 := l2 } } := ⟨_, State.touchL2_rest s a⟩
  unfold State.writeHome
  simp only
  rw [if_neg (by rw [hclean]; exact Bool.false_ne_true), htouch]
  refine ⟨_, rfl, rfl, rfl, fun b hb => ?_⟩
  unfold DeviceMem.poisoned at hb ⊢
  rw [List.contains_iff_mem] at hb ⊢
  exact (List.mem_filter.mp hb).1

/-- A store alone in its unit is written at its home, in HBM or in a scratchpad. -/
theorem writeUnit_local (hlocal : ∀ h k, c.space ≠ .fabric h k)
    (hclean : c.space = .sram ∨ (s.mem.poisoned c.phys = false ∧ c.phys % 128 = c.block % 128)) (hblock : c.block % 16 = 0) :
    let addr := match c.space with | .virt _ => c.phys | _ => c.block
    let bytes (t : State) : List Host.Cell := if c.space = .sram then t.mem.sram else t.mem.bytes
    ∃ t, s.writeUnit c [c] = (t, []) ∧ MemoryAndCores s t ∧
      (∀ i, i < 16 → Memory.read (bytes t) (addr + i) = mergeByte (Memory.read (bytes s) (addr + i)) (byteAt c.bits i) (byteAt c.data i)) ∧
      ∀ a, a < addr ∨ addr + 16 ≤ a → Memory.read (bytes t) a = Memory.read (bytes s) a := by
  unfold State.writeUnit
  cases hspace : c.space with
  | fabric h k => exact absurd hspace (hlocal h k)
  | sram =>
    obtain ⟨t, ht, hside, hwritten⟩ := writeHome_sram s (c.block / 128 * 128) 128 (unitBits [c]).1 (unitBits [c]).2
    refine ⟨t, congrArg (fun v : State => (v, [])) ht, hside, ?_⟩
    simp only [if_true, hwritten]
    exact unitBits_written s.mem.sram c (Nat.div_add_mod' c.block 128).symm hblock
  | virt h =>
    obtain ⟨hgood, hphys⟩ := hclean.resolve_left (by rw [hspace]; simp)
    have hline : s.mem.poisoned (c.phys / 128 * 128) = false := by
      unfold DeviceMem.poisoned at hgood ⊢
      rwa [Nat.mul_div_cancel _ (by decide)]
    obtain ⟨t, ht, hside, hwritten, -⟩ := writeHome_virt h hline 128 (unitBits [c]).1 (unitBits [c]).2
    simp only [ht, if_true, List.foldl_cons, List.foldl_nil]
    refine ⟨_, rfl, hside.trans (onCore_side t _ _), ?_⟩
    simp only [State.onCore_mem, hwritten, reduceCtorEq, if_false]
    exact unitBits_written s.mem.bytes c (by rw [← hphys]; exact (Nat.div_add_mod' c.phys 128).symm) hblock

theorem writeBackFar_far (s : State) (l : FarLine) : (s.writeBackFar l).fab.far = s.fab.far := by
  unfold State.writeBackFar
  split <;> rfl

/-- A fold that keeps an element at each step keeps one of a list that has some. -/
theorem foldl_ne_none {α : Type} (f : Option α → α → Option α) (hf : ∀ b x, f b x ≠ none) (l : List α) (b : Option α)
    (hl : b ≠ none ∨ l ≠ []) : l.foldl f b ≠ none := by
  induction l generalizing b with
  | nil => exact hl.resolve_right (fun hne => hne rfl)
  | cons x xs ih => exact ih (f b x) (.inl (hf b x))

/-- A far line put in place stands in the far ways, when there are some. -/
theorem putFar_spec {ways : Nat} (hways : 0 < ways) (l : FarLine) : l ∈ (s.putFar ways l).fab.far ∧
    s.putFar ways l = { s with fab := (s.putFar ways l).fab, nextId := (s.putFar ways l).nextId } := by
  unfold State.putFar
  simp only
  split
  · exact ⟨List.mem_append_right _ List.mem_cons_self, rfl⟩
  · next hfull =>
    split
    · next hnone =>
      exfalso
      refine hfull (Nat.lt_of_le_of_lt (Nat.le_of_eq (List.length_eq_zero_iff.mpr ?_)) hways)
      generalize (s.fab.far.filter (fun m => !(m.handle == l.handle && m.key == l.key && m.addr == l.addr))).filter (fun m =>
        m.slice == l.slice && Config.l2Set m.addr == Config.l2Set l.addr) = set at hnone
      refine Classical.byContradiction fun hset => ?_
      refine foldl_ne_none _ (fun b x => ?_) set none (.inr hset) hnone
      split
      · exact Option.some_ne_none x
      · split <;> exact Option.some_ne_none _
    · next v _ =>
      refine ⟨List.mem_append_right _ List.mem_cons_self, ?_⟩
      rw [writeBackFar_rest s v]
      rfl

/-- A far line written by a store is the line of its address. -/
theorem storeFar_spec {w key : Word} (hways : 0 < s.farWays w) (block : Nat) (bits data : BitVec 128) :
    ∃ f, f ∈ (s.storeFar w key block bits data).fab.far ∧ f.handle = w ∧ f.key = key ∧
      f = ({ (s.fab.farLine? w key block).getD (s.newFar w key block) with stamp := f.stamp } : FarLine).write block bits data ∧
      s.storeFar w key block bits data = { s with
        fab := (s.storeFar w key block bits data).fab, nextId := (s.storeFar w key block bits data).nextId } := by
  have hline : ((s.fab.farLine? w key block).getD (s.newFar w key block)).handle = w ∧
      ((s.fab.farLine? w key block).getD (s.newFar w key block)).key = key := by
    cases hfar : s.fab.farLine? w key block with
    | none => exact ⟨rfl, rfl⟩
    | some l =>
      have := List.find?_some hfar
      simp only [Bool.and_eq_true, beq_iff_eq] at this
      exact ⟨this.1.1, this.1.2⟩
  obtain ⟨hin, hrest⟩ := putFar_spec (s := s) hways (({ (s.fab.farLine? w key block).getD (s.newFar w key block) with
    stamp := s.freeCtr } : FarLine).write block bits data)
  exact ⟨_, hin, hline.1, hline.2, rfl, hrest⟩

/-! ### Operations that end with no results (06 R167) -/

/-- An operation of a group without a partner ends with no results: it is outstanding no longer. -/
theorem endOp_nil (hg : s.group? o.gid = some g) (hp : g.ctl.paired = false) : s.endOp o [] = s.dropOp o.id := by
  unfold State.endOp
  simp only
  rw [State.group?_dropOp, show (s.writeResults o []).group? o.gid = some g from hg]
  simp only
  rw [if_neg (by rw [hp]; exact Bool.false_ne_true)]
  rfl

theorem dropOp_gone (s : State) (n : Nat) : (s.dropOp n).op? n = none := by
  unfold State.op? State.dropOp
  rw [List.find?_eq_none]
  intro p hp
  have := (List.mem_filter.mp hp).2
  simpa using this

/-- The end of an operation with no results: the operations, the group itself, and what is not a group or an operation stay. -/
theorem endOp_nil_rest (hg : s.group? o.gid = some g) : (s.endOp o []).group? o.gid = some g ∧
    (s.endOp o []).ops = s.ops.filter (fun p => p.id != o.id) ∧ s.endOp o [] = { s with
      groups := (s.endOp o []).groups, ops := (s.endOp o []).ops } ∧
    (s.endOp o []).groups.map (fun h => h.gid) = s.groups.map (fun h => h.gid) := by
  have hgid := State.group?_gid hg
  unfold State.endOp
  simp only
  rw [State.group?_dropOp, show (s.writeResults o []).group? o.gid = some g from hg]
  simp only
  split
  · split
    · exact ⟨hg, rfl, rfl, rfl⟩
    · next h hh =>
      have hne : h.gid ≠ g.gid := by
        unfold State.partner at hh
        split at hh
        · have := List.find?_some hh
          simp only [Bool.and_eq_true, bne_iff_ne] at this
          exact this.2
        · exact absurd hh (by simp)
      refine ⟨?_, rfl, rfl, putGroup_gids ..⟩
      exact (State.group?_putGroup_ne _ (by rw [← hgid]; exact Ne.symm hne)).trans hg
  · exact ⟨hg, rfl, rfl, rfl⟩

/-! ### Acquires (08 R228; 09 R243, R251) -/

/-- An acquire changes cores' copies and far lines alone. -/
theorem acquireEffect_side (s : State) (c : Nat) (w : Word) (n : Nat) : s.acquireEffect c w n = { s with
    cores := (s.acquireEffect c w n).cores, fab := (s.acquireEffect c w n).fab, nextId := (s.acquireEffect c w n).nextId } := by
  have hfar (v : State) : v.dropFar w = { v with fab := (v.dropFar w).fab, nextId := (v.dropFar w).nextId } := by
    unfold State.dropFar
    rw [flushFar_rest]
    rfl
  unfold State.acquireEffect
  simp only
  split
  · rw [hfar]
    split <;> rfl
  · split <;> rfl

theorem group?_none_iff (s : State) (n : Nat) : s.group? n = none ↔ n ∉ s.groups.map (fun g => g.gid) := by
  unfold State.group?
  rw [List.find?_eq_none, List.mem_map]
  constructor
  · rintro hno ⟨g, hg, hgn⟩
    exact hno g hg (beq_iff_eq.mpr hgn)
  · exact fun hno g hg hgn => hno ⟨g, hg, beq_iff_eq.mp hgn⟩

theorem group?_none_congr (h : t.groups.map (fun g => g.gid) = s.groups.map (fun g => g.gid)) (n : Nat) : t.group? n = none ↔ s.group? n = none := by
  rw [group?_none_iff, group?_none_iff, h]

/-- An acquire that completes. -/
theorem completeAcquire_spec (hg : s.group? o.gid = some g) (scope : Nat) :
    (∃ h, (s.completeAcquire o g scope).group? o.gid = some h ∧ h.ctl = g.ctl ∧ (g.gstate = .seated → h.wait ≠ .barrier)) ∧
      (s.completeAcquire o g scope).ops = s.ops.filter (fun p => p.id != o.id) ∧ (s.completeAcquire o g scope).mem = s.mem ∧
      (s.completeAcquire o g scope).bars = s.bars ∧ (s.completeAcquire o g scope).tickets = s.tickets ∧
      (s.completeAcquire o g scope).groups.map (fun h => h.gid) = s.groups.map (fun h => h.gid) ∧
      (2 ≤ scope → ∀ m ∈ ((s.completeAcquire o g scope).core g.core).l1, m.handle ≠ g.ctl.handle) := by
  have hgid := State.group?_gid hg
  have hfound : s.group? g.gid = some g := hgid ▸ hg
  obtain ⟨a, hmem, hbars⟩ := acquireEffect_alike hfound g.core g.ctl.handle scope
  have hside := acquireEffect_side s g.core g.ctl.handle scope
  have hl1 := acquireEffect_l1 s g.core g.ctl.handle (scope := scope)
  generalize hu : s.acquireEffect g.core g.ctl.handle scope = u at a hmem hbars hside hl1
  let wake (g : Group) : Group := if g.gstate = .seated ∧ g.wait = .barrier then { g with wait := .none, waitCycles := 0 } else g
  have hwake : ∀ g, (wake g).gid = g.gid := fun g => by
    simp only [wake]
    split <;> rfl
  have hw : (u.onGroup g.gid wake).group? o.gid = some (wake g) := hgid ▸ State.group?_onGroup_self a.found (hwake g)
  obtain ⟨hgroup, hops, hrest, hgids⟩ := endOp_nil_rest hw
  have hcomplete : s.completeAcquire o g scope = (u.onGroup g.gid wake).endOp o [] := by
    unfold State.completeAcquire
    rw [hu]
  have hwgids : (u.onGroup g.gid wake).groups.map (fun h => h.gid) = u.groups.map (fun h => h.gid) := by
    rw [State.onGroup_some a.found]
    exact putGroup_gids ..
  rw [hcomplete]
  refine ⟨⟨wake g, hgroup, ?_, fun hseated => ?_⟩, ?_, ?_, ?_, ?_, ?_, fun hlow => ?_⟩
  · simp only [wake]
    split <;> rfl
  · simp only [wake]
    split
    · simp
    · next hno => exact fun hbar => hno ⟨hseated, hbar⟩
  · rw [hops, State.onGroup_ops, a.ops]
  · exact (congrArg State.mem hrest).trans ((State.onGroup_mem ..).trans hmem)
  · exact (congrArg State.bars hrest).trans ((State.onGroup_bars ..).trans hbars)
  · exact (congrArg State.tickets hrest).trans ((State.onGroup_tickets ..).trans ((congrArg State.tickets hside).trans rfl))
  · exact hgids.trans (hwgids.trans (congrArg (List.map _) ((congrArg State.groups hside).trans rfl)))
  · have hcores : ((u.onGroup g.gid wake).endOp o []).cores = u.cores := (congrArg State.cores hrest).trans (State.onGroup_cores ..)
    rw [State.core_congr hcores]
    exact hl1 hlow

/-- Whether an operation is an acquire whose wait is over. -/
def State.acquireOver (s : State) (o : OutOp) : Bool := match o.kind with | .acquire _ w => s.waitOver w | _ => false

/-- What an ACQUIRE_COMPLETE keeps: objects, dispensers, memory, and which groups there are. -/
def KeepsWaits (s t : State) : Prop := t.bars = s.bars ∧ t.tickets = s.tickets ∧ t.mem = s.mem ∧
  t.groups.map (fun h => h.gid) = s.groups.map (fun h => h.gid)

theorem KeepsWaits.over (hk : KeepsWaits s t) : t.acquireOver = s.acquireOver := by
  obtain ⟨hbars, htickets, -, -⟩ := hk
  funext o
  unfold State.acquireOver
  split
  · next w _ =>
    cases w with
    | phase key p => unfold State.waitOver State.bar; rw [hbars]
    | ticket d n => unfold State.waitOver; rw [htickets]
  · rfl

/-- ACQUIRE_COMPLETE takes out exactly the operation named, if it is an acquire whose wait is over. -/
theorem acquireComplete_spec (hn : (s.ops.map (fun o => o.id)).Nodup) (hgroups : ∀ o ∈ s.ops, s.group? o.gid ≠ none) (n : Nat) :
    KeepsWaits s (s.acquireComplete n) ∧ (s.acquireComplete n).ops = s.ops.filter (fun o => !(o.id == n && s.acquireOver o)) := by
  have hsame (hnot : ∀ o ∈ s.ops, o.id = n → s.acquireOver o = false) : s.ops = s.ops.filter (fun o => !(o.id == n && s.acquireOver o)) := by
    refine (List.filter_eq_self.mpr fun o ho => ?_).symm
    by_cases hid : o.id = n
    · rw [hnot o ho hid, Bool.and_false]
      rfl
    · rw [beq_false_of_ne hid]
      rfl
  unfold State.acquireComplete
  cases ho : s.op? n with
  | none =>
    refine ⟨⟨rfl, rfl, rfl, rfl⟩, hsame fun o hin hid => ?_⟩
    have := List.find?_eq_none.mp ho o hin
    exact absurd (beq_iff_eq.mpr hid) this
  | some o =>
    have hin : o ∈ s.ops := List.mem_of_find?_eq_some ho
    have hid := op?_id ho
    have honly : ∀ p ∈ s.ops, p.id = n → p = o := fun p hp hpn => eq_of_nodup_map hn hp hin (hpn.trans hid.symm)
    obtain ⟨g, hg⟩ := Option.ne_none_iff_exists'.mp (hgroups o hin)
    simp only [hg]
    split
    · next scope wait g' hk hg' =>
      obtain rfl := Option.some.inj hg'
      have hover : s.acquireOver o = s.waitOver wait := by
        unfold State.acquireOver
        rw [hk]
      split
      · next hyes =>
        obtain ⟨-, hops, hmem, hbars, htickets, hgids, -⟩ := completeAcquire_spec hg scope
        refine ⟨⟨hbars, htickets, hmem, hgids⟩, hops.trans (List.filter_congr fun p hp => ?_)⟩
        rw [hid, bne]
        by_cases hpn : p.id = n
        · rw [honly p hp hpn, hover, hyes, Bool.and_true]
        · rw [beq_false_of_ne hpn]
          rfl
      · next hno =>
        refine ⟨⟨rfl, rfl, rfl, rfl⟩, hsame fun p hp hpn => ?_⟩
        rw [honly p hp hpn, hover]
        exact Bool.not_eq_true _ ▸ hno
    · next hnot =>
      refine ⟨⟨rfl, rfl, rfl, rfl⟩, hsame fun p hp hpn => ?_⟩
      rw [honly p hp hpn]
      unfold State.acquireOver
      split
      · next scope w hk => exact absurd rfl (hnot scope w g hk)
      · rfl

/-- A run of ACQUIRE_COMPLETEs takes out the acquires among the operations named whose wait is over. -/
theorem acquireComplete_all (ids : List Nat) (hn : (s.ops.map (fun o => o.id)).Nodup) (hgroups : ∀ o ∈ s.ops, s.group? o.gid ≠ none) :
    KeepsWaits s (ids.foldl State.acquireComplete s) ∧
      (ids.foldl State.acquireComplete s).ops = s.ops.filter (fun o => !(ids.contains o.id && s.acquireOver o)) := by
  induction ids generalizing s with
  | nil => exact ⟨⟨rfl, rfl, rfl, rfl⟩, (List.filter_eq_self.mpr fun o _ => rfl).symm⟩
  | cons n ns ih =>
    obtain ⟨hkeep, hops⟩ := acquireComplete_spec hn hgroups n
    obtain ⟨hbars, htickets, hmem, hgids⟩ := id hkeep
    have hsub : (s.acquireComplete n).ops.Sublist s.ops := hops ▸ List.filter_sublist
    obtain ⟨⟨hbars', htickets', hmem', hgids'⟩, hops'⟩ := ih (s := s.acquireComplete n) (hn.sublist (hsub.map _)) (fun o ho hnone =>
      hgroups o (hsub.subset ho) ((group?_none_congr hgids o.gid).mp hnone))
    refine ⟨⟨hbars'.trans hbars, htickets'.trans htickets, hmem'.trans hmem, hgids'.trans hgids⟩, hops'.trans ?_⟩
    rw [hkeep.over, hops, List.filter_filter]
    refine List.filter_congr fun o _ => ?_
    rw [List.contains_cons]
    cases s.acquireOver o <;> cases (o.id == n) <;> cases ns.contains o.id <;> rfl

end Sys2Proof.Machine
end

section
/-!
SUPPORT. Releases and barrier objects (08 R226, R230, R231; 09 R240 to R249; O56).
-/
namespace Sys2Proof.Machine

variable {s t u : State} {g h k : Group} {o : OutOp} {key : Nat}

/-! ### The homes that a quantum is written at (08 R230) -/

/-- Only homes, with what tells of them, differ: memory, far lines, cores' copies; and no line has become poisoned. -/
def HomesWritten (s t : State) : Prop := t = { s with mem := t.mem, fab := t.fab, nextId := t.nextId, cores := t.cores } ∧
  ∀ b, t.mem.poisoned b = true → s.mem.poisoned b = true

theorem HomesWritten.refl (s : State) : HomesWritten s s := ⟨rfl, fun _ hb => hb⟩

theorem HomesWritten.trans (h : HomesWritten s t) (h' : HomesWritten t u) : HomesWritten s u :=
  ⟨(show u = { t with mem := u.mem, fab := u.fab, nextId := u.nextId, cores := u.cores } from h'.1).trans
    (congrArg (fun v : State => { v with mem := u.mem, fab := u.fab, nextId := u.nextId, cores := u.cores }) h.1),
    fun b hb => h.2 b (h'.2 b hb)⟩

theorem HomesWritten.of_memory (h : MemoryAndCores s t) (hp : ∀ b, t.mem.poisoned b = true → s.mem.poisoned b = true) : HomesWritten s t := by
  refine ⟨?_, hp⟩
  rw [h.keeps State.fab (fun _ _ => rfl), h.keeps State.nextId (fun _ _ => rfl)]
  exact h

/-- What of the state is no home stays. -/
theorem HomesWritten.keeps {γ : Type} (h : HomesWritten s t) (F : State → γ)
    (hF : ∀ m f n cs, F { s with mem := m, fab := f, nextId := n, cores := cs } = F s) : F t = F s := (congrArg F h.1).trans (hF _ _ _ _)

theorem putFar_side (s : State) (ways : Nat) (l : FarLine) : HomesWritten s (s.putFar ways l) := by
  have hback (v : FarLine) : HomesWritten s (s.writeBackFar v) := by
    unfold State.writeBackFar
    split <;> exact ⟨rfl, fun _ hb => hb⟩
  unfold State.putFar
  simp only
  split
  · exact ⟨rfl, fun _ hb => hb⟩
  · split
    · exact hback l
    · exact (hback _).trans ⟨rfl, fun _ hb => hb⟩

/-- The entries of a quantum are written, and no lane dies, when no line of theirs is poisoned. -/
theorem writeWindows_spec (ws : List Window) (hclean : ∀ w ∈ ws, (∃ h, w.space = .virt h) → s.mem.poisoned w.phys = false) :
    (s.writeWindows ws).2 = [] ∧ HomesWritten s (s.writeWindows ws).1 := by
  induction ws generalizing s with
  | nil => exact ⟨rfl, HomesWritten.refl s⟩
  | cons w ws ih =>
    have hnext {v : State} (hv : HomesWritten s v) : (v.writeWindows ws).2 = [] ∧ HomesWritten s (v.writeWindows ws).1 := by
      obtain ⟨hdead, hside⟩ := ih (s := v) (fun x hx hvirt => by
        rw [Bool.eq_false_iff]
        intro hbad
        exact absurd ((hv.2 _ hbad).symm.trans (hclean x (List.mem_cons_of_mem _ hx) hvirt)) (by simp))
      exact ⟨hdead, hv.trans hside⟩
    unfold State.writeWindows
    cases hspace : w.space with
    | fabric h k => exact hnext (putFar_side s _ _)
    | sram =>
      obtain ⟨v, hv, hside, -⟩ := writeHome_sram s w.phys 16 w.bits.toNat w.data.toNat
      exact hnext (v := (s.writeHome .sram w.phys 16 w.bits.toNat w.data.toNat).1) ⟨rfl, fun _ hb => hb⟩
    | virt h =>
      obtain ⟨v, hv, hside, -, hpoison⟩ := writeHome_virt h (hclean w List.mem_cons_self ⟨h, hspace⟩) 16 w.bits.toNat w.data.toNat
      simp only [hv]
      have hone : HomesWritten s (v.onCore w.core (fun k => k.updateL1 h w.block w.bits w.data)) :=
        HomesWritten.of_memory (hside.trans (onCore_side v _ _)) hpoison
      exact hnext hone

theorem mem_sortWindows {w : Window} (ws : List Window) : w ∈ sortWindows ws ↔ w ∈ ws := by
  have hinsert (v : Window) (l : List Window) : w ∈ insertWindow v l ↔ w = v ∨ w ∈ l := by
    induction l with
    | nil => exact List.mem_cons
    | cons x xs ih =>
      unfold insertWindow
      split
      · exact List.mem_cons
      · rw [List.mem_cons, ih, List.mem_cons]
        exact or_left_comm
  induction ws with
  | nil => exact Iff.rfl
  | cons v vs ih => exact (hinsert v (sortWindows vs)).trans ((or_congr_right ih).trans List.mem_cons.symm)

/-! ### Counting and completing a phase (09 R241) -/

theorem bar_onBar_self (s : State) (key : Nat) (f : Barrier → Barrier) : (s.onBar key f).bar key = f (s.bar key) :=
  (Sparse.get_alter ..).trans (if_pos rfl)

/-- No entry that a home holds waits for a poisoned line. -/
def State.cleanWindows (s : State) : Prop := ∀ w ∈ s.mem.windows, (∃ h, w.space = .virt h) → s.mem.poisoned w.phys = false

/-- What a count on an object leaves: dispensers, landed transfers, operations, and each group but for what its homes have acknowledged. -/
def Counted (s t : State) : Prop := t.landed = s.landed ∧ t.ops = s.ops ∧
  ∀ n g, s.group? n = some g → ∃ h, t.group? n = some h ∧ h = { g with ctl := g.ctl.setPsb h.ctl.psb }

/-- A group of a state whose groups have all been changed. -/
theorem group?_of_map {f : Group → Group} (hf : ∀ g, (f g).gid = g.gid) (ht : t.groups = s.groups.map f) {n : Nat} (hg : s.group? n = some g) :
    t.group? n = some (f g) := by
  unfold State.group? at *
  rw [ht, find?_map_gid f hf, hg]
  rfl

/-- The quantum of a phase that no poisoned line holds back is written, and no lane dies. -/
theorem commitQuantum_spec (hclean : s.cleanWindows) (key phase : Nat) : (s.commitQuantum key phase).2 = [] ∧
    (s.commitQuantum key phase).1.bars = s.bars ∧ Counted s (s.commitQuantum key phase).1 := by
  obtain ⟨hdead, hside⟩ := writeWindows_spec (s := s)
    (sortWindows (s.mem.windows.filter (fun w => w.object == key && w.phase == some phase))) (fun w hw hvirt => by
      rw [mem_sortWindows] at hw
      exact hclean w (List.mem_filter.mp hw).1 hvirt)
  unfold State.commitQuantum
  simp only
  generalize s.writeWindows (sortWindows (s.mem.windows.filter (fun w => w.object == key && w.phase == some phase))) = r at hdead hside ⊢
  obtain ⟨v, dead⟩ := r
  have hgroups : v.groups = s.groups := hside.keeps State.groups (fun _ _ _ _ => rfl)
  refine ⟨hdead, hside.keeps State.bars (fun _ _ _ _ => rfl), hside.keeps State.landed (fun _ _ _ _ => rfl),
    hside.keeps State.ops (fun _ _ _ _ => rfl), fun n g hg => ?_⟩
  refine ⟨_, group?_of_map (s := v) ?_ rfl ((State.group?_congr hgroups n).trans hg), ?_⟩
  · exact fun _ => rfl
  · rfl

/-- TryComplete: a met phase is marked as committing; nothing else of the object changes. -/
theorem tryComplete_spec (hclean : s.cleanWindows) (key : Nat) : (s.tryComplete key).2 = [] ∧
    (s.tryComplete key).1.bar key = (if (s.bar key).met then (s.bar key).commitMark else s.bar key) ∧ Counted s (s.tryComplete key).1 ∧
    ((s.bar key).met = false → (s.tryComplete key).1 = s) := by
  unfold State.tryComplete
  split
  · next hmet =>
    obtain ⟨hdead, hbars, hcounted⟩ := commitQuantum_spec (s := s.onBar key Barrier.commitMark) hclean key (s.bar key).phase.toNat
    refine ⟨hdead, ?_, hcounted, fun hno => absurd (hmet.symm.trans hno) (by simp)⟩
    show Sparse.get {} (State.commitQuantum _ _ _).1.bars key = _
    rw [hbars]
    exact bar_onBar_self s key Barrier.commitMark
  · exact ⟨rfl, rfl, ⟨rfl, rfl, fun n g hg => ⟨g, hg, rfl⟩⟩, fun _ => rfl⟩

/-- An operation that has ended is outstanding no longer. -/
theorem Ended.gone {c : Control} {ws : List (Nat × Nat × Word)} (e : Ended s t o g h c ws) : t.op? o.id = none := by
  have hids := congrArg (List.map (fun p : OutOp => p.id)) e.done
  rw [List.map_map, List.map_map] at hids
  unfold State.op?
  rw [List.find?_eq_none]
  intro p hp hid
  have hin : p.id ∈ (s.ops.filter (fun p => p.id != o.id)).map ((fun p : OutOp => p.id) ∘ fun p => { p with clobbered := [] }) := by
    rw [← hids]
    exact List.mem_map.mpr ⟨p, hp, rfl⟩
  obtain ⟨q, hq, hqp⟩ := List.mem_map.mp hin
  have hne := (List.mem_filter.mp hq).2
  rw [bne_iff_ne] at hne
  exact hne ((show q.id = p.id from hqp).trans (beq_iff_eq.mp hid))

/-- A count on an object. -/
theorem countBar_spec (hclean : s.cleanWindows) (key arrivals bytes requested : Nat) :
    let b : Barrier := { s.bar key with
      arrCnt := (s.bar key).arrCnt + arrivals, byteCnt := (s.bar key).byteCnt + (bytes : Int) - requested }
    (s.countBar key arrivals bytes requested).2 = [] ∧
      (s.countBar key arrivals bytes requested).1.bar key = (if b.met then b.commitMark else b) ∧
      Counted s (s.countBar key arrivals bytes requested).1 ∧
      (b.met = false → (s.countBar key arrivals bytes requested).1 = s.onBar key (fun b => { b with
        arrCnt := b.arrCnt + arrivals, byteCnt := b.byteCnt + (bytes : Int) - requested })) := by
  intro b
  obtain ⟨hdead, hbar, hcounted, hsame⟩ := tryComplete_spec (s := s.onBar key (fun b => { b with
    arrCnt := b.arrCnt + arrivals, byteCnt := b.byteCnt + (bytes : Int) - requested })) hclean key
  rw [bar_onBar_self] at hbar hsame
  exact ⟨hdead, hbar, hcounted, hsame⟩

/-- The next phase of an object starts with the lanes of the killed groups (09 R249). -/
theorem startPhase_spec (hclean : s.cleanWindows) (key : Nat) :
    let b := s.bar key
    let next : Barrier := { b with
      arrCnt := b.arrCnt + b.killed.foldl (fun n e => n + e.2) 0
      arrived := b.killed.foldl (fun a e => Sparse.set (0, 0#32) a e.1 (b.counting, 0xFFFFFFFF#32)) b.arrived }
    (s.startPhase key).2 = [] ∧ (s.startPhase key).1.bar key = if next.met then next.commitMark else next := by
  intro b next
  obtain ⟨hdead, hbar, -, -⟩ := tryComplete_spec (s := s.onBar key (fun c => { c with
    arrCnt := c.arrCnt + b.killed.foldl (fun n e => n + e.2) 0
    arrived := b.killed.foldl (fun a e => Sparse.set (0, 0#32) a e.1 (b.counting, 0xFFFFFFFF#32)) c.arrived })) hclean key
  rw [bar_onBar_self] at hbar
  exact ⟨hdead, hbar⟩

/-- An arrival that every home holds is counted, and its operation ends with the phase it was counted into (15 R420). -/
theorem countArrive_spec (hclean : s.cleanWindows) (hg : s.group? o.gid = some g) (key requested : Nat) :
    let b := s.bar key
    let lanes := b.arrivalLanes g o.lanes
    let counted : Barrier := { b.noteArrival g.gid lanes with arrCnt := b.arrCnt + (laneList lanes).length, byteCnt := b.byteCnt - requested }
    let ws := (laneList o.lanes).map (fun l => (o.dest, l, BitVec.ofNat 32 b.counting))
    Lands o g ws → ∃ h, (s.countArrive o g key requested).bar key = (if counted.met then counted.commitMark else counted) ∧
      (s.countArrive o g key requested).group? o.gid = some h ∧ (s.countArrive o g key requested).op? o.id = none ∧
      (∀ w ∈ ws, (s.countArrive o g key requested).resultWord o h w.1 w.2.1 = w.2.2) ∧
      (counted.met = false → Ended s (s.countArrive o g key requested) o g h g.ctl ws ∧
        (s.countArrive o g key requested).mem.bytes = s.mem.bytes) := by
  intro b lanes counted ws hlands
  have hgid := State.group?_gid hg
  have hfound : s.group? g.gid = some g := hgid ▸ hg
  let s1 := s.onMem (fun m => { m with windows := m.windows.map (fun w => if w.op == o.id then { w with phase := some b.counting } else w) })
  let s2 := s1.onBar key (fun b => b.noteArrival g.gid lanes)
  have hclean2 : s2.cleanWindows := by
    intro w hw hvirt
    obtain ⟨v, hv, hvw⟩ := List.mem_map.mp hw
    have hsame : w.space = v.space ∧ w.phys = v.phys := by
      rw [← hvw]
      split <;> exact ⟨rfl, rfl⟩
    rw [hsame.2]
    exact hclean v hv (hsame.1 ▸ hvirt)
  obtain ⟨hdead, hbar, ⟨-, hops, hgroups⟩, hsame⟩ := countBar_spec hclean2 key (laneList lanes).length 0 requested
  have hcount : ({ s2.bar key with arrCnt := (s2.bar key).arrCnt + (laneList lanes).length, byteCnt := (s2.bar key).byteCnt + ((0 : Nat) : Int) - requested } :
      Barrier) = counted := by
    rw [show s2.bar key = b.noteArrival g.gid lanes from bar_onBar_self s1 key _]
    simp only [counted, Int.natCast_zero, Int.add_zero]
    rfl
  have harrive : s.countArrive o g key requested = ((s2.countBar key (laneList lanes).length 0 requested).1.endOp o ws).killLanes
      (s2.countBar key (laneList lanes).length 0 requested).2 := rfl
  rw [hcount] at hbar hsame
  rw [harrive, hdead, killLanes_nil]
  generalize (s2.countBar key (laneList lanes).length 0 requested).1 = u at hbar hops hgroups hsame ⊢
  obtain ⟨g', hg', hform⟩ := hgroups g.gid g hfound
  have hgid' : g'.gid = g.gid := by rw [hform]
  have hlands' : Lands o g' ws := by
    rw [hform]
    exact ⟨hlands.owner, hlands.alone, hlands.seat, hlands.clean, hlands.live, hlands.once⟩
  obtain ⟨h, e, hrest⟩ := State.endOp_spec (s := u) (hgid'.symm ▸ hg') hlands'
  refine ⟨h, (congrArg (fun v : State => v.bar key) hrest).trans hbar, hgid ▸ hgid' ▸ e.found, e.gone, fun w hw => e.values _ _ _ hw, fun hopen => ?_⟩
  have hu := hsame hopen
  obtain ⟨h', e', hmem, -, -⟩ := endOp_alike (u := u) (Alike.of_parts hfound (by rw [hu]; rfl) (by rw [hu]; rfl) (by rw [hu]; rfl) (by rw [hu]; rfl)
    (by rw [hu]; rfl) (by rw [hu]; rfl)) hlands
  obtain rfl := Option.some.inj (e.found.symm.trans (hgid'.symm ▸ e'.found))
  exact ⟨e', (congrArg DeviceMem.bytes hmem).trans (by rw [hu]; rfl)⟩

/-- An arrival whose conditions do not hold, or that does not fit, waits; another is counted. -/
theorem arrivalCount_eq {id scope requested : Nat} {before entries : List Nat} (ho : s.op? id = some o)
    (hk : o.kind = .release scope before entries (.arrive key requested)) (hg : s.group? o.gid = some g) (hscope : scope < 5) :
    s.arrivalCount id = if s.releaseReady g.ctl.handle scope before entries && !s.objectBusy g.gid o.id key &&
        (s.bar key).room (laneList ((s.bar key).arrivalLanes g o.lanes)).length 0 requested then s.countArrive o g key requested else s := by
  unfold State.arrivalCount
  simp only [ho, hk, hg, if_neg (Nat.not_le_of_lt hscope)]

/-! ### BARRIER_WAKE and TSERVE_BROADCAST (09 R243, R252) -/

/-- The waits of a group are its acquires of what is asked for. -/
theorem mem_waitsOf (hn : (s.ops.map (fun o => o.id)).Nodup) (ho : o ∈ s.ops) {gid : Nat} {p : AcquireWait → Bool} :
    (s.waitsOf gid p).contains o.id = (o.gid == gid && (match o.kind with | .acquire _ w => p w | _ => false)) := by
  unfold State.waitsOf
  rw [Bool.eq_iff_iff, List.contains_iff_mem, List.mem_map]
  constructor
  · rintro ⟨q, hq, hid⟩
    obtain ⟨hin, hprop⟩ := List.mem_filter.mp hq
    rwa [eq_of_nodup_map hn hin ho hid] at hprop
  · exact fun hprop => ⟨o, List.mem_filter.mpr ⟨ho, hprop⟩, rfl⟩

/-! ### RELEASE_COMPLETE (08 R226) -/

theorem releaseComplete_eq {id scope : Nat} {before entries : List Nat} {next : ReleaseThen} (ho : s.op? id = some o)
    (hk : o.kind = .release scope before entries next) (hg : s.group? o.gid = some g) (hscope : scope < 5) :
    s.releaseComplete id = if s.releaseReady g.ctl.handle scope before entries then s.afterRelease o g scope next else s := by
  unfold State.releaseComplete
  simp only [ho, hk, hg, if_neg (Nat.not_le_of_lt hscope)]

/-! ### The obligation -/

/-- Settles O56: a store's bits lie in its 16 bytes, a release or an acquire changes copies and far lines alone, the acquires of a broadcast are
taken out one by one, and a count on an object leaves the others and every poisoned line as they are. -/
theorem storesReleasesAndBarriers : Obligations.StoresReleasesAndBarriers := by
  unfold Obligations.StoresReleasesAndBarriers
  refine ⟨?store, ?release, ?acquire, ?wakes, ?barriers⟩
  case store =>
    intro s c hc addr reaches gone
    have hexec : exec .storeCommit s = .next (s.tick.storeCommit s.turn.x) := rfl
    have hcommit : s.tick.storeCommit s.turn.x = if !c.accepted then
          if s.blocked c.gid c.lane c.order c.space c.block c.bits then s.tick else s.tick.acceptCommit c
        else if !reaches then s.tick else s.tick.reachHome c := by
      have hreach : (!reaches) = (!c.served || s.lostFlit c.id c.block || !s.passes c.core c.space c.atHome) := by
        rw [show reaches = (c.served && !s.lostFlit c.id c.block && s.passes c.core c.space c.atHome) from rfl, Bool.not_and, Bool.not_and, Bool.not_not]
      rw [hreach]
      unfold State.storeCommit
      simp only [show s.tick.commits.find? (fun c => c.id == s.turn.x) = some c from hc]
      rfl
    rw [hexec, hcommit]
    refine ⟨fun hnew hblocked => ?_, fun hnew hfree => ?_, fun hold hstay => ?_, fun q hold hreach hq hroom => ?_,
      fun hold hreach hq hbehind hunit hlocal hclean hblock => ?_, fun h k hold hreach hq hbehind hunit hspace hways => ?_⟩
    · rw [hnew, Bool.not_false, if_pos rfl, if_pos hblocked]
    · refine ⟨s.tick.acceptCommit c, ?_, rfl, rfl, rfl⟩
      rw [hnew, Bool.not_false, if_pos rfl, if_neg (by rw [hfree]; exact Bool.false_ne_true)]
    · rw [hold, if_neg (by simp)]
      split
      · rfl
      · next hgo =>
        unfold State.reachHome
        cases hq : c.quantum with
        | none =>
          have hbehind : s.behind c = true := by
            rcases hstay with h | ⟨-, h⟩ | ⟨h, -⟩
            · rw [h] at hgo
              exact absurd rfl hgo
            · exact h
            · exact absurd hq h
          exact congrArg _ (if_pos hbehind)
        | some q =>
          have hfull : s.windowRoom c = false := by
            rcases hstay with h | ⟨h, -⟩ | ⟨-, h⟩
            · rw [h] at hgo
              exact absurd rfl hgo
            · rw [hq] at h
              exact absurd h (by simp)
            · exact h
          exact congrArg _ (if_neg (by rw [show s.tick.windowRoom c = false from hfull]; exact Bool.false_ne_true))
    · rw [hold, hreach, if_neg (by simp), if_neg (by simp)]
      have hgo : s.tick.reachHome c = (s.tick.dropCommits [c.id]).onMem (fun m => { m with windows := m.windows ++
          [⟨q.1, c.op, none, q.2, c.order, c.gid, c.lane, c.core, c.space, c.block, c.phys, c.bits, c.data⟩] }) := by
        unfold State.reachHome
        simp only [hq]
        exact if_pos hroom
      rw [hgo]
      exact ⟨_, _, rfl, dropCommits_one s.tick c.id, rfl, rfl, rfl, rfl, rfl, rfl, rfl, rfl⟩
    · intro bytes
      rw [hold, hreach, if_neg (by simp), if_neg (by simp)]
      obtain ⟨t, ht, hside, hin, hout⟩ := writeUnit_local (s := s.tick.dropCommits [c.id]) hlocal hclean hblock
      have hgo : s.tick.reachHome c = t := by
        unfold State.reachHome
        simp only [hq]
        rw [if_neg (by rw [show s.tick.behind c = false from hbehind]; exact Bool.false_ne_true), show s.tick.commitUnit c = [c] from hunit]
        simp only [List.map_cons, List.map_nil, ht]
        rfl
      rw [hgo]
      exact ⟨t, rfl, (hside.keeps State.commits (fun _ _ => rfl)).trans (dropCommits_one s.tick c.id),
        hside.keeps State.groups (fun _ _ => rfl), hin, hout⟩
    · rw [hold, hreach, if_neg (by simp), if_neg (by simp)]
      obtain ⟨f, hf, hfh, hfk, hfeq, hrest⟩ := storeFar_spec (s := s.tick.dropCommits [c.id]) (w := h) hways (key := k) c.block c.bits c.data
      have hgo : s.tick.reachHome c = (s.tick.dropCommits [c.id]).storeFar h k c.block c.bits c.data := by
        unfold State.reachHome
        simp only [hq]
        rw [if_neg (by rw [show s.tick.behind c = false from hbehind]; exact Bool.false_ne_true), show s.tick.commitUnit c = [c] from hunit]
        unfold State.writeUnit
        simp only [List.map_cons, List.map_nil, hspace]
        rfl
      rw [hgo]
      exact ⟨_, f, rfl, ((congrArg State.commits hrest).trans rfl).trans (dropCommits_one s.tick c.id), (congrArg State.groups hrest).trans rfl,
        (congrArg State.mem hrest).trans rfl, hf, hfh, hfk, hfeq.trans (by rw [show (s.tick.dropCommits [c.id]).fab.farLine? h k c.block = s.fab.farLine? h k c.block from rfl]; cases s.fab.farLine? h k c.block <;> rfl)⟩
  case release =>
    intro s o g scope before entries next ho hk hg hscope ready
    have hgid := State.group?_gid hg
    have hfound : s.tick.group? g.gid = some g := hgid ▸ hg
    have hexec : exec .releaseComplete s = .next (if ready then s.tick.afterRelease o g scope next else s.tick) :=
      congrArg Host.Outcome.next (releaseComplete_eq (s := s.tick) ho hk hg hscope)
    have hback {t : State} {h : Group} {c : Control} {ws : List (Nat × Nat × Word)} (e : Ended s.tick t o g h c ws) : Ended s t o g h c ws :=
      ⟨e.found, e.values, e.kept, e.control, e.context, e.others, e.done, e.stores⟩
    rw [hexec]
    refine ⟨fun hno => ?_, fun hnext hyes => ?_, fun acquire hnext hyes hl => ?_, fun d hnext hyes hl => ?_, fun hnext hyes hidle hl => ?_⟩
    · rw [if_neg (by rw [hno]; exact Bool.false_ne_true)]
    · rw [if_pos hyes]
      rcases hnext with ⟨q, a, rfl⟩ | ⟨l, rfl⟩ | rfl | rfl <;> exact ⟨s.tick.dropOp o.id, rfl, rfl, rfl, rfl⟩
    · rw [if_pos hyes, hnext]
      have heff : ∃ u, (if acquire then s.tick.acquireEffect g.core g.ctl.handle scope else s.tick) = u ∧ Alike s.tick u g g ∧ u.mem = s.mem ∧
          (acquire = true → 2 ≤ scope → ∀ m ∈ (u.core g.core).l1, m.handle ≠ g.ctl.handle) := by
        cases acquire with
        | false => exact ⟨_, rfl, Alike.refl hfound, rfl, fun hno => absurd hno Bool.false_ne_true⟩
        | true =>
          obtain ⟨a, hmem, -⟩ := acquireEffect_alike hfound g.core g.ctl.handle scope
          exact ⟨_, rfl, a, hmem, fun _ hlow => acquireEffect_l1 s.tick g.core g.ctl.handle hlow⟩
      obtain ⟨u, hu, a, hmem, hl1⟩ := heff
      obtain ⟨h, e, hmem', -, -⟩ := endOp_alike a hl
      refine ⟨u.endOp o [], h, congrArg Host.Outcome.next ?_, hback e, hmem'.trans hmem, fun hyes hlow => ?_⟩
      · unfold State.afterRelease
        simp only [hu]
      · rw [endOp_l1 a.found hl]
        exact hl1 hyes hlow
    · rw [if_pos hyes, hnext]
      obtain ⟨h, e, hmem, -, hserve⟩ := endOp_alike (u := s.tick.serve d) (Alike.of_parts hfound rfl rfl rfl rfl rfl rfl) hl
      have hone : Sparse.get ({} : Dispenser) (s.tick.serve d).tickets d =
          { Sparse.get ({} : Dispenser) s.tickets d with serving := (Sparse.get ({} : Dispenser) s.tickets d).serving + 1 } := by
        unfold State.serve
        rw [Sparse.get_alter, if_pos rfl]
        rfl
      refine ⟨(s.tick.serve d).endOp o [], h, rfl, hback e, hmem, ?_, ?_⟩
      · rw [hserve]
        exact (congrArg Dispenser.serving hone).trans rfl
      · rw [hserve]
        exact (congrArg Dispenser.next hone).trans rfl
    · rw [if_pos hyes, hnext]
      have hclear : ((s.tick.onCore g.core (fun k => { k with icache := [] })).onGroup g.gid (fun g => { g with fetchHold := false })).group? o.gid =
          some { g with fetchHold := false } := hgid ▸ State.group?_onGroup_self (f := fun g => { g with fetchHold := false }) hfound rfl
      have hafter : s.tick.afterRelease o g scope .ifence =
          ((s.tick.onCore g.core (fun k => { k with icache := [] })).onGroup g.gid (fun g => { g with fetchHold := false })).dropOp o.id := by
        unfold State.afterRelease
        simp only
        rw [if_neg (by rw [show s.tick.transfersOf g = false from hidle]; exact Bool.false_ne_true), endOp_nil hclear hl.alone]
      rw [hafter]
      refine ⟨_, { g with fetchHold := false }, rfl, hclear, rfl, rfl, ?_, dropOp_gone .., ?_⟩
      · rw [State.core_congr (t := ((s.tick.onCore g.core (fun k => { k with icache := [] })).onGroup g.gid (fun g =>
            { g with fetchHold := false })).dropOp o.id) (s := s.tick.onCore g.core (fun k => { k with icache := [] })) (State.onGroup_cores ..),
          State.core_onCore, if_pos rfl]
      · exact State.onGroup_mem ..
  case acquire =>
    intro s o g scope wait ho hk hg
    have hexec : exec .acquireComplete s = .next (if s.waitOver wait then s.tick.completeAcquire o g scope else s.tick) := by
      refine (show exec .acquireComplete s = .next (s.tick.acquireComplete s.turn.x) from rfl).trans (congrArg Host.Outcome.next ?_)
      unfold State.acquireComplete
      simp only [show s.tick.op? s.turn.x = some o from ho, hk, show s.tick.group? o.gid = some g from hg]
      cases wait <;> rfl
    rw [hexec]
    refine ⟨fun hno => ?_, fun hyes => ?_⟩
    · rw [if_neg (by rw [hno]; exact Bool.false_ne_true)]
    · obtain ⟨⟨h, hh, hctl, hwait⟩, hops, hmem, -, -, -, hl1⟩ := completeAcquire_spec (s := s.tick) hg scope
      refine ⟨s.tick.completeAcquire o g scope, h, by rw [if_pos hyes], ?_, hh, hmem, hctl, hwait, hl1⟩
      unfold State.op?
      rw [hops]
      exact dropOp_gone s.tick o.id
  case wakes =>
    intro s hn hgroups passed
    have hpassed (o : OutOp) (p : AcquireWait → Bool) :
        passed o p = ((match o.kind with | .acquire _ w => p w | _ => false) && s.tick.acquireOver o) := by
      unfold State.acquireOver
      simp only [passed]
      generalize o.kind = kind
      cases kind with
      | acquire scope w => cases w <;> rfl
      | _ => rfl
    refine ⟨?_, ?_⟩
    · obtain ⟨⟨-, -, hmem, -⟩, hops⟩ := acquireComplete_all (s := s.tick)
        (s.waitsOf s.turn.x (fun w => match w with | .phase _ _ => true | _ => false)) hn hgroups
      refine ⟨_, rfl, hmem, hops.trans (List.filter_congr fun o ho => ?_)⟩
      rw [hpassed, ← Bool.and_assoc]
      exact congrArg (fun b => !(b && s.tick.acquireOver o)) (mem_waitsOf hn ho)
    · obtain ⟨⟨-, -, hmem, -⟩, hops⟩ := acquireComplete_all (s := s.tick)
        (((s.groups.filter (fun g => g.core == s.turn.x)).map (fun g => g.gid)).flatMap (fun gid => s.waitsOf gid (fun w =>
          match w with | .ticket d _ => d == s.turn.y | _ => false))) hn hgroups
      refine ⟨_, rfl, hmem, hops.trans (List.filter_congr fun o ho => ?_)⟩
      rw [hpassed, ← Bool.and_assoc]
      congr 2
      rw [Bool.eq_iff_iff, List.contains_iff_mem, List.mem_flatMap, Bool.and_eq_true, List.any_eq_true]
      constructor
      · rintro ⟨gid, hgid, hin⟩
        obtain ⟨g, hg, rfl⟩ := List.mem_map.mp hgid
        obtain ⟨hg, hcore⟩ := List.mem_filter.mp hg
        rw [← List.contains_iff_mem, mem_waitsOf hn ho, Bool.and_eq_true, beq_iff_eq] at hin
        exact ⟨⟨g, hg, by rw [Bool.and_eq_true, beq_iff_eq (a := g.gid)]; exact ⟨hcore, hin.1.symm⟩⟩, hin.2⟩
      · rintro ⟨⟨g, hg, hprop⟩, hwait⟩
        rw [Bool.and_eq_true, beq_iff_eq (a := g.gid)] at hprop
        refine ⟨g.gid, List.mem_map_of_mem (List.mem_filter.mpr ⟨hg, hprop.1⟩), ?_⟩
        rw [← List.contains_iff_mem, mem_waitsOf hn ho, Bool.and_eq_true, beq_iff_eq]
        exact ⟨hprop.2.symm, hwait⟩
  case barriers =>
    intro s hclean after
    have hclean' : s.tick.cleanWindows := hclean
    refine ⟨?_, ?_, ?_, ?_⟩
    · intro id o g scope before entries key requested ho hk hg hscope b lanes n counted ws may
      have hexec : exec (.barrierCount (.arrival id)) s = .next (if may then s.tick.countArrive o g key requested else s.tick) :=
        congrArg Host.Outcome.next (arrivalCount_eq (s := s.tick) ho hk hg hscope)
      rw [hexec]
      refine ⟨fun hno => ?_, fun hyes hl => ?_⟩
      · rw [if_neg (by rw [hno]; exact Bool.false_ne_true)]
      · obtain ⟨h, hbar, hh, hgone, hvals, hopen⟩ := countArrive_spec hclean' hg key requested hl
        refine ⟨s.tick.countArrive o g key requested, h, by rw [if_pos hyes], hbar, hh, op?_id ho ▸ hgone, hvals, fun hm => ?_⟩
        obtain ⟨e, hbytes⟩ := hopen hm
        exact ⟨⟨e.found, e.values, e.kept, e.control, e.context, e.others, e.done, e.stores⟩, hbytes⟩
    · intro l hl b
      have hcount : exec (.barrierCount (.landed l.number)) s = .next (s.tick.landedCount l.number) := rfl
      have hexec : s.tick.landedCount l.number = if b.room 0 l.bytes 0 then
          (({ s.tick with landed := s.landed.filter (fun k => k.number != l.number) } : State).countBar l.object 0 l.bytes 0).1.killLanes
            (({ s.tick with landed := s.landed.filter (fun k => k.number != l.number) } : State).countBar l.object 0 l.bytes 0).2 else s.tick := by
        unfold State.landedCount
        simp only [show s.tick.landed.find? (fun k => k.number == l.number) = some l from hl]
        rfl
      rw [hcount, hexec]
      refine ⟨fun hno => ?_, fun hyes => ?_⟩
      · rw [if_neg (by rw [hno]; exact Bool.false_ne_true)]
      · obtain ⟨hdead, hbar, ⟨hlanded, -, -⟩, -⟩ := countBar_spec (s := { s.tick with landed := s.landed.filter (fun k => k.number != l.number) })
          hclean' l.object 0 l.bytes 0
        rw [if_pos hyes, hdead, killLanes_nil]
        refine ⟨_, rfl, hlanded, hbar.trans ?_⟩
        simp only [Int.natCast_zero, Int.sub_zero, Nat.add_zero]
        rfl
    · intro unit index arrivals key b
      have hexec : exec (.barrierCount (.peer unit index arrivals)) s = if b.room arrivals 0 0 then
          .next ((s.tick.countBar key arrivals 0 0).1.killLanes (s.tick.countBar key arrivals 0 0).2) else .next s.tick := rfl
      rw [hexec]
      refine ⟨fun hno => ?_, fun hyes => ?_⟩
      · rw [if_neg (by rw [hno]; exact Bool.false_ne_true)]
      · obtain ⟨hdead, hbar, -, -⟩ := countBar_spec hclean' key arrivals 0 0
        rw [if_pos hyes, hdead, killLanes_nil]
        refine ⟨_, rfl, hbar.trans ?_⟩
        simp only [Int.natCast_zero, Int.sub_zero, Int.add_zero]
        rfl
    · intro key b next all
      have hexec : exec .barrierPhaseAdvance s = .next (s.tick.phaseAdvance key) := rfl
      rw [hexec]
      refine ⟨fun hno => ?_, fun hyes hscope => ?_⟩
      · unfold State.phaseAdvance
        rw [if_pos (by rw [show (s.tick.bar key).cmt = false from hno]; rfl)]
      · have hadvance : s.tick.phaseAdvance key = ((s.tick.onBar key (fun b => { b with phase := b.phase + 1, cmt := false })).startPhase key).1.killLanes
            ((s.tick.onBar key (fun b => { b with phase := b.phase + 1, cmt := false })).startPhase key).2 := by
          unfold State.phaseAdvance
          rw [if_neg (by rw [show (s.tick.bar key).cmt = true from hyes]; exact Bool.false_ne_true), if_neg fun hand => hscope hand.1]
        obtain ⟨hdead, hbar⟩ := startPhase_spec (s := s.tick.onBar key (fun b => { b with phase := b.phase + 1, cmt := false })) hclean' key
        rw [hadvance, hdead, killLanes_nil]
        refine ⟨_, rfl, hbar.trans ?_⟩
        rw [bar_onBar_self]
        rfl

end Sys2Proof.Machine
end

section
/-!
SUPPORT. The copy engine (07 R216 to R222, 08 R237; O57).
-/
namespace Sys2Proof.Machine

variable {s t u : State} {g h k : Group} {n kind : Nat} {w : Word} {tr : Transfer}

/-! ### Queues and bitmaps of a group (07 R216, R219) -/

theorem Group.queue_setQueue (g : Group) (q r : Nat) (ws : List Word) : (g.setQueue q ws).queue r = if q = r then ws else g.queue r :=
  Sparse.get_set ..

theorem map_lt (tr : Transfer) : tr.map < 4 := by
  unfold Transfer.map wbits bitsOf
  exact Nat.mod_lt _ (by decide)

theorem bitmap_setBitmap (g : Group) {m : Nat} (hm : m < 4) (v : Nat) : (g.setBitmap m v).bitmap m = v := by
  unfold Group.bitmap Group.setBitmap
  simp [List.getD_eq_getElem?_getD, hm]

theorem onGroup_found {f : Group → Group} (hg : s.group? n = some g) (hf : ∀ g, (f g).gid = g.gid) : (s.onGroup n f).group? n = some (f g) :=
  State.group?_onGroup_self hg ((hf g).trans (State.group?_gid hg))

/-- What a change of groups leaves: memory and transfers. -/
def KeepsTransfers (s t : State) : Prop := t.transfers = s.transfers ∧ t.mem = s.mem

theorem KeepsTransfers.trans (h : KeepsTransfers s t) (h' : KeepsTransfers t u) : KeepsTransfers s u := ⟨h'.1.trans h.1, h'.2.trans h.2⟩

theorem onGroup_keepsTransfers (s : State) (n : Nat) (f : Group → Group) : KeepsTransfers s (s.onGroup n f) :=
  ⟨State.onGroup_transfers .., State.onGroup_mem ..⟩

/-- A command and its parameters are taken off the queues. -/
theorem popCommand_spec (hg : s.group? n = some g) (kind : Nat) : (s.popCommand n kind).group? n =
    some ((g.setQueue 4 ((g.queue 4).drop 1)).setQueue 5 ((g.queue 5).drop (paramsOf kind))) ∧ KeepsTransfers s (s.popCommand n kind) := by
  have hhead : (s.popHead n 4).group? n = some (g.setQueue 4 ((g.queue 4).drop 1)) := onGroup_found hg (fun _ => rfl)
  have hkeep : KeepsTransfers s (s.popHead n 4) := onGroup_keepsTransfers s n _
  refine ⟨?_, hkeep.trans (onGroup_keepsTransfers _ _ _)⟩
  have hparams := onGroup_found (f := fun g => g.setQueue 5 ((g.queue 5).drop (paramsOf kind))) hhead (fun _ => rfl)
  rwa [Group.queue_setQueue, if_neg (by decide)] at hparams

/-- The status of a command: a word to q6, and words to q7. -/
theorem copyStatus_spec (hg : s.group? n = some g) (hlive : g.gstate ≠ .retired) (w : Word) (result : Nat) (more : List Word) :
    (s.copyStatus n w result more).group? n = some ((g.setQueue 6 (g.queue 6 ++ [withResult w result])).setQueue 7 (g.queue 7 ++ more)) ∧
      KeepsTransfers s (s.copyStatus n w result more) := by
  have hsix : (s.pushWords n 6 [withResult w result]).group? n = some (g.setQueue 6 (g.queue 6 ++ [withResult w result])) := by
    rw [pushWords_eq hg hlive]
    exact onGroup_found hg (fun _ => rfl)
  refine ⟨?_, (onGroup_keepsTransfers _ _ _).trans (onGroup_keepsTransfers _ _ _)⟩
  unfold State.copyStatus
  rw [pushWords_eq hsix hlive]
  have hseven := onGroup_found (f := fun k => k.setQueue 7 (k.queue 7 ++ more)) hsix (fun _ => rfl)
  rwa [Group.queue_setQueue, if_neg (by decide)] at hseven

/-! ### Taking a command (07 R216 to R221) -/

/-- The transfer of a command at the head of a group's q4, with its parameters in q5. -/
def State.commandTransfer (s : State) (g : Group) (kind : Nat) (w : Word) : Transfer where
  id := s.nextId
  core := g.core
  gid := g.gid
  handle := g.ctl.handle
  kind := kind
  word := w
  src := if kind = 1 then Sparse.get 0#256 g.recs (wbits w 23 18) else 0#256
  dst := Sparse.get 0#256 g.recs (wbits w 17 12)
  srcOff := if kind = 1 then ((g.queue 5).getD 0 0#32).toNat else 0
  dstOff := if kind = 1 then ((g.queue 5).getD 1 0#32).toNat else ((g.queue 5).getD 0 0#32).toNat
  count := if kind = 1 then ((g.queue 5).getD 2 0#32).toNat else ((g.queue 5).getD 1 0#32).toNat
  pattern := (g.queue 5).getD 2 0#32
  object := if wbit ((g.queue 5).getD 3 0#32) 31 then
    some (s.objectOf g (wbits ((g.queue 5).getD 3 0#32) 30 28) (wbits ((g.queue 5).getD 3 0#32) 7 0)) else none
  next := 0
  flying := []
  again := []
  held := []
  stopped := none

theorem getD_take_four {i : Nat} (hi : i < 4) (l : List Word) : (l.take 4).getD i 0#32 = l.getD i 0#32 := by
  rw [List.getD_eq_getElem?_getD, List.getD_eq_getElem?_getD, List.getElem?_take_of_lt hi]

/-- A command of a kind: it is rejected, waits, or its transfer starts. -/
theorem copyTake_eq (hg : s.group? n = some g) (hw : s.copyHead g = some w) (hkind : wbits w 31 28 = kind) :
    s.copyTake n kind =
      if s.copyRejects g w (bufRec (Sparse.get 0#256 g.recs (wbits w 23 18))) (bufRec (s.commandTransfer g kind w).dst)
          (s.commandTransfer g kind w).srcOff (s.commandTransfer g kind w).dstOff (s.commandTransfer g kind w).count ((g.queue 5).getD 3 0#32) then
        if g.statusRoom 1 1 then (s.popCommand n kind).copyStatus n w 2 [0#32] else s
      else if s.transferWaits g (s.commandTransfer g kind w) then s
      else (s.fresh.2.popCommand n kind).startTransfer (s.commandTransfer g kind w) := by
  unfold State.copyTake
  simp only [hg, hw]
  rw [if_neg (by rw [hkind, bne_self_eq_false]; exact Bool.false_ne_true)]
  simp only [getD_take_four (show 0 < 4 by decide), getD_take_four (show 1 < 4 by decide), getD_take_four (show 2 < 4 by decide),
    getD_take_four (show 3 < 4 by decide), beq_iff_eq, ← State.group?_gid hg]
  rfl

theorem copyTake_idle (hg : s.group? n = some g) (hw : s.copyHead g = none ∨ ∃ w, s.copyHead g = some w ∧ wbits w 31 28 ≠ kind) :
    s.copyTake n kind = s := by
  unfold State.copyTake
  simp only [hg]
  rcases hw with hw | ⟨w, hw, hkind⟩
  · simp only [hw]
  · simp only [hw]
    exact if_pos (bne_iff_ne.mpr hkind)

/-- A transfer that starts: it is the last of the table, and without RESTART the bits of its chunks are cleared. -/
theorem startTransfer_spec (hg : s.group? tr.gid = some g) : ∃ h, (s.startTransfer tr).group? tr.gid = some h ∧
    (∀ q, h.queue q = g.queue q) ∧ (s.startTransfer tr).transfers = s.transfers ++ [tr] ∧ (s.startTransfer tr).mem = s.mem ∧
    h.bitmap tr.map = if wbit tr.word 9 then g.bitmap tr.map else g.bitmap tr.map / 2 ^ chunksOf tr.count * 2 ^ chunksOf tr.count := by
  unfold State.startTransfer
  simp only
  split
  · exact ⟨g, hg, fun _ => rfl, rfl, rfl, rfl⟩
  · exact ⟨_, onGroup_found hg (fun _ => rfl), fun _ => rfl, congrArg (· ++ [tr]) (State.onGroup_transfers ..), State.onGroup_mem ..,
      bitmap_setBitmap g (map_lt tr) _⟩

/-! ### The bytes of a line (07 R218, 08 R237) -/

theorem mergeByte_ones (old data : Byte) : mergeByte old 0xFF#8 data = data := by
  unfold mergeByte
  rw [show (0xFF#8 : Byte) = BitVec.allOnes 8 by decide, BitVec.and_allOnes, BitVec.not_allOnes, BitVec.and_zero, BitVec.zero_or]

/-- Within its bytes a run's mask is whole. -/
theorem ones_byte {n i : Nat} (hi : i < n) : BitVec.ofNat 8 ((256 ^ n - 1) / 256 ^ i) = 0xFF#8 := by
  have hsplit : 256 ^ n = 256 ^ i * (256 * 256 ^ (n - i - 1)) := by
    rw [← Nat.pow_succ', ← Nat.pow_add]
    congr 1
    omega
  have hpos : 0 < 256 ^ (n - i - 1) := Nat.pow_pos (by decide)
  have hlow : 0 < 256 ^ i := Nat.pow_pos (by decide)
  have hdiv : (256 ^ n - 1) / 256 ^ i = 256 * 256 ^ (n - i - 1) - 1 := by
    have hb : 1 ≤ 256 * 256 ^ (n - i - 1) := by omega
    rw [hsplit]
    generalize 256 * 256 ^ (n - i - 1) = b at hb ⊢
    generalize 256 ^ i = a at hlow ⊢
    refine Nat.div_eq_of_lt_le ?_ ?_
    · rw [Nat.sub_mul, Nat.one_mul, Nat.mul_comm b]
      exact Nat.sub_le_sub_left hlow _
    · rw [Nat.sub_add_cancel hb, Nat.mul_comm b]
      exact Nat.sub_lt (Nat.mul_pos hlow hb) Nat.one_pos
  apply BitVec.eq_of_toNat_eq
  rw [hdiv, BitVec.toNat_ofNat]
  show (256 * 256 ^ (n - i - 1) - 1) % 256 = 255
  omega

/-- A run of bytes written into its line: its bytes stand there, and every other byte stays. -/
theorem lineBytes_written (m : List Host.Cell) (bs : List Byte) {line off : Nat} (hoff : off + bs.length ≤ 128) :
    (∀ i, (hi : i < bs.length) → Memory.read (Memory.writeBits m line ((2 ^ (8 * bs.length) - 1) * 256 ^ off) (natOfBytes bs * 256 ^ off) 128)
      (line + off + i) = bs[i]) ∧
    ∀ a, a < line + off ∨ line + off + bs.length ≤ a →
      Memory.read (Memory.writeBits m line ((2 ^ (8 * bs.length) - 1) * 256 ^ off) (natOfBytes bs * 256 ^ off) 128) a = Memory.read m a := by
  rw [show 2 ^ (8 * bs.length) = 256 ^ bs.length by rw [Nat.pow_mul]]
  refine ⟨fun i hi => ?_, fun a ha => ?_⟩
  · rw [Nat.add_assoc, Memory.read_writeBits _ _ _ _ _ _ (by omega), shifted_in, shifted_in, ones_byte hi, mergeByte_ones, natOfBytes_byte bs i hi]
  · by_cases hline : a < line ∨ line + 128 ≤ a
    · exact Memory.read_writeBits_out _ _ _ _ _ _ hline
    · rw [show a = line + (a - line) by omega, Memory.read_writeBits _ _ _ _ _ _ (by omega),
        shifted_out (n := bs.length) (Nat.sub_lt (Nat.pow_pos (by decide)) Nat.one_pos) (by omega), mergeByte_zero]

end Sys2Proof.Machine
end

section
/-!
SUPPORT. The copy engine's chunks and the end of a transfer (07 R218, R219, R222; O57).
-/
namespace Sys2Proof.Machine

variable {s t u : State} {g h : Group} {n k : Nat} {w : Word} {tr : Transfer}

/-! ### The table of transfers -/

/-- A transfer put back is found, but for the pages it no longer needs. -/
theorem putTransfer_find {old : Transfer} (hf : s.transfers.find? (fun u => u.id == n) = some old) (hid : tr.id = n) :
    ∃ u, (s.putTransfer tr).transfers.find? (fun u => u.id == n) = some u ∧ u = { tr with held := u.held } := by
  subst hid
  exact ⟨_, find?_replaceFirst_self _ _ _ (beq_self_eq_true _) (by rw [hf]; rfl), rfl⟩

theorem stopTransfer_find {old : Transfer} (hf : s.transfers.find? (fun u => u.id == n) = some old) (hid : tr.id = n) (result va : Nat) (dest : Bool) :
    (s.stopTransfer tr result va dest).transfers.find? (fun u => u.id == n) = some { tr with stopped := some (result, va, dest) } := by
  subst hid
  exact find?_replaceFirst_self (fun u => u.id == tr.id) { tr with stopped := some (result, va, dest) } _ (beq_self_eq_true tr.id) (by rw [hf]; rfl)

/-! ### A line of a chunk (07 R218) -/

theorem sendLine_error {lo hi a : Nat} (hsrc : s.sourceBytes g tr ((tr.lineBytes lo hi).map (fun m => m.2)) = .error a) :
    s.sendLine g tr lo hi = .stopped (s.stopTransfer tr 4 a false) := by
  unfold State.sendLine
  simp only [hsrc]

/-- A line whose source bytes are all at hand is written at its home. -/
theorem sendLine_sent {lo hi : Nat} {bs : List SourceByte} {pg : Page} {v : Word}
    (hsrc : s.sourceBytes g tr ((tr.lineBytes lo hi).map (fun m => m.2)) = .ok bs) (hplace : (s.place g (bufRec tr.dst) lo 1).1 = .virt v)
    (hpage : s.transferPage tr lo .write = some pg) (hbytes : ∀ b ∈ bs, b.closed = false ∧ b.soiled = none ∧ b.poison = false)
    (hopen : s.pageOpen tr.core (some pg) lo = true) (hclean : s.mem.clean (pg.phys lo) = true) :
    s.sendLine g tr lo hi = .sent (s.writeHome (.virt v) (pg.phys (lo / 128 * 128)) 128
        ((2 ^ (8 * (bs.map (fun b => b.byte)).length) - 1) * 256 ^ (lo % 128)) (natOfBytes (bs.map (fun b => b.byte)) * 256 ^ (lo % 128))).1
      { tr with held := holdPages tr.held (bs.filterMap (fun b => b.page) ++ (some pg).toList) } := by
  have hshut : (bs.any (fun b => b.closed) || !s.pageOpen tr.core (some pg) lo) = false := by
    rw [hopen, Bool.not_true, Bool.or_false, List.any_eq_false]
    exact fun b hb => by rw [(hbytes b hb).1]; exact Bool.false_ne_true
  have hsoiled : (s.soiledAt (some pg) lo :: bs.map (fun b => b.soiled)).findSome? id = none := by
    rw [List.findSome?_eq_none_iff]
    intro x hx
    rcases List.mem_cons.mp hx with rfl | hx
    · unfold State.soiledAt
      simp only [hclean, if_true]
      rfl
    · obtain ⟨b, hb, rfl⟩ := List.mem_map.mp hx
      exact (hbytes b hb).2.1
  have hpoison : bs.any (fun b => b.poison) = false := by
    rw [List.any_eq_false]
    exact fun b hb => by rw [(hbytes b hb).2.2]; exact Bool.false_ne_true
  unfold State.sendLine State.writeLine
  simp only [hsrc, hplace, hpage, hshut, hsoiled, hpoison, if_true, Option.isNone_some, Bool.and_false, Bool.false_eq_true, if_false]

theorem sendLines_one {lo hi : Nat} {v : State} {t' : Transfer} (hsent : s.sendLine g tr lo hi = .sent v t') :
    s.sendLines g tr [(lo, hi)] = .sent v t' := by
  unfold State.sendLines
  simp only [hsent]
  rfl

theorem sendLines_stopped {lo hi : Nat} {v : State} (hstop : s.sendLine g tr lo hi = .stopped v) : s.sendLines g tr [(lo, hi)] = .stopped v := by
  unfold State.sendLines
  simp only [hstop]

/-! ### COPY_CHUNK_COMPLETE (07 R219, R222) -/

/-- The slots that a chunk's lines used change installations alone. -/
theorem chunkSlots_keeps (s : State) (g : Group) (tr : Transfer) (lines : Nat) : KeepsTransfers s (s.chunkSlots g tr lines) := by
  have hslots (v : State) (slot : Nat) (write : Bool) (m : Nat) : KeepsTransfers v (v.useSlots g slot write m) :=
    ⟨State.onInst_transfers .., State.onInst_mem ..⟩
  have hdst : KeepsTransfers s (if (bufRec tr.dst).reserved then s.useSlots g (wbits tr.word 17 12) true lines else s) := by
    split
    · exact hslots ..
    · exact ⟨rfl, rfl⟩
  unfold State.chunkSlots
  simp only
  split
  · exact hdst.trans (hslots ..)
  · exact hdst

/-- A chunk whose lines have all been acknowledged: its bit is set, and its bytes go to the barrier. -/
theorem endChunk_spec {old : Transfer} (hg : s.group? tr.gid = some g) (hf : s.transfers.find? (fun u => u.id == n) = some old) (hid : tr.id = n)
    (k : Nat) : ∃ h u, (s.endChunk tr k).group? tr.gid = some h ∧ h.bitmap tr.map = (g.bitmap tr.map ||| 2 ^ k) ∧
      (s.endChunk tr k).transfers.find? (fun u => u.id == n) = some u ∧ u.flying = tr.flying.filter (· != k) ∧ u.stopped = tr.stopped ∧
      (s.endChunk tr k).mem = s.mem ∧ (s.endChunk tr k).landed.map (fun l => (l.object, l.bytes)) =
        s.landed.map (fun l => (l.object, l.bytes)) ++ (match tr.object with | none => [] | some o => [(o, (tr.chunk k).2 - (tr.chunk k).1)]) := by
  have hset := onGroup_found (f := fun g => g.setBitmap tr.map (g.bitmap tr.map ||| 2 ^ k)) hg (fun _ => rfl)
  have hlanded : (s.onGroup tr.gid (fun g => g.setBitmap tr.map (g.bitmap tr.map ||| 2 ^ k))).landed = s.landed := State.onGroup_landed ..
  obtain ⟨hkept, hmem⟩ := onGroup_keepsTransfers s tr.gid (fun g => g.setBitmap tr.map (g.bitmap tr.map ||| 2 ^ k))
  generalize hv : s.onGroup tr.gid (fun g => g.setBitmap tr.map (g.bitmap tr.map ||| 2 ^ k)) = v at hset hlanded hkept hmem
  obtain ⟨u, hu, hform⟩ := putTransfer_find (s := v) (tr := { tr with flying := tr.flying.filter (· != k) }) (hkept.symm ▸ hf) hid
  have hflying : u.flying = tr.flying.filter (· != k) := by rw [hform]
  have hstopped : u.stopped = tr.stopped := by rw [hform]
  unfold State.endChunk
  rw [hv]
  split
  · next hobj =>
    refine ⟨_, u, hset, bitmap_setBitmap g (map_lt tr) _, hu, hflying, hstopped, hmem, ?_⟩
    rw [hobj]
    exact (congrArg (List.map _) hlanded).trans (List.append_nil _).symm
  · next o hobj =>
    refine ⟨_, u, hset, bitmap_setBitmap g (map_lt tr) _, hu, hflying, hstopped, hmem, ?_⟩
    rw [hobj]
    refine (List.map_append (l₁ := v.landed)).trans ?_
    rw [hlanded]
    rfl

/-- COPY_CHUNK_COMPLETE of a chunk of a transfer of the copy engine. -/
theorem chunkComplete_eq (hf : s.transfers.find? (fun u => u.id == n) = some tr) (hg : s.group? tr.gid = some g) (hkind : tr.kind ≠ 9) (k : Nat) :
    s.chunkComplete n k = if tr.flying.contains k then s.endChunk tr k
      else if tr.stopped.isNone && tr.nextChunk (g.bitmap tr.map) == some k then s.sendChunk tr g k else s := by
  unfold State.chunkComplete
  simp only [hf, hg]
  exact if_neg (by rw [beq_iff_eq]; exact hkind)

/-- A chunk of one line whose source does not translate stops the transfer. -/
theorem sendChunk_stops {lo hi a : Nat} (hf : s.transfers.find? (fun u => u.id == n) = some tr) (hid : tr.id = n) (hroom : tr.flying.length < 32)
    (hlost : s.transferLost g tr = false) (hlines : tr.chunkLines k = [(lo, hi)])
    (hsrc : s.sourceBytes g { tr with next := k + 1, flying := tr.flying ++ [k] }
      ((({ tr with next := k + 1, flying := tr.flying ++ [k] } : Transfer).lineBytes lo hi).map (fun m => m.2)) = .error a) :
    ∃ u, (s.sendChunk tr g k).transfers.find? (fun u => u.id == n) = some u ∧ u.stopped = some (4, a, false) ∧ k ∉ u.flying ∧
      (s.sendChunk tr g k).mem = s.mem := by
  have hstop := stopTransfer_find (tr := { tr with next := k + 1, flying := tr.flying ++ [k] }) hf hid 4 a false
  have hsend : s.sendChunk tr g k = { s.stopTransfer { tr with next := k + 1, flying := tr.flying ++ [k] } 4 a false with
      transfers := (s.stopTransfer { tr with next := k + 1, flying := tr.flying ++ [k] } 4 a false).transfers.map (fun u =>
        if u.id == tr.id then { u with flying := u.flying.filter (· != k) } else u) } := by
    unfold State.sendChunk
    rw [if_neg (ne_true_of_eq_false (decide_eq_false (Nat.not_le_of_lt hroom))), if_neg (ne_true_of_eq_false hlost), hlines]
    simp only [sendLines_stopped (sendLine_error hsrc)]
  have hmap (l : List Transfer) : (l.map (fun u => if u.id == tr.id then { u with flying := u.flying.filter (· != k) } else u)).find?
      (fun u => u.id == n) = (l.find? (fun u => u.id == n)).map (fun u =>
        if u.id == tr.id then { u with flying := u.flying.filter (· != k) } else u) := by
    rw [List.find?_map]
    congr 2
    funext u
    simp only [Function.comp]
    split <;> rfl
  rw [hsend]
  refine ⟨{ tr with next := k + 1, flying := (tr.flying ++ [k]).filter (· != k), stopped := some (4, a, false) }, ?_, rfl, ?_, rfl⟩
  · refine (hmap _).trans ((congrArg (Option.map _) hstop).trans ?_)
    rw [Option.map_some, if_pos (beq_self_eq_true tr.id)]
  · intro hin
    have := (List.mem_filter.mp hin).2
    simp at this

/-- A chunk of one line is sent: the line is written at its home, and the chunk is in flight. -/
theorem sendChunk_sent {lo hi : Nat} {bs : List SourceByte} {pg : Page} {v : Word} (hf : s.transfers.find? (fun u => u.id == n) = some tr)
    (hid : tr.id = n) (hroom : tr.flying.length < 32) (hlost : s.transferLost g tr = false) (hlines : tr.chunkLines k = [(lo, hi)])
    (hsrc : s.sourceBytes g { tr with next := k + 1, flying := tr.flying ++ [k] }
      ((({ tr with next := k + 1, flying := tr.flying ++ [k] } : Transfer).lineBytes lo hi).map (fun m => m.2)) = .ok bs)
    (hplace : (s.place g (bufRec tr.dst) lo 1).1 = .virt v)
    (hpage : s.transferPage { tr with next := k + 1, flying := tr.flying ++ [k] } lo .write = some pg)
    (hbytes : ∀ b ∈ bs, b.closed = false ∧ b.soiled = none ∧ b.poison = false) (hopen : s.pageOpen tr.core (some pg) lo = true)
    (hclean : s.mem.clean (pg.phys lo) = true) (hfits : lo % 128 + bs.length ≤ 128) (hgood : s.mem.poisoned (pg.phys (lo / 128 * 128)) = false) :
    ∃ u, (s.sendChunk tr g k).transfers.find? (fun u => u.id == n) = some u ∧ u.next = k + 1 ∧ u.flying = tr.flying ++ [k] ∧
      u.stopped = tr.stopped ∧
      (∀ i b, bs[i]? = some b → Memory.read (s.sendChunk tr g k).mem.bytes (pg.phys (lo / 128 * 128) + lo % 128 + i) = b.byte) ∧
      ∀ a, a < pg.phys (lo / 128 * 128) + lo % 128 ∨ pg.phys (lo / 128 * 128) + lo % 128 + bs.length ≤ a →
        Memory.read (s.sendChunk tr g k).mem.bytes a = Memory.read s.mem.bytes a := by
  have hlen : (bs.map (fun b => b.byte)).length = bs.length := List.length_map ..
  have hsent := sendLine_sent (tr := { tr with next := k + 1, flying := tr.flying ++ [k] }) hsrc hplace hpage hbytes hopen hclean
  obtain ⟨x, hx, hside, hwritten, -⟩ := writeHome_virt v hgood 128
    ((2 ^ (8 * (bs.map (fun b => b.byte)).length) - 1) * 256 ^ (lo % 128)) (natOfBytes (bs.map (fun b => b.byte)) * 256 ^ (lo % 128))
  rw [hx] at hsent
  have hsend : s.sendChunk tr g k = (x.chunkSlots g tr 1).putTransfer { tr with
      next := k + 1, flying := tr.flying ++ [k], held := holdPages tr.held (bs.filterMap (fun b => b.page) ++ (some pg).toList) } := by
    unfold State.sendChunk
    rw [if_neg (ne_true_of_eq_false (decide_eq_false (Nat.not_le_of_lt hroom))), if_neg (ne_true_of_eq_false hlost), hlines]
    simp only [sendLines_one hsent]
    rfl
  obtain ⟨htransfers, hmem⟩ := chunkSlots_keeps x g tr 1
  have hfx : (x.chunkSlots g tr 1).transfers.find? (fun u => u.id == n) = some tr := by
    rw [htransfers, hside.keeps State.transfers (fun _ _ => rfl)]
    exact hf
  obtain ⟨u, hu, hform⟩ := putTransfer_find (tr := { tr with
    next := k + 1, flying := tr.flying ++ [k], held := holdPages tr.held (bs.filterMap (fun b => b.page) ++ (some pg).toList) }) hfx hid
  obtain ⟨hin, hout⟩ := lineBytes_written s.mem.bytes (bs.map (fun b => b.byte)) (line := pg.phys (lo / 128 * 128)) (off := lo % 128) (hlen ▸ hfits)
  have hfinal : (s.sendChunk tr g k).mem.bytes = x.mem.bytes := by
    rw [hsend]
    exact congrArg DeviceMem.bytes hmem
  refine ⟨u, by rw [hsend]; exact hu, by rw [hform], by rw [hform], by rw [hform], fun i b hb => ?_, fun a ha => ?_⟩
  · obtain ⟨hi, hbi⟩ := List.getElem?_eq_some_iff.mp hb
    rw [hfinal, hwritten, hin i (hlen.symm ▸ hi), List.getElem_map, hbi]
  · rw [hfinal, hwritten]
    exact hout a (hlen.symm ▸ ha)

/-! ### COPY_TRANSFER_END (07 R221, R222) -/

/-- A transfer that has ended is out of the table, and its status is pushed. -/
theorem transferEnd_eq (hf : s.transfers.find? (fun u => u.id == n) = some tr) (hg : s.group? tr.gid = some g) (hkind : tr.kind ≠ 9) :
    s.transferEnd n = if (tr.flying.isEmpty && (tr.stopped.isSome || (tr.nextChunk (g.bitmap tr.map)).isNone)) &&
        g.statusRoom 1 (tr.q7 (g.bitmap tr.map)).length then
      (({ s with transfers := s.transfers.filter (fun u => u.id != n) } : State).onCore tr.core (fun k =>
        k.dropL1Range tr.handle tr.reach.1 tr.reach.2)).copyStatus tr.gid tr.word (match tr.stopped with | some (r, _, _) => r | none => 0)
          (tr.q7 (g.bitmap tr.map)) else s := by
  unfold State.transferEnd
  simp only [hf, hg, beq_false_of_ne hkind, Bool.false_or]
  cases tr.flying.isEmpty <;> cases tr.stopped <;> cases tr.nextChunk (g.bitmap tr.map) <;> cases g.statusRoom 1 (tr.q7 (g.bitmap tr.map)).length <;> rfl

/-! ### What a command leaves in the queues -/

theorem Group.bitmaps_setQueue (g : Group) (q : Nat) (ws : List Word) : (g.setQueue q ws).bitmaps = g.bitmaps := rfl

/-- A group whose command has been taken and answered. -/
def Group.answered (g : Group) (params : Nat) (w : Word) (result : Nat) (more : List Word) : Group :=
  ((((g.setQueue 4 ((g.queue 4).drop 1)).setQueue 5 ((g.queue 5).drop params)).setQueue 6 (g.queue 6 ++ [withResult w result])).setQueue 7
    (g.queue 7 ++ more))

theorem answered_queues (g : Group) (params : Nat) (w : Word) (result : Nat) (more : List Word) :
    ((g.answered params w result more).queue 4 = (g.queue 4).drop 1 ∧ (g.answered params w result more).queue 5 = (g.queue 5).drop params) ∧
      (g.answered params w result more).queue 6 = g.queue 6 ++ [withResult w result] ∧
      (g.answered params w result more).queue 7 = g.queue 7 ++ more ∧ (g.answered params w result more).bitmaps = g.bitmaps := by
  unfold Group.answered
  simp [Group.queue_setQueue, Group.bitmaps_setQueue]

/-- A command taken and answered. -/
theorem answered_spec (hg : s.group? n = some g) (hlive : g.gstate ≠ .retired) (kind : Nat) (w : Word) (result : Nat) (more : List Word) :
    ((s.popCommand n kind).copyStatus n w result more).group? n = some (g.answered (paramsOf kind) w result more) ∧
      KeepsTransfers s ((s.popCommand n kind).copyStatus n w result more) := by
  obtain ⟨hpop, hkeep⟩ := popCommand_spec hg kind
  obtain ⟨hstatus, hkeep'⟩ := copyStatus_spec hpop hlive w result more
  refine ⟨hstatus.trans (congrArg some ?_), hkeep.trans hkeep'⟩
  unfold Group.answered
  simp [Group.queue_setQueue]

/-! ### The obligation -/

/-- Settles O57: a command's transfer is read off its queues, a chunk of one line is one write of bytes at an offset of its home line, and a
transfer's end pushes its status behind what the queues hold. -/
theorem copyEngine : Obligations.CopyEngine := by
  unfold Obligations.CopyEngine
  refine ⟨?command, ?unknown, ?chunk, ?finish⟩
  case command =>
    intro kind hkind s g hg hlive i p srcOff dstOff count barrier popped
    have hgid := State.group?_gid hg
    have hexec : exec i s = .next (s.tick.copyTake s.turn.x kind) := by
      rcases hkind with rfl | rfl <;> rfl
    have hpops : paramsOf kind = 4 := by
      rcases hkind with rfl | rfl <;> rfl
    rw [hexec]
    refine ⟨fun hnone => ?_, fun w hw hother => ?_, ?taken⟩
    · rw [copyTake_idle (s := s.tick) hg (.inl hnone)]
    · rw [copyTake_idle (s := s.tick) hg (.inr ⟨w, hw, hother⟩)]
    intro w hw hsame hlen src dst rejects
    refine ⟨fun hrej hroom => ?_, fun hok => ?_⟩
    · obtain ⟨hstatus, htransfers, hmem⟩ := answered_spec (s := s.tick) hg hlive kind w 2 [0#32]
      obtain ⟨hpop, hsix, hseven, hbits⟩ := answered_queues g (paramsOf kind) w 2 [0#32]
      refine ⟨_, _, congrArg Host.Outcome.next ?_, hstatus, hpops ▸ hpop, hsix, hseven, hbits, htransfers, hmem⟩
      rw [copyTake_eq (s := s.tick) hg hw hsame]
      exact (if_pos hrej).trans (if_pos hroom)
    · refine ⟨s.commandTransfer g kind w, rfl, rfl, rfl, rfl, rfl, rfl, rfl, rfl, rfl, rfl, rfl, rfl, rfl, fun hwait => ?_, fun hgo => ?_⟩
      · refine congrArg Host.Outcome.next ((copyTake_eq (s := s.tick) hg hw hsame).trans ?_)
        exact (if_neg (ne_true_of_eq_false hok)).trans (if_pos hwait)
      · obtain ⟨hpop, htransfers, hmem⟩ := popCommand_spec (s := s.tick.fresh.2) hg kind
        obtain ⟨h, hh, hqueues, hstart, hmem', hbits⟩ := startTransfer_spec (tr := s.commandTransfer g kind w)
          (s := s.tick.fresh.2.popCommand s.turn.x kind) (show _ = _ from (congrArg _ hgid).trans hpop)
        refine ⟨(s.tick.fresh.2.popCommand s.turn.x kind).startTransfer (s.commandTransfer g kind w), h, ?_, ?_, hgid ▸ hh, ⟨?_, ?_⟩, ?_,
          hmem'.trans hmem, hbits⟩
        · refine congrArg Host.Outcome.next ((copyTake_eq (s := s.tick) hg hw hsame).trans ?_)
          exact (if_neg (ne_true_of_eq_false hok)).trans (if_neg (ne_true_of_eq_false hgo))
        · rw [hstart, htransfers]
          rfl
        · rw [hqueues]
          simp only [Group.queue_setQueue]
          rfl
        · rw [hqueues]
          simp only [Group.queue_setQueue, hpops]
          rfl
        · rw [hqueues]
          simp only [Group.queue_setQueue]
          rfl
  case unknown =>
    intro s g w hg hlive hw hnone hroom
    have hgid := State.group?_gid hg
    obtain ⟨hstatus, htransfers, hmem⟩ := answered_spec (s := s.tick) hg hlive 0 w 2 []
    obtain ⟨⟨hfour, hfive⟩, hsix, hseven, -⟩ := answered_queues g (paramsOf 0) w 2 []
    refine ⟨_, _, ?_, hstatus, hfour, hfive.trans (List.drop_zero ..), hsix, hseven.trans (List.append_nil _), htransfers, hmem⟩
    refine (show exec .copyUnknownKind s = execCopyUnknownKind s from rfl).trans ?_
    unfold execCopyUnknownKind
    simp only [hg, hw]
    rw [if_pos (by rw [hnone, hroom]; rfl), hgid]
  case chunk =>
    intro s tr g hf hg hkind k
    have hid : tr.id = s.turn.x := by simpa using List.find?_some hf
    have hexec : exec .copyChunkComplete s = .next (s.tick.chunkComplete s.turn.x k) := rfl
    rw [hexec, chunkComplete_eq (s := s.tick) hf hg hkind k]
    refine ⟨fun hflying => ?_, ?next⟩
    · rw [if_pos hflying]
      obtain ⟨h, u, hh, hbit, hu, hfly, hstop, hmem, hland⟩ := endChunk_spec (s := s.tick) hg hf hid k
      exact ⟨_, h, u, rfl, hh, hbit, hu, hfly, hstop, hmem, hland⟩
    case next =>
      intro hnew hrun hnext sending
      rw [if_neg (ne_true_of_eq_false hnew), if_pos (by rw [hrun, hnext]; exact beq_self_eq_true (some k))]
      refine ⟨fun hfull => ?_, fun hroom hlost => ?_, fun lo hi a hroom hlost hlines hsrc => ?_, ?sent⟩
      · unfold State.sendChunk
        rw [if_pos (decide_eq_true hfull)]
      · refine ⟨s.tick.stopTransfer tr 1 0 false, ?_, rfl, stopTransfer_find (s := s.tick) hf hid 1 0 false⟩
        unfold State.sendChunk
        rw [if_neg (ne_true_of_eq_false (decide_eq_false (Nat.not_le_of_lt hroom))), if_pos (show s.tick.transferLost g tr = true from hlost)]
      · obtain ⟨u, hu, hstop, hout, hmem⟩ := sendChunk_stops (s := s.tick) hf hid hroom hlost hlines hsrc
        exact ⟨_, u, rfl, hmem, hu, hstop, hout⟩
      · intro lo hi bs pg h hroom hlost hlines hsrc hplace hpage hbytes hopen hclean hfits hgood
        obtain ⟨u, hu, hnx, hfly, hstop, hin, hout⟩ := sendChunk_sent (s := s.tick) hf hid hroom hlost hlines hsrc hplace hpage hbytes hopen hclean
          hfits hgood
        intro at_
        exact ⟨_, u, rfl, hu, hnx, hfly, hstop.trans hrun, hin, hout⟩
  case finish =>
    intro s tr g hf hg hlive hkind more done
    have hexec : exec .copyTransferEnd s = .next (s.tick.transferEnd s.turn.x) := rfl
    rw [hexec, transferEnd_eq (s := s.tick) hf hg hkind]
    refine ⟨fun hno => ?_, fun hyes hroom => ?_⟩
    · exact congrArg Host.Outcome.next (if_neg (ne_true_of_eq_false ((congrArg (· && _) hno).trans (Bool.false_and _))))
    · rw [if_pos (Bool.and_eq_true_iff.2 ⟨hyes, hroom⟩)]
      obtain ⟨hstatus, htransfers, hmem⟩ := copyStatus_spec (s := (({ s.tick with transfers := s.transfers.filter (fun u => u.id != s.turn.x) } :
        State).onCore tr.core (fun k => k.dropL1Range tr.handle tr.reach.1 tr.reach.2))) hg hlive tr.word
        (match tr.stopped with | some (r, _, _) => r | none => 0) more
      refine ⟨_, _, rfl, htransfers, hstatus, hmem, ?_, ?_, rfl⟩
      · simp only [Group.queue_setQueue]
        rfl
      · simp only [Group.queue_setQueue]
        rfl

end Sys2Proof.Machine
end

section
/-!
SUPPORT. Elements of accumulator tiles, and the steps of the matrix engine that write none (10 R267, R275, R277, R281, R282; O59).
-/
namespace Sys2Proof.Machine

variable {s t : State} {g h : Group} {k : Core} {wide : Bool} {tile : Nat}

/-! ### An element of a tile (10 R275) -/

/-- An element that a command writes: its place, its value, the sub-array that computed it, and whether it saturated. -/
structure ElementWrite where
  row   : Nat
  col   : Nat
  value : Nat
  by_   : Option Nat := none
  sat   : Bool := false

/-- The elements a command writes, one after the other. -/
def Core.putElements (k : Core) (wide : Bool) (tile : Nat) (ws : List ElementWrite) : Core :=
  ws.foldl (fun k w => k.putElement wide tile w.row w.col w.value w.by_) k

/-- Two places of the 64 by 64 elements of a tile share no word. -/
theorem accKeys_apart {r c r' c' key : Nat} (hr : r < 64) (hc : c < 64) (hr' : r' < 64) (hc' : c' < 64)
    (h : key ∈ accKeys wide tile r c) (h' : key ∈ accKeys wide tile r' c') : r = r' ∧ c = c' := by
  unfold accKeys at h h'
  cases wide with
  | true =>
    simp only [if_true, List.mem_cons, List.not_mem_nil, or_false] at h h'
    omega
  | false =>
    simp only [Bool.false_eq_true, if_false, List.mem_cons, List.not_mem_nil, or_false] at h h'
    omega

theorem putElement_word {key r c v : Nat} {a : Option Nat} (hkey : key ∉ accKeys wide tile r c) :
    Sparse.get 0#32 (k.putElement wide tile r c v a).acc key = Sparse.get 0#32 k.acc key := by
  unfold Core.putElement accKeys at *
  cases wide with
  | true =>
    simp only [if_true, List.mem_cons, List.not_mem_nil, or_false, not_or] at hkey
    exact (Sparse.get_set_ne _ _ _ (Ne.symm hkey.2)).trans (Sparse.get_set_ne _ _ _ (Ne.symm hkey.1))
  | false =>
    simp only [Bool.false_eq_true, if_false, List.mem_cons, List.not_mem_nil, or_false] at hkey
    exact Sparse.get_set_ne _ _ _ (Ne.symm hkey)

/-- A written element reads as its value, in its width. -/
theorem putElement_element (k : Core) (wide : Bool) (tile r c v : Nat) (a : Option Nat) :
    (k.putElement wide tile r c v a).element wide tile r c = v % 2 ^ (if wide then 64 else 32) := by
  unfold Core.element Core.putElement accKeys natOfWords
  cases wide with
  | true =>
    simp [Sparse.get_set, List.zipIdx]
    omega
  | false => simp [List.zipIdx]

theorem element_congr {k' : Core} {r c : Nat} (h : ∀ key ∈ accKeys wide tile r c, Sparse.get 0#32 k'.acc key = Sparse.get 0#32 k.acc key) :
    k'.element wide tile r c = k.element wide tile r c :=
  congrArg natOfWords (List.map_congr_left h)

/-! ### The elements of a command -/

theorem putElements_cons (k : Core) (wide : Bool) (tile : Nat) (w : ElementWrite) (ws : List ElementWrite) :
    k.putElements wide tile (w :: ws) = (k.putElement wide tile w.row w.col w.value w.by_).putElements wide tile ws := rfl

/-- Writing elements changes the tiles and their marks alone. -/
theorem putElements_rest (k : Core) (wide : Bool) (tile : Nat) (ws : List ElementWrite) : k.putElements wide tile ws = { k with
    acc := (k.putElements wide tile ws).acc, accErr := (k.putElements wide tile ws).accErr, accTest := (k.putElements wide tile ws).accTest } := by
  induction ws generalizing k with
  | nil => rfl
  | cons w ws ih => exact ih (k.putElement wide tile w.row w.col w.value w.by_)

/-- A word of no written element stays. -/
theorem putElements_word {key : Nat} (ws : List ElementWrite) (hkey : ∀ w ∈ ws, key ∉ accKeys wide tile w.row w.col) :
    Sparse.get 0#32 (k.putElements wide tile ws).acc key = Sparse.get 0#32 k.acc key := by
  induction ws generalizing k with
  | nil => rfl
  | cons w ws ih => exact (ih fun v hv => hkey v (List.mem_cons_of_mem _ hv)).trans (putElement_word (hkey w List.mem_cons_self))

/-- Writes within a tile that give each place one value. -/
def OneValue (ws : List ElementWrite) : Prop :=
  (∀ w ∈ ws, w.row < 64 ∧ w.col < 64) ∧ ∀ w ∈ ws, ∀ v ∈ ws, w.row = v.row → w.col = v.col → w.value = v.value

/-- A written element stands as its value, however many others are written. -/
theorem putElements_element {ws : List ElementWrite} (hws : OneValue ws) (w : ElementWrite) (hw : w ∈ ws) :
    (k.putElements wide tile ws).element wide tile w.row w.col = w.value % 2 ^ (if wide then 64 else 32) := by
  induction ws generalizing k w with
  | nil => exact absurd hw List.not_mem_nil
  | cons v ws ih =>
    obtain ⟨hin, hone⟩ := hws
    have hrest : OneValue ws := ⟨fun w hw => hin w (List.mem_cons_of_mem _ hw),
      fun w hw v hv => hone w (List.mem_cons_of_mem _ hw) v (List.mem_cons_of_mem _ hv)⟩
    rw [putElements_cons]
    by_cases hlater : ∃ u ∈ ws, u.row = w.row ∧ u.col = w.col
    · obtain ⟨u, hu, hrow, hcol⟩ := hlater
      rw [← hrow, ← hcol, ih hrest u hu, hone u (List.mem_cons_of_mem _ hu) w hw hrow hcol]
    · have hself : v = w := by
        rcases List.mem_cons.mp hw with h | h
        · exact h.symm
        · exact absurd ⟨w, h, rfl, rfl⟩ hlater
      subst hself
      refine (element_congr fun key hkey => putElements_word ws fun u hu hkey' => hlater ?_).trans (putElement_element ..)
      obtain ⟨hr, hc⟩ := hin v List.mem_cons_self
      obtain ⟨hr', hc'⟩ := hin u (List.mem_cons_of_mem _ hu)
      obtain ⟨hrow, hcol⟩ := accKeys_apart hr hc hr' hc' hkey hkey'
      exact ⟨u, hu, hrow.symm, hcol.symm⟩

/-! ### Clearing a tile (10 R277) -/

theorem get_filter_keys (p : Nat → Bool) (m : Sparse Word) (i : Nat) :
    Sparse.get 0#32 (m.filter (fun e => p e.1)) i = if p i then Sparse.get 0#32 m i else 0#32 := by
  induction m with
  | nil => simp
  | cons e m ih =>
    obtain ⟨j, v⟩ := e
    rw [List.filter_cons]
    by_cases hj : j = i
    · subst hj
      by_cases hp : p j
      · simp [hp, Sparse.get_cons]
      · simp only [hp, Bool.false_eq_true, if_false] at ih ⊢
        exact ih
    · by_cases hp : p j
      · simp [hp, Sparse.get_cons, hj, ih]
      · simp [hp, Sparse.get_cons, hj, ih]

theorem clearTile_word (k : Core) (tile key : Nat) :
    Sparse.get 0#32 (k.clearTile tile).acc key = if key / 4096 = tile then 0#32 else Sparse.get 0#32 k.acc key := by
  refine (get_filter_keys (fun e => e / 4096 != tile) k.acc key).trans ?_
  by_cases hk : key / 4096 = tile <;> simp [hk]

theorem clearTiles_word (tiles : List Nat) (k : Core) (key : Nat) : (tiles.foldl Core.clearTile k).stream = k.stream ∧
    Sparse.get 0#32 (tiles.foldl Core.clearTile k).acc key = if key / 4096 ∈ tiles then 0#32 else Sparse.get 0#32 k.acc key := by
  induction tiles generalizing k with
  | nil => exact ⟨rfl, by simp⟩
  | cons t ts ih =>
    obtain ⟨hstream, hword⟩ := ih (k.clearTile t)
    refine ⟨hstream, hword.trans ?_⟩
    rw [clearTile_word]
    by_cases h : key / 4096 = t <;> by_cases h' : key / 4096 ∈ ts <;> simp [h, h']

/-! ### MATRIX_COMMAND_START (10 R267, R268) -/

theorem matrixStart_idle {c : Nat} (h : (s.core c).nextStart = none) : s.matrixStart c = s := by
  unfold State.matrixStart
  simp only [h]

theorem matrixStart_eq {c : Nat} {e : StreamEntry} (he : (s.core c).nextStart = some e) (hg : s.group? e.gid = some g) :
    s.matrixStart c = s.startEntry c g e := by
  unfold State.matrixStart
  simp only [he, hg]

/-- A command that does not stage starts at once, when nothing holds it. -/
theorem startEntry_plain {c : Nat} {e : StreamEntry} (hm : e.command.isMma = false)
    (hfree : ((s.op? e.release).isSome || (s.entryReads g e).any (fun r => !(s.owners r.1 r.2.1 r.2.2.1).isEmpty) || s.entryShut c g e ||
      !(s.core c).canRun e.command) = false) : s.startEntry c g e = s.onCore c (fun k => k.putEntry { e with started := true }) := by
  unfold State.startEntry
  refine (if_neg (ne_true_of_eq_false hfree)).trans ?_
  split
  · next hcmd => rw [hcmd] at hm; exact absurd hm (Bool.false_ne_true ∘ Eq.symm)
  · rfl

/-- An MMA of two scratchpad operands stages both at once. -/
theorem startEntry_mma {c tile : Nat} {e : StreamEntry} {sh : Word512} {z : Bool} {dA dB : Word64} {rA rB : ObRec} {lanes : Word}
    (hcmd : e.command = .mma tile sh z dA dB rA rB lanes) (hA : (descOf dA).q = false) (hB : (descOf dB).q = false) (hsA : e.stagedA = [])
    (hsB : e.stagedB = [])
    (hfree : ((s.op? e.release).isSome || (s.entryReads g e).any (fun r => !(s.owners r.1 r.2.1 r.2.2.1).isEmpty) || s.entryShut c g e ||
      !(s.core c).canRun e.command) = false) :
    s.startEntry c g e = s.onCore c (fun k => k.putEntry { e with
      stagedA := s.stageScratch g (descOf dA) rA (mmaRows g sh lanes) (stagedUnits sh)
      stagedB := s.stageScratch g (descOf dB) rB (mmaCols sh) (stagedUnits sh)
      started := decide ((descOf dA).total rA (mmaRows g sh lanes) (stagedUnits sh) ≤
          (s.stageScratch g (descOf dA) rA (mmaRows g sh lanes) (stagedUnits sh)).length) &&
        decide ((descOf dB).total rB (mmaCols sh) (stagedUnits sh) ≤ (s.stageScratch g (descOf dB) rB (mmaCols sh) (stagedUnits sh)).length) }) := by
  have hstage (d : Desc) (hd : d.q = false) (o : ObRec) (rows : List Nat) (units q : Nat) :
      s.stageOne g d o rows units q [] = (s, s.stageScratch g d o rows units) := by
    unfold State.stageOne
    simp only [hd, Bool.false_eq_true, if_false, List.isEmpty_nil, if_true]
  unfold State.startEntry
  refine (if_neg (ne_true_of_eq_false hfree)).trans ?_
  simp only [hcmd, hsA, hsB, hstage _ hA, hstage _ hB]

/-- An entry put back into its stream leaves the core's other parts. -/
theorem putEntry_becomes (s : State) (c : Nat) (e : StreamEntry) :
    ((s.onCore c (fun k => k.putEntry e)).core c).stream = replaceFirst (fun n => n.number == e.number) e (s.core c).stream ∧
      (s.onCore c (fun k => k.putEntry e)).groups = s.groups ∧ (s.onCore c (fun k => k.putEntry e)).mem = s.mem ∧
      ((s.onCore c (fun k => k.putEntry e)).core c).acc = (s.core c).acc := by
  rw [State.core_onCore, if_pos rfl]
  exact ⟨rfl, rfl, rfl, rfl⟩

/-! ### MATRIX_SELF_TEST (10 R281, R282) -/

theorem mem_distinct (n : Nat) (l : List Nat) : n ∈ distinct l ↔ n ∈ l := by
  refine (mem_insertAll n l []).trans ?_
  simp

/-- Reporting fenced sub-arrays records each, and leaves cores, groups and memory. -/
def State.reportFence (s : State) (c a : Nat) : State :=
  (s.onPkg (fun p => { p with fencing := p.fencing ++ [(dieOfCore c, c, a)] })).event 0 0x35 0 (dieOfCore c) c a

theorem reportFences_spec (c : Nat) (as : List Nat) (s : State) :
    (as.foldl (fun t a => t.reportFence c a) s).cores = s.cores ∧ (as.foldl (fun t a => t.reportFence c a) s).groups = s.groups ∧
      (as.foldl (fun t a => t.reportFence c a) s).mem = s.mem ∧
      (as.foldl (fun t a => t.reportFence c a) s).pkg.fencing = s.pkg.fencing ++ as.map (fun a => (dieOfCore c, c, a)) := by
  induction as generalizing s with
  | nil => exact ⟨rfl, rfl, rfl, (List.append_nil _).symm⟩
  | cons a as ih =>
    obtain ⟨hcores, hgroups, hmem, hpkg⟩ := ih (s.reportFence c a)
    have hone : (s.reportFence c a).pkg.fencing = s.pkg.fencing ++ [(dieOfCore c, c, a)] := by
      unfold State.reportFence
      rw [State.event_pkg]
      rfl
    refine ⟨hcores.trans ?_, hgroups.trans ?_, hmem.trans ?_, hpkg.trans ?_⟩
    · unfold State.reportFence
      rw [State.event_cores]
      rfl
    · unfold State.reportFence
      rw [State.event_groups]
      rfl
    · unfold State.reportFence
      rw [State.event_mem]
      rfl
    · rw [hone, List.append_assoc]
      rfl

/-- What fencing leaves of its core and records of it. -/
theorem fence_spec (s : State) (c : Nat) (failing : List Nat) :
    (∀ a, a ∈ ((s.fence c failing).core c).fenced ↔ a ∈ (s.core c).fenced ∨ (a ∈ failing ∧ a < 16)) ∧
      (∀ n, n ∈ ((s.fence c failing).core c).accErr ↔ n ∈ (s.core c).accErr ∨
        ∃ e ∈ (s.core c).accTest, e / 16 = n ∧ e % 16 ∈ failing ∧ e % 16 ∉ (s.core c).fenced) ∧
      (∀ a ∈ failing, a < 16 → a ∉ (s.core c).fenced → (dieOfCore c, c, a) ∈ (s.fence c failing).pkg.fencing) ∧
      ((s.fence c failing).core c).mxtest = (s.core c).mxtest ∧ ((s.fence c failing).core c).acc = (s.core c).acc ∧
      (s.fence c failing).groups = s.groups ∧ (s.fence c failing).mem = s.mem := by
  obtain ⟨fresh, hfresh⟩ : ∃ l, l = (distinct failing).filter (fun a => decide (a < 16) && !(s.core c).fenced.contains a) := ⟨_, rfl⟩
  have hin (a : Nat) : a ∈ fresh ↔ a ∈ failing ∧ a < 16 ∧ a ∉ (s.core c).fenced := by
    rw [hfresh, List.mem_filter, mem_distinct]
    simp
  have hfence : s.fence c failing = fresh.foldl (fun t a => t.reportFence c a) (s.onCore c (fun k => { k with
      fenced := fresh.foldl (fun l a => insertSorted a l) k.fenced
      accErr := distinct (k.accErr ++ (k.accTest.filter (fun e => fresh.contains (e % 16))).map (· / 16)) })) := by
    rw [hfresh]
    rfl
  obtain ⟨hcores, hgroups, hmem, hpkg⟩ := reportFences_spec c fresh (s.onCore c (fun k => { k with
      fenced := fresh.foldl (fun l a => insertSorted a l) k.fenced
      accErr := distinct (k.accErr ++ (k.accTest.filter (fun e => fresh.contains (e % 16))).map (· / 16)) }))
  rw [hfence, State.core_congr hcores, State.core_onCore, if_pos rfl, hgroups, hmem, hpkg]
  refine ⟨fun a => ?_, fun n => ?_, fun a ha hlt hnew => ?_, rfl, rfl, rfl, rfl⟩
  · rw [mem_insertAll, hin]
    by_cases h : a ∈ (s.core c).fenced <;> simp [h]
  · rw [mem_distinct, List.mem_append, List.mem_map]
    refine or_congr Iff.rfl (exists_congr fun e => ?_)
    rw [List.mem_filter, List.contains_iff_mem, hin]
    have hlt : e % 16 < 16 := Nat.mod_lt _ (by decide)
    constructor
    · rintro ⟨⟨he, hf, -, hn⟩, hq⟩
      exact ⟨he, hq, hf, hn⟩
    · rintro ⟨he, hq, hf, hn⟩
      exact ⟨⟨he, hf, hlt, hn⟩, hq⟩
  · exact List.mem_append_right _ (List.mem_map.mpr ⟨a, (hin a).mpr ⟨ha, hlt, hnew⟩, rfl⟩)

end Sys2Proof.Machine
end

section
/-!
SUPPORT. The ends of the matrix engine's commands (10 R275, R277 to R279, R291; O59).
-/
namespace Sys2Proof.Machine

variable {s t : State} {g h : Group} {k : Core} {wide : Bool} {tile c : Nat} {e : StreamEntry} {o : OutOp} {rows cols : List (Nat × Nat)}

/-! ### Rows and ends -/

/-- Whether the lane that owns a row lives. -/
theorem mem_liveRows (g : Group) (rows : List Nat) (r : Nat) : r ∈ liveRows g rows [] ↔ r ∈ rows ∧ (!g.ctl.dead.getLsbD (rowLane g r)) = true := by
  unfold liveRows
  rw [List.mem_filter]
  simp

theorem liveRows_one (g : Group) (r : Nat) : (liveRows g [r] []).contains r = !g.ctl.dead.getLsbD (rowLane g r) := by
  rw [Bool.eq_iff_iff, List.contains_iff_mem, mem_liveRows]
  simp

theorem mem_rowsOf_lt {lanes : Word} {n r : Nat} (h : r ∈ rowsOf g lanes n) : r < n := List.mem_range.mp (List.mem_filter.mp h).1

/-- A command ends without results: its entry leaves the stream and its operation ends. -/
theorem endCommand_eq (ho : s.op? e.op = some o) (hg : s.group? o.gid = some g) (hp : g.ctl.paired = false) :
    s.endCommand c e [] = (s.onCore c (fun k => k.dropEntry e.number)).dropOp o.id := by
  unfold State.endCommand
  rw [List.map_nil, killLanes_nil]
  rw [show (s.onCore c (fun k => k.dropEntry e.number)).op? e.op = some o from ho]
  exact endOp_nil (s := s.onCore c (fun k => k.dropEntry e.number)) hg hp

/-- What the end of a command leaves of a core and its operations. -/
theorem endCommand_spec (ho : s.op? e.op = some o) (hg : s.group? o.gid = some g) (hp : g.ctl.paired = false) :
    (s.endCommand c e []).core c = (s.core c).dropEntry e.number ∧ (s.endCommand c e []).mem = s.mem ∧
      (s.endCommand c e []).ops = s.ops.filter (fun p => p.id != o.id) ∧ (s.endCommand c e []).groups = s.groups := by
  rw [endCommand_eq ho hg hp]
  refine ⟨?_, rfl, rfl, rfl⟩
  exact (State.core_onCore (s := s) c (fun k => k.dropEntry e.number) c).trans (if_pos rfl)

/-! ### MMA (10 R278, R291) -/

/-- The elements an MMA writes, from the tile as its step finds it. -/
def Core.productWrites (k : Core) (tile : Nat) (sh : Word512) (z : Bool) (dA dB : Desc) (rA rB : ObRec) (A B : List Byte)
    (rows cols : List (Nat × Nat)) : List ElementWrite :=
  rows.flatMap (fun ri => cols.map (fun cj => {
    row := ri.1
    col := cj.1
    value := (mmaElement sh z dA dB rA rB A B (k.element (wideTile (shapeGet sh 2)) tile ri.1 cj.1) ri.2 cj.2).1
    by_ := k.arrayOf (shapeGet sh 12) ri.1 cj.1
    sat := (mmaElement sh z dA dB rA rB A B (k.element (wideTile (shapeGet sh 2)) tile ri.1 cj.1) ri.2 cj.2).2 }))

theorem putElements_append (k : Core) (ws vs : List ElementWrite) :
    k.putElements wide tile (ws ++ vs) = (k.putElements wide tile ws).putElements wide tile vs := List.foldl_append

theorem putElements_perturb (k : Core) (ws : List ElementWrite) : (k.putElements wide tile ws).perturb = k.perturb := by
  rw [putElements_rest]

/-- Steps that each write some elements, with no perturbation armed, write them one after the other. -/
theorem foldl_writes {β : Type} {f : Core × Bool → β → Core × Bool} {G : β → List ElementWrite}
    (hf : ∀ a x, a.1.perturb = none → f a x = (a.1.putElements wide tile (G x), a.2 || (G x).any (fun w => w.sat))) (xs : List β)
    (a : Core × Bool) (ha : a.1.perturb = none) :
    xs.foldl f a = (a.1.putElements wide tile (xs.flatMap G), a.2 || (xs.flatMap G).any (fun w => w.sat)) := by
  induction xs generalizing a with
  | nil => exact Prod.ext rfl (Bool.or_false _).symm
  | cons x xs ih =>
    rw [List.foldl_cons, hf a x ha]
    refine (ih _ ((putElements_perturb a.1 (G x)).trans ha)).trans ?_
    rw [List.flatMap_cons, putElements_append, List.any_append, Bool.or_assoc]

/-- An MMA without a perturbation writes its sums. -/
theorem multiply_eq (hk : k.perturb = none) (g : Group) (tile : Nat) (sh : Word512) (z : Bool) (dA dB : Desc) (rA rB : ObRec) (A B : List Byte)
    (rows cols : List (Nat × Nat)) : k.multiply g tile sh z dA dB rA rB A B rows cols =
      (k.putElements (wideTile (shapeGet sh 2)) tile (k.productWrites tile sh z dA dB rA rB A B rows cols),
        (k.productWrites tile sh z dA dB rA rB A B rows cols).any (fun w => w.sat)) := by
  unfold Core.multiply
  refine (foldl_writes (fun a ri ha => ?row) rows (k, false) hk).trans (Prod.ext rfl (Bool.false_or _))
  case row =>
    rw [List.map_eq_flatMap]
    refine foldl_writes (fun a cj ha => ?_) cols a ha
    simp only [ha, Bool.false_eq_true, if_false, Bool.or_false]
    exact Prod.ext rfl (congrArg (a.2 || ·) (Bool.or_false _).symm)

/-- Each write of an MMA is the sum of a row and a column as staged. -/
theorem mem_productWrites {tile : Nat} {sh : Word512} {z : Bool} {dA dB : Desc} {rA rB : ObRec} {A B : List Byte} {w : ElementWrite} :
    w ∈ k.productWrites tile sh z dA dB rA rB A B rows cols ↔ ∃ ri ∈ rows, ∃ cj ∈ cols, w.row = ri.1 ∧ w.col = cj.1 ∧
      w.by_ = k.arrayOf (shapeGet sh 12) ri.1 cj.1 ∧
      (w.value, w.sat) = mmaElement sh z dA dB rA rB A B (k.element (wideTile (shapeGet sh 2)) tile ri.1 cj.1) ri.2 cj.2 := by
  unfold Core.productWrites
  rw [List.mem_flatMap]
  refine exists_congr fun ri => and_congr Iff.rfl ?_
  rw [List.mem_map]
  refine exists_congr fun cj => and_congr Iff.rfl ⟨?_, ?_⟩
  · rintro rfl
    exact ⟨rfl, rfl, rfl, rfl⟩
  · rintro ⟨hr, hc, hb, hv⟩
    obtain ⟨row, col, value, by_, sat⟩ := w
    simp only at hr hc hb hv
    rw [hr, hc, hb, ← hv]

/-- The rows and columns an MMA keeps lie in its tile, and each once. -/
theorem productWrites_oneValue {rs cs : List Nat} {live : Nat → Bool} (hrows : ∀ r ∈ rs, r < 64) (hcols : ∀ c ∈ cs, c < 64) (hr : rs.Nodup)
    (hc : cs.Nodup) (tile : Nat) (sh : Word512) (z : Bool) (dA dB : Desc) (rA rB : ObRec) (A B : List Byte) :
    OneValue (k.productWrites tile sh z dA dB rA rB A B (rs.zipIdx.filter (fun r => live r.1)) cs.zipIdx) := by
  have hplace {l : List Nat} (hl : l.Nodup) {x y : Nat × Nat} (hx : x ∈ l.zipIdx) (hy : y ∈ l.zipIdx) (h : x.1 = y.1) : x = y := by
    obtain ⟨i, a⟩ := x
    obtain ⟨j, b⟩ := y
    obtain rfl : i = j := h
    rw [List.mem_zipIdx_iff_getElem?] at hx hy
    obtain ⟨ha, hai⟩ := List.getElem?_eq_some_iff.mp hx
    obtain ⟨hb, hbi⟩ := List.getElem?_eq_some_iff.mp hy
    exact Prod.ext rfl ((List.getElem_inj hl (h₀ := ha) (h₁ := hb)).mp (hai.trans hbi.symm))
  refine ⟨fun w hw => ?_, fun w hw v hv hrow hcol => ?_⟩
  · obtain ⟨ri, hri, cj, hcj, hwr, hwc, -, -⟩ := mem_productWrites.mp hw
    rw [hwr, hwc]
    exact ⟨hrows _ (List.mem_of_getElem? (List.mem_zipIdx_iff_getElem?.mp (List.mem_filter.mp hri).1)),
      hcols _ (List.mem_of_getElem? (List.mem_zipIdx_iff_getElem?.mp hcj))⟩
  · obtain ⟨ri, hri, cj, hcj, hwr, hwc, -, hwv⟩ := mem_productWrites.mp hw
    obtain ⟨ri', hri', cj', hcj', hvr, hvc, -, hvv⟩ := mem_productWrites.mp hv
    obtain rfl := hplace hr (List.mem_filter.mp hri).1 (List.mem_filter.mp hri').1 (hwr.symm.trans (hrow.trans hvr))
    obtain rfl := hplace hc hcj hcj' (hwc.symm.trans (hcol.trans hvc))
    exact congrArg Prod.fst (hwv.trans hvv.symm)

theorem mem_mmaRows {sh : Word512} {lanes : Word} {r : Nat} (h : r ∈ mmaRows g sh lanes) : r < validRows sh := by
  unfold mmaRows at h
  split at h
  · exact absurd h List.not_mem_nil
  · exact mem_rowsOf_lt h

theorem mem_mmaCols {sh : Word512} {j : Nat} (h : j ∈ mmaCols sh) : j < validCols sh := by
  unfold mmaCols at h
  split at h
  · exact absurd h List.not_mem_nil
  · exact List.mem_range.mp h

theorem mmaRows_nodup (g : Group) (sh : Word512) (lanes : Word) : (mmaRows g sh lanes).Nodup := by
  unfold mmaRows
  split
  · exact List.nodup_nil
  · exact List.nodup_range.filter _

theorem mmaCols_nodup (sh : Word512) : (mmaCols sh).Nodup := by
  unfold mmaCols
  split
  · exact List.nodup_nil
  · exact List.nodup_range

/-- The writes of an MMA whose entry is e. -/
def Core.entryWrites (k : Core) (g : Group) (e : StreamEntry) (tile : Nat) (sh : Word512) (z : Bool) (dA dB : Desc) (rA rB : ObRec)
    (lanes : Word) : List ElementWrite :=
  k.productWrites tile sh z dA dB rA rB e.stagedA e.stagedB
    ((mmaRows g sh lanes).zipIdx.filter (fun r => (liveRows g (mmaRows g sh lanes) []).contains r.1)) (mmaCols sh).zipIdx

section
variable {sh : Word512} {z : Bool} {dA dB : Desc} {rA rB : ObRec} {lanes : Word}

/-- An element of an MMA: a live row, a column, and their sum. -/
theorem mem_entryWrites {w : ElementWrite} : w ∈ k.entryWrites g e tile sh z dA dB rA rB lanes ↔ ∃ r i c j, (mmaRows g sh lanes)[i]? = some r ∧
    (mmaCols sh)[j]? = some c ∧ (!g.ctl.dead.getLsbD (rowLane g r)) = true ∧ w.row = r ∧ w.col = c ∧ w.by_ = k.arrayOf (shapeGet sh 12) r c ∧
    (w.value, w.sat) = mmaElement sh z dA dB rA rB e.stagedA e.stagedB (k.element (wideTile (shapeGet sh 2)) tile r c) i j := by
  unfold Core.entryWrites
  rw [mem_productWrites]
  constructor
  · rintro ⟨⟨r, i⟩, hri, ⟨c, j⟩, hcj, hrow, hcol, hby, hv⟩
    obtain ⟨hri, hlive⟩ := List.mem_filter.mp hri
    rw [List.contains_iff_mem, mem_liveRows] at hlive
    exact ⟨r, i, c, j, List.mem_zipIdx_iff_getElem?.mp hri, List.mem_zipIdx_iff_getElem?.mp hcj, hlive.2, hrow, hcol, hby, hv⟩
  · rintro ⟨r, i, c, j, hri, hcj, hlive, hrow, hcol, hby, hv⟩
    refine ⟨(r, i), List.mem_filter.mpr ⟨List.mem_zipIdx_iff_getElem?.mpr hri, ?_⟩, (c, j), List.mem_zipIdx_iff_getElem?.mpr hcj, hrow, hcol, hby, hv⟩
    rw [List.contains_iff_mem, mem_liveRows]
    exact ⟨List.mem_of_getElem? hri, hlive⟩

theorem entryWrites_oneValue (hrows : validRows sh ≤ 64) (hcols : validCols sh ≤ 64) :
    OneValue (k.entryWrites g e tile sh z dA dB rA rB lanes) :=
  productWrites_oneValue (live := fun r => (liveRows g (mmaRows g sh lanes) []).contains r)
    (fun _ hr => Nat.lt_of_lt_of_le (mem_mmaRows hr) hrows) (fun _ hc => Nat.lt_of_lt_of_le (mem_mmaCols hc) hcols)
    (mmaRows_nodup g sh lanes) (mmaCols_nodup sh) tile sh z dA dB rA rB _ _

/-- An MMA whose tile holds no bad element it reads writes its sums, notes a saturation, and ends. -/
theorem endMma_spec (hk : (s.core c).perturb = none)
    (hgood : z = true ∨ ∀ r ∈ mmaRows g sh lanes, ∀ j ∈ mmaCols sh, (s.core c).elementBad (wideTile (shapeGet sh 2)) tile r j = false)
    (hg : s.group? e.gid = some g) (ho : s.op? e.op = some o) (hl : Lands o g []) :
    let ws := (s.core c).entryWrites g e tile sh z dA dB rA rB lanes
    let t := s.endMma c g e tile sh z dA dB rA rB lanes
    t.core c = ((s.core c).putElements (wideTile (shapeGet sh 2)) tile ws).dropEntry e.number ∧ t.mem = s.mem ∧
      t.ops = s.ops.filter (fun p => p.id != o.id) ∧
      ∃ h, t.group? e.gid = some h ∧ h = { g with ctl := { g.ctl with satf := g.ctl.satf || ws.any (fun w => w.sat) } } := by
  intro ws t
  have hgid : g.gid = e.gid := State.group?_gid hg
  have hogid : o.gid = e.gid := hl.owner.trans hgid
  have hdead : (if z then [] else lanesWhere g (mmaRows g sh lanes) (mmaCols sh) (fun r j =>
      (s.core c).elementBad (wideTile (shapeGet sh 2)) tile r j)) = [] := by
    rcases hgood with hz | hgood
    · rw [if_pos hz]
    · split
      · rfl
      · unfold lanesWhere
        rw [List.filter_eq_nil_iff.mpr]
        · rfl
        · intro r hr
          rw [List.any_eq_true]
          rintro ⟨j, hj, hbad⟩
          exact ne_true_of_eq_false (hgood r hr j hj) hbad
  have ht : t = (if ws.any (fun w => w.sat) then (s.putCore c ((s.core c).putElements (wideTile (shapeGet sh 2)) tile ws)).onGroup e.gid (fun g =>
      g.onCtl (fun c => { c with satf := true })) else s.putCore c ((s.core c).putElements (wideTile (shapeGet sh 2)) tile ws)).endCommand c e [] := by
    show s.endMma c g e tile sh z dA dB rA rB lanes = _
    unfold State.endMma
    simp only [hdead, multiply_eq hk, ← hgid]
    rfl
  obtain ⟨v, h, hv, hcore, hmem, hops, hh, hform⟩ : ∃ (v : State) (h : Group), t = v.endCommand c e [] ∧
      v.core c = (s.core c).putElements (wideTile (shapeGet sh 2)) tile ws ∧ v.mem = s.mem ∧ v.ops = s.ops ∧ v.group? e.gid = some h ∧
      h = { g with ctl := { g.ctl with satf := g.ctl.satf || ws.any (fun w => w.sat) } } := by
    have hput := (State.core_putCore (s := s) c ((s.core c).putElements (wideTile (shapeGet sh 2)) tile ws) c).trans (if_pos rfl)
    rw [ht]
    cases ws.any (fun w => w.sat) with
    | true =>
      refine ⟨_, _, rfl, (State.core_onGroup ..).trans hput, State.onGroup_mem .., State.onGroup_ops ..,
        onGroup_found (s := s.putCore c _) (f := fun g => g.onCtl (fun c => { c with satf := true })) hg (fun _ => rfl), ?_⟩
      rw [Bool.or_true]
      rfl
    | false =>
      refine ⟨_, g, rfl, hput, rfl, rfl, hg, ?_⟩
      rw [Bool.or_false]
  have hov : v.op? e.op = some o := by
    unfold State.op?
    rw [hops]
    exact ho
  obtain ⟨hcore', hmem', hops', hgroups'⟩ := endCommand_spec (c := c) hov (hogid ▸ hh) (hform ▸ hl.alone)
  rw [hv]
  exact ⟨hcore'.trans (congrArg (Core.dropEntry · e.number) hcore), hmem'.trans hmem, hops'.trans (by rw [hops]), h,
    (State.group?_congr hgroups' _).trans hh, hform⟩

end

/-! ### ACCLD and ACCZ (10 R277) -/

/-- The elements an ACCLD or ACCST moves lie in the shape's rows and columns, and the place gives the index. -/
theorem mem_movedElements {sh : Word512} {origin stride : Nat} {lanes : Word} {m : Nat × Nat × Nat} (h : m ∈ movedElements g sh origin stride lanes) :
    m.1 < validRows sh ∧ m.2.1 < validCols sh ∧ m.2.2 = origin + m.1 * stride + m.2.1 := by
  unfold movedElements at h
  obtain ⟨r, hr, hm⟩ := List.mem_flatMap.mp h
  obtain ⟨j, hj, rfl⟩ := List.mem_map.mp hm
  exact ⟨mem_rowsOf_lt hr, List.mem_range.mp hj, rfl⟩

/-- The writes of a command that gives each element of a live row a value. -/
def liveWrites (g : Group) (value : Nat × Nat × Nat → Nat) (moved : List (Nat × Nat × Nat)) : List ElementWrite :=
  (moved.filter (fun m => !g.ctl.dead.getLsbD (rowLane g m.1))).map (fun m => { row := m.1, col := m.2.1, value := value m })

theorem mem_liveWrites {value : Nat × Nat × Nat → Nat} {moved : List (Nat × Nat × Nat)} {w : ElementWrite} : w ∈ liveWrites g value moved ↔
    ∃ m ∈ moved, (!g.ctl.dead.getLsbD (rowLane g m.1)) = true ∧ w = { row := m.1, col := m.2.1, value := value m } := by
  unfold liveWrites
  rw [List.mem_map]
  refine exists_congr fun m => ?_
  rw [List.mem_filter, and_assoc]
  exact and_congr Iff.rfl (and_congr Iff.rfl eq_comm)

/-- The elements of live rows stand as their values, and every word of no such element stays. -/
theorem liveWrites_spec {value : Nat × Nat × Nat → Nat} {moved : List (Nat × Nat × Nat)} (hin : ∀ m ∈ moved, m.1 < 64 ∧ m.2.1 < 64)
    (hone : ∀ m ∈ moved, ∀ n ∈ moved, m.1 = n.1 → m.2.1 = n.2.1 → value m = value n) (k : Core) (wide : Bool) (tile : Nat) :
    (∀ m ∈ moved, (!g.ctl.dead.getLsbD (rowLane g m.1)) = true →
      (k.putElements wide tile (liveWrites g value moved)).element wide tile m.1 m.2.1 = value m % 2 ^ (if wide then 64 else 32)) ∧
    ∀ key, (∀ m ∈ moved, (!g.ctl.dead.getLsbD (rowLane g m.1)) = true → key ∉ accKeys wide tile m.1 m.2.1) →
      Sparse.get 0#32 (k.putElements wide tile (liveWrites g value moved)).acc key = Sparse.get 0#32 k.acc key := by
  refine ⟨fun m hm hlive => ?_, fun key hkey => putElements_word _ fun w hw => ?_⟩
  · refine putElements_element (ws := liveWrites g value moved) ⟨fun w hw => ?_, fun w hw v hv hrow hcol => ?_⟩
      { row := m.1, col := m.2.1, value := value m } (mem_liveWrites.mpr ⟨m, hm, hlive, rfl⟩)
    · obtain ⟨n, hn, -, rfl⟩ := mem_liveWrites.mp hw
      exact hin n hn
    · obtain ⟨n, hn, -, rfl⟩ := mem_liveWrites.mp hw
      obtain ⟨l, hl, -, rfl⟩ := mem_liveWrites.mp hv
      exact hone n hn l hl hrow hcol
  · obtain ⟨n, hn, hlive, rfl⟩ := mem_liveWrites.mp hw
    exact hkey n hn hlive

/-- A command that writes elements and ends. -/
theorem endWrites_spec (hg : s.group? e.gid = some g) (ho : s.op? e.op = some o) (hl : Lands o g []) (f : Core → Core)
    (hf : ∀ k, (f k).stream = k.stream) :
    let t := (s.onCore c f).endCommand c e []
    (t.core c).acc = (f (s.core c)).acc ∧ (t.core c).tileOwner = (f (s.core c)).tileOwner ∧
      ((t.core c).stream = (s.core c).stream.filter (fun n => n.number != e.number) ∧ t.mem = s.mem) ∧
      t.ops = s.ops.filter (fun p => p.id != o.id) ∧ t.groups = s.groups := by
  intro t
  have hogid : o.gid = e.gid := hl.owner.trans (State.group?_gid hg)
  obtain ⟨hcore, hmem, hops, hgroups⟩ := endCommand_spec (s := s.onCore c f) (c := c) ho (g := g) (hogid ▸ hg) hl.alone
  have hk : t.core c = (f (s.core c)).dropEntry e.number := by
    refine hcore.trans ?_
    rw [State.core_onCore, if_pos rfl]
  rw [hk]
  exact ⟨rfl, rfl, ⟨congrArg (List.filter _) (hf _), hmem⟩, hops, hgroups⟩

theorem putElements_stream (k : Core) (wide : Bool) (tile : Nat) (ws : List ElementWrite) : (k.putElements wide tile ws).stream = k.stream := by
  rw [putElements_rest]

theorem distinct_nil : distinct [] = [] := rfl

/-- An ACCLD whose elements are all good writes them in the live rows. -/
theorem endLoad_eq {sh : Word512} {image : Word256} {slot origin stride : Nat} {lanes : Word} (hr : (bufRec image).reserved = false)
    (hgood : ∀ m ∈ movedElements g sh origin stride lanes, (s.readElement g (bufRec image) (tileElem (shapeGet sh 2)) m.2.2).2 = false) :
    s.endLoad c g e tile sh slot image origin stride lanes = (s.onCore c (fun k => k.putElements (wideTile (shapeGet sh 2)) tile
      (liveWrites g (fun m => (s.readElement g (bufRec image) (tileElem (shapeGet sh 2)) m.2.2).1) (movedElements g sh origin stride lanes)))).endCommand
        c e [] := by
  have hdead : ((movedElements g sh origin stride lanes).map (fun m => (m.1, m.2.1, s.readElement g (bufRec image) (tileElem (shapeGet sh 2)) m.2.2))).filter
      (fun v => v.2.2.2) = [] := by
    rw [List.filter_eq_nil_iff]
    intro v hv
    obtain ⟨m, hm, rfl⟩ := List.mem_map.mp hv
    exact ne_true_of_eq_false (hgood m hm)
  unfold State.endLoad
  simp only [hdead, List.map_nil, distinct_nil, liveRows_one, hr, Bool.false_eq_true, if_false, List.filter_map, List.foldl_map]
  unfold Core.putElements liveWrites
  simp only [List.foldl_map]
  rfl

/-- The places of a tile's rows that an ACCZ without FREE clears. -/
def zeroPlaces (rows : List Nat) : List (Nat × Nat × Nat) := rows.flatMap (fun r => (List.range 64).map (fun c => (r, c, 0)))

theorem mem_zeroPlaces {rows : List Nat} {m : Nat × Nat × Nat} : m ∈ zeroPlaces rows ↔ m.1 ∈ rows ∧ m.2.1 < 64 ∧ m.2.2 = 0 := by
  unfold zeroPlaces
  rw [List.mem_flatMap]
  constructor
  · rintro ⟨r, hr, hm⟩
    obtain ⟨j, hj, rfl⟩ := List.mem_map.mp hm
    exact ⟨hr, List.mem_range.mp hj, rfl⟩
  · rintro ⟨hr, hc, hz⟩
    exact ⟨m.1, hr, List.mem_map.mpr ⟨m.2.1, List.mem_range.mpr hc, Prod.ext rfl (Prod.ext rfl hz.symm)⟩⟩

/-- An ACCZ without FREE writes zeros in its live rows. -/
theorem endZero_rows {lanes : Word} : s.endZero c g e tile lanes false = (s.onCore c (fun k => k.putElements false tile
    (liveWrites g (fun _ => 0) (zeroPlaces (rowsOf g lanes 64))))).endCommand c e [] := by
  have hplaces : (zeroPlaces (rowsOf g lanes 64)).filter (fun m => !g.ctl.dead.getLsbD (rowLane g m.1)) =
      zeroPlaces (liveRows g (rowsOf g lanes 64) []) := by
    unfold zeroPlaces liveRows
    generalize rowsOf g lanes 64 = rs
    induction rs with
    | nil => rfl
    | cons r rs ih =>
      rw [List.flatMap_cons, List.filter_append, ih, List.filter_cons]
      cases hd : g.ctl.dead.getLsbD (rowLane g r) with
      | true =>
        rw [List.filter_eq_nil_iff.mpr (fun m hm => by obtain ⟨j, -, rfl⟩ := List.mem_map.mp hm; simp [hd])]
        rfl
      | false =>
        rw [List.filter_eq_self.mpr (fun m hm => by obtain ⟨j, -, rfl⟩ := List.mem_map.mp hm; simp [hd])]
        rfl
  unfold State.endZero Core.putElements liveWrites
  rw [hplaces]
  unfold zeroPlaces
  simp only [List.foldl_map, List.foldl_flatMap]
  rfl

/-- A group's claim of a tile that is older than a command is freed by it. -/
theorem freeTile_holder {gid number : Nat} (h : (Sparse.get (0, 0) k.tileOwner tile).1 = gid + 1) (hn : (Sparse.get (0, 0) k.tileOwner tile).2 < number) :
    (k.freeTile gid number tile).holder tile = 0 := by
  unfold Core.freeTile Core.holder
  simp only
  rw [if_pos ⟨h, hn⟩, Sparse.get_set_self]

theorem freeTile_rest (k : Core) (gid number tile : Nat) : (k.freeTile gid number tile).acc = k.acc ∧ (k.freeTile gid number tile).stream = k.stream := by
  unfold Core.freeTile
  simp only
  split
  · exact ⟨rfl, rfl⟩
  · exact ⟨rfl, rfl⟩

/-! ### ACCST (10 R268, R277) -/

/-- Stores that a command hands to the memory unit: new entries behind those that wait, and nothing else but their numbers. -/
def Stored (s : State) (g : Group) (core slot : Nat) (e : StreamEntry) (r : State × List Nat) : Prop :=
  ∃ n new, r.1 = { s with nextId := n, commits := s.commits ++ new } ∧ r.2 = new.map (fun c => c.id) ∧
    ∀ c ∈ new, c.gid = g.gid ∧ c.core = core ∧ c.op = e.op ∧ c.slot = slot ∧ c.reserved = false

theorem Stored.nil (s : State) (g : Group) (core slot : Nat) (e : StreamEntry) : Stored s g core slot e (s, []) :=
  ⟨s.nextId, [], by rw [List.append_nil], rfl, fun _ h => absurd h List.not_mem_nil⟩

theorem Stored.append {core slot : Nat} {r v : State × List Nat} (h : Stored s g core slot e r) (h' : Stored r.1 g core slot e v) :
    Stored s g core slot e (v.1, r.2 ++ v.2) := by
  obtain ⟨n, new, hr, hids, hnew⟩ := h
  obtain ⟨n', new', hv, hids', hnew'⟩ := h'
  refine ⟨n', new ++ new', ?_, ?_, fun c hc => (List.mem_append.mp hc).elim (hnew c) (hnew' c)⟩
  · rw [hv, hr, List.append_assoc]
  · rw [hids, hids', List.map_append]

/-- Steps that each hand over stores hand them over together. -/
theorem Stored.foldl {core slot : Nat} {β : Type} {f : State × List Nat → β → State × List Nat}
    (hf : ∀ r x, Stored s g core slot e r → Stored s g core slot e (f r x)) (xs : List β) {r : State × List Nat} (hr : Stored s g core slot e r) :
    Stored s g core slot e (xs.foldl f r) := by
  induction xs generalizing r with
  | nil => exact hr
  | cons x xs ih => exact ih (hf r x hr)

theorem rowStores_stored (s : State) (core : Nat) (g : Group) (e : StreamEntry) (slot size : Nat) (vals : List (Space × Nat × Nat)) (lane : Nat) :
    Stored s g core slot e (s.rowStores core g e slot size vals lane) := by
  unfold State.rowStores
  refine Stored.foldl (fun r b hr => ?_) _ (Stored.nil ..)
  dsimp only
  split
  · exact hr
  · refine hr.append (v := (_, [_])) ⟨r.1.nextId + 1, [_], rfl, rfl, fun c hc => ?_⟩
    obtain rfl := List.mem_singleton.mp hc
    exact ⟨rfl, rfl, rfl, rfl, rfl⟩

end Sys2Proof.Machine
end

section
/-!
SUPPORT. The matrix engine's steps (10 R267 to R291; O59).
-/
namespace Sys2Proof.Machine

variable {s : State} {g : Group} {tile c : Nat} {e : StreamEntry} {o : OutOp}

/-- A command's operation notes the lines that stand out for it. -/
def State.noteLines (s : State) (e : StreamEntry) (ids : List Nat) : State :=
  match s.op? e.op with
  | none => s
  | some o => s.putOp { o with kind := .matrix e.command (some ids) }

theorem noteLines_eq (ho : s.op? e.op = some o) (ids : List Nat) :
    s.noteLines e ids = s.putOp { o with kind := .matrix e.command (some ids) } := by
  unfold State.noteLines
  rw [ho]

/-- The stores of an ACCST: row by row, those of the elements that lie in the record's bounds. -/
def State.storeRows (s : State) (core : Nat) (g : Group) (e : StreamEntry) (slot tile fmt : Nat) (r : BufRec) (k : Core)
    (moved : List (Nat × Nat × Nat)) (rows : List Nat) : State × List Nat :=
  rows.foldl (fun acc row =>
    let t := acc.1.rowStores core g e slot (tileElem fmt) ((moved.filter (fun m => m.1 == row)).filterMap (fun m =>
      if (s.elementPlace g r (tileElem fmt) m.2.2).2.2 then
        some ((s.elementPlace g r (tileElem fmt) m.2.2).1, (s.elementPlace g r (tileElem fmt) m.2.2).2.1, k.element (wideTile fmt) tile m.1 m.2.1)
      else none)) (rowLane g row)
    (t.1, acc.2 ++ t.2)) (s, [])

theorem storeRows_stored (s : State) (core : Nat) (g : Group) (e : StreamEntry) (slot tile fmt : Nat) (r : BufRec) (k : Core)
    (moved : List (Nat × Nat × Nat)) (rows : List Nat) : Stored s g core slot e (s.storeRows core g e slot tile fmt r k moved rows) :=
  Stored.foldl (fun _ _ hr => hr.append (rowStores_stored ..)) rows (Stored.nil s g core slot e)

/-- An ACCST of good elements hands its lines over, clears its tiles when it frees them, and stays outstanding. -/
theorem endStore_spec {sh : Word512} {image : Word256} {slot origin stride : Nat} {lanes : Word} {free : Bool}
    (hr : (bufRec image).reserved = false)
    (hgood : ∀ m ∈ movedElements g sh origin stride lanes, (s.core c).elementBad (wideTile (shapeGet sh 2)) tile m.1 m.2.1 = false)
    (ho : s.op? e.op = some o) : let t := s.endStore c g e tile sh slot image origin stride lanes free
    ∃ new, ((t.core c).stream = (s.core c).stream.filter (fun n => n.number != e.number) ∧ t.mem = s.mem) ∧ t.groups = s.groups ∧
      t.commits = s.commits ++ new ∧ (∀ d ∈ new, d.gid = g.gid ∧ d.core = c ∧ d.op = e.op ∧ d.slot = slot ∧ d.reserved = false) ∧
      t.op? e.op = some { o with kind := .matrix e.command (some (new.map (fun c => c.id))) } ∧
      ∀ key, Sparse.get 0#32 (t.core c).acc key = if free = true ∧ key / 4096 ∈ tilesOf tile (shapeGet sh 2) then 0#32
        else Sparse.get 0#32 (s.core c).acc key := by
  intro t
  have hdead : (movedElements g sh origin stride lanes).filter (fun m => (s.core c).elementBad (wideTile (shapeGet sh 2)) tile m.1 m.2.1) = [] := by
    rw [List.filter_eq_nil_iff]
    exact fun m hm => ne_true_of_eq_false (hgood m hm)
  obtain ⟨out, ht, n, new, hout, hids, hnew⟩ : ∃ out : State × List Nat,
      t = ((if free then out.1.onCore c (fun k => (tilesOf tile (shapeGet sh 2)).foldl Core.clearTile k) else out.1).onCore c
        (fun k => k.dropEntry e.number)).noteLines e out.2 ∧ Stored s g c slot e out := by
    refine ⟨s.storeRows c g e slot tile (shapeGet sh 2) (bufRec image) (s.core c) (movedElements g sh origin stride lanes)
      (liveRows g ((movedElements g sh origin stride lanes).map (fun m => m.1)).eraseDups []), ?_, storeRows_stored ..⟩
    show s.endStore c g e tile sh slot image origin stride lanes free = _
    unfold State.endStore
    simp only [hdead, List.map_nil, distinct_nil, killLanes_nil, hr, Bool.false_eq_true, if_false]
    rfl
  obtain ⟨u, hu, hcore, hmem, hgroups, hcommits, hops⟩ : ∃ u : State, u = (if free then
        out.1.onCore c (fun k => (tilesOf tile (shapeGet sh 2)).foldl Core.clearTile k) else out.1).onCore c (fun k => k.dropEntry e.number) ∧
      ((u.core c).stream = (s.core c).stream.filter (fun n => n.number != e.number) ∧
        ∀ key, Sparse.get 0#32 (u.core c).acc key = if free = true ∧ key / 4096 ∈ tilesOf tile (shapeGet sh 2) then 0#32
          else Sparse.get 0#32 (s.core c).acc key) ∧ u.mem = s.mem ∧ u.groups = s.groups ∧ u.commits = s.commits ++ new ∧ u.ops = s.ops := by
    refine ⟨_, rfl, ?_⟩
    rw [hout, State.core_onCore, if_pos rfl]
    cases free with
    | true =>
      rw [if_pos rfl, State.core_onCore, if_pos rfl]
      obtain ⟨hstream, -⟩ := clearTiles_word (tilesOf tile (shapeGet sh 2)) (s.core c) 0
      refine ⟨⟨congrArg (List.filter _) hstream, fun key => (clearTiles_word _ (s.core c) key).2.trans ?_⟩, rfl, rfl, rfl, rfl⟩
      simp only [true_and]
    | false =>
      refine ⟨⟨rfl, fun key => ?_⟩, rfl, rfl, rfl, rfl⟩
      exact (if_neg (fun h : _ ∧ _ => Bool.false_ne_true h.1)).symm
  have hou : u.op? e.op = some o := by
    unfold State.op?
    rw [hops]
    exact ho
  have ht' : t = u.putOp { o with kind := .matrix e.command (some (new.map (fun c => c.id))) } := by
    rw [ht, ← hu, ← hids]
    exact noteLines_eq hou _
  rw [ht']
  exact ⟨new, ⟨hcore.1, hmem⟩, hgroups, hcommits, hnew, op?_putOp hou (show o.id = e.op from op?_id ho), hcore.2⟩

theorem matrixEnd_idle {rest : List StreamEntry} (hs : (s.core c).stream.filter (fun e => e.marker.isNone) = e :: rest)
    (hg : s.group? e.gid = some g) (hno : e.started = false) : s.matrixEnd c = s := by
  unfold State.matrixEnd
  simp only [hs, hg, hno, Bool.not_false, if_true]

/-- MATRIX_COMMAND_END of a command that has started, by the command. -/
theorem matrixEnd_eq {rest : List StreamEntry} (hs : (s.core c).stream.filter (fun e => e.marker.isNone) = e :: rest)
    (hg : s.group? e.gid = some g) (hon : e.started = true) : s.matrixEnd c = match e.command with
      | .mma tile sh z dA dB rA rB lanes => s.endMma c g e tile sh z (descOf dA) (descOf dB) rA rB lanes
      | .load tile sh slot image origin stride lanes => s.endLoad c g e tile sh slot image origin stride lanes
      | .store tile sh slot image origin stride lanes free => s.endStore c g e tile sh slot image origin stride lanes free
      | .zero tile lanes free => s.endZero c g e tile lanes free := by
  unfold State.matrixEnd
  simp only [hs, hg, hon, Bool.not_true, Bool.false_eq_true, if_false] <;> rfl

/-- Settles O59: an element written stays behind every other of its command, for places of a tile share no word; a start puts its entry back; and
the stores of an ACCST stand behind those that wait. -/
theorem matrixEngine : Obligations.MatrixEngine := by
  unfold Obligations.MatrixEngine
  refine ⟨?start, ?finish, ?marker, ?test⟩
  case start =>
    intro s x k
    have hexec : exec .matrixCommandStart s = .next (s.tick.matrixStart x) := rfl
    rw [hexec]
    refine ⟨fun hnone => congrArg Host.Outcome.next (matrixStart_idle hnone), fun e g he hg => ?_⟩
    have hstart : s.tick.matrixStart x = s.tick.startEntry x g e := matrixStart_eq he hg
    rw [hstart]
    intro held becomes
    refine ⟨fun hheld => congrArg Host.Outcome.next (if_pos hheld), fun hfree hplain => ?_, ?mma⟩
    · exact ⟨_, congrArg Host.Outcome.next (startEntry_plain hplain hfree), putEntry_becomes s.tick x _⟩
    case mma =>
      intro tile sh z dA dB rA rB lanes hfree hcmd hA hB hsA hsB a b all
      exact ⟨_, congrArg Host.Outcome.next (startEntry_mma hcmd hA hB hsA hsB hfree), putEntry_becomes s.tick x _⟩
  case finish =>
    intro s e rest g o x k hstream hg ho hl word live gone ended
    have hexec : exec .matrixCommandEnd s = .next (s.tick.matrixEnd x) := rfl
    rw [hexec]
    refine ⟨fun hno => congrArg Host.Outcome.next (matrixEnd_idle (s := s.tick) hstream hg hno), ?mma, ?load, ?zero, ?free, ?store⟩
    case mma =>
      intro tile sh z dA dB rA rB lanes hon hcmd hrows hcols hk wide rows cols hgood sum
      obtain ⟨hcore, hmem, hops, h, hh, hform⟩ := endMma_spec (s := s.tick) (dA := descOf dA) (dB := descOf dB) (rA := rA) (rB := rB) hk hgood hg
        ho hl
      refine ⟨s.tick.endMma x g e tile sh z (descOf dA) (descOf dB) rA rB lanes, h, ?_, ⟨⟨?_, hmem⟩, hops⟩, hh, ?_, ?_,
        fun r i c j hr hc hlive => ?_, fun key hkey => ?_⟩
      · rw [matrixEnd_eq (s := s.tick) hstream hg hon, hcmd]
      · rw [hcore]
        exact congrArg (List.filter _) (putElements_stream ..)
      · rw [hform]
      · rw [hform]
        simp only [Bool.or_eq_true, List.any_eq_true]
        refine or_congr Iff.rfl ⟨?_, ?_⟩
        · rintro ⟨w, hw, hsat⟩
          obtain ⟨r, i, c, j, hr, hc, hlive, -, -, -, hv⟩ := mem_entryWrites.mp hw
          exact ⟨r, i, c, j, hr, hc, hlive, (congrArg Prod.snd hv).symm.trans hsat⟩
        · rintro ⟨r, i, c, j, hr, hc, hlive, hsat⟩
          exact ⟨⟨r, c, _, _, _⟩, mem_entryWrites.mpr ⟨r, i, c, j, hr, hc, hlive, rfl, rfl, rfl, rfl⟩, hsat⟩
      · rw [hcore]
        exact putElements_element (entryWrites_oneValue hrows hcols) ⟨r, c, _, _, _⟩
          (mem_entryWrites.mpr ⟨r, i, c, j, hr, hc, hlive, rfl, rfl, rfl, rfl⟩)
      · show Sparse.get _ _ _ = _
        rw [hcore]
        refine putElements_word _ fun w hw => ?_
        obtain ⟨r, i, c, j, hr, hc, hlive, hrow, hcol, -, -⟩ := mem_entryWrites.mp hw
        rw [hrow, hcol]
        exact hkey r (List.mem_of_getElem? hr) hlive c (List.mem_of_getElem? hc)
    case load =>
      intro tile sh slot image origin stride lanes hon hcmd hrows hcols hres wide moved read hgood
      obtain ⟨hacc, -, hgone, hops, hgroups⟩ := endWrites_spec (s := s.tick) (c := x) hg ho hl (fun k => k.putElements wide tile
        (liveWrites g (fun m => (read m).1) moved)) (fun k => putElements_stream ..)
      obtain ⟨helement, hword⟩ := liveWrites_spec (g := g) (value := fun m => (read m).1) (moved := moved)
        (fun m hm => ⟨Nat.lt_of_lt_of_le (mem_movedElements hm).1 hrows, Nat.lt_of_lt_of_le (mem_movedElements hm).2.1 hcols⟩)
        (fun m hm n hn hrow hcol => by
          show (s.tick.readElement _ _ _ _).1 = (s.tick.readElement _ _ _ _).1
          rw [(mem_movedElements hm).2.2, (mem_movedElements hn).2.2, hrow, hcol]) (s.tick.core x) wide tile
      refine ⟨_, congrArg Host.Outcome.next ?_, ⟨hgone, hops⟩, hgroups, fun m hm hlive => ?_, fun key hkey => ?_⟩
      · rw [matrixEnd_eq (s := s.tick) hstream hg hon, hcmd]
        exact endLoad_eq hres hgood
      · refine (element_congr fun key _ => ?_).trans (helement m hm hlive)
        rw [hacc]
      · exact (congrArg (Sparse.get 0#32 · key) hacc).trans (hword key hkey)
    case zero =>
      intro tile lanes hon hcmd
      obtain ⟨hacc, -, hgone, hops, hgroups⟩ := endWrites_spec (s := s.tick) (c := x) hg ho hl (fun k => k.putElements false tile
        (liveWrites g (fun _ => 0) (zeroPlaces (rowsOf g lanes 64)))) (fun k => putElements_stream ..)
      obtain ⟨helement, hword⟩ := liveWrites_spec (g := g) (value := fun _ => 0) (moved := zeroPlaces (rowsOf g lanes 64))
        (fun m hm => ⟨mem_rowsOf_lt (mem_zeroPlaces.mp hm).1, (mem_zeroPlaces.mp hm).2.1⟩) (fun _ _ _ _ _ _ => rfl) (s.tick.core x) false tile
      refine ⟨_, congrArg Host.Outcome.next ?_, ⟨hgone, hops⟩, hgroups, fun r hr hlive c hc => ?_, fun key hkey => ?_⟩
      · rw [matrixEnd_eq (s := s.tick) hstream hg hon, hcmd]
        exact endZero_rows
      · refine (element_congr fun key _ => ?_).trans (helement (r, c, 0) (mem_zeroPlaces.mpr ⟨hr, hc, rfl⟩) hlive)
        rw [hacc]
      · refine (congrArg (Sparse.get 0#32 · key) hacc).trans (hword key fun m hm hlive => ?_)
        obtain ⟨hr, hc, -⟩ := mem_zeroPlaces.mp hm
        exact hkey m.1 hr hlive m.2.1 hc
    case free =>
      intro tile lanes hon hcmd
      obtain ⟨hacc, howner, hgone, hops, hgroups⟩ := endWrites_spec (s := s.tick) (c := x) hg ho hl
        (fun k => (k.clearTile tile).freeTile g.gid e.op tile) (fun k => (freeTile_rest ..).2)
      refine ⟨_, congrArg Host.Outcome.next ?_, ⟨hgone, hops⟩, hgroups, fun key => ?_, fun hmine hold => ?_⟩
      · rw [matrixEnd_eq (s := s.tick) hstream hg hon, hcmd]
        rfl
      · refine (congrArg (Sparse.get 0#32 · key) (hacc.trans (freeTile_rest ..).1)).trans ?_
        exact clearTile_word ..
      · refine (congrArg (fun m => (Sparse.get (0, 0) m tile).1) howner).trans ?_
        exact freeTile_holder (k := (s.core x).clearTile tile) hmine hold
    case store =>
      intro tile sh slot image origin stride lanes free hon hcmd hres fmt hgood
      obtain ⟨new, hgone, hgroups, hcommits, hnew, hop, hword⟩ := endStore_spec (s := s.tick) (slot := slot) (free := free) hres hgood ho
      refine ⟨_, new, congrArg Host.Outcome.next ?_, hgone, hgroups, hcommits, hnew, hop, hword⟩
      rw [matrixEnd_eq (s := s.tick) hstream hg hon, hcmd]
  case marker =>
    intro s g hg hlive
    have hgid := State.group?_gid hg
    refine ⟨fun hnone => ?_, fun m hm => ?_⟩
    · refine (show exec .matrixMarker s = execMatrixMarker s from rfl).trans ?_
      unfold execMatrixMarker
      simp only [hg, hnone]
    · have hpush := pushWords_eq (w := s.tick.onCore g.core (fun k => k.dropEntry m.1)) hg hlive 3 [m.2]
      refine ⟨(s.tick.onCore g.core (fun k => k.dropEntry m.1)).pushWords s.turn.x 3 [m.2], g.setQueue 3 (g.queue 3 ++ [m.2]), ?_, ?_, ?_, ?_, ?_⟩
      · refine (show exec .matrixMarker s = execMatrixMarker s from rfl).trans ?_
        unfold execMatrixMarker
        simp only [hg, hm, hgid]
      · rw [hpush]
        exact onGroup_found hg (fun _ => rfl)
      · rw [Group.queue_setQueue, if_pos rfl]
      · rw [hpush, State.core_onGroup, State.core_onCore, if_pos rfl]
        rfl
      · rw [hpush]
        exact State.onGroup_mem ..
  case test =>
    intro s core failing k
    have hexec : exec (.matrixSelfTest core failing) s = execMatrixSelfTest core failing s := rfl
    rw [hexec]
    unfold execMatrixSelfTest
    refine ⟨fun hbusy => if_pos hbusy, fun hidle => ?_⟩
    obtain ⟨hfenced, herr, hreport, htest, hacc, hgroups, hmem⟩ := fence_spec s.tick core failing
    have hcore := (State.core_onCore (s := s.tick.fence core failing) core (fun k => { k with accTest := [], mxtest := k.mxtest + 1 }) core).trans (if_pos rfl)
    refine ⟨_, if_neg (ne_true_of_eq_false hidle), ?_⟩
    rw [hcore]
    exact ⟨rfl, congrArg (· + 1) htest, hacc, hgroups, hmem, hfenced, herr, hreport⟩

end Sys2Proof.Machine
end
